-- ==== Sys2Proof/Word.lean ====
section
/-! DEFINITION. The word types of the part and nothing else (spec/00_scope.md R4, R5). -/

namespace Sys2Proof

/-- One byte of memory. -/
abbrev Byte := BitVec 8

/-- A 64-bit word: registers of configuration space, control registers, addresses, record words. -/
abbrev W64 := BitVec 64

/-- A 128-bit value: a general register, or the data of a token (R144). -/
abbrev W128 := BitVec 128

end Sys2Proof
end

