-- ==== Sys2Proof/Config.lean ====
section
/-! DEFINITION. Values that the spec names without stating: the results of the cryptographic functions of the part, and what a
measurement holds. Each is an opaque function of the data it depends on, so that no proof can rest on a value (log
entry 12). -/

namespace Sys2Proof

/-- A choice among things that the spec leaves in any order, such as the 16-byte writes of one line (spec/04_ordering.md R114): its n-th instance. -/
opaque Config.choice : Nat → Nat

/-- The payload of a culvert message to a peer module: its address, data, byte mask and full/empty rule (0 keep, 1 full, 2 empty), and whether it is the write
of a POST; the message's layout is not given (spec/09_copy_engine.md R289, R290). -/
opaque Config.peerCulvert : Nat → Nat → Nat → Nat → Bool → List W64

/-- Payload word k of flit j of a message other than a queue message, by its channel and number; the layouts are not given (spec/11_flumes.md R327). -/
opaque Config.flitWord : Nat → Nat → Nat → Nat → W64

/-- Whether message i, whose route leaves site n on both of its legs, goes into the sump there on the first (spec/11_flumes.md R327, R334). -/
opaque Config.spillLeg : Nat → Nat → Bool

/-- The payload of an ownership request for a line of a peer module; the layout is not given (R283). -/
opaque Config.peerOwn : Nat → List W64

/-- SM4-GCM keystream: the plaintext words of a flit from key, salt, flit number and ciphertext (spec/16_edges_and_health.md R458). -/
opaque Config.linkDecrypt : List W64 → W64 → Nat → List W64 → List W64

/-- SM4-GCM encryption of a flit from key, salt, flit number and clear words (R457). -/
opaque Config.linkEncrypt : List W64 → W64 → Nat → List W64 → List W64

/-- SM4-GCM tag of a flit (R458). -/
opaque Config.linkTag : List W64 → W64 → Nat → List W64 → W64

/-- The CRC of a scale-up flit (R457). -/
opaque Config.linkCrc : List W64 → BitVec 32

/-- What a culvert message of a peer module writes: address, data of one line, the bytes it writes, and its full/empty rule (0 keep, 1 full, 2
empty); the message's layout is not given (spec/09_copy_engine.md R289, R290; spec/11_flumes.md R327). -/
opaque Config.peerWrite : List W64 → Nat × Nat × Nat × Nat

/-- The address of the line that a culvert-channel message of a peer module asks to own (R283); none where it is a write. The layout is not given. -/
opaque Config.peerAsks : List W64 → Option Nat

/-- Which message of this module an answer of a peer module concerns, and its cause, 0 for an acknowledgement; the layout is not given. -/
opaque Config.peerAnswer : List W64 → Nat × Nat

/-- The payload of the answer to message n of a peer module, by its cause; the layout is not given. -/
opaque Config.peerReply : Nat → Nat → List W64

/-- SM3 digest of a byte string (R461). -/
opaque Config.sm3 : List Byte → List W64

/-- Whether a firmware image, byte by byte, is signed under a fused key and its version is not below the fused minimum (R461). The layout of its header is
not given. -/
opaque Config.fwPasses : List Byte → Bool

/-- The physical load address of a basin's ditch-rider section in a firmware image, its entry address, and its words (R461). -/
opaque Config.fwLoad : List Byte → Nat → Nat
opaque Config.fwEntry : List Byte → Nat → Nat
opaque Config.fwSection : List Byte → Nat → List W64

/-- SM2 signature of a digest with the module key (R461). -/
opaque Config.sm2Sign : List W64 → List W64

/-- The module public key and its certificate, fused per part (R461). -/
opaque Config.moduleIdentity : List W64

end Sys2Proof
end

