-- ==== Sys2Proof/Syntax.lean ====
section
/-! DEFINITION. The instructions of the Cregaward ISA and the events of the part: one constructor
for each row of spec/opcode_table.json (spec/02_encoding.md Tables 2-5 to 2-12; spec/95_what_each_step_holds.md).
A row without an encoding is an event of one of the part's agents; its arguments name the unit that acts and
what reaches the part from outside. -/

namespace Sys2Proof

/-- Predicate modes 00, 01 and 10 (R57). Mode 11 is illegal and has no constructor. -/
inductive Pred where
  | always | onTrue | onFalse
  deriving DecidableEq, Repr

/-- The operand slots l, r and p of an instruction (R55). -/
inductive OpSlot where
  | l | r | p
  deriving DecidableEq, Repr

/-- A target byte that names an operand slot of a later instruction (R55). -/
structure Target where
  slot : OpSlot
  idx : BitVec 6
  deriving DecidableEq, Repr

/-- Element types of the lane forms (Table 2-5). -/
inductive LaneTy where
  | s8 | s16 | s32 | s64 | n8 | n16 | n32 | n64 | f16 | bf16 | f32
  deriving DecidableEq, Repr

/-- Matrix formats (Table 2-6). -/
inductive MFmt where
  | f32 | bf16 | f16 | e4m3 | e5m2 | c8 | e3m2 | e2m3 | e2m1 | s8 | s4 | b1
  deriving DecidableEq, Repr

/-- Sizes of LD and LDD (Table 2-10): the width and the extension. -/
inductive LdSize where
  | n8 | n16 | n32 | n64 | s8 | s16 | s32 | q
  deriving DecidableEq, Repr

/-- Sizes of ST (Table 2-10). -/
inductive StSize where
  | n8 | n16 | n32 | n64 | q
  deriving DecidableEq, Repr

/-- Ordering of an atomic, chosen by its major opcode (Table 2-10). -/
inductive Order where
  | relaxed | acq | rel | ar
  deriving DecidableEq, Repr

/-- What carries a leat frame (spec/16_edges_and_health.md R450): a raw Ethernet frame with its EtherType, or UDP over IPv6 with its destination port. -/
inductive Carrier where
  | ethernet (type : Nat)
  | udp6 (port : Nat)
  deriving DecidableEq, Repr

/-- The two forms, by MODE of the port (R450). -/
def Carrier.ofMode (mode : Bool) : Carrier := if mode then .udp6 19524 else .ethernet 0x88B5

/-- A frame that reaches or leaves a leat port (R450): the four header words, the payload, what the port's receiver found of the frame check sequence, and what
carries it. -/
structure Frame where
  w0 : W64
  w1 : W64
  w2 : W64
  w3 : W64
  payload : List W64
  fcsOk : Bool := true
  carrier : Carrier := Carrier.ofMode false
  deriving DecidableEq, Repr

/-- A flit with its trailer as it reaches a scale-up port (R457): nine ciphertext words and the trailer's fields. -/
structure LinkFlit where
  seq : BitVec 12
  ks : Bool
  ack : BitVec 12
  nak : Bool
  crc : BitVec 32
  tag : W64
  words : List W64
  deriving DecidableEq, Repr

/-- The instructions and events of the part. Argument names: p predicate mode, x exit id, n LSID (encoded forms), v variant,
r register number, i immediate, o offset, t and u the targets t0 and t1, y element type, z size, m ordering. -/
inductive Instr where
  /-- BR (R158): Exit to the block at A + 16·off19. -/
  | br (p : Pred) (x : BitVec 3) (o : BitVec 19)
  /-- CALL (R158): Exit to A + 16·off19 and write the link into g63 at commit. -/
  | call (p : Pred) (x : BitVec 3) (o : BitVec 19)
  /-- BRI (R158): Exit to the address in the l token. -/
  | bri (p : Pred) (x : BitVec 3)
  /-- CALLI (R158): Exit to the address in l and write the link into g63. -/
  | calli (p : Pred) (x : BitVec 3)
  /-- RET (R158): Exit to the address in l, acting exactly as BRI. -/
  | ret (p : Pred) (x : BitVec 3)
  /-- SUSP (R161): Exit that suspends the continuation with the resume address A + 16·off19. -/
  | susp (p : Pred) (x : BitVec 3) (o : BitVec 19)
  /-- RETIRE (R161): Exit that retires the continuation and releases its slot. -/
  | retire (p : Pred) (x : BitVec 3)
  /-- READ (R148): Produce a token holding gN, waiting while gN is empty. -/
  | read (r : BitVec 6) (t : Option Target) (u : Option Target)
  /-- READT (R148): Produce a token holding gN, faulting if gN is empty. -/
  | readt (r : BitVec 6) (t : Option Target) (u : Option Target)
  /-- WRITE (R149): Write the non-null bytes of l into gN at commit and leave it full. -/
  | write (r : BitVec 6)
  /-- RDC (R151): Produce a token holding a control register. -/
  | rdc (r : BitVec 6) (t : Option Target) (u : Option Target)
  /-- WRC (R151): Write a control register from l at commit. -/
  | wrc (r : BitVec 6)
  /-- NULL (R166): Set the block's NULL flag so unresolved forms resolve as null. -/
  | null (p : Pred)
  /-- MOV (R166): Send the l token unchanged to both targets. -/
  | mov (p : Pred) (t : Option Target) (u : Option Target)
  /-- ALIGN (R163): Hold the next block lookup until quad siblings join or 256 clk pass. -/
  | align
  /-- MOVI (R166): Produce the sign-extended 14-bit immediate. -/
  | movi (p : Pred) (i : BitVec 14) (t : Option Target)
  /-- APPI (R166): Produce (l << 14) | imm14. -/
  | appi (p : Pred) (i : BitVec 14) (t : Option Target)
  /-- ADD (R164): 64-bit wrapping addition. -/
  | add (p : Pred) (t : Option Target) (u : Option Target)
  /-- SUB (R164): 64-bit wrapping subtraction. -/
  | sub (p : Pred) (t : Option Target) (u : Option Target)
  /-- MUL (R164): Low 64 bits of the product. -/
  | mul (p : Pred) (t : Option Target) (u : Option Target)
  /-- MULHS (R164): Signed high half of the product. -/
  | mulhs (p : Pred) (t : Option Target) (u : Option Target)
  /-- MULHN (R164): Unsigned high half of the product. -/
  | mulhn (p : Pred) (t : Option Target) (u : Option Target)
  /-- DIVS (R164): Signed division rounded toward zero. -/
  | divs (p : Pred) (t : Option Target) (u : Option Target)
  /-- DIVN (R164): Unsigned division. -/
  | divn (p : Pred) (t : Option Target) (u : Option Target)
  /-- REMS (R164): Signed remainder taking the sign of the dividend. -/
  | rems (p : Pred) (t : Option Target) (u : Option Target)
  /-- REMN (R164): Unsigned remainder. -/
  | remn (p : Pred) (t : Option Target) (u : Option Target)
  /-- MINS (R164): Signed minimum. -/
  | mins (p : Pred) (t : Option Target) (u : Option Target)
  /-- MINN (R164): Unsigned minimum. -/
  | minn (p : Pred) (t : Option Target) (u : Option Target)
  /-- MAXS (R164): Signed maximum. -/
  | maxs (p : Pred) (t : Option Target) (u : Option Target)
  /-- MAXN (R164): Unsigned maximum. -/
  | maxn (p : Pred) (t : Option Target) (u : Option Target)
  /-- NEG (R164): Wrapping negation. -/
  | neg (p : Pred) (t : Option Target) (u : Option Target)
  /-- ABS (R164): Wrapping absolute value. -/
  | abs (p : Pred) (t : Option Target) (u : Option Target)
  /-- AND (R164): Bitwise and. -/
  | and (p : Pred) (t : Option Target) (u : Option Target)
  /-- OR (R164): Bitwise or. -/
  | or (p : Pred) (t : Option Target) (u : Option Target)
  /-- XOR (R164): Bitwise exclusive or. -/
  | xor (p : Pred) (t : Option Target) (u : Option Target)
  /-- ANDN (R164): a and not b. -/
  | andn (p : Pred) (t : Option Target) (u : Option Target)
  /-- SHL (R164): Shift left by b[5:0]. -/
  | shl (p : Pred) (t : Option Target) (u : Option Target)
  /-- SHRN (R164): Logical shift right by b[5:0]. -/
  | shrn (p : Pred) (t : Option Target) (u : Option Target)
  /-- SHRS (R164): Arithmetic shift right by b[5:0]. -/
  | shrs (p : Pred) (t : Option Target) (u : Option Target)
  /-- ROTL (R164): Rotate left by b[5:0]. -/
  | rotl (p : Pred) (t : Option Target) (u : Option Target)
  /-- NOT (R164): Bitwise complement. -/
  | not (p : Pred) (t : Option Target) (u : Option Target)
  /-- POPC (R164): Population count of 64 bits. -/
  | popc (p : Pred) (t : Option Target) (u : Option Target)
  /-- CLZ (R164): Count leading zeros. -/
  | clz (p : Pred) (t : Option Target) (u : Option Target)
  /-- CTZ (R164): Count trailing zeros. -/
  | ctz (p : Pred) (t : Option Target) (u : Option Target)
  /-- CEQ (R164): 1 if a equals b. -/
  | ceq (p : Pred) (t : Option Target) (u : Option Target)
  /-- CNE (R164): 1 if a differs from b. -/
  | cne (p : Pred) (t : Option Target) (u : Option Target)
  /-- CLTS (R164): 1 if a < b signed. -/
  | clts (p : Pred) (t : Option Target) (u : Option Target)
  /-- CLES (R164): 1 if a <= b signed. -/
  | cles (p : Pred) (t : Option Target) (u : Option Target)
  /-- CLTN (R164): 1 if a < b unsigned. -/
  | cltn (p : Pred) (t : Option Target) (u : Option Target)
  /-- CLEN (R164): 1 if a <= b unsigned. -/
  | clen (p : Pred) (t : Option Target) (u : Option Target)
  /-- SEL (R164): Pass l if p is true, otherwise r. -/
  | sel (t : Option Target) (u : Option Target)
  /-- EXTS8 (R164): Sign-extend the low 8 bits. -/
  | exts8 (p : Pred) (t : Option Target) (u : Option Target)
  /-- EXTS16 (R164): Sign-extend the low 16 bits. -/
  | exts16 (p : Pred) (t : Option Target) (u : Option Target)
  /-- EXTS32 (R164): Sign-extend the low 32 bits. -/
  | exts32 (p : Pred) (t : Option Target) (u : Option Target)
  /-- EXTN8 (R164): Zero-extend the low 8 bits. -/
  | extn8 (p : Pred) (t : Option Target) (u : Option Target)
  /-- EXTN16 (R164): Zero-extend the low 16 bits. -/
  | extn16 (p : Pred) (t : Option Target) (u : Option Target)
  /-- EXTN32 (R164): Zero-extend the low 32 bits. -/
  | extn32 (p : Pred) (t : Option Target) (u : Option Target)
  /-- ADDI (R165): Add the sign-extended immediate. -/
  | addi (p : Pred) (i : BitVec 14) (t : Option Target)
  /-- MULI (R165): Multiply by the sign-extended immediate. -/
  | muli (p : Pred) (i : BitVec 14) (t : Option Target)
  /-- ANDI (R165): And with the immediate. -/
  | andi (p : Pred) (i : BitVec 14) (t : Option Target)
  /-- ORI (R165): Or with the immediate. -/
  | ori (p : Pred) (i : BitVec 14) (t : Option Target)
  /-- XORI (R165): Exclusive or with the immediate. -/
  | xori (p : Pred) (i : BitVec 14) (t : Option Target)
  /-- SHLI (R165): Shift left by an immediate 0 to 63. -/
  | shli (p : Pred) (i : BitVec 14) (t : Option Target)
  /-- SHRNI (R165): Logical shift right by an immediate. -/
  | shrni (p : Pred) (i : BitVec 14) (t : Option Target)
  /-- SHRSI (R165): Arithmetic shift right by an immediate. -/
  | shrsi (p : Pred) (i : BitVec 14) (t : Option Target)
  /-- CEQI (R165): 1 if a equals the immediate. -/
  | ceqi (p : Pred) (i : BitVec 14) (t : Option Target)
  /-- CLTSI (R165): 1 if a is signed-less than the immediate. -/
  | cltsi (p : Pred) (i : BitVec 14) (t : Option Target)
  /-- VADD (R183): Lane-wise wrapping add. -/
  | vadd (p : Pred) (y : LaneTy) (t : Option Target) (u : Option Target)
  /-- VSUB (R183): Lane-wise wrapping subtract. -/
  | vsub (p : Pred) (y : LaneTy) (t : Option Target) (u : Option Target)
  /-- VADDS (R183): Lane-wise saturating add. -/
  | vadds (p : Pred) (y : LaneTy) (t : Option Target) (u : Option Target)
  /-- VSUBS (R183): Lane-wise saturating subtract. -/
  | vsubs (p : Pred) (y : LaneTy) (t : Option Target) (u : Option Target)
  /-- VMUL (R183): Lane-wise low product. -/
  | vmul (p : Pred) (y : LaneTy) (t : Option Target) (u : Option Target)
  /-- VMULH (R183): Lane-wise high product. -/
  | vmulh (p : Pred) (y : LaneTy) (t : Option Target) (u : Option Target)
  /-- VMIN (R183): Lane-wise minimum. -/
  | vmin (p : Pred) (y : LaneTy) (t : Option Target) (u : Option Target)
  /-- VMAX (R183): Lane-wise maximum. -/
  | vmax (p : Pred) (y : LaneTy) (t : Option Target) (u : Option Target)
  /-- VAND (R184): Lane-wise and. -/
  | vand (p : Pred) (y : LaneTy) (t : Option Target) (u : Option Target)
  /-- VOR (R184): Lane-wise or. -/
  | vor (p : Pred) (y : LaneTy) (t : Option Target) (u : Option Target)
  /-- VXOR (R184): Lane-wise exclusive or. -/
  | vxor (p : Pred) (y : LaneTy) (t : Option Target) (u : Option Target)
  /-- VANDN (R184): Lane-wise a and not b. -/
  | vandn (p : Pred) (y : LaneTy) (t : Option Target) (u : Option Target)
  /-- VSHL (R184): Lane-wise shift left. -/
  | vshl (p : Pred) (y : LaneTy) (t : Option Target) (u : Option Target)
  /-- VSHR (R184): Lane-wise shift right by signedness. -/
  | vshr (p : Pred) (y : LaneTy) (t : Option Target) (u : Option Target)
  /-- VROTL (R184): Lane-wise rotate left. -/
  | vrotl (p : Pred) (y : LaneTy) (t : Option Target) (u : Option Target)
  /-- VNOT (R184): Lane-wise complement. -/
  | vnot (p : Pred) (y : LaneTy) (t : Option Target) (u : Option Target)
  /-- VCEQ (R185): Lane-wise equal compare to an all-ones mask. -/
  | vceq (p : Pred) (y : LaneTy) (t : Option Target) (u : Option Target)
  /-- VCNE (R185): Lane-wise not-equal compare. -/
  | vcne (p : Pred) (y : LaneTy) (t : Option Target) (u : Option Target)
  /-- VCLT (R185): Lane-wise less-than compare. -/
  | vclt (p : Pred) (y : LaneTy) (t : Option Target) (u : Option Target)
  /-- VCLE (R185): Lane-wise less-or-equal compare. -/
  | vcle (p : Pred) (y : LaneTy) (t : Option Target) (u : Option Target)
  /-- VSPLAT (R186): Copy the low lane of l to every lane. -/
  | vsplat (p : Pred) (y : LaneTy) (t : Option Target) (u : Option Target)
  /-- VEXTR (R186): Extract lane r mod n as a scalar. -/
  | vextr (p : Pred) (y : LaneTy) (t : Option Target) (u : Option Target)
  /-- VPERM (R186): Permute lanes of l by the indices in r. -/
  | vperm (p : Pred) (y : LaneTy) (t : Option Target) (u : Option Target)
  /-- VSEL (R186): Lane-wise select by the mask p. -/
  | vsel (y : LaneTy) (t : Option Target) (u : Option Target)
  /-- VREDADD (R187): Sum of non-null lanes as a scalar. -/
  | vredadd (p : Pred) (y : LaneTy) (t : Option Target) (u : Option Target)
  /-- VREDMIN (R187): Least non-null lane as a scalar. -/
  | vredmin (p : Pred) (y : LaneTy) (t : Option Target) (u : Option Target)
  /-- VREDMAX (R187): Greatest non-null lane as a scalar. -/
  | vredmax (p : Pred) (y : LaneTy) (t : Option Target) (u : Option Target)
  /-- VABS (R187): Lane-wise wrapping absolute value. -/
  | vabs (p : Pred) (y : LaneTy) (t : Option Target) (u : Option Target)
  /-- VWIDENLO (R188): Widen the low half of the lanes. -/
  | vwidenlo (p : Pred) (y : LaneTy) (t : Option Target) (u : Option Target)
  /-- VWIDENHI (R188): Widen the high half of the lanes. -/
  | vwidenhi (p : Pred) (y : LaneTy) (t : Option Target) (u : Option Target)
  /-- VNARROW (R188): Narrow l and r lanes with wrap into one token. -/
  | vnarrow (p : Pred) (y : LaneTy) (t : Option Target) (u : Option Target)
  /-- VNARROWS (R188): Narrow l and r lanes with saturation. -/
  | vnarrows (p : Pred) (y : LaneTy) (t : Option Target) (u : Option Target)
  /-- FADD (R189): Lane-wise IEEE addition. -/
  | fadd (p : Pred) (y : LaneTy) (t : Option Target) (u : Option Target)
  /-- FSUB (R189): Lane-wise IEEE subtraction. -/
  | fsub (p : Pred) (y : LaneTy) (t : Option Target) (u : Option Target)
  /-- FMUL (R189): Lane-wise IEEE multiplication. -/
  | fmul (p : Pred) (y : LaneTy) (t : Option Target) (u : Option Target)
  /-- FDIV (R189): Lane-wise IEEE division. -/
  | fdiv (p : Pred) (y : LaneTy) (t : Option Target) (u : Option Target)
  /-- FMA (R189): Lane-wise fused a·b + c. -/
  | fma (y : LaneTy) (t : Option Target) (u : Option Target)
  /-- FMS (R189): Lane-wise fused a·b − c. -/
  | fms (y : LaneTy) (t : Option Target) (u : Option Target)
  /-- FMIN (R189): Lane-wise minimumNumber. -/
  | fmin (p : Pred) (y : LaneTy) (t : Option Target) (u : Option Target)
  /-- FMAX (R189): Lane-wise maximumNumber. -/
  | fmax (p : Pred) (y : LaneTy) (t : Option Target) (u : Option Target)
  /-- FCEQ (R190): Lane-wise float equality mask. -/
  | fceq (p : Pred) (y : LaneTy) (t : Option Target) (u : Option Target)
  /-- FCLT (R190): Lane-wise float less-than mask. -/
  | fclt (p : Pred) (y : LaneTy) (t : Option Target) (u : Option Target)
  /-- FCLE (R190): Lane-wise float less-or-equal mask. -/
  | fcle (p : Pred) (y : LaneTy) (t : Option Target) (u : Option Target)
  /-- FCUN (R190): Lane-wise unordered mask. -/
  | fcun (p : Pred) (y : LaneTy) (t : Option Target) (u : Option Target)
  /-- FABS (R191): Clear the sign of each lane. -/
  | fabs (p : Pred) (y : LaneTy) (t : Option Target) (u : Option Target)
  /-- FNEG (R191): Invert the sign of each lane. -/
  | fneg (p : Pred) (y : LaneTy) (t : Option Target) (u : Option Target)
  /-- FSQRT (R191): Lane-wise square root. -/
  | fsqrt (p : Pred) (y : LaneTy) (t : Option Target) (u : Option Target)
  /-- FREDADD (R191): Pairwise-tree float sum of non-null lanes. -/
  | fredadd (p : Pred) (y : LaneTy) (t : Option Target) (u : Option Target)
  /-- EXP2 (R192): Correctly rounded 2^a per lane. -/
  | exp2 (p : Pred) (y : LaneTy) (t : Option Target) (u : Option Target)
  /-- LOG2 (R192): Correctly rounded log2 per lane. -/
  | log2 (p : Pred) (y : LaneTy) (t : Option Target) (u : Option Target)
  /-- RCP (R192): Correctly rounded reciprocal per lane. -/
  | rcp (p : Pred) (y : LaneTy) (t : Option Target) (u : Option Target)
  /-- RSQ (R192): Correctly rounded reciprocal square root per lane. -/
  | rsq (p : Pred) (y : LaneTy) (t : Option Target) (u : Option Target)
  /-- TANH (R192): Correctly rounded tanh per lane. -/
  | tanh (p : Pred) (y : LaneTy) (t : Option Target) (u : Option Target)
  /-- FRINT (R192): Round each lane to an integral value. -/
  | frint (p : Pred) (y : LaneTy) (t : Option Target) (u : Option Target)
  /-- CVT_FLOAT_SOURCE (R193): Convert float lanes to another type. -/
  | cvtFloatSource (p : Pred) (d : LaneTy) (s : LaneTy) (t : Option Target) (u : Option Target)
  /-- CVT_INTEGER_SOURCE (R193): Convert integer lanes to a float type. -/
  | cvtIntegerSource (p : Pred) (d : LaneTy) (s : LaneTy) (t : Option Target) (u : Option Target)
  /-- SNARROW (R194): Scaled narrowing of float lanes into a matrix format. -/
  | snarrow (p : Pred) (f : MFmt) (s : LaneTy) (t : Option Target) (u : Option Target)
  /-- SWIDEN (R195): Scaled widening of matrix-format elements into float lanes. -/
  | swiden (p : Pred) (d : LaneTy) (f : MFmt) (t : Option Target) (u : Option Target)
  /-- VADD_COMPACT (R197): Compact form of VADD. -/
  | vaddCompact (y : LaneTy) (t : Option Target)
  /-- VSUB_COMPACT (R197): Compact form of VSUB. -/
  | vsubCompact (y : LaneTy) (t : Option Target)
  /-- VMUL_COMPACT (R197): Compact form of VMUL. -/
  | vmulCompact (y : LaneTy) (t : Option Target)
  /-- VMIN_COMPACT (R197): Compact form of VMIN. -/
  | vminCompact (y : LaneTy) (t : Option Target)
  /-- VMAX_COMPACT (R197): Compact form of VMAX. -/
  | vmaxCompact (y : LaneTy) (t : Option Target)
  /-- VAND_COMPACT (R197): Compact form of VAND. -/
  | vandCompact (y : LaneTy) (t : Option Target)
  /-- VOR_COMPACT (R197): Compact form of VOR. -/
  | vorCompact (y : LaneTy) (t : Option Target)
  /-- VXOR_COMPACT (R197): Compact form of VXOR. -/
  | vxorCompact (y : LaneTy) (t : Option Target)
  /-- VSHL_COMPACT (R197): Compact form of VSHL. -/
  | vshlCompact (y : LaneTy) (t : Option Target)
  /-- VSHR_COMPACT (R197): Compact form of VSHR. -/
  | vshrCompact (y : LaneTy) (t : Option Target)
  /-- VCEQ_COMPACT (R197): Compact form of VCEQ. -/
  | vceqCompact (y : LaneTy) (t : Option Target)
  /-- FADD_COMPACT (R197): Compact form of FADD. -/
  | faddCompact (y : LaneTy) (t : Option Target)
  /-- FSUB_COMPACT (R197): Compact form of FSUB. -/
  | fsubCompact (y : LaneTy) (t : Option Target)
  /-- FMUL_COMPACT (R197): Compact form of FMUL. -/
  | fmulCompact (y : LaneTy) (t : Option Target)
  /-- FMIN_COMPACT (R197): Compact form of FMIN. -/
  | fminCompact (y : LaneTy) (t : Option Target)
  /-- FMAX_COMPACT (R197): Compact form of FMAX. -/
  | fmaxCompact (y : LaneTy) (t : Option Target)
  /-- LD (R219): Load 1 to 16 bytes with zero or sign extension. -/
  | ld (p : Pred) (z : LdSize) (n : BitVec 4) (o : BitVec 6) (t : Option Target)
  /-- ST (R219): Store the low size bytes of r at commit. -/
  | st (p : Pred) (z : StSize) (n : BitVec 4) (o : BitVec 6)
  /-- LDD (R220): Deferred load that fills a register after commit. -/
  | ldd (p : Pred) (z : LdSize) (n : BitVec 4) (r : BitVec 6) (o : BitVec 6)
  /-- TAKE (R221): Reserve a full word, read it at commit and leave it empty. -/
  | take (p : Pred) (n : BitVec 4) (o : BitVec 6) (t : Option Target)
  /-- LOOK (R221): Read a word once it is full, leaving it full. -/
  | look (p : Pred) (n : BitVec 4) (o : BitVec 6) (t : Option Target)
  /-- GIVE (R221): Write an empty word and leave it full. -/
  | give (p : Pred) (n : BitVec 4) (o : BitVec 6)
  /-- AMEND (R221): Write a full word and leave it full. -/
  | amend (p : Pred) (n : BitVec 4) (o : BitVec 6)
  /-- POST (R221): Write a word without gate and leave it full. -/
  | post (p : Pred) (n : BitVec 4) (o : BitVec 6)
  /-- VOID (R221): Leave a word empty without changing its data. -/
  | void (p : Pred) (n : BitVec 4) (o : BitVec 6)
  /-- FEBIT (R221): Read the full/empty bit of a word. -/
  | febit (p : Pred) (n : BitVec 4) (o : BitVec 6) (t : Option Target)
  /-- AADD (R222): Atomic add returning the old value, ordering by major. -/
  | aadd (p : Pred) (m : Order) (n : BitVec 4) (o : BitVec 6) (t : Option Target)
  /-- AAND (R222): Atomic and. -/
  | aand (p : Pred) (m : Order) (n : BitVec 4) (o : BitVec 6) (t : Option Target)
  /-- AOR (R222): Atomic or. -/
  | aor (p : Pred) (m : Order) (n : BitVec 4) (o : BitVec 6) (t : Option Target)
  /-- AXOR (R222): Atomic exclusive or. -/
  | axor (p : Pred) (m : Order) (n : BitVec 4) (o : BitVec 6) (t : Option Target)
  /-- AMINS (R222): Atomic signed minimum. -/
  | amins (p : Pred) (m : Order) (n : BitVec 4) (o : BitVec 6) (t : Option Target)
  /-- AMAXS (R222): Atomic signed maximum. -/
  | amaxs (p : Pred) (m : Order) (n : BitVec 4) (o : BitVec 6) (t : Option Target)
  /-- AMINN (R222): Atomic unsigned minimum. -/
  | aminn (p : Pred) (m : Order) (n : BitVec 4) (o : BitVec 6) (t : Option Target)
  /-- AMAXN (R222): Atomic unsigned maximum. -/
  | amaxn (p : Pred) (m : Order) (n : BitVec 4) (o : BitVec 6) (t : Option Target)
  /-- ASWP (R222): Atomic swap. -/
  | aswp (p : Pred) (m : Order) (n : BitVec 4) (o : BitVec 6) (t : Option Target)
  /-- ACAS (R222): Atomic compare and swap. -/
  | acas (m : Order) (n : BitVec 4) (o : BitVec 6) (t : Option Target)
  /-- FENCE_CORE (R223): Core-scope fence completing at commit. -/
  | fenceCore (p : Pred) (n : BitVec 4)
  /-- FENCE_BASIN (R223): Basin-scope fence. -/
  | fenceBasin (p : Pred) (n : BitVec 4)
  /-- FENCE_SYS (R223): System-scope fence also waiting for flume delivery. -/
  | fenceSys (p : Pred) (n : BitVec 4)
  /-- LDACQ_CORE (R223): Core-scope acquire load. -/
  | ldacqCore (p : Pred) (n : BitVec 4) (o : BitVec 6) (t : Option Target)
  /-- LDACQ_BASIN (R223): Basin-scope acquire load. -/
  | ldacqBasin (p : Pred) (n : BitVec 4) (o : BitVec 6) (t : Option Target)
  /-- LDACQ_SYS (R223): System-scope acquire load. -/
  | ldacqSys (p : Pred) (n : BitVec 4) (o : BitVec 6) (t : Option Target)
  /-- STREL_CORE (R223): Core-scope release store. -/
  | strelCore (p : Pred) (n : BitVec 4) (o : BitVec 6)
  /-- STREL_BASIN (R223): Basin-scope release store. -/
  | strelBasin (p : Pred) (n : BitVec 4) (o : BitVec 6)
  /-- STREL_SYS (R223): System-scope release store. -/
  | strelSys (p : Pred) (n : BitVec 4) (o : BitVec 6)
  /-- PROBE (R224): Translate an address and report its state without faulting. -/
  | probe (p : Pred) (n : BitVec 4) (t : Option Target)
  /-- MLS (R247): Load the shadow plane with a tile. -/
  | mls (p : Pred) (n : BitVec 4)
  /-- MLSC (R247): Load the shadow plane from c8 blocks. -/
  | mlsc (p : Pred) (n : BitVec 4) (v : BitVec 4)
  /-- MSWAP (R248): Exchange the active and shadow planes. -/
  | mswap (p : Pred) (n : BitVec 4)
  /-- MSTREAM (R249): Clear rows then stream through the active plane. -/
  | mstream (p : Pred) (n : BitVec 4)
  /-- MSTREAMA (R249): Stream and add onto the accumulator rows. -/
  | mstreama (p : Pred) (n : BitVec 4)
  /-- MZERO (R250): Clear accumulator rows, and FLG with the flags variant. -/
  | mzero (p : Pred) (n : BitVec 4) (v : BitVec 4)
  /-- MDRAIN (R251): Write accumulator rows to memory and clear them. -/
  | mdrain (p : Pred) (n : BitVec 4)
  /-- MDRAINN (R251): Write accumulator rows to memory keeping them. -/
  | mdrainn (p : Pred) (n : BitVec 4)
  /-- MTASK (R254): Queue a tile task record. -/
  | mtask (p : Pred) (n : BitVec 4)
  /-- MSTAT (R252): Deliver the matrix engine status. -/
  | mstat (p : Pred) (n : BitVec 4) (t : Option Target)
  /-- CPY1 (R278): Copy a run of bytes. -/
  | cpy1 (p : Pred) (n : BitVec 4) (v : BitVec 4)
  /-- CPY2 (R278): Copy strided rows. -/
  | cpy2 (p : Pred) (n : BitVec 4) (v : BitVec 4)
  /-- GATH (R279): Gather elements by index. -/
  | gath (p : Pred) (n : BitVec 4) (v : BitVec 4)
  /-- SCAT (R279): Scatter elements by index. -/
  | scat (p : Pred) (n : BitVec 4) (v : BitVec 4)
  /-- FILL (R278): Fill a run with a 64-bit pattern. -/
  | fill (p : Pred) (n : BitVec 4) (v : BitVec 4)
  /-- CPYCV (R281): Copy with format conversion. -/
  | cpycv (p : Pred) (n : BitVec 4) (v : BitVec 4)
  /-- CPYMC (R282): Multicast one source to slices of the chiplet. -/
  | cpymc (p : Pred) (n : BitVec 4) (v : BitVec 4)
  /-- CULV (R290): Culvert transfer with a destination flag. -/
  | culv (p : Pred) (n : BitVec 4) (v : BitVec 4)
  /-- PGHAND (R291): Key-value page handover in data, flag and release stages. -/
  | pghand (p : Pred) (n : BitVec 4) (v : BitVec 4)
  /-- CTASK (R295): Queue a copy task record. -/
  | ctask (p : Pred) (n : BitVec 4)
  /-- TWANY (R271): Wait until any masked tag is set. -/
  | twany (p : Pred) (n : BitVec 4) (t : Option Target)
  /-- TWALL (R271): Wait until all masked tags are set. -/
  | twall (p : Pred) (n : BitVec 4) (t : Option Target)
  /-- TFFR (R271): Wait for and return the first set masked tag. -/
  | tffr (p : Pred) (n : BitVec 4) (t : Option Target)
  /-- CSTAT (R297): Deliver the copy engine status. -/
  | cstat (p : Pred) (n : BitVec 4) (t : Option Target)
  /-- HBIND (R312): Exclusive-or of two vectors. -/
  | hbind (p : Pred) (n : BitVec 4) (v : BitVec 4)
  /-- HBUND (R312): Add a weighted bipolar vector into an accumulator. -/
  | hbund (p : Pred) (n : BitVec 4) (v : BitVec 4)
  /-- HPERM (R312): Rotate a vector by K. -/
  | hperm (p : Pred) (n : BitVec 4)
  /-- HTHR (R312): Threshold an accumulator into a vector. -/
  | hthr (p : Pred) (n : BitVec 4) (v : BitVec 4)
  /-- HLD (R312): Load a vector from memory. -/
  | hld (p : Pred) (n : BitVec 4)
  /-- HST (R312): Store a vector to memory. -/
  | hst (p : Pred) (n : BitVec 4)
  /-- HCLR (R312): Clear a vector register or an accumulator. -/
  | hclr (p : Pred) (n : BitVec 4) (v : BitVec 4)
  /-- HPHASE (R312): Set the phase bit of an accumulator. -/
  | hphase (p : Pred) (n : BitVec 4)
  /-- HBNDLD (R312): Load an accumulator from a counter image. -/
  | hbndld (p : Pred) (n : BitVec 4)
  /-- HBNDST (R312): Store an accumulator as a counter image. -/
  | hbndst (p : Pred) (n : BitVec 4)
  /-- HMOVE (R312): Copy or invert a vector register. -/
  | hmove (p : Pred) (n : BitVec 4) (v : BitVec 4)
  /-- HDIST (R314): Fill a register with a Hamming distance. -/
  | hdist (p : Pred) (n : BitVec 4) (v : BitVec 4) (r : BitVec 6)
  /-- HNEAR (R314): Fill a register with the nearest table entry. -/
  | hnear (p : Pred) (n : BitVec 4) (r : BitVec 6)
  /-- HNEARK (R314): Fill a register with the nearest entry within LIMIT. -/
  | hneark (p : Pred) (n : BitVec 4) (r : BitVec 6)
  /-- HPOPC (R314): Fill a register with a popcount or the engine status. -/
  | hpopc (p : Pred) (n : BitVec 4) (v : BitVec 4) (r : BitVec 6)
  /-- QSEND (R341): Send a head-only message to a receive queue. -/
  | qsend (p : Pred) (n : BitVec 4)
  /-- QSENDV (R341): Send a message with a body read after commit. -/
  | qsendv (p : Pred) (n : BitVec 4)
  /-- QRECV (R343): Reserve and take the head message of a queue. -/
  | qrecv (p : Pred) (n : BitVec 4) (t : Option Target)
  /-- QRECVD (R344): Take a queue message into a register by fill. -/
  | qrecvd (p : Pred) (n : BitVec 4) (r : BitVec 6)
  /-- QPOLL (R345): Read queue state without consuming. -/
  | qpoll (p : Pred) (n : BitVec 4) (t : Option Target)
  /-- QSTAT (R346): Read the route status of a destination. -/
  | qstat (p : Pred) (n : BitVec 4) (t : Option Target)
  /-- WBAR (R368): Arrive at a barrier cell and wait for release. -/
  | wbar (p : Pred) (n : BitVec 4) (t : Option Target)
  /-- WARR (R368): Arrive at a barrier cell without waiting. -/
  | warr (p : Pred) (n : BitVec 4)
  /-- WWAIT (R369): Wait for release of a given generation. -/
  | wwait (p : Pred) (n : BitVec 4) (t : Option Target)
  /-- WTIME (R371): Deliver TIME and CYC. -/
  | wtime (p : Pred) (n : BitVec 4) (t : Option Target)
  /-- WSLEEP (R370): Sleep until a TIME or CYC deadline. -/
  | wsleep (p : Pred) (n : BitVec 4) (v : BitVec 4) (t : Option Target)
  /-- WSTAT (R372): Read cell state or basin clock state. -/
  | wstat (p : Pred) (n : BitVec 4) (t : Option Target)
  /-- WCFG (R373): Supervisor store to W0 of a barrier cell. -/
  | wcfg (p : Pred) (n : BitVec 4)
  /-- WSTEP (R374): Request a frequency step for a basin. -/
  | wstep (p : Pred) (n : BitVec 4)
  /-- LAUNCH (R402): Submit a launch header to the sluice. -/
  | launch (p : Pred) (n : BitVec 4)
  /-- DPUSH (R403): Copy a record into a ditch at its tail or head. -/
  | dpush (p : Pred) (n : BitVec 4)
  /-- DPOP (R404): Reserve and remove the head record of a ditch. -/
  | dpop (p : Pred) (n : BitVec 4) (t : Option Target)
  /-- JOINAD (R405): Add to a join counter, optionally arming it. -/
  | joinad (p : Pred) (n : BitVec 4) (v : BitVec 4)
  /-- JOINW (R406): Wait until a join counter is at most zero. -/
  | joinw (p : Pred) (n : BitVec 4) (t : Option Target)
  /-- SPAWN (R407): Create a new continuation in the issuing group. -/
  | spawn (p : Pred) (n : BitVec 4)
  /-- DSTAT (R408): Read a ditch descriptor summary. -/
  | dstat (p : Pred) (n : BitVec 4) (t : Option Target)
  /-- DWEIGHT (R409): Set the share weight of a ditch. -/
  | dweight (p : Pred) (n : BitVec 4)
  /-- FREEZE (R422): Set FRZ of a thread. -/
  | freeze (p : Pred)
  /-- THAW (R422): Clear FRZ of a thread. -/
  | thaw (p : Pred)
  /-- ACKF (R422): Acknowledge a retry latch or event park. -/
  | ackf (p : Pred)
  /-- STOPT (R422): Set STOP of a thread. -/
  | stopt (p : Pred)
  /-- STARTT (R422): Clear STOP of a thread. -/
  | startt (p : Pred)
  /-- TLBINV (R424): Invalidate translation entries and empty the quad block store. -/
  | tlbinv (p : Pred)
  /-- SWAPOUT (R425): Swap out the group of a thread. -/
  | swapout (p : Pred)
  /-- SWAPIN (R431): Bind swapped-out groups to a target core, folding them. -/
  | swapin (p : Pred)
  /-- RDCTX (R423): Read a word of a thread's context image. -/
  | rdctx (p : Pred) (t : Option Target) (u : Option Target)
  /-- WRCTX (R423): Write a word of a stopped or frozen thread's context. -/
  | wrctx
  /-- MIGR (R434): Migrate a thread's group to another core. -/
  | migr (p : Pred)
  /-- IDLE (R426): Park until the fault ring holds an entry or WLIM passes. -/
  | idle (p : Pred) (t : Option Target) (u : Option Target)
  /-- BLOCK_LOOKUP (R162): Look up the next block in the quad block store when an exit fires or a continuation starts. -/
  | blockLookup (c : Nat) (s : Nat)
  /-- BLOCK_MISS_FILL (R162): A missed block arrives and is broadcast to the waiting slots of the quad. -/
  | blockMissFill (c : Nat) (s : Nat)
  /-- ALIGN_HOLD_TIMEOUT (R163): After 256 clk a held ALIGN lookup is served. -/
  | alignHoldTimeout (c : Nat) (s : Nat)
  /-- BLOCK_COMMIT (R155): A block whose commit conditions hold commits as one step. -/
  | blockCommit (c : Nat) (s : Nat)
  /-- PERFORMING_RESULT (R155): A performing form's result returns from its home and feeds the tail. -/
  | performingResult (i : Nat)
  /-- FILL_ARRIVAL (R150): A deferred fill writes its register and sets it full. -/
  | fillArrival (i : Nat)
  /-- WAIT_LIMIT_EXPIRY (R229): TIME reaches begin + WLIM for a wait and a withdrawal is sent. -/
  | waitLimitExpiry (c : Nat) (s : Nat)
  /-- WITHDRAWAL (R229): A withdrawal reaches the home and removes the unserved request. -/
  | withdrawal (i : Nat)
  /-- TLB_MISS_REQUEST (R210): A first-level miss is served at the second-level home of the page. -/
  | tlbMissRequest (c : Nat) (s : Nat) (ix : Nat)
  /-- PAGE_WALK (R209): The walker completes a three-level walk and checks the leaf. -/
  | pageWalk (c : Nat) (s : Nat) (ix : Nat)
  /-- HOME_ACCESS (R115): A request performs at its home at one instant. -/
  | homeAccess (i : Nat)
  /-- WAITLIST_RESEND (R228): A request refused by a full waiting list is resent 64 clk later. -/
  | waitlistResend (i : Nat)
  /-- OWNERSHIP_REQUEST (R131): An engine's ownership request for a destination line is granted in arrival order. -/
  | ownershipRequest (i : Nat)
  /-- PATROL_SCRUB (R231): The patrol scrub reads a word with a spare port slot and corrects it. -/
  | patrolScrub (a : Nat)
  /-- INTERLEAVE_DESCRIPTOR_WRITE (R213): A write to an interleave descriptor, ignored while VALID except clearing it. -/
  | interleaveDescriptorWrite (b : Nat) (off : Nat) (v : W64)
  /-- M_CHIPLET_STATE_WRITE (R216): A write of STATE puts an M chiplet in service, draining or retired. -/
  | mChipletStateWrite (n : Nat) (v : W64)
  /-- COMBINED_READ (R336): The combining node absorbs an identical read into one in waiting. -/
  | combinedRead (i : Nat) (j : Nat)
  /-- MATRIX_INTAKE_ARRIVAL (R246): A committed matrix command reaches the intake. -/
  | matrixIntakeArrival (c : Nat)
  /-- MATRIX_COMMAND_START (R257): A direct matrix command starts when its unit is idle. -/
  | matrixCommandStart (c : Nat)
  /-- MATRIX_COMMAND_COMPLETE (R259): A matrix command completes and sets its tag. -/
  | matrixCommandComplete (c : Nat) (u : Nat)
  /-- MATRIX_TASK_TAKE (R255): The matrix engine takes a ditch tile task when its queue and tag count allow. -/
  | matrixTaskTake (b : Nat) (d : Nat) (n : Nat) (c : Nat)
  /-- MATRIX_TASK_START (R256): The oldest ready tile task starts and runs uninterrupted. -/
  | matrixTaskStart (c : Nat)
  /-- MATRIX_RETRY (R262): Rerun the faulted command from ROWF. -/
  | matrixRetry (c : Nat)
  /-- MATRIX_SKIP (R262): Abandon the faulted command and resume. -/
  | matrixSkip (c : Nat)
  /-- MATRIX_FLUSH (R262): Abandon all queued commands and tasks and resume. -/
  | matrixFlush (c : Nat)
  /-- ENGINE_SAVE (R263): After completing accepted commands an engine writes its save area and clears. -/
  | engineSave (c : Nat)
  /-- COPY_INTAKE_ARRIVAL (R276): A committed copy command reaches the intake. -/
  | copyIntakeArrival (c : Nat)
  /-- COPY_COMMAND_START (R285): A copy command or task starts in a free active entry. -/
  | copyCommandStart (c : Nat)
  /-- COPY_LINE_WRITE (R286): A line is written once its data and grant are present. -/
  | copyLineWrite (c : Nat) (k : Nat)
  /-- COPY_COMMAND_COMPLETE (R134): A copy command's writes have performed and its tag is set. -/
  | copyCommandComplete (c : Nat) (k : Nat)
  /-- COPY_TASK_ACCEPT (R296): The copy engine accepts a ditch copy task. -/
  | copyTaskAccept (b : Nat) (d : Nat) (n : Nat) (c : Nat)
  /-- CULVERT_DATA_ACK (R290): The last data acknowledgement arrives and the flag is written. -/
  | culvertDataAck (c : Nat) (k : Nat)
  /-- PGHAND_FLAG_ACK (R291): The flag acknowledgement arrives and the RELEASE stage posts SREL. -/
  | pghandFlagAck (c : Nat) (k : Nat)
  /-- CULVERT_LIMIT_EXPIRY (R292): An acknowledgement outlasting CLIM fails the transfer with 0x57. -/
  | culvertLimitExpiry (c : Nat) (k : Nat)
  /-- COPY_FCLR (R299): Clear FLG of every virtual core. -/
  | copyFclr (c : Nat)
  /-- TAG_WAIT_DELIVER (R271): A tag wait delivers in the first clk its condition holds. -/
  | tagWaitDeliver (c : Nat) (s : Nat) (ix : Nat)
  /-- HV_INTAKE_ARRIVAL (R310): A committed hypervector command reaches the intake. -/
  | hvIntakeArrival (c : Nat)
  /-- HV_COMMAND_START (R312): The next hypervector command starts. -/
  | hvCommandStart (c : Nat)
  /-- HV_COMMAND_COMPLETE (R312): A hypervector command applies its result and sets its tag. -/
  | hvCommandComplete (c : Nat)
  /-- QUEUE_MESSAGE_ARRIVAL (R342): A message's last line is written into the destination ring, held or refused. -/
  | queueMessageArrival (i : Nat)
  /-- QUEUE_RESERVATION_GRANT (R343): The queue grants a reservation on its head message. -/
  | queueReservationGrant (c : Nat) (q : Nat)
  /-- QUEUE_REFUSAL (R342): A refusal from a disabled queue freezes the sender with 0x74. -/
  | queueRefusal (i : Nat)
  /-- DELIVERY_ACK (R347): The destination acknowledges delivery of a message. -/
  | deliveryAck (i : Nat)
  /-- UNDELIVERABLE_RETURN (R332): A message meeting a dead link returns to its source. -/
  | undeliverableReturn (i : Nat)
  /-- SUMP_SPILL (R334): A stalled channel for 20 µs spills its messages into the sump. -/
  | sumpSpill (n : Nat) (i : Nat)
  /-- SUMP_DRAIN (R334): Spilled flits drain when the next router has space. -/
  | sumpDrain (n : Nat)
  /-- NST_WRITE (R333): A changed network-select entry sends markers and holds new messages. -/
  | nstWrite (n : Nat) (k : Nat) (v : W64)
  /-- MARKER_ACK (R333): The last marker acknowledgement puts the new route in force. -/
  | markerAck (n : Nat)
  /-- QUEUE_EN_WRITE (R337): A write to a receive queue descriptor, with EN conditions. -/
  | queueEnWrite (c : Nat) (q : Nat) (v : W64)
  /-- QUEUE_DISC (R337): Remove the head message unread. -/
  | queueDisc (c : Nat) (q : Nat)
  /-- QUEUE_RESET (R337): Empty the queue and zero HEAD and TAIL. -/
  | queueReset (c : Nat) (q : Nat)
  /-- STEP_REQUEST (R356): The headgate decides a frequency step request. -/
  | stepRequest (i : Nat)
  /-- CLOCK_STS_WRITE (R357): A host write of STS submits SREQ and STS as one step request. -/
  | clockStsWrite (b : Nat) (v : W64)
  /-- FREQUENCY_STEP (R354): A pending step lands at Ts and changes the basin clock. -/
  | frequencyStep (b : Nat)
  /-- RELOCK_END (R355): Seam FIFOs resume 1,500 ns after a step. -/
  | relockEnd (b : Nat)
  /-- BARRIER_CELL_WRITE (R358): A write to a barrier cell, ignored while EN except clearing EN. -/
  | barrierCellWrite (b : Nat) (k : Nat) (v : W64)
  /-- BARRIER_ARRIVAL (R359): An arrival is counted at the basin root at its beat. -/
  | barrierArrival (i : Nat)
  /-- MODULE_COMPLETION_REPORT (R363): A basin part's completion reaches the module root. -/
  | moduleCompletionReport (i : Nat)
  /-- WAITER_WAKE (R361): A waiter wakes at the first clk with TIME >= RTIME. -/
  | waiterWake (c : Nat) (s : Nat)
  /-- SLEEP_DEADLINE (R370): WSLEEP delivers when its deadline or WLIM is reached. -/
  | sleepDeadline (c : Nat) (s : Nat) (ix : Nat)
  /-- CORE_GATE (R364): After 16 idle clk the core's turns and engines are gated. -/
  | coreGate (c : Nat)
  /-- DITCH_DESCRIPTOR_WRITE (R379): A write to a ditch descriptor, with EN conditions. -/
  | ditchDescriptorWrite (b : Nat) (d : Nat) (k : Nat) (v : W64)
  /-- DITCH_RST (R379): Discard every record of a disabled ditch. -/
  | ditchRst (b : Nat) (d : Nat)
  /-- ADDSEG (R381): Add a segment to the free list. -/
  | addseg (b : Nat) (v : W64)
  /-- ADDIMG (R381): Add a context image to the image pool. -/
  | addimg (b : Nat) (v : W64)
  /-- ADDSAVE (R425): Add a 256 KiB engine save area to the pool. -/
  | addsave (b : Nat) (v : W64)
  /-- SLUICE_HOLD_WRITE (R381): Set or clear HOLD; clearing it starts a pass. -/
  | sluiceHoldWrite (b : Nat) (v : W64)
  /-- REGION_WRITE (R381): Write a placement region, clearing VALID if it leaves the grid. -/
  | regionWrite (b : Nat) (k : Nat) (v : W64)
  /-- DITCH_APPEND (R380): The home sluice unit appends a record to a ditch. -/
  | ditchAppend (i : Nat)
  /-- APPEND_WAIT_RESUME (R382): An append waiting for a segment proceeds once one is available. -/
  | appendWaitResume (b : Nat) (d : Nat)
  /-- LAUNCH_EXPANSION (R384): The sluice checks a header and appends its records. -/
  | launchExpansion (b : Nat)
  /-- DEPENDANT_SIGNAL (R386): After the release write performs, dependants are signalled in order. -/
  | dependantSignal (b : Nat)
  /-- PLACEMENT_PASS (R387): A pass places units from the windows of placing ditches. -/
  | placementPass (b : Nat)
  /-- SHARE_BOUNDARY (R394): At each 4,096 ns boundary idle slots are reassigned by deficit. -/
  | shareBoundary (b : Nat)
  /-- SUSPENSION_COMPLETE (R161): Once R142 holds, a suspending continuation's record is written back. -/
  | suspensionComplete (c : Nat) (s : Nat)
  /-- RPUB_WRITE (R26): Publish the inactive ring bank as a new generation. -/
  | rpubWrite (b : Nat) (v : W64)
  /-- GENERATION_ADOPT (R26): A core or sluice unit adopts the new ring generation. -/
  | generationAdopt (c : Nat)
  /-- FAULT_PACKET_ARRIVAL (R416): A fault packet or event is written into the fault ring. -/
  | faultPacketArrival (i : Nat)
  /-- IDLE_DELIVER (R426): IDLE delivers when the fault ring is nonempty or WLIM passes. -/
  | idleDeliver (c : Nat) (s : Nat) (ix : Nat)
  /-- SUPERVISOR_COMMAND_ARRIVAL (R419): A supervisor command acts on its target slot on arrival. -/
  | supervisorCommandArrival (i : Nat)
  /-- SLOT_STOPW (R427): Slot control write acting as STOPT. -/
  | slotStopw (c : Nat) (s : Nat)
  /-- SLOT_STARTW (R427): Slot control write acting as STARTT. -/
  | slotStartw (c : Nat) (s : Nat)
  /-- SLOT_FRZW (R427): Slot control write acting as FREEZE. -/
  | slotFrzw (c : Nat) (s : Nat)
  /-- SLOT_FRZ_CLEAR (R427): Writing 1 to FRZ acts as THAW. -/
  | slotFrzClear (c : Nat) (s : Nat)
  /-- SLOT_ACK_CLEAR (R427): Writing 1 to RTY or EVP acts as one ACKF. -/
  | slotAckClear (c : Nat) (s : Nat)
  /-- CONTEXT_MIRROR_WRITE (R427): Write a slot's context image through the debug mirror. -/
  | contextMirrorWrite (c : Nat) (s : Nat) (k : Nat) (v : W64)
  /-- SUMP_WINDOW_WRITE (R427): Write the sump through the debug window when it is empty. -/
  | sumpWindowWrite (n : Nat) (off : Nat) (v : W64)
  /-- SWAPOUT_COMPLETE (R425): A swap-out completes and notice 0xB0 is sent. -/
  | swapoutComplete (c : Nat)
  /-- MIGR_ARRIVAL (R434): MIGR is checked at the old core and accepted or refused. -/
  | migrArrival (i : Nat)
  /-- MIGRATION_QUIESCE (R434): The group's threads have stopped and its commands completed. -/
  | migrationQuiesce (c : Nat)
  /-- MIGRATION_SAVE (R434): Engine state and register lines have been saved. -/
  | migrationSave (c : Nat)
  /-- MIGRATION_COPY (R434): The slice copy completes and the core map is remapped. -/
  | migrationCopy (c : Nat)
  /-- MIGRATION_RESTORE (R434): The group is restored onto the target and notice 0xB1 sent. -/
  | migrationRestore (c : Nat)
  /-- RDIR_CLEAR (R436): Firmware clears RDIR, ending the redirection. -/
  | rdirClear (c : Nat)
  /-- POWER_GOOD (R443): Power good starts bring-up with every site DARK. -/
  | powerGood
  /-- PHASE0_END (R440): At TIME 65,536 ns phase 0 ends and the wavefront starts. -/
  | phase0End (b : Nat)
  /-- WAVEFRONT_SLOT_START (R441): Newly configured sites send offers across every edge. -/
  | wavefrontSlotStart (h : Nat)
  /-- OFFER_WINDOW_CLOSE (R442): After 256 ns a DARK site accepts one offer. -/
  | offerWindowClose (n : Nat)
  /-- CLOCK_LOCK (R443): The site locks to its parent or fails with 0x01. -/
  | clockLock (n : Nat)
  /-- SITE_CONFIGURED (R441): At slot end a tested site becomes CONFIGURED. -/
  | siteConfigured (n : Nat)
  /-- MEMORY_CLEAR_DONE (R443): After its clear slots the site becomes READY. -/
  | memoryClearDone (n : Nat)
  /-- SEAM_PASS (R440): Phase 2 tests the bonds that cross a seam. -/
  | seamPass
  /-- TABLES_PHASE (R447): Phase 3 writes tables, ring, resets and rider images. -/
  | tablesPhase (b : Nat)
  /-- CORES_RELEASE (R440): Phase 4 releases cores and starts every rider. -/
  | coresRelease (b : Nat)
  /-- CFGACC (R439): Test port access to one configuration word. -/
  | cfgacc (n : Nat) (a : Nat) (w : Bool) (v : W64)
  /-- LEAT_FRAME_RECEIVE (R452): A frame is checked, sequenced, and executed, duplicated or NAKed. -/
  | leatFrameReceive (n : Nat) (f : Frame)
  /-- LEAT_WRITE (R451): Host write of the payload from ADDR with FE applied. -/
  | leatWrite (n : Nat) (f : Frame)
  /-- LEAT_READ (R451): Host read returned in RDATA. -/
  | leatRead (n : Nat) (f : Frame)
  /-- LEAT_DITCHW (R451): Append the payload as records to a ditch. -/
  | leatDitchw (n : Nat) (f : Frame)
  /-- LEAT_LAUNCH (R451): Submit a launch header held at a physical address. -/
  | leatLaunch (n : Nat) (f : Frame)
  /-- MGMT_STATUS (R461): Return the PHASE of every basin. -/
  | mgmtStatus (n : Nat) (f : Frame)
  /-- MGMT_ATTEST (R461): Return the measurement signed with the module key over a nonce. -/
  | mgmtAttest (n : Nat) (f : Frame)
  /-- MGMT_IDENT (R461): Return the module public key and certificate. -/
  | mgmtIdent (n : Nat) (f : Frame)
  /-- MGMT_FWCHUNK (R461): Write firmware data into the staging store. -/
  | mgmtFwchunk (n : Nat) (f : Frame)
  /-- MGMT_FWCOMMIT (R461): Verify and install the staged image. -/
  | mgmtFwcommit (n : Nat) (f : Frame)
  /-- MGMT_RESTART (R454): Start a firmware restart with HOLD set in every basin. -/
  | mgmtRestart (n : Nat) (f : Frame)
  /-- RESTART_COMPLETE (R454): Once every rider reaches its entry, HOLD is cleared. -/
  | restartComplete
  /-- HOST_COMPL_ARRIVAL (R453): A host COMPL acknowledges a culvert write to host memory. -/
  | hostComplArrival (n : Nat) (q : Nat)
  /-- HOST_WRITE_RETRANSMIT (R453): A host write without COMPL after 100 µs is resent. -/
  | hostWriteRetransmit (n : Nat) (q : Nat)
  /-- LINK_FLIT_RECEIVE (R457): A scale-up flit is checked, decrypted and accepted or NAKed. -/
  | linkFlitReceive (n : Nat) (fl : LinkFlit)
  /-- LINK_NAK_RECEIVE (R457): A NAK makes the sender replay from the named flit. -/
  | linkNakReceive (n : Nat) (q : Nat)
  /-- LINK_ACK_RECEIVE (R457): An acknowledgement frees replay buffer flits and updates KLOCK. -/
  | linkAckReceive (n : Nat) (q : Nat)
  /-- KEY_SLOT_WRITE (R458): Write a key slot unless it is in use. -/
  | keySlotWrite (n : Nat) (k : Nat) (v : W64)
  /-- TXKS_WRITE (R458): Select the key slot for sending. -/
  | txksWrite (n : Nat) (v : W64)
  /-- WREQ_WRITE (R459): Request a link width change at the next Tw. -/
  | wreqWrite (n : Nat) (v : W64)
  /-- WIDTH_CHANGE (R459): The link changes width at Tw and stops for 512 ns. -/
  | widthChange (n : Nat)
  /-- LANE_LOCK_LOSS (R459): A lane losing lock requests one lane, or the link goes down. -/
  | laneLockLoss (n : Nat)
  /-- PORT_EN_WRITE (R460): Enable a port to train the link, or clear EN to take it down. -/
  | portEnWrite (n : Nat) (v : W64)
  /-- POWER_WINDOW (R462): At each 64 µs window the arbiter averages power and may request a step. -/
  | powerWindow (a : Nat)
  /-- MARGIN_SAMPLE (R463): Every 1 ms the headgate samples basin slack into MMIN. -/
  | marginSample (b : Nat) (a : Nat)
  /-- TRACE_SESSION_WRITE (R465): Write a trace session, opening it with HEAD and TAIL zeroed. -/
  | traceSessionWrite (b : Nat) (n : Nat) (k : Nat) (v : W64)
  /-- REPLAY_GO (R468): Replay one traced engine command on an idle core. -/
  | replayGo (c : Nat)
  /-- CONFIG_WRITE (R44): A write to a configuration register without a row of its own. -/
  | configWrite (n : Nat) (off : Nat) (v : W64)
  /-- BASIN_CLOCK_EDGE (R169): At each basin clock edge the turn passes to slot n mod 8 and is used, lent or left empty, the rotation account grows, and CYC and NCYC advance. -/
  | basinClockEdge (b : Nat)
  /-- SOFT_ERROR (R231): A single-bit or double-bit error strikes a stored word and its check bits, leaving it correctable or poisoned. -/
  | softError (a : Nat) (w : Bool)
  /-- LEAT_LINK_CHANGE (R455): The Ethernet link of a leat port comes up or goes down, changing LINK. -/
  | leatLinkChange (n : Nat) (w : Bool)
  /-- LINK_TRAINING_DONE (R460): Training started by a write of EN 1 finishes, setting WIDTH and recording RMOD from the peer. -/
  | linkTrainingDone (n : Nat) (w : Bool) (k : Nat)
  deriving DecidableEq, Repr

end Sys2Proof
end

