-- ==== Sys2Proof/Machine/Num.lean ====
section
/-! DEFINITION. Numbers: the operand formats, exact values, rounding, the c8 code, the f48 accumulator and the
special functions (spec/03_numbers.md R78 to R107). Exact values are ratios of naturals with a power of two, so
that every rounding is made once, from the exact value. -/

namespace Sys2Proof.Machine

/-! ### Exact values -/

/-- An exact value: a NaN (signalling or quiet), an infinity, or (-1)^neg · (num / den) · 2^exp with den > 0. A zero keeps its sign. -/
inductive Val where
  | nan (sig : Bool)
  | inf (neg : Bool)
  | fin (neg : Bool) (num den : Nat) (exp : Int)
  deriving DecidableEq, Repr

/-- A set of floating-point flags in FPF bit order (Table 3-10). -/
abbrev Flags := BitVec 6

def flagNV : Flags := 1#6
def flagDZ : Flags := 2#6
def flagOF : Flags := 4#6
def flagUF : Flags := 8#6
def flagNX : Flags := 16#6
def flagNS : Flags := 32#6

/-- A flag if a condition holds. -/
def flagIf (c : Bool) (f : Flags) : Flags := if c then f else 0#6

namespace Val

def zero (neg : Bool) : Val := .fin neg 0 1 0

def ofInt (i : Int) : Val := .fin (decide (i < 0)) i.natAbs 1 0

def isNan : Val → Bool
  | .nan _ => true
  | _ => false

def isSnan : Val → Bool
  | .nan sig => sig
  | _ => false

def isInf : Val → Bool
  | .inf _ => true
  | _ => false

def isZero : Val → Bool
  | .fin _ num _ _ => num == 0
  | _ => false

/-- The sign of a value; a NaN counts as positive. -/
def neg? : Val → Bool
  | .nan _ => false
  | .inf neg => neg
  | .fin neg _ _ _ => neg

def negate : Val → Val
  | .nan sig => .nan sig
  | .inf neg => .inf !neg
  | .fin neg num den exp => .fin (!neg) num den exp

/-- A signed integer over a common denominator and exponent: the numerators of two finite values. -/
def align (n1 d1 : Nat) (e1 : Int) (n2 d2 : Nat) (e2 : Int) : Nat × Nat × Nat × Int :=
  let e := min e1 e2
  (n1 * d2 * 2 ^ (e1 - e).toNat, n2 * d1 * 2 ^ (e2 - e).toNat, d1 * d2, e)

def signed (neg : Bool) (n : Nat) : Int := if neg then -(n : Int) else n

/-- The exact sum. A sum of zero is -0 when both addends are negative zeros, or when the signs differ (or the sum
cancels) and `down` holds (IEEE 754-2019 under rounding toward -infinity); else +0. -/
def add (down : Bool) : Val → Val → Val
  | .nan s, .nan t => .nan (s || t)
  | .nan s, _ => .nan s
  | _, .nan t => .nan t
  | .inf a, .inf b => if a = b then .inf a else .nan true
  | .inf a, _ => .inf a
  | _, .inf b => .inf b
  | .fin s1 n1 d1 e1, .fin s2 n2 d2 e2 =>
    let (a, b, d, e) := align n1 d1 e1 n2 d2 e2
    let t := signed s1 a + signed s2 b
    if t = 0 then .fin (if s1 = s2 && (a = 0) then s1 else down) 0 1 0
    else .fin (decide (t < 0)) t.natAbs d e

/-- The exact product; zero times infinity is an invalid operation. -/
def mul : Val → Val → Val
  | .nan s, .nan t => .nan (s || t)
  | .nan s, _ => .nan s
  | _, .nan t => .nan t
  | .inf a, .inf b => .inf (a != b)
  | .inf a, .fin b num _ _ => if num = 0 then .nan true else .inf (a != b)
  | .fin a num _ _, .inf b => if num = 0 then .nan true else .inf (a != b)
  | .fin s1 n1 d1 e1, .fin s2 n2 d2 e2 => .fin (s1 != s2) (n1 * n2) (d1 * d2) (e1 + e2)

/-- The exact quotient; 0/0 and inf/inf are invalid operations, and a finite nonzero value over zero is an infinity. -/
def div : Val → Val → Val
  | .nan s, .nan t => .nan (s || t)
  | .nan s, _ => .nan s
  | _, .nan t => .nan t
  | .inf _, .inf _ => .nan true
  | .inf a, .fin b _ _ _ => .inf (a != b)
  | .fin a _ _ _, .inf b => zero (a != b)
  | .fin s1 n1 d1 e1, .fin s2 n2 d2 e2 =>
    if n2 = 0 then (if n1 = 0 then .nan true else .inf (s1 != s2))
    else .fin (s1 != s2) (n1 * d2) (d1 * n2) (e1 - e2)

/-- The order of two values neither of which is a NaN; the zeros are equal. -/
def cmp : Val → Val → Ordering
  | .nan _, _ => .eq
  | _, .nan _ => .eq
  | .inf a, .inf b => compare (if a then (0 : Nat) else 1) (if b then 0 else 1)
  | .inf a, _ => if a then .lt else .gt
  | _, .inf b => if b then .gt else .lt
  | .fin s1 n1 d1 e1, .fin s2 n2 d2 e2 =>
    let (a, b, _, _) := align n1 d1 e1 n2 d2 e2
    compare (signed s1 a) (signed s2 b)

end Val

/-! ### Rounding an exact magnitude -/

/-- Rounding modes by FPC.RM (Table 3-9): 0 nearest-even, 1 toward zero, 2 toward +infinity, 3 toward -infinity. -/
abbrev RMode := BitVec 2

/-- The whole part of (num / den) · 2^k, and the rest compared with one half: 0 exact, 1 below, 2 equal, 3 above. -/
def scaleFloor (num den : Nat) (k : Int) : Nat × Nat :=
  let n := num * 2 ^ k.toNat
  let d := den * 2 ^ (-k).toNat
  let q := n / d
  let r := n % d
  (q, if r = 0 then 0 else if 2 * r < d then 1 else if 2 * r = d then 2 else 3)

/-- Whether a magnitude with this whole part and rest is rounded up (R92, R105). -/
def roundsUp (rm : RMode) (neg : Bool) (q rest : Nat) : Bool :=
  match rm.toNat with
  | 0 => rest == 3 || (rest == 2 && q % 2 == 1)
  | 1 => false
  | 2 => rest != 0 && !neg
  | _ => rest != 0 && neg

/-- (num / den) · 2^k rounded to an integer, and whether it was exact. -/
def roundScaled (rm : RMode) (neg : Bool) (num den : Nat) (k : Int) : Nat × Bool :=
  let (q, rest) := scaleFloor num den k
  (if roundsUp rm neg q rest then q + 1 else q, rest == 0)

/-- floor(log2 ((num / den) · 2^exp)) for num > 0. -/
def floorLog2 (num den : Nat) (exp : Int) : Int :=
  let c := (num.log2 : Int) - (den.log2 : Int)
  if den * 2 ^ c.toNat ≤ num * 2 ^ (-c).toNat then c + exp else c - 1 + exp

/-! ### The operand formats (Tables 3-1 and 3-2) -/

end Sys2Proof.Machine
namespace Sys2Proof

/-- Bits of one element (Table 3-1); a c8 element is an e4m3 code once expanded. -/
def MFmt.width : MFmt → Nat
  | .f32 => 32 | .bf16 => 16 | .f16 => 16 | .e4m3 => 8 | .e5m2 => 8 | .c8 => 8 | .e3m2 => 6 | .e2m3 => 6
  | .e2m1 => 4 | .s8 => 8 | .s4 => 4 | .b1 => 1

/-- Mantissa bits m. -/
def MFmt.mbits : MFmt → Nat
  | .f32 => 23 | .bf16 => 7 | .f16 => 10 | .e4m3 => 3 | .e5m2 => 2 | .c8 => 3 | .e3m2 => 2 | .e2m3 => 3
  | .e2m1 => 1 | .s8 => 0 | .s4 => 0 | .b1 => 0

/-- Exponent bias B. -/
def MFmt.bias : MFmt → Nat
  | .f32 => 127 | .bf16 => 127 | .f16 => 15 | .e4m3 => 7 | .e5m2 => 15 | .c8 => 7 | .e3m2 => 3 | .e2m3 => 1
  | .e2m1 => 1 | .s8 => 0 | .s4 => 0 | .b1 => 0

def MFmt.isInt : MFmt → Bool
  | .s8 => true | .s4 => true | .b1 => true | _ => false

/-- The largest finite code without its sign (Tables 3-1 and 3-2). -/
def MFmt.maxCode (f : MFmt) (nanm : Bool) : Nat :=
  match f with
  | .f32 => 0x7F7FFFFF | .bf16 => 0x7F7F | .f16 => 0x7BFF
  | .e4m3 => if nanm then 0x77 else 0x7E
  | .c8 => if nanm then 0x77 else 0x7E
  | .e5m2 => 0x7B | .e3m2 => 0x1F | .e2m3 => 0x1F | .e2m1 => 7
  | .s8 => 127 | .s4 => 7 | .b1 => 1

/-- The code of +infinity, where the format has one. -/
def MFmt.infCode (f : MFmt) (nanm : Bool) : Option Nat :=
  match f with
  | .f32 => some 0x7F800000 | .bf16 => some 0x7F80 | .f16 => some 0x7C00 | .e5m2 => some 0x7C
  | .e4m3 => if nanm then some 0x78 else none
  | .c8 => if nanm then some 0x78 else none
  | .e3m2 => none | .e2m3 => none | .e2m1 => none | .s8 => none | .s4 => none | .b1 => none

/-- The canonical NaN of the format, where it has one (Table 3-2). -/
def MFmt.canonNan (f : MFmt) (nanm : Bool) : Option Nat :=
  match f with
  | .f32 => some 0x7FC00000 | .bf16 => some 0x7FC0 | .f16 => some 0x7E00 | .e5m2 => some 0x7E
  | .e4m3 => if nanm then some 0x7C else some 0x7F
  | .c8 => if nanm then some 0x7C else some 0x7F
  | .e3m2 => none | .e2m3 => none | .e2m1 => none | .s8 => none | .s4 => none | .b1 => none

/-- The sign bit of a floating-point format. -/
def MFmt.signBit (f : MFmt) : Nat := 2 ^ (f.width - 1)

/-- The range of an integer target. -/
def MFmt.intRange : MFmt → Int × Int
  | .s8 => (-128, 127)
  | .s4 => (-8, 7)
  | _ => (-1, 1)

end Sys2Proof
namespace Sys2Proof.Machine

/-- nan_or_zero (Table 3-11, R89): the canonical NaN, else +0, else code 1 for b1. -/
def nanOrZero (f : MFmt) (nanm : Bool) : Nat :=
  match f.canonNan nanm with
  | some c => c
  | none => if f = .b1 then 1 else 0

/-- fmt_value (Table 3-11): the value of code b in format f (R78 to R83). -/
def fmtValue (b : Nat) (f : MFmt) (nanm : Bool) : Val :=
  let b := b % 2 ^ f.width
  match f with
  | .b1 => .fin (b = 0) 1 1 0
  | .s8 => .ofInt (BitVec.ofNat 8 b).toInt
  | .s4 => .ofInt (BitVec.ofNat 4 b).toInt
  | f =>
    let neg : Bool := (b / f.signBit) == 1
    let mag := b % f.signBit
    let E : Nat := mag / 2 ^ f.mbits
    let M := mag % 2 ^ f.mbits
    let isInf : Bool := match f.infCode nanm with | some c => mag == c | none => false
    if isInf then .inf neg
    else if f.maxCode nanm < mag then
      .nan (match f with | .f32 => M < 2 ^ 22 | .bf16 => M < 64 | .f16 => M < 512 | _ => false)
    else if E = 0 then .fin neg M 1 (1 - (f.bias : Int) - f.mbits)
    else .fin neg (2 ^ f.mbits + M) 1 ((E : Int) - f.bias - f.mbits)

/-- value(s) (Table 3-11): the value of a bf16 code. -/
def bfValue (s : Nat) : Val := fmtValue s .bf16 false

/-- scale_ok (R89): a positive normal bf16 value. -/
def scaleOk (s : Nat) : Bool :=
  let s := s % 65536
  s < 0x8000 && decide (1 ≤ s / 128) && decide (s / 128 ≤ 254)

/-- A magnitude rounded into floating-point format f, within the format's own exponent range below and without bound
above: the code as if the exponent field went on, and whether it is exact. -/
def roundMag (f : MFmt) (rm : RMode) (neg : Bool) (num den : Nat) (exp : Int) : Nat × Bool :=
  let emin : Int := 1 - (f.bias : Int)
  let L := floorLog2 num den exp
  let qe := max L emin - f.mbits
  let (k, exact) := roundScaled rm neg num den (exp - qe)
  ((qe - (emin - f.mbits)).toNat * 2 ^ f.mbits + k, exact)

/-- Whether a nonzero magnitude is tiny after rounding with an unbounded exponent (R91); 0.75 in e2m1 is (log entry 11). -/
def isTiny (f : MFmt) (rm : RMode) (neg : Bool) (num den : Nat) (exp : Int) : Bool :=
  let emin : Int := 1 - (f.bias : Int)
  let L := floorLog2 num den exp
  let k := (roundScaled rm neg num den (exp - (L - f.mbits))).1
  decide (L < emin) && !(decide (L = emin - 1) && k == 2 ^ (f.mbits + 1))

/-- Whether overflow rounds to infinity under the mode (IEEE 754-2019). -/
def overflowsToInf (rm : RMode) (neg : Bool) : Bool :=
  match rm.toNat with
  | 0 => true
  | 1 => false
  | 2 => !neg
  | _ => neg

/-- A code with its sign bit. -/
def signCode (f : MFmt) (neg : Bool) (mag : Nat) : Nat := if neg then f.signBit + mag else mag

/-- An integer result clamped and encoded in w bits. -/
def intCode (w : Nat) (i : Int) : Nat := (i % ((2 ^ w : Nat) : Int)).toNat

def clampInt (lo hi i : Int) : Int := if i < lo then lo else if hi < i then hi else i

/-- An exact finite value rounded to an integer, with whether it was exact. -/
def roundToInt (rm : RMode) (neg : Bool) (num den : Nat) (exp : Int) : Int × Bool :=
  let (k, exact) := roundScaled rm neg num den exp
  (Val.signed neg k, exact)

/-- round_fmt (R91, Table 3-6): the code and the flags. Log entry 11: a tiny result is rounded once into the subnormals and zeros of f. -/
def roundFmt (q : Val) (f : MFmt) (rm : RMode) (sat nanm : Bool) : Nat × Flags :=
  if f.isInt then
    let (lo, hi) := f.intRange
    match q with
    | .nan _ => (0, flagNV)
    | .inf neg => (intCode f.width (if neg then lo else hi), flagNV)
    | .fin neg num den exp =>
      let (i, exact) := roundToInt rm neg num den exp
      let c := clampInt lo hi i
      (intCode f.width c, if c = i then flagIf (!exact) flagNX else flagNS ||| flagNX)
  else
    match q with
    | .nan sig =>
      match f.canonNan nanm with
      | some c => (c, flagIf sig flagNV)
      | none => (0, flagNV)
    | .inf neg =>
      if sat then (signCode f neg (f.maxCode nanm), flagNS)
      else match f.infCode nanm with
        | some c => (signCode f neg c, 0#6)
        | none => match f.canonNan nanm with
          | some c => (signCode f neg c, flagNV)
          | none => (signCode f neg (f.maxCode nanm), flagOF)
    | .fin neg num den exp =>
      if num = 0 then (signCode f neg 0, 0#6)
      else
        let (code, exact) := roundMag f rm neg num den exp
        if f.maxCode nanm < code then
          if sat then (signCode f neg (f.maxCode nanm), flagNS ||| flagNX)
          else
            let top := match f.infCode nanm with
              | some c => some c
              | none => f.canonNan nanm
            match top with
            | some c =>
              (signCode f neg (if overflowsToInf rm neg then c else f.maxCode nanm), flagOF ||| flagNX)
            | none => (signCode f neg (f.maxCode nanm), flagOF ||| flagNX)
        else
          (signCode f neg code,
            flagIf (!exact) flagNX ||| flagIf (!exact && isTiny f rm neg num den exp) flagUF)

/-- ieee_round (Table 3-11). -/
def ieeeRound (q : Val) (f : MFmt) (rm : RMode) : Nat × Flags := roundFmt q f rm false false

/-- narrow_scaled (R90): x a value, its sign bit taken from the value, s a bf16 scale code. -/
def narrowScaled (x : Val) (s : Nat) (f : MFmt) (rm : RMode) (sat nanm : Bool) : Nat × Flags :=
  if !scaleOk s then (nanOrZero f nanm, flagNV)
  else if f = .b1 then
    if x.isNan then (1, flagNV)
    else
      let eq := match x with
        | .fin _ num den exp => (Val.cmp (.fin false num den exp) (bfValue s)) == .eq
        | _ => false
      (if x.neg? then 0 else 1, flagIf (!eq) flagNX)
  else roundFmt (x.div (bfValue s)) f rm sat nanm

/-- widen_scaled (R93). An invalid scale gives the canonical NaN of dst and NV (R89). A NaN code widens with no flag. -/
def widenScaled (b : Nat) (f : MFmt) (s : Nat) (dst : MFmt) (rm : RMode) (nanm : Bool) : Nat × Flags :=
  if !scaleOk s then (nanOrZero dst nanm, flagNV)
  else
    let v := fmtValue b f nanm
    if v.isNan then (nanOrZero dst nanm, 0#6) else roundFmt (v.mul (bfValue s)) dst rm false nanm

/-- cvt_to_int (R106) into a w-bit type. -/
def cvtToInt (q : Val) (sgn : Bool) (w : Nat) (rm : RMode) : Nat × Flags :=
  let lo : Int := if sgn then -(2 ^ (w - 1) : Nat) else 0
  let hi : Int := if sgn then (2 ^ (w - 1) : Nat) - 1 else (2 ^ w : Nat) - 1
  match q with
  | .nan _ => (0, flagNV)
  | .inf neg => (intCode w (if neg then lo else hi), flagNV)
  | .fin neg num den exp =>
    let (i, exact) := roundToInt rm neg num den exp
    let c := clampInt lo hi i
    (intCode w c, if c = i then flagIf (!exact) flagNX else flagNV)

/-- cvt_from_int (R106). -/
def cvtFromInt (i : Int) (dst : MFmt) (rm : RMode) : Nat × Flags := ieeeRound (.ofInt i) dst rm

/-! ### Packed elements (R81) -/

/-- Element i of a run of w-bit elements held as one little-endian integer. -/
def packedElem (run w i : Nat) : Nat := run / 2 ^ (w * i) % 2 ^ w

/-- A run packed from its elements. -/
def packElems (w : Nat) : List Nat → Nat
  | [] => 0
  | e :: es => e % 2 ^ w + 2 ^ w * packElems w es

/-- Bytes taken by n elements of w bits. -/
def packedBytes (w n : Nat) : Nat := (w * n + 7) / 8

/-! ### c8 blocks (R85 to R88) -/

/-- The codes of Table 3-5: the bits in reading order and δ; none for escape. -/
def c8Table : Nat → List (List Bool × Option Int)
  | 0 => [([true, true, false], some 1), ([false], some 0), ([true, false], some (-1)),
      ([true, true, true, false], some (-2)), ([true, true, true, true, false], some (-3)),
      ([true, true, true, true, true], none)]
  | 1 => [([true, true, false, true], some 2), ([true, false, false], some 1), ([false, false], some 0),
      ([false, true], some (-1)), ([true, false, true], some (-2)), ([true, true, false, false], some (-3)),
      ([true, true, true, false], some (-4)), ([true, true, true, true], none)]
  | 2 => [([true, false], some 0), ([false, false], some (-1)), ([false, true], some (-2)),
      ([true, true, false], some (-3)), ([true, true, true, false], some (-4)), ([true, true, true, true], none)]
  | _ => []

/-- read_bits(4) (Table 3-11): the first bit read is the least significant. -/
def readBits4 : List Bool → Option (Nat × List Bool)
  | a :: b :: c :: d :: rest => some (a.toNat + 2 * b.toNat + 4 * c.toNat + 8 * d.toNat, rest)
  | _ => none

/-- match_prefix (Table 3-11): the code with which the stream begins. -/
def matchPrefix (stream : List Bool) : List (List Bool × Option Int) → Option (Option Int × List Bool)
  | [] => none
  | (code, d) :: more =>
    if code.isPrefixOf stream then some (d, stream.drop code.length) else matchPrefix stream more

/-- The exponent field of one element, or a decode error. -/
def c8Exp (tbl eb : Nat) (stream : List Bool) : Option (Nat × List Bool) :=
  if tbl = 3 then readBits4 stream
  else match matchPrefix stream (c8Table tbl) with
    | none => none
    | some (none, rest) => readBits4 rest
    | some (some d, rest) =>
      let e := (eb : Int) + d
      if e < 0 || 15 < e then none else some (e.toNat, rest)

/-- The elements from nibbles and stream. -/
def c8Elems (tbl eb : Nat) : List Nat → List Bool → Option (List Nat × List Bool)
  | [], stream => some ([], stream)
  | nib :: nibs, stream =>
    match c8Exp tbl eb stream with
    | none => none
    | some (e, rest) =>
      match c8Elems tbl eb nibs rest with
      | none => none
      | some (out, rest') => some ((nib / 8 * 128 + e * 8 + nib % 8) :: out, rest')

/-- The bits of bytes, lowest first. -/
def bitsOfBytes (bs : List Nat) : List Bool := bs.flatMap fun b => (List.range 8).map fun k => b.testBit k

/-- LEN of the block whose header halfword is h. -/
def c8Len (h : Nat) : Nat := h / 64 % 1024

/-- c8_decode (R87): the 64 e4m3 codes of the block's bytes. -/
def c8Decode (bytes : List Nat) : Option (List Nat) :=
  let h := bytes.getD 0 0 + 256 * bytes.getD 1 0
  let eb := h % 16
  let tbl := h / 16 % 4
  let len := c8Len h
  if len < 34 || len % 2 = 1 || (tbl = 3 && eb ≠ 0) then none
  else
    let nibs := ((bytes.drop 2).take 32).flatMap fun b => [b % 16, b / 16 % 16]
    let stream := bitsOfBytes ((bytes.drop 34).take (len - 34))
    match c8Elems tbl eb nibs stream with
    | none => none
    | some (out, rest) => if 16 ≤ rest.length || rest.any id then none else some out

/-- The code bits of an exponent field under a table and a base exponent (R88). -/
def c8Code (tbl eb e : Nat) : List Bool :=
  let lit := (List.range 4).map fun k => e.testBit k
  if tbl = 3 then lit
  else match (c8Table tbl).find? (fun c => c.2 == some ((e : Int) - eb)) with
    | some (code, _) => code
    | none => (match (c8Table tbl).find? (fun c => c.2 == none) with | some (code, _) => code | none => []) ++ lit

/-- Stream bits of 64 codes under a table and a base exponent. -/
def c8Stream (tbl eb : Nat) (codes : List Nat) : List Bool := codes.flatMap fun c => c8Code tbl eb (c / 8 % 16)

/-- The base exponent with the fewest stream bits, the lowest on a tie (R88). -/
def c8Base (tbl : Nat) (codes : List Nat) : Nat :=
  if tbl = 3 then 0
  else (List.range 16).foldl (fun best eb =>
    if (c8Stream tbl eb codes).length < (c8Stream tbl best codes).length then eb else best) 0

/-- c8_encode (R88): the bytes of the block. -/
def c8Encode (codes : List Nat) (tbl : Nat) : List Nat :=
  let eb := c8Base tbl codes
  let bits := c8Stream tbl eb codes
  let nbytes := (bits.length + 15) / 16 * 2
  let h := eb + 16 * tbl + 64 * (34 + nbytes)
  let stream := packElems 1 (bits.map Bool.toNat)
  let nibs := packElems 4 (codes.map fun c => c / 128 % 2 * 8 + c % 8)
  [h % 256, h / 256] ++ (List.range 32).map (fun k => nibs / 256 ^ k % 256) ++
    (List.range nbytes).map (fun k => stream / 256 ^ k % 256)

/-! ### The f48 accumulator format (R95, R96) -/

def f48Nan : Nat := 0x7FF000000000
def f48Inf (neg : Bool) : Nat := if neg then 0xFFE000000000 else 0x7FE000000000
def f48Zero (neg : Bool) : Nat := if neg then 2 ^ 47 else 0

/-- The value of an f48 code. -/
def f48Value (b : Nat) : Val :=
  let neg : Bool := (b / 2 ^ 47 % 2) == 1
  let E : Nat := b / 2 ^ 37 % 1024
  let F : Nat := b % 2 ^ 37
  if E = 0 then .zero neg
  else if E = 1023 then (if F = 0 then .inf neg else .nan false)
  else .fin neg (2 ^ 37 + F) 1 ((E : Int) - 511 - 37)

/-- round48 (R96) of an exact value: always round-to-nearest-even. -/
def round48 (q : Val) : Nat :=
  match q with
  | .nan _ => f48Nan
  | .inf neg => f48Inf neg
  | .fin neg num den exp =>
    if num = 0 then f48Zero neg
    else
      let L := floorLog2 num den exp
      let k := (roundScaled 0#2 neg num den (exp - (L - 37))).1
      let L' := if k = 2 ^ 38 then L + 1 else L
      let k' := if k = 2 ^ 38 then 2 ^ 37 else k
      if L' < -510 then f48Zero neg
      else if 511 < L' then f48Inf neg
      else (if neg then 2 ^ 47 else 0) + (L' + 511).toNat * 2 ^ 37 + (k' - 2 ^ 37)

/-- round48 of the exact sum of two f48 codes. -/
def f48Add (a b : Nat) : Nat := round48 (Val.add false (f48Value a) (f48Value b))

/-! ### Integer interval arithmetic for the special functions (R107)

Fixed point with `fpBits` fraction bits. The operands of these functions have at most 11 significant bits, and no exact
result comes nearer to a rounding boundary than the error of these series, but for the exact cases, which are taken
first (log entry 16). -/

def fpBits : Nat := 192

/-- ln 2 in fixed point. -/
def ln2Fp : Nat := 4350955369971217654477563090224794165364344896676135745069

/-- Σ_{k ≥ n} of the Taylor series of exp at r (fixed point), from the term t = r^n / n!, over fuel terms. -/
def expSeries (r : Nat) : Nat → Nat → Nat → Nat
  | 0, _, t => t
  | fuel + 1, n, t => t + expSeries r fuel (n + 1) (t * r / 2 ^ fpBits / (n + 1))

/-- exp(r) for fixed-point r with 0 ≤ r < 1. -/
def expFp (r : Nat) : Nat := expSeries r 64 0 (2 ^ fpBits)

/-- Σ z^(2k+1) / (2k+1) over fuel terms. -/
def atanhSeries (z2 : Nat) : Nat → Nat → Nat → Nat
  | 0, _, _ => 0
  | fuel + 1, n, t => t / n + atanhSeries z2 fuel (n + 2) (t * z2 / 2 ^ fpBits)

/-- The integer square root, bit by bit from the top. -/
def isqrtAux (n : Nat) : Nat → Nat → Nat
  | 0, r => r
  | k + 1, r => if (r + 2 ^ k) * (r + 2 ^ k) ≤ n then isqrtAux n k (r + 2 ^ k) else isqrtAux n k r

def isqrt (n : Nat) : Nat := isqrtAux n (n.log2 / 2 + 1) 0

/-- √((num / den) · 2^exp): exact when it is a ratio of this form, and else a value strictly between two neighbours far
finer than any target's rounding boundary. -/
def sqrtMag (num den : Nat) (exp : Int) : Nat × Nat × Int :=
  let odd := exp % 2 = 1
  let n := if odd then 2 * num else num
  let e := (if odd then exp - 1 else exp) / 2
  let k : Nat := 64 + (den.log2 - n.log2)
  let s := isqrt (n * 4 ^ k / den)
  if s * s * den = n * 4 ^ k then (s, 1, e - k) else (2 * s + 1, 1, e - k - 1)

/-- 2^x for finite nonzero x (R107): an exact power of two, or a value beyond every format's range when |x| is large, or
the series. -/
def exp2Val (neg : Bool) (num den : Nat) (exp : Int) : Val :=
  let L := floorLog2 num den exp
  if L < -14 then (if neg then .fin false (2 ^ 20 - 1) 1 (-20) else .fin false (2 ^ 20 + 1) 1 (-20))
  else if 9 < L then .fin false 1 1 (if neg then -2048 else 2048)
  else
    let (w, rest) := scaleFloor num den exp
    if rest = 0 then .fin false 1 1 (if neg then -(w : Int) else w)
    else
      let f := (scaleFloor num den (exp + fpBits)).1 - w * 2 ^ fpBits
      let (n, g) : Int × Nat := if neg then (-(w : Int) - 1, 2 ^ fpBits - f) else (w, f)
      .fin false (expFp (g * ln2Fp / 2 ^ fpBits)) 1 (n - fpBits)

/-- log2 x for finite x > 0 (R107). -/
def log2Val (num den : Nat) (exp : Int) : Val :=
  let L := floorLog2 num den exp
  let m := (scaleFloor num den (exp - L + fpBits)).1
  if m = 2 ^ fpBits then (if L = 0 then .zero false else .ofInt L)
  else
    let z := (m - 2 ^ fpBits) * 2 ^ fpBits / (m + 2 ^ fpBits)
    let ln := 2 * atanhSeries (z * z / 2 ^ fpBits) 64 1 z
    let r : Int := L * (2 ^ fpBits : Nat) + (ln * 2 ^ fpBits / ln2Fp : Nat)
    .fin (decide (r < 0)) r.natAbs 1 (-(fpBits : Int))

/-- tanh x for finite nonzero x (R107). -/
def tanhVal (neg : Bool) (num den : Nat) (exp : Int) : Val :=
  let L := floorLog2 num den exp
  if L < -22 then .fin neg (num * (2 ^ 45 - 1)) (den * 2 ^ 45) exp
  else if 4 < L then .fin neg (2 ^ 30 - 1) 1 (-30)
  else
    let t := 2 * (scaleFloor num den (exp + fpBits)).1
    let k := t / ln2Fp
    let E := expFp (t - k * ln2Fp) * 2 ^ k
    .fin neg (E - 2 ^ fpBits) (E + 2 ^ fpBits) 0

end Sys2Proof.Machine
end

