-- ==== Sys2Proof/Machine/Flags.lean ====
section
/-! DEFINITION. The floating-point flags and their enables (spec/03_numbers.md R108 to R112), and the flags of two-operand
floating-point forms (R104, R189). -/

namespace Sys2Proof.Machine

/-- FPC.RM, FPC.SAT and FPC.EN (Table 3-9). -/
def fpcRm (fpc : W64) : RMode := fpc.setWidth 2
def fpcSat (fpc : W64) : Bool := fpc.getLsbD 2
def fpcEn (fpc : W64) : Flags := (fpc >>> 8).setWidth 6

/-- The flags of FPF. -/
def fpfFlags (fpf : W64) : Flags := fpf.setWidth 6

/-- FPF with flags merged in (R110). -/
def mergeFpf (fpf : W64) (f : Flags) : W64 := fpf ||| f.setWidth 64

/-- The raised flags whose event is enabled (R112, EVT of Table 6-1). -/
def eventFlags (fpc : W64) (f : Flags) : Flags := f &&& fpcEn fpc

/-- NV of an operation on values that may be signalling NaNs. -/
def snanFlag (vs : List Val) : Flags := flagIf (vs.any Val.isSnan) flagNV

/-- A lane result rounded under IEEE 754-2019 with its flags (R104): a NaN that an operation makes is marked signalling by Val's
operations and raises NV. -/
def roundLane (q : Val) (f : MFmt) (rm : RMode) : Nat × Flags := ieeeRound q f rm

end Sys2Proof.Machine
end

