-- ==== Sys2Proof/WellFormed.lean ====
section
/-! DEFINITION. When an instruction term is one the encoding admits (spec/02_encoding.md R53 to R67), and when an
event's arguments name units that exist (spec/01_organisation.md R14 to R20). -/

namespace Sys2Proof

/-- Types 0x0 to 0x7 of Table 2-5. -/
def LaneTy.isInt : LaneTy → Bool
  | .s8 | .s16 | .s32 | .s64 | .n8 | .n16 | .n32 | .n64 => true
  | .f16 | .bf16 | .f32 => false

/-- Types 0x0 to 0x3 of Table 2-5. -/
def LaneTy.isSigned : LaneTy → Bool
  | .s8 | .s16 | .s32 | .s64 => true
  | .n8 | .n16 | .n32 | .n64 | .f16 | .bf16 | .f32 => false

/-- Types 0x8 to 0xA of Table 2-5. -/
def LaneTy.isFloat (y : LaneTy) : Bool := !y.isInt

/-- The types of the special functions, 0x8 and 0x9 (R192). -/
def LaneTy.isHalf : LaneTy → Bool
  | .f16 | .bf16 => true
  | _ => false

/-- Source types of VWIDENLO and VWIDENHI (R63). -/
def LaneTy.canWiden : LaneTy → Bool
  | .s8 | .s16 | .s32 | .n8 | .n16 | .n32 => true
  | _ => false

/-- Source types of VNARROW and VNARROWS (R63). -/
def LaneTy.canNarrow : LaneTy → Bool
  | .s16 | .s32 | .s64 | .n16 | .n32 | .n64 => true
  | _ => false

/-- Compact types 0b000 to 0b100 (R61). -/
def LaneTy.isCompactInt : LaneTy → Bool
  | .s8 | .s16 | .s32 | .s64 | .n32 => true
  | _ => false

/-- The format codes 0x3, 0x4 and 0x6 to 0xA that SNARROW and SWIDEN accept (R63). -/
def MFmt.isScaledTarget : MFmt → Bool
  | .e4m3 | .e5m2 | .e3m2 | .e2m3 | .e2m1 | .s8 | .s4 => true
  | _ => false

/-- Control register numbers that RDC may name (Table 2-13, R415). -/
def ctlReadable (r : BitVec 6) : Bool :=
  decide (r.toNat ≤ 16) || (decide (32 ≤ r.toNat) && decide (r.toNat ≤ 35))

/-- Control register numbers that WRC may name (Table 2-13, R415). -/
def ctlWritable (r : BitVec 6) : Bool :=
  [0, 1, 2, 3, 4, 5, 7, 8, 16, 32, 33].contains r.toNat

/-- Two targets of one instruction are not equal unless both are absent (R55). -/
def distinctTargets (t u : Option Target) : Bool :=
  t.isNone || decide (t ≠ u)

/-- The checks of spec/02_encoding.md that bear on one instruction alone (R53, R55, R59 to R67), and for an event that
its unit exists. -/
def Instr.wf : Instr → Bool
  | .br _ _ _ => true
  | .call _ _ _ => true
  | .bri _ _ => true
  | .calli _ _ => true
  | .ret _ _ => true
  | .susp _ _ _ => true
  | .retire _ _ => true
  | .read _ t u => distinctTargets t u
  | .readt _ t u => distinctTargets t u
  | .write _ => true
  | .rdc r t u => ctlReadable r && distinctTargets t u
  | .wrc r => ctlWritable r
  | .null _ => true
  | .mov _ t u => distinctTargets t u
  | .align => true
  | .movi _ _ _ => true
  | .appi _ _ _ => true
  | .add _ t u => distinctTargets t u
  | .sub _ t u => distinctTargets t u
  | .mul _ t u => distinctTargets t u
  | .mulhs _ t u => distinctTargets t u
  | .mulhn _ t u => distinctTargets t u
  | .divs _ t u => distinctTargets t u
  | .divn _ t u => distinctTargets t u
  | .rems _ t u => distinctTargets t u
  | .remn _ t u => distinctTargets t u
  | .mins _ t u => distinctTargets t u
  | .minn _ t u => distinctTargets t u
  | .maxs _ t u => distinctTargets t u
  | .maxn _ t u => distinctTargets t u
  | .neg _ t u => distinctTargets t u
  | .abs _ t u => distinctTargets t u
  | .and _ t u => distinctTargets t u
  | .or _ t u => distinctTargets t u
  | .xor _ t u => distinctTargets t u
  | .andn _ t u => distinctTargets t u
  | .shl _ t u => distinctTargets t u
  | .shrn _ t u => distinctTargets t u
  | .shrs _ t u => distinctTargets t u
  | .rotl _ t u => distinctTargets t u
  | .not _ t u => distinctTargets t u
  | .popc _ t u => distinctTargets t u
  | .clz _ t u => distinctTargets t u
  | .ctz _ t u => distinctTargets t u
  | .ceq _ t u => distinctTargets t u
  | .cne _ t u => distinctTargets t u
  | .clts _ t u => distinctTargets t u
  | .cles _ t u => distinctTargets t u
  | .cltn _ t u => distinctTargets t u
  | .clen _ t u => distinctTargets t u
  | .sel t u => distinctTargets t u
  | .exts8 _ t u => distinctTargets t u
  | .exts16 _ t u => distinctTargets t u
  | .exts32 _ t u => distinctTargets t u
  | .extn8 _ t u => distinctTargets t u
  | .extn16 _ t u => distinctTargets t u
  | .extn32 _ t u => distinctTargets t u
  | .addi _ _ _ => true
  | .muli _ _ _ => true
  | .andi _ _ _ => true
  | .ori _ _ _ => true
  | .xori _ _ _ => true
  | .shli _ i _ => decide (i.toNat ≤ 63)
  | .shrni _ i _ => decide (i.toNat ≤ 63)
  | .shrsi _ i _ => decide (i.toNat ≤ 63)
  | .ceqi _ _ _ => true
  | .cltsi _ _ _ => true
  | .vadd _ y t u => y.isInt && distinctTargets t u
  | .vsub _ y t u => y.isInt && distinctTargets t u
  | .vadds _ y t u => y.isInt && distinctTargets t u
  | .vsubs _ y t u => y.isInt && distinctTargets t u
  | .vmul _ y t u => y.isInt && distinctTargets t u
  | .vmulh _ y t u => y.isInt && distinctTargets t u
  | .vmin _ y t u => y.isInt && distinctTargets t u
  | .vmax _ y t u => y.isInt && distinctTargets t u
  | .vand _ y t u => y.isInt && distinctTargets t u
  | .vor _ y t u => y.isInt && distinctTargets t u
  | .vxor _ y t u => y.isInt && distinctTargets t u
  | .vandn _ y t u => y.isInt && distinctTargets t u
  | .vshl _ y t u => y.isInt && distinctTargets t u
  | .vshr _ y t u => y.isInt && distinctTargets t u
  | .vrotl _ y t u => y.isInt && distinctTargets t u
  | .vnot _ y t u => y.isInt && distinctTargets t u
  | .vceq _ y t u => y.isInt && distinctTargets t u
  | .vcne _ y t u => y.isInt && distinctTargets t u
  | .vclt _ y t u => y.isInt && distinctTargets t u
  | .vcle _ y t u => y.isInt && distinctTargets t u
  | .vsplat _ y t u => y.isInt && distinctTargets t u
  | .vextr _ y t u => y.isInt && distinctTargets t u
  | .vperm _ y t u => y.isInt && distinctTargets t u
  | .vsel y t u => y.isInt && distinctTargets t u
  | .vredadd _ y t u => y.isInt && distinctTargets t u
  | .vredmin _ y t u => y.isInt && distinctTargets t u
  | .vredmax _ y t u => y.isInt && distinctTargets t u
  | .vabs _ y t u => y.isSigned && distinctTargets t u
  | .vwidenlo _ y t u => y.canWiden && distinctTargets t u
  | .vwidenhi _ y t u => y.canWiden && distinctTargets t u
  | .vnarrow _ y t u => y.canNarrow && distinctTargets t u
  | .vnarrows _ y t u => y.canNarrow && distinctTargets t u
  | .fadd _ y t u => y.isFloat && distinctTargets t u
  | .fsub _ y t u => y.isFloat && distinctTargets t u
  | .fmul _ y t u => y.isFloat && distinctTargets t u
  | .fdiv _ y t u => y.isFloat && distinctTargets t u
  | .fma y t u => y.isFloat && distinctTargets t u
  | .fms y t u => y.isFloat && distinctTargets t u
  | .fmin _ y t u => y.isFloat && distinctTargets t u
  | .fmax _ y t u => y.isFloat && distinctTargets t u
  | .fceq _ y t u => y.isFloat && distinctTargets t u
  | .fclt _ y t u => y.isFloat && distinctTargets t u
  | .fcle _ y t u => y.isFloat && distinctTargets t u
  | .fcun _ y t u => y.isFloat && distinctTargets t u
  | .fabs _ y t u => y.isFloat && distinctTargets t u
  | .fneg _ y t u => y.isFloat && distinctTargets t u
  | .fsqrt _ y t u => y.isFloat && distinctTargets t u
  | .fredadd _ y t u => y.isFloat && distinctTargets t u
  | .exp2 _ y t u => y.isHalf && distinctTargets t u
  | .log2 _ y t u => y.isHalf && distinctTargets t u
  | .rcp _ y t u => y.isHalf && distinctTargets t u
  | .rsq _ y t u => y.isHalf && distinctTargets t u
  | .tanh _ y t u => y.isHalf && distinctTargets t u
  | .frint _ y t u => y.isFloat && distinctTargets t u
  | .cvtFloatSource _ d s t u => s.isFloat && decide (d ≠ s) && distinctTargets t u
  | .cvtIntegerSource _ d s t u => s.isInt && d.isFloat && distinctTargets t u
  | .snarrow _ f s t u => f.isScaledTarget && s.isFloat && distinctTargets t u
  | .swiden _ d f t u => d.isFloat && f.isScaledTarget && distinctTargets t u
  | .vaddCompact y _ => y.isCompactInt
  | .vsubCompact y _ => y.isCompactInt
  | .vmulCompact y _ => y.isCompactInt
  | .vminCompact y _ => y.isCompactInt
  | .vmaxCompact y _ => y.isCompactInt
  | .vandCompact y _ => y.isCompactInt
  | .vorCompact y _ => y.isCompactInt
  | .vxorCompact y _ => y.isCompactInt
  | .vshlCompact y _ => y.isCompactInt
  | .vshrCompact y _ => y.isCompactInt
  | .vceqCompact y _ => y.isCompactInt
  | .faddCompact y _ => y.isFloat
  | .fsubCompact y _ => y.isFloat
  | .fmulCompact y _ => y.isFloat
  | .fminCompact y _ => y.isFloat
  | .fmaxCompact y _ => y.isFloat
  | .ld _ _ _ _ _ => true
  | .st _ _ _ _ => true
  | .ldd _ _ _ _ _ => true
  | .take _ _ _ _ => true
  | .look _ _ _ _ => true
  | .give _ _ _ => true
  | .amend _ _ _ => true
  | .post _ _ _ => true
  | .void _ _ _ => true
  | .febit _ _ _ _ => true
  | .aadd _ _ _ _ _ => true
  | .aand _ _ _ _ _ => true
  | .aor _ _ _ _ _ => true
  | .axor _ _ _ _ _ => true
  | .amins _ _ _ _ _ => true
  | .amaxs _ _ _ _ _ => true
  | .aminn _ _ _ _ _ => true
  | .amaxn _ _ _ _ _ => true
  | .aswp _ _ _ _ _ => true
  | .acas _ _ _ _ => true
  | .fenceCore _ _ => true
  | .fenceBasin _ _ => true
  | .fenceSys _ _ => true
  | .ldacqCore _ _ _ _ => true
  | .ldacqBasin _ _ _ _ => true
  | .ldacqSys _ _ _ _ => true
  | .strelCore _ _ _ => true
  | .strelBasin _ _ _ => true
  | .strelSys _ _ _ => true
  | .probe _ _ _ => true
  | .mls _ _ => true
  | .mlsc _ _ v => decide (v.toNat ≤ 1)
  | .mswap _ _ => true
  | .mstream _ _ => true
  | .mstreama _ _ => true
  | .mzero _ _ v => decide (v.toNat ≤ 1)
  | .mdrain _ _ => true
  | .mdrainn _ _ => true
  | .mtask _ _ => true
  | .mstat _ _ _ => true
  | .cpy1 _ _ v => decide (v.toNat ≤ 1)
  | .cpy2 _ _ v => decide (v.toNat ≤ 1)
  | .gath _ _ v => decide (v.toNat ≤ 1)
  | .scat _ _ v => decide (v.toNat ≤ 1)
  | .fill _ _ v => decide (v.toNat ≤ 2)
  | .cpycv _ _ v => decide (v.toNat ≤ 1)
  | .cpymc _ _ v => decide (v.toNat ≤ 1)
  | .culv _ _ v => decide (v.toNat ≤ 1)
  | .pghand _ _ v => decide (v.toNat ≤ 1)
  | .ctask _ _ => true
  | .twany _ _ _ => true
  | .twall _ _ _ => true
  | .tffr _ _ _ => true
  | .cstat _ _ _ => true
  | .hbind _ _ v => decide (v.toNat ≤ 1)
  | .hbund _ _ v => decide (v.toNat ≤ 1)
  | .hperm _ _ => true
  | .hthr _ _ v => decide (v.toNat ≤ 1)
  | .hld _ _ => true
  | .hst _ _ => true
  | .hclr _ _ v => decide (v.toNat ≤ 1)
  | .hphase _ _ => true
  | .hbndld _ _ => true
  | .hbndst _ _ => true
  | .hmove _ _ v => decide (v.toNat ≤ 1)
  | .hdist _ _ v _ => decide (v.toNat ≤ 1)
  | .hnear _ _ _ => true
  | .hneark _ _ _ => true
  | .hpopc _ _ v _ => decide (v.toNat ≤ 1)
  | .qsend _ _ => true
  | .qsendv _ _ => true
  | .qrecv _ _ _ => true
  | .qrecvd _ _ _ => true
  | .qpoll _ _ _ => true
  | .qstat _ _ _ => true
  | .wbar _ _ _ => true
  | .warr _ _ => true
  | .wwait _ _ _ => true
  | .wtime _ _ _ => true
  | .wsleep _ _ v _ => decide (v.toNat ≤ 1)
  | .wstat _ _ _ => true
  | .wcfg _ _ => true
  | .wstep _ _ => true
  | .launch _ _ => true
  | .dpush _ _ => true
  | .dpop _ _ _ => true
  | .joinad _ _ v => decide (v.toNat ≤ 1)
  | .joinw _ _ _ => true
  | .spawn _ _ => true
  | .dstat _ _ _ => true
  | .dweight _ _ => true
  | .freeze _ => true
  | .thaw _ => true
  | .ackf _ => true
  | .stopt _ => true
  | .startt _ => true
  | .tlbinv _ => true
  | .swapout _ => true
  | .swapin _ => true
  | .rdctx _ t u => distinctTargets t u
  | .wrctx => true
  | .migr _ => true
  | .idle _ t u => distinctTargets t u
  | .blockLookup c s => decide (c < 7744) && decide (s < 8)
  | .blockMissFill c s => decide (c < 7744) && decide (s < 8)
  | .alignHoldTimeout c s => decide (c < 7744) && decide (s < 8)
  | .blockCommit c s => decide (c < 7744) && decide (s < 8)
  | .performingResult _ => true
  | .fillArrival _ => true
  | .waitLimitExpiry c s => decide (c < 7744) && decide (s < 8)
  | .withdrawal _ => true
  | .tlbMissRequest c s ix => decide (c < 7744) && decide (s < 8) && decide (ix < 64)
  | .pageWalk c s ix => decide (c < 7744) && decide (s < 8) && decide (ix < 64)
  | .homeAccess _ => true
  | .waitlistResend _ => true
  | .ownershipRequest _ => true
  | .patrolScrub _ => true
  | .interleaveDescriptorWrite b _ _ => decide (b < 4)
  | .mChipletStateWrite n _ => decide (n < 484)
  | .combinedRead _ _ => true
  | .matrixIntakeArrival c => decide (c < 7744)
  | .matrixCommandStart c => decide (c < 7744)
  | .matrixCommandComplete c _ => decide (c < 7744)
  | .matrixTaskTake b d _ c => decide (b < 4) && decide (d < 256) && decide (c < 7744)
  | .matrixTaskStart c => decide (c < 7744)
  | .matrixRetry c => decide (c < 7744)
  | .matrixSkip c => decide (c < 7744)
  | .matrixFlush c => decide (c < 7744)
  | .engineSave c => decide (c < 7744)
  | .copyIntakeArrival c => decide (c < 7744)
  | .copyCommandStart c => decide (c < 7744)
  | .copyLineWrite c _ => decide (c < 7744)
  | .copyCommandComplete c _ => decide (c < 7744)
  | .copyTaskAccept b d _ c => decide (b < 4) && decide (d < 256) && decide (c < 7744)
  | .culvertDataAck c _ => decide (c < 7744)
  | .pghandFlagAck c _ => decide (c < 7744)
  | .culvertLimitExpiry c _ => decide (c < 7744)
  | .copyFclr c => decide (c < 7744)
  | .tagWaitDeliver c s ix => decide (c < 7744) && decide (s < 8) && decide (ix < 64)
  | .hvIntakeArrival c => decide (c < 7744)
  | .hvCommandStart c => decide (c < 7744)
  | .hvCommandComplete c => decide (c < 7744)
  | .queueMessageArrival _ => true
  | .queueReservationGrant c q => decide (c < 7744) && decide (q < 8)
  | .queueRefusal _ => true
  | .deliveryAck _ => true
  | .undeliverableReturn _ => true
  | .sumpSpill n _ => decide (n < 484)
  | .sumpDrain n => decide (n < 484)
  | .nstWrite n _ _ => decide (n < 484)
  | .markerAck n => decide (n < 484)
  | .queueEnWrite c q _ => decide (c < 7744) && decide (q < 8)
  | .queueDisc c q => decide (c < 7744) && decide (q < 8)
  | .queueReset c q => decide (c < 7744) && decide (q < 8)
  | .stepRequest _ => true
  | .clockStsWrite b _ => decide (b < 4)
  | .frequencyStep b => decide (b < 4)
  | .relockEnd b => decide (b < 4)
  | .barrierCellWrite b _ _ => decide (b < 4)
  | .barrierArrival _ => true
  | .moduleCompletionReport _ => true
  | .waiterWake c s => decide (c < 7744) && decide (s < 8)
  | .sleepDeadline c s ix => decide (c < 7744) && decide (s < 8) && decide (ix < 64)
  | .coreGate c => decide (c < 7744)
  | .ditchDescriptorWrite b d _ _ => decide (b < 4) && decide (d < 256)
  | .ditchRst b d => decide (b < 4) && decide (d < 256)
  | .addseg b _ => decide (b < 4)
  | .addimg b _ => decide (b < 4)
  | .addsave b _ => decide (b < 4)
  | .sluiceHoldWrite b _ => decide (b < 4)
  | .regionWrite b _ _ => decide (b < 4)
  | .ditchAppend _ => true
  | .appendWaitResume b d => decide (b < 4) && decide (d < 256)
  | .launchExpansion b => decide (b < 4)
  | .dependantSignal b => decide (b < 4)
  | .placementPass b => decide (b < 4)
  | .shareBoundary b => decide (b < 4)
  | .suspensionComplete c s => decide (c < 7744) && decide (s < 8)
  | .rpubWrite b _ => decide (b < 4)
  | .generationAdopt c => decide (c < 8676)
  | .faultPacketArrival _ => true
  | .idleDeliver c s ix => decide (c < 7744) && decide (s < 8) && decide (ix < 64)
  | .supervisorCommandArrival _ => true
  | .slotStopw c s => decide (c < 7744) && decide (s < 8)
  | .slotStartw c s => decide (c < 7744) && decide (s < 8)
  | .slotFrzw c s => decide (c < 7744) && decide (s < 8)
  | .slotFrzClear c s => decide (c < 7744) && decide (s < 8)
  | .slotAckClear c s => decide (c < 7744) && decide (s < 8)
  | .contextMirrorWrite c s _ _ => decide (c < 7744) && decide (s < 8)
  | .sumpWindowWrite n _ _ => decide (n < 484)
  | .swapoutComplete c => decide (c < 7744)
  | .migrArrival _ => true
  | .migrationQuiesce c => decide (c < 7744)
  | .migrationSave c => decide (c < 7744)
  | .migrationCopy c => decide (c < 7744)
  | .migrationRestore c => decide (c < 7744)
  | .rdirClear c => decide (c < 7744)
  | .powerGood => true
  | .phase0End b => decide (b < 4)
  | .wavefrontSlotStart _ => true
  | .offerWindowClose n => decide (n < 484)
  | .clockLock n => decide (n < 484)
  | .siteConfigured n => decide (n < 484)
  | .memoryClearDone n => decide (n < 484)
  | .seamPass => true
  | .tablesPhase b => decide (b < 4)
  | .coresRelease b => decide (b < 4)
  | .cfgacc n _ _ _ => decide (n < 484)
  | .leatFrameReceive n _ => decide (n < 484)
  | .leatWrite n _ => decide (n < 484)
  | .leatRead n _ => decide (n < 484)
  | .leatDitchw n _ => decide (n < 484)
  | .leatLaunch n _ => decide (n < 484)
  | .mgmtStatus n _ => decide (n < 484)
  | .mgmtAttest n _ => decide (n < 484)
  | .mgmtIdent n _ => decide (n < 484)
  | .mgmtFwchunk n _ => decide (n < 484)
  | .mgmtFwcommit n _ => decide (n < 484)
  | .mgmtRestart n _ => decide (n < 484)
  | .restartComplete => true
  | .hostComplArrival n _ => decide (n < 484)
  | .hostWriteRetransmit n _ => decide (n < 484)
  | .linkFlitReceive n _ => decide (n < 128)
  | .linkNakReceive n _ => decide (n < 128)
  | .linkAckReceive n _ => decide (n < 128)
  | .keySlotWrite n _ _ => decide (n < 128)
  | .txksWrite n _ => decide (n < 128)
  | .wreqWrite n _ => decide (n < 128)
  | .widthChange n => decide (n < 128)
  | .laneLockLoss n => decide (n < 128)
  | .portEnWrite n _ => decide (n < 128)
  | .powerWindow _ => true
  | .marginSample b _ => decide (b < 4)
  | .traceSessionWrite b n _ _ => decide (b < 4) && decide (n < 4)
  | .replayGo c => decide (c < 7744)
  | .configWrite n _ _ => decide (n < 484)
  | .basinClockEdge b => decide (b < 4)
  | .softError _ _ => true
  | .leatLinkChange n _ => decide (n < 484)
  | .linkTrainingDone n _ _ => decide (n < 128)

end Sys2Proof
end

