-- ==== Sys2Proof/Decode.lean ====
section
/-! DEFINITION. Decoding and encoding of instructions and blocks (spec/02_encoding.md R48 to R69): the decoder first,
then the encoder, then the shape of each form (signature, store mask, exits) and the checks of a whole block. -/

namespace Sys2Proof

/-- The decode causes of Table 2-14. -/
inductive DecodeCause where
  | mark | headerReserved | framing | major | value | mustBeZero | predicate | target | immediate | privileged
  | smask | writes | exits | untargeted
  deriving DecidableEq, Repr

/-- The code of a decode cause (Table 2-14). -/
def DecodeCause.code : DecodeCause → Nat
  | .mark => 0x01 | .headerReserved => 0x02 | .framing => 0x03 | .major => 0x04 | .value => 0x05 | .mustBeZero => 0x06
  | .predicate => 0x07 | .target => 0x08 | .immediate => 0x09 | .privileged => 0x0A | .smask => 0x0B | .writes => 0x0C
  | .exits => 0x0D | .untargeted => 0x0E

/-! ### Codes of fields -/

/-- The lane type of a type code (Table 2-5). -/
def LaneTy.ofCode : Nat → Option LaneTy
  | 0 => some .s8 | 1 => some .s16 | 2 => some .s32 | 3 => some .s64 | 4 => some .n8 | 5 => some .n16 | 6 => some .n32
  | 7 => some .n64 | 8 => some .f16 | 9 => some .bf16 | 10 => some .f32 | _ => none

/-- The type code of a lane type (Table 2-5). -/
def LaneTy.code : LaneTy → Nat
  | .s8 => 0 | .s16 => 1 | .s32 => 2 | .s64 => 3 | .n8 => 4 | .n16 => 5 | .n32 => 6 | .n64 => 7 | .f16 => 8 | .bf16 => 9
  | .f32 => 10

/-- The two-bit float code of R63: 00 f16, 01 bf16, 10 f32. -/
def floatOfCode2 : Nat → Option LaneTy
  | 0 => some .f16 | 1 => some .bf16 | 2 => some .f32 | _ => none

/-- The two-bit code of a float type (R63); other types have none and are given 3. -/
def floatCode2 : LaneTy → Nat
  | .f16 => 0 | .bf16 => 1 | .f32 => 2 | _ => 3

/-- The compact type of a 3-bit code (R61). -/
def compactOfCode : Nat → Option LaneTy
  | 0 => some .s8 | 1 => some .s16 | 2 => some .s32 | 3 => some .s64 | 4 => some .n32 | 5 => some .f16 | 6 => some .bf16
  | 7 => some .f32 | _ => none

/-- The 3-bit compact code of a type (R61); a type without one is given 8. -/
def compactCode : LaneTy → Nat
  | .s8 => 0 | .s16 => 1 | .s32 => 2 | .s64 => 3 | .n32 => 4 | .f16 => 5 | .bf16 => 6 | .f32 => 7 | _ => 8

/-- The matrix format of a code (Table 2-6). -/
def MFmt.ofCode : Nat → Option MFmt
  | 0 => some .f32 | 1 => some .bf16 | 2 => some .f16 | 3 => some .e4m3 | 4 => some .e5m2 | 5 => some .c8
  | 6 => some .e3m2 | 7 => some .e2m3 | 8 => some .e2m1 | 9 => some .s8 | 10 => some .s4 | 11 => some .b1 | _ => none

/-- The code of a matrix format (Table 2-6). -/
def MFmt.code : MFmt → Nat
  | .f32 => 0 | .bf16 => 1 | .f16 => 2 | .e4m3 => 3 | .e5m2 => 4 | .c8 => 5 | .e3m2 => 6 | .e2m3 => 7 | .e2m1 => 8
  | .s8 => 9 | .s4 => 10 | .b1 => 11

/-- fn4 of LD and LDD (Table 2-10). -/
def LdSize.ofCode : Nat → Option LdSize
  | 0 => some .n8 | 1 => some .n16 | 2 => some .n32 | 3 => some .n64 | 4 => some .s8 | 5 => some .s16 | 6 => some .s32
  | 7 => some .q | _ => none

/-- The fn4 code of an LD size (Table 2-10). -/
def LdSize.code : LdSize → Nat
  | .n8 => 0 | .n16 => 1 | .n32 => 2 | .n64 => 3 | .s8 => 4 | .s16 => 5 | .s32 => 6 | .q => 7

/-- fn4 of ST (Table 2-10). -/
def StSize.ofCode : Nat → Option StSize
  | 0 => some .n8 | 1 => some .n16 | 2 => some .n32 | 3 => some .n64 | 4 => some .q | _ => none

/-- The fn4 code of an ST size (Table 2-10). -/
def StSize.code : StSize → Nat
  | .n8 => 0 | .n16 => 1 | .n32 => 2 | .n64 => 3 | .q => 4

/-- The ordering of an atomic by its major, 0x64 to 0x67 (Table 2-10). -/
def Order.ofMajor : Nat → Order
  | 0x65 => .acq | 0x66 => .rel | 0x67 => .ar | _ => .relaxed

/-- The major opcode of an atomic's ordering (Table 2-10). -/
def Order.major : Order → Nat
  | .relaxed => 0x64 | .acq => 0x65 | .rel => 0x66 | .ar => 0x67

/-- A target byte (R55): 0x00 is no target, slot 00 with a nonzero index is illegal. -/
def Target.ofByte (b : Nat) : Except DecodeCause (Option Target) :=
  match b / 64 with
  | 0 => if b = 0 then .ok none else .error .target
  | 1 => .ok (some ⟨.l, BitVec.ofNat 6 b⟩)
  | 2 => .ok (some ⟨.r, BitVec.ofNat 6 b⟩)
  | _ => .ok (some ⟨.p, BitVec.ofNat 6 b⟩)

/-- The byte of a target (R55). -/
def Target.toByte : Option Target → Nat
  | none => 0
  | some ⟨.l, i⟩ => 64 + i.toNat
  | some ⟨.r, i⟩ => 128 + i.toNat
  | some ⟨.p, i⟩ => 192 + i.toNat

/-- The predicate mode of its two bits (R57). -/
def Pred.ofBits : Nat → Except DecodeCause Pred
  | 0 => .ok .always | 1 => .ok .onTrue | 2 => .ok .onFalse | _ => .error .predicate

/-- The two bits of a predicate mode (R57). -/
def Pred.bits : Pred → Nat
  | .always => 0 | .onTrue => 1 | .onFalse => 2

/-! ### Formats (Table 2-3) -/

/-- The fields that every 32-bit format shares: the predicate bits, the major opcode and the 22 bits above it. -/
structure Raw where
  pm : Nat
  major : Nat
  body : Nat
  deriving DecidableEq, Repr

/-- The fields of a 32-bit word. -/
def unpack (w : Nat) : Raw := ⟨w / 2 % 4, w / 8 % 128, w / 1024 % 4194304⟩

/-- The word of its fields. -/
def pack (r : Raw) : Nat := 1 + 2 * r.pm + 8 * r.major + 1024 * r.body

/-- G and Q format bodies: fn or register number, t0, t1. -/
def bodyG (fn t0 t1 : Nat) : Nat := fn + 64 * t0 + 16384 * t1

/-- I format body: t0, imm14. -/
def bodyI (t0 imm : Nat) : Nat := t0 + 256 * imm

/-- M format body: LSID, fn4, t0, off6. -/
def bodyM (n fn t0 off : Nat) : Nat := n + 16 * fn + 256 * t0 + 65536 * off

/-- X format body: exit id, off19. -/
def bodyX (x off : Nat) : Nat := x + 8 * off

/-- E format body: LSID, fn6, t0, variant. -/
def bodyE (n fn t0 v : Nat) : Nat := n + 16 * fn + 1024 * t0 + 262144 * v

/-- A must-be-zero condition, cause 0x06 (R54). -/
def mbz (b : Bool) : Except DecodeCause Unit := if b then .ok () else .error .mustBeZero

/-- Cause 0x05 unless the value is assigned. -/
def assigned {α : Type} : Option α → Except DecodeCause α
  | some a => .ok a
  | none => .error .value

/-- Cause 0x05 unless the form accepts the value. -/
def accepted (b : Bool) : Except DecodeCause Unit := if b then .ok () else .error .value

/-- Predicate mode 00 where R57 requires it. -/
def unpredicated (pm : Nat) : Except DecodeCause Unit := if pm = 0 then .ok () else .error .predicate

/-- Both targets of a form, with the equality rule of R55. -/
def targets2 (t0 t1 : Nat) : Except DecodeCause (Option Target × Option Target) := do
  let t ← Target.ofByte t0
  let u ← Target.ofByte t1
  if distinctTargets t u then .ok (t, u) else .error .target

/-! Shapes of forms: each takes the constructor and the fields, and makes the checks in the order of Table 2-14. -/

/-- A G form with predicate and two targets. -/
def shapeG (k : Pred → Option Target → Option Target → Instr) (pm t0 t1 : Nat) : Except DecodeCause Instr := do
  let p ← Pred.ofBits pm
  let (t, u) ← targets2 t0 t1
  .ok (k p t u)

/-- A three-operand G form: predicate mode 00, two targets. -/
def shapeG3 (k : Option Target → Option Target → Instr) (pm t0 t1 : Nat) : Except DecodeCause Instr := do
  unpredicated pm
  let (t, u) ← targets2 t0 t1
  .ok (k t u)

/-- A G form without a token: t0 and t1 zero (R54, R64). -/
def shapeG0 (k : Pred → Instr) (pm t0 t1 : Nat) : Except DecodeCause Instr := do
  mbz (t0 == 0 && t1 == 0)
  let p ← Pred.ofBits pm
  .ok (k p)

/-- A G form without a token and with predicate mode 00. -/
def shapeG00 (k : Instr) (pm t0 t1 : Nat) : Except DecodeCause Instr := do
  mbz (t0 == 0 && t1 == 0)
  unpredicated pm
  .ok k

/-- A typed lane form: the type must be accepted, then as shapeG. -/
def shapeV (ok : LaneTy → Bool) (k : Pred → LaneTy → Option Target → Option Target → Instr) (pm ty t0 t1 : Nat) :
    Except DecodeCause Instr := do
  let y ← assigned (LaneTy.ofCode ty)
  accepted (ok y)
  shapeG (fun p => k p y) pm t0 t1

/-- A typed three-operand lane form. -/
def shapeV3 (ok : LaneTy → Bool) (k : LaneTy → Option Target → Option Target → Instr) (pm ty t0 t1 : Nat) :
    Except DecodeCause Instr := do
  let y ← assigned (LaneTy.ofCode ty)
  accepted (ok y)
  shapeG3 (k y) pm t0 t1

/-- An I form. -/
def shapeI (k : Pred → BitVec 14 → Option Target → Instr) (pm body : Nat) : Except DecodeCause Instr := do
  let p ← Pred.ofBits pm
  let t ← Target.ofByte (body % 256)
  .ok (k p (BitVec.ofNat 14 (body / 256)) t)

/-- A shift-immediate form: the immediate lies in 0 to 63 (R53). -/
def shapeShift (k : Pred → BitVec 14 → Option Target → Instr) (pm body : Nat) : Except DecodeCause Instr := do
  let p ← Pred.ofBits pm
  let t ← Target.ofByte (body % 256)
  if body / 256 ≤ 63 then .ok (k p (BitVec.ofNat 14 (body / 256)) t) else .error .immediate

/-- An X form with an offset. -/
def shapeX (k : Pred → BitVec 3 → BitVec 19 → Instr) (pm body : Nat) : Except DecodeCause Instr := do
  let p ← Pred.ofBits pm
  .ok (k p (BitVec.ofNat 3 body) (BitVec.ofNat 19 (body / 8)))

/-- An X form whose offset must be zero (R53). -/
def shapeX0 (k : Pred → BitVec 3 → Instr) (pm body : Nat) : Except DecodeCause Instr := do
  mbz (body / 8 == 0)
  let p ← Pred.ofBits pm
  .ok (k p (BitVec.ofNat 3 body))

/-- A Q form that reads: predicate mode 00, two targets. -/
def shapeQ (ok : BitVec 6 → Bool) (k : BitVec 6 → Option Target → Option Target → Instr) (pm body : Nat) :
    Except DecodeCause Instr := do
  accepted (ok (BitVec.ofNat 6 body))
  unpredicated pm
  let (t, u) ← targets2 (body / 64 % 256) (body / 16384)
  .ok (k (BitVec.ofNat 6 body) t u)

/-- A Q form that writes: no targets, predicate mode 00. -/
def shapeQ0 (ok : BitVec 6 → Bool) (k : BitVec 6 → Instr) (pm body : Nat) : Except DecodeCause Instr := do
  accepted (ok (BitVec.ofNat 6 body))
  mbz (body / 64 == 0)
  unpredicated pm
  .ok (k (BitVec.ofNat 6 body))

/-- An M form that delivers a token. -/
def shapeMT (k : Pred → BitVec 4 → BitVec 6 → Option Target → Instr) (pm n t0 off : Nat) : Except DecodeCause Instr := do
  let p ← Pred.ofBits pm
  let t ← Target.ofByte t0
  .ok (k p (BitVec.ofNat 4 n) (BitVec.ofNat 6 off) t)

/-- An M form that delivers no token (t0 zero). -/
def shapeM0 (k : Pred → BitVec 4 → BitVec 6 → Instr) (pm n t0 off : Nat) : Except DecodeCause Instr := do
  mbz (t0 == 0)
  let p ← Pred.ofBits pm
  .ok (k p (BitVec.ofNat 4 n) (BitVec.ofNat 6 off))

/-- FENCE: no token, no offset. -/
def shapeMF (k : Pred → BitVec 4 → Instr) (pm n t0 off : Nat) : Except DecodeCause Instr := do
  mbz (t0 == 0 && off == 0)
  let p ← Pred.ofBits pm
  .ok (k p (BitVec.ofNat 4 n))

/-- PROBE: a token, no offset. -/
def shapeMP (k : Pred → BitVec 4 → Option Target → Instr) (pm n t0 off : Nat) : Except DecodeCause Instr := do
  mbz (off == 0)
  let p ← Pred.ofBits pm
  let t ← Target.ofByte t0
  .ok (k p (BitVec.ofNat 4 n) t)

/-- LDD: a fill form, whose t0[7:6] must be zero (R58). -/
def shapeMFill (k : Pred → BitVec 4 → BitVec 6 → BitVec 6 → Instr) (pm n t0 off : Nat) : Except DecodeCause Instr := do
  mbz (t0 / 64 == 0)
  let p ← Pred.ofBits pm
  .ok (k p (BitVec.ofNat 4 n) (BitVec.ofNat 6 t0) (BitVec.ofNat 6 off))

/-- An E form without token whose variants run from 0 to vmax (R64, R65). -/
def shapeE0 (vmax : Nat) (k : Pred → BitVec 4 → BitVec 4 → Instr) (pm n t0 v : Nat) : Except DecodeCause Instr := do
  accepted (decide (v ≤ vmax))
  mbz (t0 == 0)
  let p ← Pred.ofBits pm
  .ok (k p (BitVec.ofNat 4 n) (BitVec.ofNat 4 v))

/-- An E form that the chapter gives no variants: a nonzero variant field is cause 0x06 (R54, R65; log entry 71). -/
def shapeE (k : Pred → BitVec 4 → Instr) (pm n t0 v : Nat) : Except DecodeCause Instr := do
  mbz (v == 0 && t0 == 0)
  let p ← Pred.ofBits pm
  .ok (k p (BitVec.ofNat 4 n))

/-- An E form that delivers a token, without variants. -/
def shapeET (k : Pred → BitVec 4 → Option Target → Instr) (pm n t0 v : Nat) : Except DecodeCause Instr := do
  mbz (v == 0)
  let p ← Pred.ofBits pm
  let t ← Target.ofByte t0
  .ok (k p (BitVec.ofNat 4 n) t)

/-- An E form that delivers a token, with variants 0 to vmax. -/
def shapeETV (vmax : Nat) (k : Pred → BitVec 4 → BitVec 4 → Option Target → Instr) (pm n t0 v : Nat) :
    Except DecodeCause Instr := do
  accepted (decide (v ≤ vmax))
  let p ← Pred.ofBits pm
  let t ← Target.ofByte t0
  .ok (k p (BitVec.ofNat 4 n) (BitVec.ofNat 4 v) t)

/-- A fill E form without variants. -/
def shapeEF (k : Pred → BitVec 4 → BitVec 6 → Instr) (pm n t0 v : Nat) : Except DecodeCause Instr := do
  mbz (v == 0 && t0 / 64 == 0)
  let p ← Pred.ofBits pm
  .ok (k p (BitVec.ofNat 4 n) (BitVec.ofNat 6 t0))

/-- A fill E form with variants 0 to vmax. -/
def shapeEFV (vmax : Nat) (k : Pred → BitVec 4 → BitVec 4 → BitVec 6 → Instr) (pm n t0 v : Nat) :
    Except DecodeCause Instr := do
  accepted (decide (v ≤ vmax))
  mbz (t0 / 64 == 0)
  let p ← Pred.ofBits pm
  .ok (k p (BitVec.ofNat 4 n) (BitVec.ofNat 4 v) (BitVec.ofNat 6 t0))

/-- A C form: the compact type must be paired with the opcode (R61), then the target. -/
def shapeC (ok : LaneTy → Bool) (k : LaneTy → Option Target → Instr) (ty t0 : Nat) : Except DecodeCause Instr := do
  let y ← assigned (compactOfCode ty)
  accepted (ok y)
  let t ← Target.ofByte t0
  .ok (k y t)

/-! ### The opcode map (Tables 2-7 to 2-12) -/

/-- Scalar and supervisor G forms by fn (majors 0x0D, 0x10 to 0x13, 0x7E). -/
def decodeG (major fn pm t0 t1 : Nat) : Except DecodeCause Instr :=
  match major, fn with
  | 0x0D, 0 => shapeG0 .null pm t0 t1
  | 0x0D, 1 => shapeG .mov pm t0 t1
  | 0x0D, 2 => shapeG00 .align pm t0 t1
  | 0x10, 0 => shapeG .add pm t0 t1
  | 0x10, 1 => shapeG .sub pm t0 t1
  | 0x10, 2 => shapeG .mul pm t0 t1
  | 0x10, 3 => shapeG .mulhs pm t0 t1
  | 0x10, 4 => shapeG .mulhn pm t0 t1
  | 0x10, 5 => shapeG .divs pm t0 t1
  | 0x10, 6 => shapeG .divn pm t0 t1
  | 0x10, 7 => shapeG .rems pm t0 t1
  | 0x10, 8 => shapeG .remn pm t0 t1
  | 0x10, 9 => shapeG .mins pm t0 t1
  | 0x10, 10 => shapeG .minn pm t0 t1
  | 0x10, 11 => shapeG .maxs pm t0 t1
  | 0x10, 12 => shapeG .maxn pm t0 t1
  | 0x10, 13 => shapeG .neg pm t0 t1
  | 0x10, 14 => shapeG .abs pm t0 t1
  | 0x11, 0 => shapeG .and pm t0 t1
  | 0x11, 1 => shapeG .or pm t0 t1
  | 0x11, 2 => shapeG .xor pm t0 t1
  | 0x11, 3 => shapeG .andn pm t0 t1
  | 0x11, 4 => shapeG .shl pm t0 t1
  | 0x11, 5 => shapeG .shrn pm t0 t1
  | 0x11, 6 => shapeG .shrs pm t0 t1
  | 0x11, 7 => shapeG .rotl pm t0 t1
  | 0x11, 8 => shapeG .not pm t0 t1
  | 0x11, 9 => shapeG .popc pm t0 t1
  | 0x11, 10 => shapeG .clz pm t0 t1
  | 0x11, 11 => shapeG .ctz pm t0 t1
  | 0x12, 0 => shapeG .ceq pm t0 t1
  | 0x12, 1 => shapeG .cne pm t0 t1
  | 0x12, 2 => shapeG .clts pm t0 t1
  | 0x12, 3 => shapeG .cles pm t0 t1
  | 0x12, 4 => shapeG .cltn pm t0 t1
  | 0x12, 5 => shapeG .clen pm t0 t1
  | 0x13, 0 => shapeG3 .sel pm t0 t1
  | 0x13, 1 => shapeG .exts8 pm t0 t1
  | 0x13, 2 => shapeG .exts16 pm t0 t1
  | 0x13, 3 => shapeG .exts32 pm t0 t1
  | 0x13, 4 => shapeG .extn8 pm t0 t1
  | 0x13, 5 => shapeG .extn16 pm t0 t1
  | 0x13, 6 => shapeG .extn32 pm t0 t1
  | 0x7E, 0 => shapeG0 .freeze pm t0 t1
  | 0x7E, 1 => shapeG0 .thaw pm t0 t1
  | 0x7E, 2 => shapeG0 .ackf pm t0 t1
  | 0x7E, 3 => shapeG0 .stopt pm t0 t1
  | 0x7E, 4 => shapeG0 .startt pm t0 t1
  | 0x7E, 5 => shapeG0 .tlbinv pm t0 t1
  | 0x7E, 6 => shapeG0 .swapout pm t0 t1
  | 0x7E, 7 => shapeG0 .swapin pm t0 t1
  | 0x7E, 8 => shapeG .rdctx pm t0 t1
  | 0x7E, 9 => shapeG00 .wrctx pm t0 t1
  | 0x7E, 10 => shapeG0 .migr pm t0 t1
  | 0x7E, 11 => shapeG .idle pm t0 t1
  | _, _ => .error .value

/-- Lane G forms by sub-operation (majors 0x30 to 0x37 and 0x50 to 0x55). -/
def decodeV (major sub ty pm t0 t1 : Nat) : Except DecodeCause Instr :=
  match major, sub with
  | 0x30, 0 => shapeV LaneTy.isInt .vadd pm ty t0 t1
  | 0x30, 1 => shapeV LaneTy.isInt .vsub pm ty t0 t1
  | 0x30, 2 => shapeV LaneTy.isInt .vadds pm ty t0 t1
  | 0x30, 3 => shapeV LaneTy.isInt .vsubs pm ty t0 t1
  | 0x31, 0 => shapeV LaneTy.isInt .vmul pm ty t0 t1
  | 0x31, 1 => shapeV LaneTy.isInt .vmulh pm ty t0 t1
  | 0x31, 2 => shapeV LaneTy.isInt .vmin pm ty t0 t1
  | 0x31, 3 => shapeV LaneTy.isInt .vmax pm ty t0 t1
  | 0x32, 0 => shapeV LaneTy.isInt .vand pm ty t0 t1
  | 0x32, 1 => shapeV LaneTy.isInt .vor pm ty t0 t1
  | 0x32, 2 => shapeV LaneTy.isInt .vxor pm ty t0 t1
  | 0x32, 3 => shapeV LaneTy.isInt .vandn pm ty t0 t1
  | 0x33, 0 => shapeV LaneTy.isInt .vshl pm ty t0 t1
  | 0x33, 1 => shapeV LaneTy.isInt .vshr pm ty t0 t1
  | 0x33, 2 => shapeV LaneTy.isInt .vrotl pm ty t0 t1
  | 0x33, 3 => shapeV LaneTy.isInt .vnot pm ty t0 t1
  | 0x34, 0 => shapeV LaneTy.isInt .vceq pm ty t0 t1
  | 0x34, 1 => shapeV LaneTy.isInt .vcne pm ty t0 t1
  | 0x34, 2 => shapeV LaneTy.isInt .vclt pm ty t0 t1
  | 0x34, 3 => shapeV LaneTy.isInt .vcle pm ty t0 t1
  | 0x35, 0 => shapeV LaneTy.isInt .vsplat pm ty t0 t1
  | 0x35, 1 => shapeV LaneTy.isInt .vextr pm ty t0 t1
  | 0x35, 2 => shapeV LaneTy.isInt .vperm pm ty t0 t1
  | 0x35, 3 => shapeV3 LaneTy.isInt .vsel pm ty t0 t1
  | 0x36, 0 => shapeV LaneTy.isInt .vredadd pm ty t0 t1
  | 0x36, 1 => shapeV LaneTy.isInt .vredmin pm ty t0 t1
  | 0x36, 2 => shapeV LaneTy.isInt .vredmax pm ty t0 t1
  | 0x36, 3 => shapeV LaneTy.isSigned .vabs pm ty t0 t1
  | 0x37, 0 => shapeV LaneTy.canWiden .vwidenlo pm ty t0 t1
  | 0x37, 1 => shapeV LaneTy.canWiden .vwidenhi pm ty t0 t1
  | 0x37, 2 => shapeV LaneTy.canNarrow .vnarrow pm ty t0 t1
  | 0x37, 3 => shapeV LaneTy.canNarrow .vnarrows pm ty t0 t1
  | 0x50, 0 => shapeV LaneTy.isFloat .fadd pm ty t0 t1
  | 0x50, 1 => shapeV LaneTy.isFloat .fsub pm ty t0 t1
  | 0x50, 2 => shapeV LaneTy.isFloat .fmul pm ty t0 t1
  | 0x50, 3 => shapeV LaneTy.isFloat .fdiv pm ty t0 t1
  | 0x51, 0 => shapeV3 LaneTy.isFloat .fma pm ty t0 t1
  | 0x51, 1 => shapeV3 LaneTy.isFloat .fms pm ty t0 t1
  | 0x51, 2 => shapeV LaneTy.isFloat .fmin pm ty t0 t1
  | 0x51, 3 => shapeV LaneTy.isFloat .fmax pm ty t0 t1
  | 0x52, 0 => shapeV LaneTy.isFloat .fceq pm ty t0 t1
  | 0x52, 1 => shapeV LaneTy.isFloat .fclt pm ty t0 t1
  | 0x52, 2 => shapeV LaneTy.isFloat .fcle pm ty t0 t1
  | 0x52, 3 => shapeV LaneTy.isFloat .fcun pm ty t0 t1
  | 0x53, 0 => shapeV LaneTy.isFloat .fabs pm ty t0 t1
  | 0x53, 1 => shapeV LaneTy.isFloat .fneg pm ty t0 t1
  | 0x53, 2 => shapeV LaneTy.isFloat .fsqrt pm ty t0 t1
  | 0x53, 3 => shapeV LaneTy.isFloat .fredadd pm ty t0 t1
  | 0x54, 0 => shapeV LaneTy.isHalf .exp2 pm ty t0 t1
  | 0x54, 1 => shapeV LaneTy.isHalf .log2 pm ty t0 t1
  | 0x54, 2 => shapeV LaneTy.isHalf .rcp pm ty t0 t1
  | 0x54, 3 => shapeV LaneTy.isHalf .rsq pm ty t0 t1
  | 0x55, 0 => shapeV LaneTy.isHalf .tanh pm ty t0 t1
  | 0x55, 1 => shapeV LaneTy.isFloat .frint pm ty t0 t1
  | _, _ => .error .value

/-- Conversions and scaled forms (majors 0x56 to 0x59, R63). -/
def decodeCvt (major hi lo pm t0 t1 : Nat) : Except DecodeCause Instr :=
  match major with
  | 0x56 => do
    let s ← assigned (floatOfCode2 hi)
    let d ← assigned (LaneTy.ofCode lo)
    accepted (decide (d ≠ s))
    shapeG (fun p => .cvtFloatSource p d s) pm t0 t1
  | 0x57 => do
    let d ← assigned (floatOfCode2 hi)
    let s ← assigned (LaneTy.ofCode lo)
    accepted s.isInt
    shapeG (fun p => .cvtIntegerSource p d s) pm t0 t1
  | 0x58 => do
    let s ← assigned (floatOfCode2 hi)
    let f ← assigned (MFmt.ofCode lo)
    accepted f.isScaledTarget
    shapeG (fun p => .snarrow p f s) pm t0 t1
  | _ => do
    let d ← assigned (floatOfCode2 hi)
    let f ← assigned (MFmt.ofCode lo)
    accepted f.isScaledTarget
    shapeG (fun p => .swiden p d f) pm t0 t1

/-- I forms by major (0x0E, 0x0F, 0x14 to 0x1D). -/
def decodeI (major pm body : Nat) : Except DecodeCause Instr :=
  match major with
  | 0x0E => shapeI .movi pm body
  | 0x0F => shapeI .appi pm body
  | 0x14 => shapeI .addi pm body
  | 0x15 => shapeI .muli pm body
  | 0x16 => shapeI .andi pm body
  | 0x17 => shapeI .ori pm body
  | 0x18 => shapeI .xori pm body
  | 0x19 => shapeShift .shli pm body
  | 0x1A => shapeShift .shrni pm body
  | 0x1B => shapeShift .shrsi pm body
  | 0x1C => shapeI .ceqi pm body
  | 0x1D => shapeI .cltsi pm body
  | _ => .error .major

/-- X and Q forms by major (0x00 to 0x06, 0x08 to 0x0C). -/
def decodeXQ (major pm body : Nat) : Except DecodeCause Instr :=
  match major with
  | 0x00 => shapeX .br pm body
  | 0x01 => shapeX .call pm body
  | 0x02 => shapeX0 .bri pm body
  | 0x03 => shapeX0 .calli pm body
  | 0x04 => shapeX0 .ret pm body
  | 0x05 => shapeX .susp pm body
  | 0x06 => shapeX0 .retire pm body
  | 0x08 => shapeQ (fun _ => true) .read pm body
  | 0x09 => shapeQ (fun _ => true) .readt pm body
  | 0x0A => shapeQ0 (fun _ => true) .write pm body
  | 0x0B => shapeQ ctlReadable .rdc pm body
  | 0x0C => shapeQ0 ctlWritable .wrc pm body
  | _ => .error .major

/-- The atomics (majors 0x64 to 0x67) by fn4. -/
def decodeAtomic (m : Order) (fn pm n t0 off : Nat) : Except DecodeCause Instr :=
  match fn with
  | 0 => shapeMT (fun p => .aadd p m) pm n t0 off
  | 1 => shapeMT (fun p => .aand p m) pm n t0 off
  | 2 => shapeMT (fun p => .aor p m) pm n t0 off
  | 3 => shapeMT (fun p => .axor p m) pm n t0 off
  | 4 => shapeMT (fun p => .amins p m) pm n t0 off
  | 5 => shapeMT (fun p => .amaxs p m) pm n t0 off
  | 6 => shapeMT (fun p => .aminn p m) pm n t0 off
  | 7 => shapeMT (fun p => .amaxn p m) pm n t0 off
  | 8 => shapeMT (fun p => .aswp p m) pm n t0 off
  | 9 => do
    unpredicated pm
    let t ← Target.ofByte t0
    .ok (.acas m (BitVec.ofNat 4 n) (BitVec.ofNat 6 off) t)
  | _ => .error .value

/-- The other M forms (majors 0x60 to 0x63, 0x68, 0x69) by fn4. -/
def decodeM (major fn pm n t0 off : Nat) : Except DecodeCause Instr :=
  match major, fn with
  | 0x60, f => do
    let z ← assigned (LdSize.ofCode f)
    shapeMT (fun p => .ld p z) pm n t0 off
  | 0x61, f => do
    let z ← assigned (StSize.ofCode f)
    shapeM0 (fun p => .st p z) pm n t0 off
  | 0x62, f => do
    let z ← assigned (LdSize.ofCode f)
    shapeMFill (fun p => .ldd p z) pm n t0 off
  | 0x63, 0 => shapeMT .take pm n t0 off
  | 0x63, 1 => shapeMT .look pm n t0 off
  | 0x63, 2 => shapeM0 .give pm n t0 off
  | 0x63, 3 => shapeM0 .amend pm n t0 off
  | 0x63, 4 => shapeM0 .post pm n t0 off
  | 0x63, 5 => shapeM0 .void pm n t0 off
  | 0x63, 6 => shapeMT .febit pm n t0 off
  | 0x68, 0 => shapeMF .fenceCore pm n t0 off
  | 0x68, 1 => shapeMF .fenceBasin pm n t0 off
  | 0x68, 2 => shapeMF .fenceSys pm n t0 off
  | 0x68, 3 => shapeMT .ldacqCore pm n t0 off
  | 0x68, 4 => shapeMT .ldacqBasin pm n t0 off
  | 0x68, 5 => shapeMT .ldacqSys pm n t0 off
  | 0x68, 6 => shapeM0 .strelCore pm n t0 off
  | 0x68, 7 => shapeM0 .strelBasin pm n t0 off
  | 0x68, 8 => shapeM0 .strelSys pm n t0 off
  | 0x69, 0 => shapeMP .probe pm n t0 off
  | _, _ => .error .value

/-- The E forms by fn6 (majors 0x70, 0x74, 0x78, 0x7B to 0x7D). -/
def decodeE (major fn pm n t0 v : Nat) : Except DecodeCause Instr :=
  match major, fn with
  | 0x70, 0 => shapeE .mls pm n t0 v
  | 0x70, 1 => shapeE0 1 .mlsc pm n t0 v
  | 0x70, 2 => shapeE .mswap pm n t0 v
  | 0x70, 3 => shapeE .mstream pm n t0 v
  | 0x70, 4 => shapeE .mstreama pm n t0 v
  | 0x70, 5 => shapeE0 1 .mzero pm n t0 v
  | 0x70, 6 => shapeE .mdrain pm n t0 v
  | 0x70, 7 => shapeE .mdrainn pm n t0 v
  | 0x70, 8 => shapeE .mtask pm n t0 v
  | 0x70, 9 => shapeET .mstat pm n t0 v
  | 0x74, 0 => shapeE0 1 .cpy1 pm n t0 v
  | 0x74, 1 => shapeE0 1 .cpy2 pm n t0 v
  | 0x74, 2 => shapeE0 1 .gath pm n t0 v
  | 0x74, 3 => shapeE0 1 .scat pm n t0 v
  | 0x74, 4 => shapeE0 2 .fill pm n t0 v
  | 0x74, 5 => shapeE0 1 .cpycv pm n t0 v
  | 0x74, 6 => shapeE0 1 .cpymc pm n t0 v
  | 0x74, 7 => shapeE0 1 .culv pm n t0 v
  | 0x74, 8 => shapeE0 1 .pghand pm n t0 v
  | 0x74, 9 => shapeE .ctask pm n t0 v
  | 0x74, 10 => shapeET .twany pm n t0 v
  | 0x74, 11 => shapeET .twall pm n t0 v
  | 0x74, 12 => shapeET .tffr pm n t0 v
  | 0x74, 13 => shapeET .cstat pm n t0 v
  | 0x78, 0 => shapeE0 1 .hbind pm n t0 v
  | 0x78, 1 => shapeE0 1 .hbund pm n t0 v
  | 0x78, 2 => shapeE .hperm pm n t0 v
  | 0x78, 3 => shapeE0 1 .hthr pm n t0 v
  | 0x78, 4 => shapeE .hld pm n t0 v
  | 0x78, 5 => shapeE .hst pm n t0 v
  | 0x78, 6 => shapeE0 1 .hclr pm n t0 v
  | 0x78, 7 => shapeE .hphase pm n t0 v
  | 0x78, 8 => shapeE .hbndld pm n t0 v
  | 0x78, 9 => shapeE .hbndst pm n t0 v
  | 0x78, 10 => shapeE0 1 .hmove pm n t0 v
  | 0x78, 11 => shapeEFV 1 .hdist pm n t0 v
  | 0x78, 12 => shapeEF .hnear pm n t0 v
  | 0x78, 13 => shapeEF .hneark pm n t0 v
  | 0x78, 14 => shapeEFV 1 .hpopc pm n t0 v
  | 0x7B, 0 => shapeE .qsend pm n t0 v
  | 0x7B, 1 => shapeE .qsendv pm n t0 v
  | 0x7B, 2 => shapeET .qrecv pm n t0 v
  | 0x7B, 3 => shapeEF .qrecvd pm n t0 v
  | 0x7B, 4 => shapeET .qpoll pm n t0 v
  | 0x7B, 5 => shapeET .qstat pm n t0 v
  | 0x7C, 0 => shapeET .wbar pm n t0 v
  | 0x7C, 1 => shapeE .warr pm n t0 v
  | 0x7C, 2 => shapeET .wwait pm n t0 v
  | 0x7C, 3 => shapeET .wtime pm n t0 v
  | 0x7C, 4 => shapeETV 1 .wsleep pm n t0 v
  | 0x7C, 5 => shapeET .wstat pm n t0 v
  | 0x7C, 6 => shapeE .wcfg pm n t0 v
  | 0x7C, 7 => shapeE .wstep pm n t0 v
  | 0x7D, 0 => shapeE .launch pm n t0 v
  | 0x7D, 1 => shapeE .dpush pm n t0 v
  | 0x7D, 2 => shapeET .dpop pm n t0 v
  | 0x7D, 3 => shapeE0 1 .joinad pm n t0 v
  | 0x7D, 4 => shapeET .joinw pm n t0 v
  | 0x7D, 5 => shapeE .spawn pm n t0 v
  | 0x7D, 6 => shapeET .dstat pm n t0 v
  | 0x7D, 7 => shapeE .dweight pm n t0 v
  | _, _ => .error .value

/-- The instruction of a 32-bit word, or the decode cause 0x04 to 0x09 of Table 2-14 that comes first. -/
def decode32 (w : Nat) : Except DecodeCause Instr :=
  let r := unpack w
  let m := r.major
  let b := r.body
  if m ≤ 0x06 || (0x08 ≤ m && m ≤ 0x0C) then decodeXQ m r.pm b
  else if m == 0x0D || (0x10 ≤ m && m ≤ 0x13) || m == 0x7E then
    decodeG m (b % 64) r.pm (b / 64 % 256) (b / 16384)
  else if m == 0x0E || m == 0x0F || (0x14 ≤ m && m ≤ 0x1D) then decodeI m r.pm b
  else if (0x30 ≤ m && m ≤ 0x37) || (0x50 ≤ m && m ≤ 0x55) then
    decodeV m (b / 16 % 4) (b % 16) r.pm (b / 64 % 256) (b / 16384)
  else if 0x56 ≤ m && m ≤ 0x59 then decodeCvt m (b / 16 % 4) (b % 16) r.pm (b / 64 % 256) (b / 16384)
  else if 0x64 ≤ m && m ≤ 0x67 then
    decodeAtomic (Order.ofMajor m) (b / 16 % 16) r.pm (b % 16) (b / 256 % 256) (b / 65536)
  else if (0x60 ≤ m && m ≤ 0x63) || m == 0x68 || m == 0x69 then
    decodeM m (b / 16 % 16) r.pm (b % 16) (b / 256 % 256) (b / 65536)
  else if m == 0x70 || m == 0x74 || m == 0x78 || (0x7B ≤ m && m ≤ 0x7D) then
    decodeE m (b / 16 % 64) r.pm (b % 16) (b / 1024 % 256) (b / 262144)
  else .error .major

/-- The instruction of a 16-bit word (R61). -/
def decode16 (w : Nat) : Except DecodeCause Instr :=
  let ty := w / 32 % 8
  let t0 := w / 256 % 256
  match w / 2 % 16 with
  | 0 => shapeC LaneTy.isCompactInt .vaddCompact ty t0
  | 1 => shapeC LaneTy.isCompactInt .vsubCompact ty t0
  | 2 => shapeC LaneTy.isCompactInt .vmulCompact ty t0
  | 3 => shapeC LaneTy.isCompactInt .vminCompact ty t0
  | 4 => shapeC LaneTy.isCompactInt .vmaxCompact ty t0
  | 5 => shapeC LaneTy.isCompactInt .vandCompact ty t0
  | 6 => shapeC LaneTy.isCompactInt .vorCompact ty t0
  | 7 => shapeC LaneTy.isCompactInt .vxorCompact ty t0
  | 8 => shapeC LaneTy.isCompactInt .vshlCompact ty t0
  | 9 => shapeC LaneTy.isCompactInt .vshrCompact ty t0
  | 10 => shapeC LaneTy.isCompactInt .vceqCompact ty t0
  | 11 => shapeC LaneTy.isFloat .faddCompact ty t0
  | 12 => shapeC LaneTy.isFloat .fsubCompact ty t0
  | 13 => shapeC LaneTy.isFloat .fmulCompact ty t0
  | 14 => shapeC LaneTy.isFloat .fminCompact ty t0
  | 15 => shapeC LaneTy.isFloat .fmaxCompact ty t0
  | _ => .error .value

/-- The instruction of a word whose length bit 0 gives (R49, R52). -/
def decodeWord (w : Nat) : Except DecodeCause Instr :=
  if w % 2 = 0 then decode16 w else decode32 w

/-- The little-endian value of a list of bytes (R5). -/
def bytesToNat : List Byte → Nat
  | [] => 0
  | b :: bs => b.toNat + 256 * bytesToNat bs

/-- The low n bytes of a value, least significant first (R5). -/
def natToBytes : Nat → Nat → List Byte
  | 0, _ => []
  | k + 1, x => BitVec.ofNat 8 x :: natToBytes k (x / 256)

/-- What the decoder reads from a list of bytes (R49): the instruction and the bytes after it. Bytes that end inside
the instruction are a framing error. -/
def decodeBytes : List Byte → Except DecodeCause (Instr × List Byte)
  | b0 :: b1 :: rest =>
    if b0.toNat % 2 = 0 then (decode16 (bytesToNat [b0, b1])).map (·, rest)
    else match rest with
      | b2 :: b3 :: rest' => (decode32 (bytesToNat [b0, b1, b2, b3])).map (·, rest')
      | _ => .error .framing
  | _ => .error .framing

/-- The instruction the decoder reads from an instruction of nbits bits whose bits are w, bit 0 the least significant of
its first halfword; the halfwords lie in ascending addresses and each is little-endian (R5, R49). -/
def decodeTableWord (nbits w : Nat) : Option Instr :=
  match decodeBytes (natToBytes (max (nbits / 8) (if w % 2 = 0 then 2 else 4)) w) with
  | .ok (i, _) => some i
  | .error _ => none

/-! ### The encoder -/

/-- The length in bits and the word of an instruction; an event has none. -/
def encode : Instr → Option (Nat × Nat)
  | .br p x o => some (32, pack ⟨p.bits, 0x00, bodyX x.toNat o.toNat⟩)
  | .call p x o => some (32, pack ⟨p.bits, 0x01, bodyX x.toNat o.toNat⟩)
  | .bri p x => some (32, pack ⟨p.bits, 0x02, bodyX x.toNat 0⟩)
  | .calli p x => some (32, pack ⟨p.bits, 0x03, bodyX x.toNat 0⟩)
  | .ret p x => some (32, pack ⟨p.bits, 0x04, bodyX x.toNat 0⟩)
  | .susp p x o => some (32, pack ⟨p.bits, 0x05, bodyX x.toNat o.toNat⟩)
  | .retire p x => some (32, pack ⟨p.bits, 0x06, bodyX x.toNat 0⟩)
  | .read r t u => some (32, pack ⟨0, 0x08, bodyG r.toNat (Target.toByte t) (Target.toByte u)⟩)
  | .readt r t u => some (32, pack ⟨0, 0x09, bodyG r.toNat (Target.toByte t) (Target.toByte u)⟩)
  | .write r => some (32, pack ⟨0, 0x0A, bodyG r.toNat 0 0⟩)
  | .rdc r t u => some (32, pack ⟨0, 0x0B, bodyG r.toNat (Target.toByte t) (Target.toByte u)⟩)
  | .wrc r => some (32, pack ⟨0, 0x0C, bodyG r.toNat 0 0⟩)
  | .null p => some (32, pack ⟨p.bits, 0x0D, bodyG 0 0 0⟩)
  | .mov p t u => some (32, pack ⟨p.bits, 0x0D, bodyG 1 (Target.toByte t) (Target.toByte u)⟩)
  | .align => some (32, pack ⟨0, 0x0D, bodyG 2 0 0⟩)
  | .movi p i t => some (32, pack ⟨p.bits, 0x0E, bodyI (Target.toByte t) i.toNat⟩)
  | .appi p i t => some (32, pack ⟨p.bits, 0x0F, bodyI (Target.toByte t) i.toNat⟩)
  | .add p t u => some (32, pack ⟨p.bits, 0x10, bodyG 0 (Target.toByte t) (Target.toByte u)⟩)
  | .sub p t u => some (32, pack ⟨p.bits, 0x10, bodyG 1 (Target.toByte t) (Target.toByte u)⟩)
  | .mul p t u => some (32, pack ⟨p.bits, 0x10, bodyG 2 (Target.toByte t) (Target.toByte u)⟩)
  | .mulhs p t u => some (32, pack ⟨p.bits, 0x10, bodyG 3 (Target.toByte t) (Target.toByte u)⟩)
  | .mulhn p t u => some (32, pack ⟨p.bits, 0x10, bodyG 4 (Target.toByte t) (Target.toByte u)⟩)
  | .divs p t u => some (32, pack ⟨p.bits, 0x10, bodyG 5 (Target.toByte t) (Target.toByte u)⟩)
  | .divn p t u => some (32, pack ⟨p.bits, 0x10, bodyG 6 (Target.toByte t) (Target.toByte u)⟩)
  | .rems p t u => some (32, pack ⟨p.bits, 0x10, bodyG 7 (Target.toByte t) (Target.toByte u)⟩)
  | .remn p t u => some (32, pack ⟨p.bits, 0x10, bodyG 8 (Target.toByte t) (Target.toByte u)⟩)
  | .mins p t u => some (32, pack ⟨p.bits, 0x10, bodyG 9 (Target.toByte t) (Target.toByte u)⟩)
  | .minn p t u => some (32, pack ⟨p.bits, 0x10, bodyG 10 (Target.toByte t) (Target.toByte u)⟩)
  | .maxs p t u => some (32, pack ⟨p.bits, 0x10, bodyG 11 (Target.toByte t) (Target.toByte u)⟩)
  | .maxn p t u => some (32, pack ⟨p.bits, 0x10, bodyG 12 (Target.toByte t) (Target.toByte u)⟩)
  | .neg p t u => some (32, pack ⟨p.bits, 0x10, bodyG 13 (Target.toByte t) (Target.toByte u)⟩)
  | .abs p t u => some (32, pack ⟨p.bits, 0x10, bodyG 14 (Target.toByte t) (Target.toByte u)⟩)
  | .and p t u => some (32, pack ⟨p.bits, 0x11, bodyG 0 (Target.toByte t) (Target.toByte u)⟩)
  | .or p t u => some (32, pack ⟨p.bits, 0x11, bodyG 1 (Target.toByte t) (Target.toByte u)⟩)
  | .xor p t u => some (32, pack ⟨p.bits, 0x11, bodyG 2 (Target.toByte t) (Target.toByte u)⟩)
  | .andn p t u => some (32, pack ⟨p.bits, 0x11, bodyG 3 (Target.toByte t) (Target.toByte u)⟩)
  | .shl p t u => some (32, pack ⟨p.bits, 0x11, bodyG 4 (Target.toByte t) (Target.toByte u)⟩)
  | .shrn p t u => some (32, pack ⟨p.bits, 0x11, bodyG 5 (Target.toByte t) (Target.toByte u)⟩)
  | .shrs p t u => some (32, pack ⟨p.bits, 0x11, bodyG 6 (Target.toByte t) (Target.toByte u)⟩)
  | .rotl p t u => some (32, pack ⟨p.bits, 0x11, bodyG 7 (Target.toByte t) (Target.toByte u)⟩)
  | .not p t u => some (32, pack ⟨p.bits, 0x11, bodyG 8 (Target.toByte t) (Target.toByte u)⟩)
  | .popc p t u => some (32, pack ⟨p.bits, 0x11, bodyG 9 (Target.toByte t) (Target.toByte u)⟩)
  | .clz p t u => some (32, pack ⟨p.bits, 0x11, bodyG 10 (Target.toByte t) (Target.toByte u)⟩)
  | .ctz p t u => some (32, pack ⟨p.bits, 0x11, bodyG 11 (Target.toByte t) (Target.toByte u)⟩)
  | .ceq p t u => some (32, pack ⟨p.bits, 0x12, bodyG 0 (Target.toByte t) (Target.toByte u)⟩)
  | .cne p t u => some (32, pack ⟨p.bits, 0x12, bodyG 1 (Target.toByte t) (Target.toByte u)⟩)
  | .clts p t u => some (32, pack ⟨p.bits, 0x12, bodyG 2 (Target.toByte t) (Target.toByte u)⟩)
  | .cles p t u => some (32, pack ⟨p.bits, 0x12, bodyG 3 (Target.toByte t) (Target.toByte u)⟩)
  | .cltn p t u => some (32, pack ⟨p.bits, 0x12, bodyG 4 (Target.toByte t) (Target.toByte u)⟩)
  | .clen p t u => some (32, pack ⟨p.bits, 0x12, bodyG 5 (Target.toByte t) (Target.toByte u)⟩)
  | .sel t u => some (32, pack ⟨0, 0x13, bodyG 0 (Target.toByte t) (Target.toByte u)⟩)
  | .exts8 p t u => some (32, pack ⟨p.bits, 0x13, bodyG 1 (Target.toByte t) (Target.toByte u)⟩)
  | .exts16 p t u => some (32, pack ⟨p.bits, 0x13, bodyG 2 (Target.toByte t) (Target.toByte u)⟩)
  | .exts32 p t u => some (32, pack ⟨p.bits, 0x13, bodyG 3 (Target.toByte t) (Target.toByte u)⟩)
  | .extn8 p t u => some (32, pack ⟨p.bits, 0x13, bodyG 4 (Target.toByte t) (Target.toByte u)⟩)
  | .extn16 p t u => some (32, pack ⟨p.bits, 0x13, bodyG 5 (Target.toByte t) (Target.toByte u)⟩)
  | .extn32 p t u => some (32, pack ⟨p.bits, 0x13, bodyG 6 (Target.toByte t) (Target.toByte u)⟩)
  | .addi p i t => some (32, pack ⟨p.bits, 0x14, bodyI (Target.toByte t) i.toNat⟩)
  | .muli p i t => some (32, pack ⟨p.bits, 0x15, bodyI (Target.toByte t) i.toNat⟩)
  | .andi p i t => some (32, pack ⟨p.bits, 0x16, bodyI (Target.toByte t) i.toNat⟩)
  | .ori p i t => some (32, pack ⟨p.bits, 0x17, bodyI (Target.toByte t) i.toNat⟩)
  | .xori p i t => some (32, pack ⟨p.bits, 0x18, bodyI (Target.toByte t) i.toNat⟩)
  | .shli p i t => some (32, pack ⟨p.bits, 0x19, bodyI (Target.toByte t) i.toNat⟩)
  | .shrni p i t => some (32, pack ⟨p.bits, 0x1A, bodyI (Target.toByte t) i.toNat⟩)
  | .shrsi p i t => some (32, pack ⟨p.bits, 0x1B, bodyI (Target.toByte t) i.toNat⟩)
  | .ceqi p i t => some (32, pack ⟨p.bits, 0x1C, bodyI (Target.toByte t) i.toNat⟩)
  | .cltsi p i t => some (32, pack ⟨p.bits, 0x1D, bodyI (Target.toByte t) i.toNat⟩)
  | .vadd p y t u => some (32, pack ⟨p.bits, 0x30, bodyG (0 + y.code) (Target.toByte t) (Target.toByte u)⟩)
  | .vsub p y t u => some (32, pack ⟨p.bits, 0x30, bodyG (16 + y.code) (Target.toByte t) (Target.toByte u)⟩)
  | .vadds p y t u => some (32, pack ⟨p.bits, 0x30, bodyG (32 + y.code) (Target.toByte t) (Target.toByte u)⟩)
  | .vsubs p y t u => some (32, pack ⟨p.bits, 0x30, bodyG (48 + y.code) (Target.toByte t) (Target.toByte u)⟩)
  | .vmul p y t u => some (32, pack ⟨p.bits, 0x31, bodyG (0 + y.code) (Target.toByte t) (Target.toByte u)⟩)
  | .vmulh p y t u => some (32, pack ⟨p.bits, 0x31, bodyG (16 + y.code) (Target.toByte t) (Target.toByte u)⟩)
  | .vmin p y t u => some (32, pack ⟨p.bits, 0x31, bodyG (32 + y.code) (Target.toByte t) (Target.toByte u)⟩)
  | .vmax p y t u => some (32, pack ⟨p.bits, 0x31, bodyG (48 + y.code) (Target.toByte t) (Target.toByte u)⟩)
  | .vand p y t u => some (32, pack ⟨p.bits, 0x32, bodyG (0 + y.code) (Target.toByte t) (Target.toByte u)⟩)
  | .vor p y t u => some (32, pack ⟨p.bits, 0x32, bodyG (16 + y.code) (Target.toByte t) (Target.toByte u)⟩)
  | .vxor p y t u => some (32, pack ⟨p.bits, 0x32, bodyG (32 + y.code) (Target.toByte t) (Target.toByte u)⟩)
  | .vandn p y t u => some (32, pack ⟨p.bits, 0x32, bodyG (48 + y.code) (Target.toByte t) (Target.toByte u)⟩)
  | .vshl p y t u => some (32, pack ⟨p.bits, 0x33, bodyG (0 + y.code) (Target.toByte t) (Target.toByte u)⟩)
  | .vshr p y t u => some (32, pack ⟨p.bits, 0x33, bodyG (16 + y.code) (Target.toByte t) (Target.toByte u)⟩)
  | .vrotl p y t u => some (32, pack ⟨p.bits, 0x33, bodyG (32 + y.code) (Target.toByte t) (Target.toByte u)⟩)
  | .vnot p y t u => some (32, pack ⟨p.bits, 0x33, bodyG (48 + y.code) (Target.toByte t) (Target.toByte u)⟩)
  | .vceq p y t u => some (32, pack ⟨p.bits, 0x34, bodyG (0 + y.code) (Target.toByte t) (Target.toByte u)⟩)
  | .vcne p y t u => some (32, pack ⟨p.bits, 0x34, bodyG (16 + y.code) (Target.toByte t) (Target.toByte u)⟩)
  | .vclt p y t u => some (32, pack ⟨p.bits, 0x34, bodyG (32 + y.code) (Target.toByte t) (Target.toByte u)⟩)
  | .vcle p y t u => some (32, pack ⟨p.bits, 0x34, bodyG (48 + y.code) (Target.toByte t) (Target.toByte u)⟩)
  | .vsplat p y t u => some (32, pack ⟨p.bits, 0x35, bodyG (0 + y.code) (Target.toByte t) (Target.toByte u)⟩)
  | .vextr p y t u => some (32, pack ⟨p.bits, 0x35, bodyG (16 + y.code) (Target.toByte t) (Target.toByte u)⟩)
  | .vperm p y t u => some (32, pack ⟨p.bits, 0x35, bodyG (32 + y.code) (Target.toByte t) (Target.toByte u)⟩)
  | .vsel y t u => some (32, pack ⟨0, 0x35, bodyG (48 + y.code) (Target.toByte t) (Target.toByte u)⟩)
  | .vredadd p y t u => some (32, pack ⟨p.bits, 0x36, bodyG (0 + y.code) (Target.toByte t) (Target.toByte u)⟩)
  | .vredmin p y t u => some (32, pack ⟨p.bits, 0x36, bodyG (16 + y.code) (Target.toByte t) (Target.toByte u)⟩)
  | .vredmax p y t u => some (32, pack ⟨p.bits, 0x36, bodyG (32 + y.code) (Target.toByte t) (Target.toByte u)⟩)
  | .vabs p y t u => some (32, pack ⟨p.bits, 0x36, bodyG (48 + y.code) (Target.toByte t) (Target.toByte u)⟩)
  | .vwidenlo p y t u => some (32, pack ⟨p.bits, 0x37, bodyG (0 + y.code) (Target.toByte t) (Target.toByte u)⟩)
  | .vwidenhi p y t u => some (32, pack ⟨p.bits, 0x37, bodyG (16 + y.code) (Target.toByte t) (Target.toByte u)⟩)
  | .vnarrow p y t u => some (32, pack ⟨p.bits, 0x37, bodyG (32 + y.code) (Target.toByte t) (Target.toByte u)⟩)
  | .vnarrows p y t u => some (32, pack ⟨p.bits, 0x37, bodyG (48 + y.code) (Target.toByte t) (Target.toByte u)⟩)
  | .fadd p y t u => some (32, pack ⟨p.bits, 0x50, bodyG (0 + y.code) (Target.toByte t) (Target.toByte u)⟩)
  | .fsub p y t u => some (32, pack ⟨p.bits, 0x50, bodyG (16 + y.code) (Target.toByte t) (Target.toByte u)⟩)
  | .fmul p y t u => some (32, pack ⟨p.bits, 0x50, bodyG (32 + y.code) (Target.toByte t) (Target.toByte u)⟩)
  | .fdiv p y t u => some (32, pack ⟨p.bits, 0x50, bodyG (48 + y.code) (Target.toByte t) (Target.toByte u)⟩)
  | .fma y t u => some (32, pack ⟨0, 0x51, bodyG (0 + y.code) (Target.toByte t) (Target.toByte u)⟩)
  | .fms y t u => some (32, pack ⟨0, 0x51, bodyG (16 + y.code) (Target.toByte t) (Target.toByte u)⟩)
  | .fmin p y t u => some (32, pack ⟨p.bits, 0x51, bodyG (32 + y.code) (Target.toByte t) (Target.toByte u)⟩)
  | .fmax p y t u => some (32, pack ⟨p.bits, 0x51, bodyG (48 + y.code) (Target.toByte t) (Target.toByte u)⟩)
  | .fceq p y t u => some (32, pack ⟨p.bits, 0x52, bodyG (0 + y.code) (Target.toByte t) (Target.toByte u)⟩)
  | .fclt p y t u => some (32, pack ⟨p.bits, 0x52, bodyG (16 + y.code) (Target.toByte t) (Target.toByte u)⟩)
  | .fcle p y t u => some (32, pack ⟨p.bits, 0x52, bodyG (32 + y.code) (Target.toByte t) (Target.toByte u)⟩)
  | .fcun p y t u => some (32, pack ⟨p.bits, 0x52, bodyG (48 + y.code) (Target.toByte t) (Target.toByte u)⟩)
  | .fabs p y t u => some (32, pack ⟨p.bits, 0x53, bodyG (0 + y.code) (Target.toByte t) (Target.toByte u)⟩)
  | .fneg p y t u => some (32, pack ⟨p.bits, 0x53, bodyG (16 + y.code) (Target.toByte t) (Target.toByte u)⟩)
  | .fsqrt p y t u => some (32, pack ⟨p.bits, 0x53, bodyG (32 + y.code) (Target.toByte t) (Target.toByte u)⟩)
  | .fredadd p y t u => some (32, pack ⟨p.bits, 0x53, bodyG (48 + y.code) (Target.toByte t) (Target.toByte u)⟩)
  | .exp2 p y t u => some (32, pack ⟨p.bits, 0x54, bodyG (0 + y.code) (Target.toByte t) (Target.toByte u)⟩)
  | .log2 p y t u => some (32, pack ⟨p.bits, 0x54, bodyG (16 + y.code) (Target.toByte t) (Target.toByte u)⟩)
  | .rcp p y t u => some (32, pack ⟨p.bits, 0x54, bodyG (32 + y.code) (Target.toByte t) (Target.toByte u)⟩)
  | .rsq p y t u => some (32, pack ⟨p.bits, 0x54, bodyG (48 + y.code) (Target.toByte t) (Target.toByte u)⟩)
  | .tanh p y t u => some (32, pack ⟨p.bits, 0x55, bodyG (0 + y.code) (Target.toByte t) (Target.toByte u)⟩)
  | .frint p y t u => some (32, pack ⟨p.bits, 0x55, bodyG (16 + y.code) (Target.toByte t) (Target.toByte u)⟩)
  | .cvtFloatSource p d s t u => some (32, pack ⟨p.bits, 0x56, bodyG (16 * floatCode2 s + d.code) (Target.toByte t) (Target.toByte u)⟩)
  | .cvtIntegerSource p d s t u => some (32, pack ⟨p.bits, 0x57, bodyG (16 * floatCode2 d + s.code) (Target.toByte t) (Target.toByte u)⟩)
  | .snarrow p f s t u => some (32, pack ⟨p.bits, 0x58, bodyG (16 * floatCode2 s + f.code) (Target.toByte t) (Target.toByte u)⟩)
  | .swiden p d f t u => some (32, pack ⟨p.bits, 0x59, bodyG (16 * floatCode2 d + f.code) (Target.toByte t) (Target.toByte u)⟩)
  | .vaddCompact y t => some (16, 0 + 32 * compactCode y + 256 * Target.toByte t)
  | .vsubCompact y t => some (16, 2 + 32 * compactCode y + 256 * Target.toByte t)
  | .vmulCompact y t => some (16, 4 + 32 * compactCode y + 256 * Target.toByte t)
  | .vminCompact y t => some (16, 6 + 32 * compactCode y + 256 * Target.toByte t)
  | .vmaxCompact y t => some (16, 8 + 32 * compactCode y + 256 * Target.toByte t)
  | .vandCompact y t => some (16, 10 + 32 * compactCode y + 256 * Target.toByte t)
  | .vorCompact y t => some (16, 12 + 32 * compactCode y + 256 * Target.toByte t)
  | .vxorCompact y t => some (16, 14 + 32 * compactCode y + 256 * Target.toByte t)
  | .vshlCompact y t => some (16, 16 + 32 * compactCode y + 256 * Target.toByte t)
  | .vshrCompact y t => some (16, 18 + 32 * compactCode y + 256 * Target.toByte t)
  | .vceqCompact y t => some (16, 20 + 32 * compactCode y + 256 * Target.toByte t)
  | .faddCompact y t => some (16, 22 + 32 * compactCode y + 256 * Target.toByte t)
  | .fsubCompact y t => some (16, 24 + 32 * compactCode y + 256 * Target.toByte t)
  | .fmulCompact y t => some (16, 26 + 32 * compactCode y + 256 * Target.toByte t)
  | .fminCompact y t => some (16, 28 + 32 * compactCode y + 256 * Target.toByte t)
  | .fmaxCompact y t => some (16, 30 + 32 * compactCode y + 256 * Target.toByte t)
  | .ld p z n o t => some (32, pack ⟨p.bits, 0x60, bodyM n.toNat z.code (Target.toByte t) o.toNat⟩)
  | .st p z n o => some (32, pack ⟨p.bits, 0x61, bodyM n.toNat z.code 0 o.toNat⟩)
  | .ldd p z n r o => some (32, pack ⟨p.bits, 0x62, bodyM n.toNat z.code r.toNat o.toNat⟩)
  | .take p n o t => some (32, pack ⟨p.bits, 0x63, bodyM n.toNat 0 (Target.toByte t) o.toNat⟩)
  | .look p n o t => some (32, pack ⟨p.bits, 0x63, bodyM n.toNat 1 (Target.toByte t) o.toNat⟩)
  | .give p n o => some (32, pack ⟨p.bits, 0x63, bodyM n.toNat 2 0 o.toNat⟩)
  | .amend p n o => some (32, pack ⟨p.bits, 0x63, bodyM n.toNat 3 0 o.toNat⟩)
  | .post p n o => some (32, pack ⟨p.bits, 0x63, bodyM n.toNat 4 0 o.toNat⟩)
  | .void p n o => some (32, pack ⟨p.bits, 0x63, bodyM n.toNat 5 0 o.toNat⟩)
  | .febit p n o t => some (32, pack ⟨p.bits, 0x63, bodyM n.toNat 6 (Target.toByte t) o.toNat⟩)
  | .aadd p m n o t => some (32, pack ⟨p.bits, m.major, bodyM n.toNat 0 (Target.toByte t) o.toNat⟩)
  | .aand p m n o t => some (32, pack ⟨p.bits, m.major, bodyM n.toNat 1 (Target.toByte t) o.toNat⟩)
  | .aor p m n o t => some (32, pack ⟨p.bits, m.major, bodyM n.toNat 2 (Target.toByte t) o.toNat⟩)
  | .axor p m n o t => some (32, pack ⟨p.bits, m.major, bodyM n.toNat 3 (Target.toByte t) o.toNat⟩)
  | .amins p m n o t => some (32, pack ⟨p.bits, m.major, bodyM n.toNat 4 (Target.toByte t) o.toNat⟩)
  | .amaxs p m n o t => some (32, pack ⟨p.bits, m.major, bodyM n.toNat 5 (Target.toByte t) o.toNat⟩)
  | .aminn p m n o t => some (32, pack ⟨p.bits, m.major, bodyM n.toNat 6 (Target.toByte t) o.toNat⟩)
  | .amaxn p m n o t => some (32, pack ⟨p.bits, m.major, bodyM n.toNat 7 (Target.toByte t) o.toNat⟩)
  | .aswp p m n o t => some (32, pack ⟨p.bits, m.major, bodyM n.toNat 8 (Target.toByte t) o.toNat⟩)
  | .acas m n o t => some (32, pack ⟨0, m.major, bodyM n.toNat 9 (Target.toByte t) o.toNat⟩)
  | .fenceCore p n => some (32, pack ⟨p.bits, 0x68, bodyM n.toNat 0 0 0⟩)
  | .fenceBasin p n => some (32, pack ⟨p.bits, 0x68, bodyM n.toNat 1 0 0⟩)
  | .fenceSys p n => some (32, pack ⟨p.bits, 0x68, bodyM n.toNat 2 0 0⟩)
  | .ldacqCore p n o t => some (32, pack ⟨p.bits, 0x68, bodyM n.toNat 3 (Target.toByte t) o.toNat⟩)
  | .ldacqBasin p n o t => some (32, pack ⟨p.bits, 0x68, bodyM n.toNat 4 (Target.toByte t) o.toNat⟩)
  | .ldacqSys p n o t => some (32, pack ⟨p.bits, 0x68, bodyM n.toNat 5 (Target.toByte t) o.toNat⟩)
  | .strelCore p n o => some (32, pack ⟨p.bits, 0x68, bodyM n.toNat 6 0 o.toNat⟩)
  | .strelBasin p n o => some (32, pack ⟨p.bits, 0x68, bodyM n.toNat 7 0 o.toNat⟩)
  | .strelSys p n o => some (32, pack ⟨p.bits, 0x68, bodyM n.toNat 8 0 o.toNat⟩)
  | .probe p n t => some (32, pack ⟨p.bits, 0x69, bodyM n.toNat 0 (Target.toByte t) 0⟩)
  | .mls p n => some (32, pack ⟨p.bits, 0x70, bodyE n.toNat 0 0 0⟩)
  | .mlsc p n v => some (32, pack ⟨p.bits, 0x70, bodyE n.toNat 1 0 v.toNat⟩)
  | .mswap p n => some (32, pack ⟨p.bits, 0x70, bodyE n.toNat 2 0 0⟩)
  | .mstream p n => some (32, pack ⟨p.bits, 0x70, bodyE n.toNat 3 0 0⟩)
  | .mstreama p n => some (32, pack ⟨p.bits, 0x70, bodyE n.toNat 4 0 0⟩)
  | .mzero p n v => some (32, pack ⟨p.bits, 0x70, bodyE n.toNat 5 0 v.toNat⟩)
  | .mdrain p n => some (32, pack ⟨p.bits, 0x70, bodyE n.toNat 6 0 0⟩)
  | .mdrainn p n => some (32, pack ⟨p.bits, 0x70, bodyE n.toNat 7 0 0⟩)
  | .mtask p n => some (32, pack ⟨p.bits, 0x70, bodyE n.toNat 8 0 0⟩)
  | .mstat p n t => some (32, pack ⟨p.bits, 0x70, bodyE n.toNat 9 (Target.toByte t) 0⟩)
  | .cpy1 p n v => some (32, pack ⟨p.bits, 0x74, bodyE n.toNat 0 0 v.toNat⟩)
  | .cpy2 p n v => some (32, pack ⟨p.bits, 0x74, bodyE n.toNat 1 0 v.toNat⟩)
  | .gath p n v => some (32, pack ⟨p.bits, 0x74, bodyE n.toNat 2 0 v.toNat⟩)
  | .scat p n v => some (32, pack ⟨p.bits, 0x74, bodyE n.toNat 3 0 v.toNat⟩)
  | .fill p n v => some (32, pack ⟨p.bits, 0x74, bodyE n.toNat 4 0 v.toNat⟩)
  | .cpycv p n v => some (32, pack ⟨p.bits, 0x74, bodyE n.toNat 5 0 v.toNat⟩)
  | .cpymc p n v => some (32, pack ⟨p.bits, 0x74, bodyE n.toNat 6 0 v.toNat⟩)
  | .culv p n v => some (32, pack ⟨p.bits, 0x74, bodyE n.toNat 7 0 v.toNat⟩)
  | .pghand p n v => some (32, pack ⟨p.bits, 0x74, bodyE n.toNat 8 0 v.toNat⟩)
  | .ctask p n => some (32, pack ⟨p.bits, 0x74, bodyE n.toNat 9 0 0⟩)
  | .twany p n t => some (32, pack ⟨p.bits, 0x74, bodyE n.toNat 10 (Target.toByte t) 0⟩)
  | .twall p n t => some (32, pack ⟨p.bits, 0x74, bodyE n.toNat 11 (Target.toByte t) 0⟩)
  | .tffr p n t => some (32, pack ⟨p.bits, 0x74, bodyE n.toNat 12 (Target.toByte t) 0⟩)
  | .cstat p n t => some (32, pack ⟨p.bits, 0x74, bodyE n.toNat 13 (Target.toByte t) 0⟩)
  | .hbind p n v => some (32, pack ⟨p.bits, 0x78, bodyE n.toNat 0 0 v.toNat⟩)
  | .hbund p n v => some (32, pack ⟨p.bits, 0x78, bodyE n.toNat 1 0 v.toNat⟩)
  | .hperm p n => some (32, pack ⟨p.bits, 0x78, bodyE n.toNat 2 0 0⟩)
  | .hthr p n v => some (32, pack ⟨p.bits, 0x78, bodyE n.toNat 3 0 v.toNat⟩)
  | .hld p n => some (32, pack ⟨p.bits, 0x78, bodyE n.toNat 4 0 0⟩)
  | .hst p n => some (32, pack ⟨p.bits, 0x78, bodyE n.toNat 5 0 0⟩)
  | .hclr p n v => some (32, pack ⟨p.bits, 0x78, bodyE n.toNat 6 0 v.toNat⟩)
  | .hphase p n => some (32, pack ⟨p.bits, 0x78, bodyE n.toNat 7 0 0⟩)
  | .hbndld p n => some (32, pack ⟨p.bits, 0x78, bodyE n.toNat 8 0 0⟩)
  | .hbndst p n => some (32, pack ⟨p.bits, 0x78, bodyE n.toNat 9 0 0⟩)
  | .hmove p n v => some (32, pack ⟨p.bits, 0x78, bodyE n.toNat 10 0 v.toNat⟩)
  | .hdist p n v r => some (32, pack ⟨p.bits, 0x78, bodyE n.toNat 11 r.toNat v.toNat⟩)
  | .hnear p n r => some (32, pack ⟨p.bits, 0x78, bodyE n.toNat 12 r.toNat 0⟩)
  | .hneark p n r => some (32, pack ⟨p.bits, 0x78, bodyE n.toNat 13 r.toNat 0⟩)
  | .hpopc p n v r => some (32, pack ⟨p.bits, 0x78, bodyE n.toNat 14 r.toNat v.toNat⟩)
  | .qsend p n => some (32, pack ⟨p.bits, 0x7B, bodyE n.toNat 0 0 0⟩)
  | .qsendv p n => some (32, pack ⟨p.bits, 0x7B, bodyE n.toNat 1 0 0⟩)
  | .qrecv p n t => some (32, pack ⟨p.bits, 0x7B, bodyE n.toNat 2 (Target.toByte t) 0⟩)
  | .qrecvd p n r => some (32, pack ⟨p.bits, 0x7B, bodyE n.toNat 3 r.toNat 0⟩)
  | .qpoll p n t => some (32, pack ⟨p.bits, 0x7B, bodyE n.toNat 4 (Target.toByte t) 0⟩)
  | .qstat p n t => some (32, pack ⟨p.bits, 0x7B, bodyE n.toNat 5 (Target.toByte t) 0⟩)
  | .wbar p n t => some (32, pack ⟨p.bits, 0x7C, bodyE n.toNat 0 (Target.toByte t) 0⟩)
  | .warr p n => some (32, pack ⟨p.bits, 0x7C, bodyE n.toNat 1 0 0⟩)
  | .wwait p n t => some (32, pack ⟨p.bits, 0x7C, bodyE n.toNat 2 (Target.toByte t) 0⟩)
  | .wtime p n t => some (32, pack ⟨p.bits, 0x7C, bodyE n.toNat 3 (Target.toByte t) 0⟩)
  | .wsleep p n v t => some (32, pack ⟨p.bits, 0x7C, bodyE n.toNat 4 (Target.toByte t) v.toNat⟩)
  | .wstat p n t => some (32, pack ⟨p.bits, 0x7C, bodyE n.toNat 5 (Target.toByte t) 0⟩)
  | .wcfg p n => some (32, pack ⟨p.bits, 0x7C, bodyE n.toNat 6 0 0⟩)
  | .wstep p n => some (32, pack ⟨p.bits, 0x7C, bodyE n.toNat 7 0 0⟩)
  | .launch p n => some (32, pack ⟨p.bits, 0x7D, bodyE n.toNat 0 0 0⟩)
  | .dpush p n => some (32, pack ⟨p.bits, 0x7D, bodyE n.toNat 1 0 0⟩)
  | .dpop p n t => some (32, pack ⟨p.bits, 0x7D, bodyE n.toNat 2 (Target.toByte t) 0⟩)
  | .joinad p n v => some (32, pack ⟨p.bits, 0x7D, bodyE n.toNat 3 0 v.toNat⟩)
  | .joinw p n t => some (32, pack ⟨p.bits, 0x7D, bodyE n.toNat 4 (Target.toByte t) 0⟩)
  | .spawn p n => some (32, pack ⟨p.bits, 0x7D, bodyE n.toNat 5 0 0⟩)
  | .dstat p n t => some (32, pack ⟨p.bits, 0x7D, bodyE n.toNat 6 (Target.toByte t) 0⟩)
  | .dweight p n => some (32, pack ⟨p.bits, 0x7D, bodyE n.toNat 7 0 0⟩)
  | .freeze p => some (32, pack ⟨p.bits, 0x7E, bodyG 0 0 0⟩)
  | .thaw p => some (32, pack ⟨p.bits, 0x7E, bodyG 1 0 0⟩)
  | .ackf p => some (32, pack ⟨p.bits, 0x7E, bodyG 2 0 0⟩)
  | .stopt p => some (32, pack ⟨p.bits, 0x7E, bodyG 3 0 0⟩)
  | .startt p => some (32, pack ⟨p.bits, 0x7E, bodyG 4 0 0⟩)
  | .tlbinv p => some (32, pack ⟨p.bits, 0x7E, bodyG 5 0 0⟩)
  | .swapout p => some (32, pack ⟨p.bits, 0x7E, bodyG 6 0 0⟩)
  | .swapin p => some (32, pack ⟨p.bits, 0x7E, bodyG 7 0 0⟩)
  | .rdctx p t u => some (32, pack ⟨p.bits, 0x7E, bodyG 8 (Target.toByte t) (Target.toByte u)⟩)
  | .wrctx => some (32, pack ⟨0, 0x7E, bodyG 9 0 0⟩)
  | .migr p => some (32, pack ⟨p.bits, 0x7E, bodyG 10 0 0⟩)
  | .idle p t u => some (32, pack ⟨p.bits, 0x7E, bodyG 11 (Target.toByte t) (Target.toByte u)⟩)
  | .blockLookup _ _ => none
  | .blockMissFill _ _ => none
  | .alignHoldTimeout _ _ => none
  | .blockCommit _ _ => none
  | .performingResult _ => none
  | .fillArrival _ => none
  | .waitLimitExpiry _ _ => none
  | .withdrawal _ => none
  | .tlbMissRequest _ _ _ => none
  | .pageWalk _ _ _ => none
  | .homeAccess _ => none
  | .waitlistResend _ => none
  | .ownershipRequest _ => none
  | .patrolScrub _ => none
  | .interleaveDescriptorWrite _ _ _ => none
  | .mChipletStateWrite _ _ => none
  | .combinedRead _ _ => none
  | .matrixIntakeArrival _ => none
  | .matrixCommandStart _ => none
  | .matrixCommandComplete _ _ => none
  | .matrixTaskTake _ _ _ _ => none
  | .matrixTaskStart _ => none
  | .matrixRetry _ => none
  | .matrixSkip _ => none
  | .matrixFlush _ => none
  | .engineSave _ => none
  | .copyIntakeArrival _ => none
  | .copyCommandStart _ => none
  | .copyLineWrite _ _ => none
  | .copyCommandComplete _ _ => none
  | .copyTaskAccept _ _ _ _ => none
  | .culvertDataAck _ _ => none
  | .pghandFlagAck _ _ => none
  | .culvertLimitExpiry _ _ => none
  | .copyFclr _ => none
  | .tagWaitDeliver _ _ _ => none
  | .hvIntakeArrival _ => none
  | .hvCommandStart _ => none
  | .hvCommandComplete _ => none
  | .queueMessageArrival _ => none
  | .queueReservationGrant _ _ => none
  | .queueRefusal _ => none
  | .deliveryAck _ => none
  | .undeliverableReturn _ => none
  | .sumpSpill _ _ => none
  | .sumpDrain _ => none
  | .nstWrite _ _ _ => none
  | .markerAck _ => none
  | .queueEnWrite _ _ _ => none
  | .queueDisc _ _ => none
  | .queueReset _ _ => none
  | .stepRequest _ => none
  | .clockStsWrite _ _ => none
  | .frequencyStep _ => none
  | .relockEnd _ => none
  | .barrierCellWrite _ _ _ => none
  | .barrierArrival _ => none
  | .moduleCompletionReport _ => none
  | .waiterWake _ _ => none
  | .sleepDeadline _ _ _ => none
  | .coreGate _ => none
  | .ditchDescriptorWrite _ _ _ _ => none
  | .ditchRst _ _ => none
  | .addseg _ _ => none
  | .addimg _ _ => none
  | .addsave _ _ => none
  | .sluiceHoldWrite _ _ => none
  | .regionWrite _ _ _ => none
  | .ditchAppend _ => none
  | .appendWaitResume _ _ => none
  | .launchExpansion _ => none
  | .dependantSignal _ => none
  | .placementPass _ => none
  | .shareBoundary _ => none
  | .suspensionComplete _ _ => none
  | .rpubWrite _ _ => none
  | .generationAdopt _ => none
  | .faultPacketArrival _ => none
  | .idleDeliver _ _ _ => none
  | .supervisorCommandArrival _ => none
  | .slotStopw _ _ => none
  | .slotStartw _ _ => none
  | .slotFrzw _ _ => none
  | .slotFrzClear _ _ => none
  | .slotAckClear _ _ => none
  | .contextMirrorWrite _ _ _ _ => none
  | .sumpWindowWrite _ _ _ => none
  | .swapoutComplete _ => none
  | .migrArrival _ => none
  | .migrationQuiesce _ => none
  | .migrationSave _ => none
  | .migrationCopy _ => none
  | .migrationRestore _ => none
  | .rdirClear _ => none
  | .powerGood => none
  | .phase0End _ => none
  | .wavefrontSlotStart _ => none
  | .offerWindowClose _ => none
  | .clockLock _ => none
  | .siteConfigured _ => none
  | .memoryClearDone _ => none
  | .seamPass => none
  | .tablesPhase _ => none
  | .coresRelease _ => none
  | .cfgacc _ _ _ _ => none
  | .leatFrameReceive _ _ => none
  | .leatWrite _ _ => none
  | .leatRead _ _ => none
  | .leatDitchw _ _ => none
  | .leatLaunch _ _ => none
  | .mgmtStatus _ _ => none
  | .mgmtAttest _ _ => none
  | .mgmtIdent _ _ => none
  | .mgmtFwchunk _ _ => none
  | .mgmtFwcommit _ _ => none
  | .mgmtRestart _ _ => none
  | .restartComplete => none
  | .hostComplArrival _ _ => none
  | .hostWriteRetransmit _ _ => none
  | .linkFlitReceive _ _ => none
  | .linkNakReceive _ _ => none
  | .linkAckReceive _ _ => none
  | .keySlotWrite _ _ _ => none
  | .txksWrite _ _ => none
  | .wreqWrite _ _ => none
  | .widthChange _ => none
  | .laneLockLoss _ => none
  | .portEnWrite _ _ => none
  | .powerWindow _ => none
  | .marginSample _ _ => none
  | .traceSessionWrite _ _ _ _ => none
  | .replayGo _ => none
  | .configWrite _ _ _ => none
  | .basinClockEdge _ => none
  | .softError _ _ => none
  | .leatLinkChange _ _ => none
  | .linkTrainingDone _ _ _ => none

/-! ### The shape of a form -/

/-- Operand signatures of the opcode map (R56). -/
inductive Sig where
  | none | l | lr | lrp
  deriving DecidableEq, Repr

/-- What the block rules need to know of an instruction: its major opcode, predicate mode, signature, targets, LSID, store-mask
bit, exit id, register written (WRITE), whether it writes a control register, whether it reads a register, the register a
fill form marks, and whether it is privileged (R50 to R66). -/
structure Shape where
  major : Nat := 0
  pm : Pred := .always
  sig : Sig := .none
  t : Option Target := none
  u : Option Target := none
  lsid : Option Nat := none
  smask : Bool := false
  exit : Option Nat := none
  write : Option Nat := none
  wrc : Option Nat := none
  reads : Bool := false
  fill : Option Nat := none
  priv : Bool := false
  deriving DecidableEq, Repr

/-- The shape of each form (Tables 2-8 to 2-12). A compact form has the major of the G form it stands for (R61). Events have
the empty shape. -/
def Instr.shape : Instr → Shape
  | .br p x _ => { major := 0x00, pm := p, exit := some x.toNat }
  | .call p x _ => { major := 0x01, pm := p, exit := some x.toNat }
  | .bri p x => { major := 0x02, pm := p, sig := .l, exit := some x.toNat }
  | .calli p x => { major := 0x03, pm := p, sig := .l, exit := some x.toNat }
  | .ret p x => { major := 0x04, pm := p, sig := .l, exit := some x.toNat }
  | .susp p x _ => { major := 0x05, pm := p, exit := some x.toNat }
  | .retire p x => { major := 0x06, pm := p, exit := some x.toNat }
  | .read _ t u => { major := 0x08, t := t, u := u, reads := true }
  | .readt _ t u => { major := 0x09, t := t, u := u, reads := true }
  | .write r => { major := 0x0A, sig := .l, write := some r.toNat }
  | .rdc r t u => { major := 0x0B, t := t, u := u, reads := true, priv := decide (32 ≤ r.toNat) }
  | .wrc r => { major := 0x0C, sig := .l, wrc := some r.toNat, priv := decide (32 ≤ r.toNat) }
  | .null p => { major := 0x0D, pm := p }
  | .mov p t u => { major := 0x0D, pm := p, sig := .l, t := t, u := u }
  | .align => { major := 0x0D }
  | .movi p _ t => { major := 0x0E, pm := p, t := t }
  | .appi p _ t => { major := 0x0F, pm := p, sig := .l, t := t }
  | .add p t u => { major := 0x10, pm := p, sig := .lr, t := t, u := u }
  | .sub p t u => { major := 0x10, pm := p, sig := .lr, t := t, u := u }
  | .mul p t u => { major := 0x10, pm := p, sig := .lr, t := t, u := u }
  | .mulhs p t u => { major := 0x10, pm := p, sig := .lr, t := t, u := u }
  | .mulhn p t u => { major := 0x10, pm := p, sig := .lr, t := t, u := u }
  | .divs p t u => { major := 0x10, pm := p, sig := .lr, t := t, u := u }
  | .divn p t u => { major := 0x10, pm := p, sig := .lr, t := t, u := u }
  | .rems p t u => { major := 0x10, pm := p, sig := .lr, t := t, u := u }
  | .remn p t u => { major := 0x10, pm := p, sig := .lr, t := t, u := u }
  | .mins p t u => { major := 0x10, pm := p, sig := .lr, t := t, u := u }
  | .minn p t u => { major := 0x10, pm := p, sig := .lr, t := t, u := u }
  | .maxs p t u => { major := 0x10, pm := p, sig := .lr, t := t, u := u }
  | .maxn p t u => { major := 0x10, pm := p, sig := .lr, t := t, u := u }
  | .neg p t u => { major := 0x10, pm := p, sig := .l, t := t, u := u }
  | .abs p t u => { major := 0x10, pm := p, sig := .l, t := t, u := u }
  | .and p t u => { major := 0x11, pm := p, sig := .lr, t := t, u := u }
  | .or p t u => { major := 0x11, pm := p, sig := .lr, t := t, u := u }
  | .xor p t u => { major := 0x11, pm := p, sig := .lr, t := t, u := u }
  | .andn p t u => { major := 0x11, pm := p, sig := .lr, t := t, u := u }
  | .shl p t u => { major := 0x11, pm := p, sig := .lr, t := t, u := u }
  | .shrn p t u => { major := 0x11, pm := p, sig := .lr, t := t, u := u }
  | .shrs p t u => { major := 0x11, pm := p, sig := .lr, t := t, u := u }
  | .rotl p t u => { major := 0x11, pm := p, sig := .lr, t := t, u := u }
  | .not p t u => { major := 0x11, pm := p, sig := .l, t := t, u := u }
  | .popc p t u => { major := 0x11, pm := p, sig := .l, t := t, u := u }
  | .clz p t u => { major := 0x11, pm := p, sig := .l, t := t, u := u }
  | .ctz p t u => { major := 0x11, pm := p, sig := .l, t := t, u := u }
  | .ceq p t u => { major := 0x12, pm := p, sig := .lr, t := t, u := u }
  | .cne p t u => { major := 0x12, pm := p, sig := .lr, t := t, u := u }
  | .clts p t u => { major := 0x12, pm := p, sig := .lr, t := t, u := u }
  | .cles p t u => { major := 0x12, pm := p, sig := .lr, t := t, u := u }
  | .cltn p t u => { major := 0x12, pm := p, sig := .lr, t := t, u := u }
  | .clen p t u => { major := 0x12, pm := p, sig := .lr, t := t, u := u }
  | .sel t u => { major := 0x13, sig := .lrp, t := t, u := u }
  | .exts8 p t u => { major := 0x13, pm := p, sig := .l, t := t, u := u }
  | .exts16 p t u => { major := 0x13, pm := p, sig := .l, t := t, u := u }
  | .exts32 p t u => { major := 0x13, pm := p, sig := .l, t := t, u := u }
  | .extn8 p t u => { major := 0x13, pm := p, sig := .l, t := t, u := u }
  | .extn16 p t u => { major := 0x13, pm := p, sig := .l, t := t, u := u }
  | .extn32 p t u => { major := 0x13, pm := p, sig := .l, t := t, u := u }
  | .addi p _ t => { major := 0x14, pm := p, sig := .l, t := t }
  | .muli p _ t => { major := 0x15, pm := p, sig := .l, t := t }
  | .andi p _ t => { major := 0x16, pm := p, sig := .l, t := t }
  | .ori p _ t => { major := 0x17, pm := p, sig := .l, t := t }
  | .xori p _ t => { major := 0x18, pm := p, sig := .l, t := t }
  | .shli p _ t => { major := 0x19, pm := p, sig := .l, t := t }
  | .shrni p _ t => { major := 0x1A, pm := p, sig := .l, t := t }
  | .shrsi p _ t => { major := 0x1B, pm := p, sig := .l, t := t }
  | .ceqi p _ t => { major := 0x1C, pm := p, sig := .l, t := t }
  | .cltsi p _ t => { major := 0x1D, pm := p, sig := .l, t := t }
  | .vadd p _ t u => { major := 0x30, pm := p, sig := .lr, t := t, u := u }
  | .vsub p _ t u => { major := 0x30, pm := p, sig := .lr, t := t, u := u }
  | .vadds p _ t u => { major := 0x30, pm := p, sig := .lr, t := t, u := u }
  | .vsubs p _ t u => { major := 0x30, pm := p, sig := .lr, t := t, u := u }
  | .vmul p _ t u => { major := 0x31, pm := p, sig := .lr, t := t, u := u }
  | .vmulh p _ t u => { major := 0x31, pm := p, sig := .lr, t := t, u := u }
  | .vmin p _ t u => { major := 0x31, pm := p, sig := .lr, t := t, u := u }
  | .vmax p _ t u => { major := 0x31, pm := p, sig := .lr, t := t, u := u }
  | .vand p _ t u => { major := 0x32, pm := p, sig := .lr, t := t, u := u }
  | .vor p _ t u => { major := 0x32, pm := p, sig := .lr, t := t, u := u }
  | .vxor p _ t u => { major := 0x32, pm := p, sig := .lr, t := t, u := u }
  | .vandn p _ t u => { major := 0x32, pm := p, sig := .lr, t := t, u := u }
  | .vshl p _ t u => { major := 0x33, pm := p, sig := .lr, t := t, u := u }
  | .vshr p _ t u => { major := 0x33, pm := p, sig := .lr, t := t, u := u }
  | .vrotl p _ t u => { major := 0x33, pm := p, sig := .lr, t := t, u := u }
  | .vnot p _ t u => { major := 0x33, pm := p, sig := .l, t := t, u := u }
  | .vceq p _ t u => { major := 0x34, pm := p, sig := .lr, t := t, u := u }
  | .vcne p _ t u => { major := 0x34, pm := p, sig := .lr, t := t, u := u }
  | .vclt p _ t u => { major := 0x34, pm := p, sig := .lr, t := t, u := u }
  | .vcle p _ t u => { major := 0x34, pm := p, sig := .lr, t := t, u := u }
  | .vsplat p _ t u => { major := 0x35, pm := p, sig := .l, t := t, u := u }
  | .vextr p _ t u => { major := 0x35, pm := p, sig := .lr, t := t, u := u }
  | .vperm p _ t u => { major := 0x35, pm := p, sig := .lr, t := t, u := u }
  | .vsel _ t u => { major := 0x35, sig := .lrp, t := t, u := u }
  | .vredadd p _ t u => { major := 0x36, pm := p, sig := .l, t := t, u := u }
  | .vredmin p _ t u => { major := 0x36, pm := p, sig := .l, t := t, u := u }
  | .vredmax p _ t u => { major := 0x36, pm := p, sig := .l, t := t, u := u }
  | .vabs p _ t u => { major := 0x36, pm := p, sig := .l, t := t, u := u }
  | .vwidenlo p _ t u => { major := 0x37, pm := p, sig := .l, t := t, u := u }
  | .vwidenhi p _ t u => { major := 0x37, pm := p, sig := .l, t := t, u := u }
  | .vnarrow p _ t u => { major := 0x37, pm := p, sig := .lr, t := t, u := u }
  | .vnarrows p _ t u => { major := 0x37, pm := p, sig := .lr, t := t, u := u }
  | .fadd p _ t u => { major := 0x50, pm := p, sig := .lr, t := t, u := u }
  | .fsub p _ t u => { major := 0x50, pm := p, sig := .lr, t := t, u := u }
  | .fmul p _ t u => { major := 0x50, pm := p, sig := .lr, t := t, u := u }
  | .fdiv p _ t u => { major := 0x50, pm := p, sig := .lr, t := t, u := u }
  | .fma _ t u => { major := 0x51, sig := .lrp, t := t, u := u }
  | .fms _ t u => { major := 0x51, sig := .lrp, t := t, u := u }
  | .fmin p _ t u => { major := 0x51, pm := p, sig := .lr, t := t, u := u }
  | .fmax p _ t u => { major := 0x51, pm := p, sig := .lr, t := t, u := u }
  | .fceq p _ t u => { major := 0x52, pm := p, sig := .lr, t := t, u := u }
  | .fclt p _ t u => { major := 0x52, pm := p, sig := .lr, t := t, u := u }
  | .fcle p _ t u => { major := 0x52, pm := p, sig := .lr, t := t, u := u }
  | .fcun p _ t u => { major := 0x52, pm := p, sig := .lr, t := t, u := u }
  | .fabs p _ t u => { major := 0x53, pm := p, sig := .l, t := t, u := u }
  | .fneg p _ t u => { major := 0x53, pm := p, sig := .l, t := t, u := u }
  | .fsqrt p _ t u => { major := 0x53, pm := p, sig := .l, t := t, u := u }
  | .fredadd p _ t u => { major := 0x53, pm := p, sig := .l, t := t, u := u }
  | .exp2 p _ t u => { major := 0x54, pm := p, sig := .l, t := t, u := u }
  | .log2 p _ t u => { major := 0x54, pm := p, sig := .l, t := t, u := u }
  | .rcp p _ t u => { major := 0x54, pm := p, sig := .l, t := t, u := u }
  | .rsq p _ t u => { major := 0x54, pm := p, sig := .l, t := t, u := u }
  | .tanh p _ t u => { major := 0x55, pm := p, sig := .l, t := t, u := u }
  | .frint p _ t u => { major := 0x55, pm := p, sig := .l, t := t, u := u }
  | .cvtFloatSource p _ _ t u => { major := 0x56, pm := p, sig := .l, t := t, u := u }
  | .cvtIntegerSource p _ _ t u => { major := 0x57, pm := p, sig := .l, t := t, u := u }
  | .snarrow p _ _ t u => { major := 0x58, pm := p, sig := .lr, t := t, u := u }
  | .swiden p _ _ t u => { major := 0x59, pm := p, sig := .lr, t := t, u := u }
  | .vaddCompact _ t => { major := 0x30, sig := .lr, t := t }
  | .vsubCompact _ t => { major := 0x30, sig := .lr, t := t }
  | .vmulCompact _ t => { major := 0x31, sig := .lr, t := t }
  | .vminCompact _ t => { major := 0x31, sig := .lr, t := t }
  | .vmaxCompact _ t => { major := 0x31, sig := .lr, t := t }
  | .vandCompact _ t => { major := 0x32, sig := .lr, t := t }
  | .vorCompact _ t => { major := 0x32, sig := .lr, t := t }
  | .vxorCompact _ t => { major := 0x32, sig := .lr, t := t }
  | .vshlCompact _ t => { major := 0x33, sig := .lr, t := t }
  | .vshrCompact _ t => { major := 0x33, sig := .lr, t := t }
  | .vceqCompact _ t => { major := 0x34, sig := .lr, t := t }
  | .faddCompact _ t => { major := 0x50, sig := .lr, t := t }
  | .fsubCompact _ t => { major := 0x50, sig := .lr, t := t }
  | .fmulCompact _ t => { major := 0x50, sig := .lr, t := t }
  | .fminCompact _ t => { major := 0x51, sig := .lr, t := t }
  | .fmaxCompact _ t => { major := 0x51, sig := .lr, t := t }
  | .ld p _ n _ t => { major := 0x60, pm := p, sig := .l, t := t, lsid := some n.toNat }
  | .st p _ n _ => { major := 0x61, pm := p, sig := .lr, lsid := some n.toNat, smask := true }
  | .ldd p _ n r _ => { major := 0x62, pm := p, sig := .l, lsid := some n.toNat, smask := true, fill := some r.toNat }
  | .take p n _ t => { major := 0x63, pm := p, sig := .l, t := t, lsid := some n.toNat, smask := true }
  | .look p n _ t => { major := 0x63, pm := p, sig := .l, t := t, lsid := some n.toNat }
  | .give p n _ => { major := 0x63, pm := p, sig := .lr, lsid := some n.toNat, smask := true }
  | .amend p n _ => { major := 0x63, pm := p, sig := .lr, lsid := some n.toNat, smask := true }
  | .post p n _ => { major := 0x63, pm := p, sig := .lr, lsid := some n.toNat, smask := true }
  | .void p n _ => { major := 0x63, pm := p, sig := .l, lsid := some n.toNat, smask := true }
  | .febit p n _ t => { major := 0x63, pm := p, sig := .l, t := t, lsid := some n.toNat }
  | .aadd p m n _ t => { major := m.major, pm := p, sig := .lr, t := t, lsid := some n.toNat, smask := true }
  | .aand p m n _ t => { major := m.major, pm := p, sig := .lr, t := t, lsid := some n.toNat, smask := true }
  | .aor p m n _ t => { major := m.major, pm := p, sig := .lr, t := t, lsid := some n.toNat, smask := true }
  | .axor p m n _ t => { major := m.major, pm := p, sig := .lr, t := t, lsid := some n.toNat, smask := true }
  | .amins p m n _ t => { major := m.major, pm := p, sig := .lr, t := t, lsid := some n.toNat, smask := true }
  | .amaxs p m n _ t => { major := m.major, pm := p, sig := .lr, t := t, lsid := some n.toNat, smask := true }
  | .aminn p m n _ t => { major := m.major, pm := p, sig := .lr, t := t, lsid := some n.toNat, smask := true }
  | .amaxn p m n _ t => { major := m.major, pm := p, sig := .lr, t := t, lsid := some n.toNat, smask := true }
  | .aswp p m n _ t => { major := m.major, pm := p, sig := .lr, t := t, lsid := some n.toNat, smask := true }
  | .acas m n _ t => { major := m.major, sig := .lrp, t := t, lsid := some n.toNat, smask := true }
  | .fenceCore p n => { major := 0x68, pm := p, lsid := some n.toNat, smask := true }
  | .fenceBasin p n => { major := 0x68, pm := p, lsid := some n.toNat, smask := true }
  | .fenceSys p n => { major := 0x68, pm := p, lsid := some n.toNat, smask := true }
  | .ldacqCore p n _ t => { major := 0x68, pm := p, sig := .l, t := t, lsid := some n.toNat }
  | .ldacqBasin p n _ t => { major := 0x68, pm := p, sig := .l, t := t, lsid := some n.toNat }
  | .ldacqSys p n _ t => { major := 0x68, pm := p, sig := .l, t := t, lsid := some n.toNat }
  | .strelCore p n _ => { major := 0x68, pm := p, sig := .lr, lsid := some n.toNat, smask := true }
  | .strelBasin p n _ => { major := 0x68, pm := p, sig := .lr, lsid := some n.toNat, smask := true }
  | .strelSys p n _ => { major := 0x68, pm := p, sig := .lr, lsid := some n.toNat, smask := true }
  | .probe p n t => { major := 0x69, pm := p, sig := .l, t := t, lsid := some n.toNat }
  | .mls p n => { major := 0x70, pm := p, sig := .lr, lsid := some n.toNat, smask := true }
  | .mlsc p n _ => { major := 0x70, pm := p, sig := .lr, lsid := some n.toNat, smask := true }
  | .mswap p n => { major := 0x70, pm := p, sig := .lr, lsid := some n.toNat, smask := true }
  | .mstream p n => { major := 0x70, pm := p, sig := .lr, lsid := some n.toNat, smask := true }
  | .mstreama p n => { major := 0x70, pm := p, sig := .lr, lsid := some n.toNat, smask := true }
  | .mzero p n _ => { major := 0x70, pm := p, sig := .lr, lsid := some n.toNat, smask := true }
  | .mdrain p n => { major := 0x70, pm := p, sig := .lr, lsid := some n.toNat, smask := true }
  | .mdrainn p n => { major := 0x70, pm := p, sig := .lr, lsid := some n.toNat, smask := true }
  | .mtask p n => { major := 0x70, pm := p, sig := .lr, lsid := some n.toNat, smask := true }
  | .mstat p n t => { major := 0x70, pm := p, t := t, lsid := some n.toNat }
  | .cpy1 p n _ => { major := 0x74, pm := p, sig := .lr, lsid := some n.toNat, smask := true }
  | .cpy2 p n _ => { major := 0x74, pm := p, sig := .lr, lsid := some n.toNat, smask := true }
  | .gath p n _ => { major := 0x74, pm := p, sig := .lr, lsid := some n.toNat, smask := true }
  | .scat p n _ => { major := 0x74, pm := p, sig := .lr, lsid := some n.toNat, smask := true }
  | .fill p n _ => { major := 0x74, pm := p, sig := .lr, lsid := some n.toNat, smask := true }
  | .cpycv p n _ => { major := 0x74, pm := p, sig := .lr, lsid := some n.toNat, smask := true }
  | .cpymc p n _ => { major := 0x74, pm := p, sig := .lr, lsid := some n.toNat, smask := true }
  | .culv p n _ => { major := 0x74, pm := p, sig := .lr, lsid := some n.toNat, smask := true }
  | .pghand p n _ => { major := 0x74, pm := p, sig := .lr, lsid := some n.toNat, smask := true }
  | .ctask p n => { major := 0x74, pm := p, sig := .lr, lsid := some n.toNat, smask := true }
  | .twany p n t => { major := 0x74, pm := p, sig := .l, t := t, lsid := some n.toNat }
  | .twall p n t => { major := 0x74, pm := p, sig := .l, t := t, lsid := some n.toNat }
  | .tffr p n t => { major := 0x74, pm := p, sig := .l, t := t, lsid := some n.toNat }
  | .cstat p n t => { major := 0x74, pm := p, t := t, lsid := some n.toNat }
  | .hbind p n _ => { major := 0x78, pm := p, sig := .lr, lsid := some n.toNat, smask := true }
  | .hbund p n _ => { major := 0x78, pm := p, sig := .lr, lsid := some n.toNat, smask := true }
  | .hperm p n => { major := 0x78, pm := p, sig := .lr, lsid := some n.toNat, smask := true }
  | .hthr p n _ => { major := 0x78, pm := p, sig := .lr, lsid := some n.toNat, smask := true }
  | .hld p n => { major := 0x78, pm := p, sig := .lr, lsid := some n.toNat, smask := true }
  | .hst p n => { major := 0x78, pm := p, sig := .lr, lsid := some n.toNat, smask := true }
  | .hclr p n _ => { major := 0x78, pm := p, sig := .lr, lsid := some n.toNat, smask := true }
  | .hphase p n => { major := 0x78, pm := p, sig := .lr, lsid := some n.toNat, smask := true }
  | .hbndld p n => { major := 0x78, pm := p, sig := .lr, lsid := some n.toNat, smask := true }
  | .hbndst p n => { major := 0x78, pm := p, sig := .lr, lsid := some n.toNat, smask := true }
  | .hmove p n _ => { major := 0x78, pm := p, sig := .lr, lsid := some n.toNat, smask := true }
  | .hdist p n _ r => { major := 0x78, pm := p, sig := .lr, lsid := some n.toNat, smask := true, fill := some r.toNat }
  | .hnear p n r => { major := 0x78, pm := p, sig := .lr, lsid := some n.toNat, smask := true, fill := some r.toNat }
  | .hneark p n r => { major := 0x78, pm := p, sig := .lr, lsid := some n.toNat, smask := true, fill := some r.toNat }
  | .hpopc p n _ r => { major := 0x78, pm := p, sig := .lr, lsid := some n.toNat, smask := true, fill := some r.toNat }
  | .qsend p n => { major := 0x7B, pm := p, sig := .lr, lsid := some n.toNat, smask := true }
  | .qsendv p n => { major := 0x7B, pm := p, sig := .lr, lsid := some n.toNat, smask := true }
  | .qrecv p n t => { major := 0x7B, pm := p, sig := .l, t := t, lsid := some n.toNat, smask := true }
  | .qrecvd p n r => { major := 0x7B, pm := p, sig := .l, lsid := some n.toNat, smask := true, fill := some r.toNat }
  | .qpoll p n t => { major := 0x7B, pm := p, sig := .l, t := t, lsid := some n.toNat }
  | .qstat p n t => { major := 0x7B, pm := p, sig := .l, t := t, lsid := some n.toNat }
  | .wbar p n t => { major := 0x7C, pm := p, sig := .l, t := t, lsid := some n.toNat, smask := true }
  | .warr p n => { major := 0x7C, pm := p, sig := .l, lsid := some n.toNat, smask := true }
  | .wwait p n t => { major := 0x7C, pm := p, sig := .l, t := t, lsid := some n.toNat }
  | .wtime p n t => { major := 0x7C, pm := p, t := t, lsid := some n.toNat }
  | .wsleep p n _ t => { major := 0x7C, pm := p, sig := .l, t := t, lsid := some n.toNat }
  | .wstat p n t => { major := 0x7C, pm := p, sig := .l, t := t, lsid := some n.toNat }
  | .wcfg p n => { major := 0x7C, pm := p, sig := .lr, lsid := some n.toNat, smask := true, priv := true }
  | .wstep p n => { major := 0x7C, pm := p, sig := .lr, lsid := some n.toNat, smask := true, priv := true }
  | .launch p n => { major := 0x7D, pm := p, sig := .l, lsid := some n.toNat, smask := true }
  | .dpush p n => { major := 0x7D, pm := p, sig := .lr, lsid := some n.toNat, smask := true }
  | .dpop p n t => { major := 0x7D, pm := p, sig := .l, t := t, lsid := some n.toNat, smask := true }
  | .joinad p n _ => { major := 0x7D, pm := p, sig := .lr, lsid := some n.toNat, smask := true }
  | .joinw p n t => { major := 0x7D, pm := p, sig := .l, t := t, lsid := some n.toNat }
  | .spawn p n => { major := 0x7D, pm := p, sig := .lr, lsid := some n.toNat, smask := true }
  | .dstat p n t => { major := 0x7D, pm := p, sig := .l, t := t, lsid := some n.toNat }
  | .dweight p n => { major := 0x7D, pm := p, sig := .lr, lsid := some n.toNat, smask := true, priv := true }
  | .freeze p => { major := 0x7E, pm := p, sig := .l, priv := true }
  | .thaw p => { major := 0x7E, pm := p, sig := .l, priv := true }
  | .ackf p => { major := 0x7E, pm := p, sig := .l, priv := true }
  | .stopt p => { major := 0x7E, pm := p, sig := .l, priv := true }
  | .startt p => { major := 0x7E, pm := p, sig := .l, priv := true }
  | .tlbinv p => { major := 0x7E, pm := p, sig := .l, priv := true }
  | .swapout p => { major := 0x7E, pm := p, sig := .l, priv := true }
  | .swapin p => { major := 0x7E, pm := p, sig := .l, priv := true }
  | .rdctx p t u => { major := 0x7E, pm := p, sig := .lr, t := t, u := u, priv := true }
  | .wrctx => { major := 0x7E, sig := .lrp, priv := true }
  | .migr p => { major := 0x7E, pm := p, sig := .lr, priv := true }
  | .idle p t u => { major := 0x7E, pm := p, t := t, u := u, priv := true }
  | .blockLookup _ _ => {}
  | .blockMissFill _ _ => {}
  | .alignHoldTimeout _ _ => {}
  | .blockCommit _ _ => {}
  | .performingResult _ => {}
  | .fillArrival _ => {}
  | .waitLimitExpiry _ _ => {}
  | .withdrawal _ => {}
  | .tlbMissRequest _ _ _ => {}
  | .pageWalk _ _ _ => {}
  | .homeAccess _ => {}
  | .waitlistResend _ => {}
  | .ownershipRequest _ => {}
  | .patrolScrub _ => {}
  | .interleaveDescriptorWrite _ _ _ => {}
  | .mChipletStateWrite _ _ => {}
  | .combinedRead _ _ => {}
  | .matrixIntakeArrival _ => {}
  | .matrixCommandStart _ => {}
  | .matrixCommandComplete _ _ => {}
  | .matrixTaskTake _ _ _ _ => {}
  | .matrixTaskStart _ => {}
  | .matrixRetry _ => {}
  | .matrixSkip _ => {}
  | .matrixFlush _ => {}
  | .engineSave _ => {}
  | .copyIntakeArrival _ => {}
  | .copyCommandStart _ => {}
  | .copyLineWrite _ _ => {}
  | .copyCommandComplete _ _ => {}
  | .copyTaskAccept _ _ _ _ => {}
  | .culvertDataAck _ _ => {}
  | .pghandFlagAck _ _ => {}
  | .culvertLimitExpiry _ _ => {}
  | .copyFclr _ => {}
  | .tagWaitDeliver _ _ _ => {}
  | .hvIntakeArrival _ => {}
  | .hvCommandStart _ => {}
  | .hvCommandComplete _ => {}
  | .queueMessageArrival _ => {}
  | .queueReservationGrant _ _ => {}
  | .queueRefusal _ => {}
  | .deliveryAck _ => {}
  | .undeliverableReturn _ => {}
  | .sumpSpill _ _ => {}
  | .sumpDrain _ => {}
  | .nstWrite _ _ _ => {}
  | .markerAck _ => {}
  | .queueEnWrite _ _ _ => {}
  | .queueDisc _ _ => {}
  | .queueReset _ _ => {}
  | .stepRequest _ => {}
  | .clockStsWrite _ _ => {}
  | .frequencyStep _ => {}
  | .relockEnd _ => {}
  | .barrierCellWrite _ _ _ => {}
  | .barrierArrival _ => {}
  | .moduleCompletionReport _ => {}
  | .waiterWake _ _ => {}
  | .sleepDeadline _ _ _ => {}
  | .coreGate _ => {}
  | .ditchDescriptorWrite _ _ _ _ => {}
  | .ditchRst _ _ => {}
  | .addseg _ _ => {}
  | .addimg _ _ => {}
  | .addsave _ _ => {}
  | .sluiceHoldWrite _ _ => {}
  | .regionWrite _ _ _ => {}
  | .ditchAppend _ => {}
  | .appendWaitResume _ _ => {}
  | .launchExpansion _ => {}
  | .dependantSignal _ => {}
  | .placementPass _ => {}
  | .shareBoundary _ => {}
  | .suspensionComplete _ _ => {}
  | .rpubWrite _ _ => {}
  | .generationAdopt _ => {}
  | .faultPacketArrival _ => {}
  | .idleDeliver _ _ _ => {}
  | .supervisorCommandArrival _ => {}
  | .slotStopw _ _ => {}
  | .slotStartw _ _ => {}
  | .slotFrzw _ _ => {}
  | .slotFrzClear _ _ => {}
  | .slotAckClear _ _ => {}
  | .contextMirrorWrite _ _ _ _ => {}
  | .sumpWindowWrite _ _ _ => {}
  | .swapoutComplete _ => {}
  | .migrArrival _ => {}
  | .migrationQuiesce _ => {}
  | .migrationSave _ => {}
  | .migrationCopy _ => {}
  | .migrationRestore _ => {}
  | .rdirClear _ => {}
  | .powerGood => {}
  | .phase0End _ => {}
  | .wavefrontSlotStart _ => {}
  | .offerWindowClose _ => {}
  | .clockLock _ => {}
  | .siteConfigured _ => {}
  | .memoryClearDone _ => {}
  | .seamPass => {}
  | .tablesPhase _ => {}
  | .coresRelease _ => {}
  | .cfgacc _ _ _ _ => {}
  | .leatFrameReceive _ _ => {}
  | .leatWrite _ _ => {}
  | .leatRead _ _ => {}
  | .leatDitchw _ _ => {}
  | .leatLaunch _ _ => {}
  | .mgmtStatus _ _ => {}
  | .mgmtAttest _ _ => {}
  | .mgmtIdent _ _ => {}
  | .mgmtFwchunk _ _ => {}
  | .mgmtFwcommit _ _ => {}
  | .mgmtRestart _ _ => {}
  | .restartComplete => {}
  | .hostComplArrival _ _ => {}
  | .hostWriteRetransmit _ _ => {}
  | .linkFlitReceive _ _ => {}
  | .linkNakReceive _ _ => {}
  | .linkAckReceive _ _ => {}
  | .keySlotWrite _ _ _ => {}
  | .txksWrite _ _ => {}
  | .wreqWrite _ _ => {}
  | .widthChange _ => {}
  | .laneLockLoss _ => {}
  | .portEnWrite _ _ => {}
  | .powerWindow _ => {}
  | .marginSample _ _ => {}
  | .traceSessionWrite _ _ _ _ => {}
  | .replayGo _ => {}
  | .configWrite _ _ _ => {}
  | .basinClockEdge _ => {}
  | .softError _ _ => {}
  | .leatLinkChange _ _ => {}
  | .linkTrainingDone _ _ _ => {}

/-- Whether the form has the operand slot (R56). -/
def Shape.has (sh : Shape) : OpSlot → Bool
  | .l => decide (sh.sig ≠ .none)
  | .r => decide (sh.sig = .lr) || decide (sh.sig = .lrp)
  | .p => decide (sh.sig = .lrp) || decide (sh.pm ≠ .always)

/-! ### Blocks -/

/-- The fields of a block header (Table 2-1). -/
structure Header where
  ninst : Nat
  smask : Nat
  nwrite : Nat
  nexit : Nat
  blen : Nat
  deriving DecidableEq, Repr

/-- The header of its 8 bytes, or causes 0x01 to 0x03 of its own fields (R48, R69). -/
def decodeHeader (h : Nat) : Except DecodeCause Header :=
  if h % 16 ≠ 10 then .error .mark
  else if h / 1024 % 64 ≠ 0 ∨ h / 281474976710656 % 65536 ≠ 0 then .error .headerReserved
  else
    let blen := h / 1099511627776 % 256
    if blen = 0 ∨ 128 < blen then .error .framing
    else .ok ⟨h / 16 % 64, h / 65536 % 65536, h / 4294967296 % 32, h / 137438953472 % 8, blen⟩

/-- The instruction words of a body given as halfwords (R49), each with its length bit in bit 0; at most `fuel` of them. -/
def splitBody : Nat → List Nat → Except DecodeCause (List Nat)
  | _, [] => .ok []
  | 0, _ :: _ => .error .framing
  | k + 1, lo :: rest =>
    if lo % 2 = 0 then (splitBody k rest).map (lo :: ·)
    else match rest with
      | hi :: rest' => (splitBody k rest').map ((lo + 65536 * hi) :: ·)
      | [] => .error .framing

/-- The legality of a target of instruction i against the whole block (R55): the consumer exists, comes later, names an
assigned form and has the slot. -/
def targetOk (ws : List Nat) (i : Nat) : Option Target → Bool
  | none => true
  | some t =>
    decide (i < t.idx.toNat) &&
      match ws[t.idx.toNat]? with
      | none => false
      | some w => match decodeWord w with
        | .ok c => c.shape.has t.slot
        | .error .major => false
        | .error .value => false
        | .error _ => formHas w t.slot
where
  /-- The slots of a consumer that is illegal for a later cause than 0x05: those of its form's signature, read from the same word with the fields
  cleared that do not choose the form, and a p slot by the predicate mode as encoded (R56). A nonzero variant where the form has none is such a
  field (cause 0x06). -/
  formHas (w : Nat) (sl : OpSlot) : Bool :=
    let m := w / 8 % 128
    let keep :=
      if m ≤ 0x06 then w % 8192
      else if 0x08 ≤ m && m ≤ 0x0C then w % 65536
      else if m == 0x0E || m == 0x0F || (0x14 ≤ m && m ≤ 0x1D) then w % 1024
      else if 0x60 ≤ m && m ≤ 0x69 then w % 262144
      else if 0x70 ≤ m && m ≤ 0x7D then w % 1048576 + w / 268435456 * 268435456
      else w % 65536
    let pm := w / 2 % 4
    let clean := if w % 2 = 0 then w % 256 else keep - pm * 2
    let sig? := match decodeWord clean with
      | .ok c => some c.shape.sig
      | .error .mustBeZero => (match decodeWord (clean % 268435456) with
        | .ok c => some c.shape.sig
        | .error _ => none)
      | .error _ => none
    match sig? with
    | none => false
    | some sig =>
      match sl with
      | .l => decide (sig ≠ .none)
      | .r => decide (sig = .lr) || decide (sig = .lrp)
      | .p => decide (sig = .lrp) || (w % 2 == 1 && (pm == 1 || pm == 2))

/-- Causes 0x04 to 0x0A of instruction i, in code order (R69). -/
def checkInstr (sv : Bool) (ws : List Nat) (i w : Nat) : Except DecodeCause Instr :=
  match decodeWord w with
  | .error c => .error c
  | .ok ins =>
    let sh := ins.shape
    if !(targetOk ws i sh.t && targetOk ws i sh.u) then .error .target
    else if sh.priv && !sv then .error .privileged
    else .ok ins

/-- Every instruction checked in index order; the index goes with the cause. -/
def checkAll (sv : Bool) (ws : List Nat) : Nat → List Nat → Except (DecodeCause × Nat) (List Instr)
  | _, [] => .ok []
  | i, w :: rest =>
    match checkInstr sv ws i w with
    | .error .immediate => .error (laterCause i w, i)
    | .error c => .error (c, i)
    | .ok ins => (checkAll sv ws (i + 1) rest).map (ins :: ·)
where
  /-- An immediate out of range is cause 0x09, unless the instruction's targets break R55 in the block (0x08). -/
  laterCause (i w : Nat) : DecodeCause :=
    match Target.ofByte (w / 1024 % 256) with
    | .ok t => if targetOk ws i t then .immediate else .target
    | .error c => c

/-- Whether some instruction of the block targets the slot of instruction i. -/
def targeted (is : List Instr) (i : Nat) (sl : OpSlot) : Bool :=
  is.any fun ins =>
    let sh := ins.shape
    decide (sh.t = some ⟨sl, BitVec.ofNat 6 i⟩) || decide (sh.u = some ⟨sl, BitVec.ofNat 6 i⟩)

/-- The lowest instruction index with a slot that no target names (cause 0x0E). -/
def firstUntargeted (is : List Instr) : Nat → List Instr → Option Nat
  | _, [] => none
  | i, ins :: rest =>
    if [OpSlot.l, OpSlot.r, OpSlot.p].any fun sl => ins.shape.has sl && !targeted is i sl then some i
    else firstUntargeted is (i + 1) rest

/-- The mask of the LSIDs in a list. -/
def lsidMask : List Nat → Nat
  | [] => 0
  | n :: ns => 2 ^ n + lsidMask ns

/-- The block-wide causes 0x0B to 0x0E (R69), with their index. -/
def checkBlock (h : Header) (is : List Instr) : Except (DecodeCause × Nat) Unit :=
  let shs := is.map Instr.shape
  let lsids := shs.filterMap Shape.lsid
  let stores := (shs.filter Shape.smask).filterMap Shape.lsid
  let writes := shs.filterMap Shape.write
  let nwr := writes.length + (shs.filterMap Shape.wrc).length
  let exits := shs.filterMap Shape.exit
  if !decide lsids.Nodup || lsidMask stores ≠ h.smask then .error (.smask, 127)
  else if nwr ≠ h.nwrite || 16 < nwr || !decide writes.Nodup || 32 < (shs.filter Shape.reads).length then
    .error (.writes, 127)
  else if h.nexit = 0 || exits.length ≠ h.nexit || !decide exits.Nodup || !(exits.all fun x => decide (x < h.nexit)) then
    .error (.exits, 127)
  else match firstUntargeted is 0 is with
    | some i => .error (.untargeted, i)
    | none => .ok ()

/-- The whole block: its header word and its body as halfwords (R69). Answers the header, the instruction words and the
instructions, or the cause and the index of Table 2-14. -/
def decodeBlock (sv : Bool) (hd : Nat) (body : List Nat) : Except (DecodeCause × Nat) (Header × List Nat × List Instr) :=
  match decodeHeader hd with
  | .error c => .error (c, 127)
  | .ok h =>
    match splitBody 64 (body.take h.blen) with
    | .error c => .error (c, 127)
    | .ok ws =>
      if ws.length ≠ h.ninst + 1 then .error (.framing, 127)
      else match checkAll sv ws 0 ws with
        | .error e => .error e
        | .ok is => match checkBlock h is with
          | .error e => .error e
          | .ok () => .ok (h, ws, is)

end Sys2Proof
end

