-- ==== Sys2Proof/Machine/Map.lean ====
section
/-! DEFINITION. Sparse maps from numbers to plain data, and the memory of the part as a canonical sparse map of bytes
(spec/00_scope.md R5, spec/04_ordering.md R114). -/

namespace Sys2Proof.Machine

/-- A sparse map: pairs of a key and a value, keys rising. A key that is not listed has a default the reader names. -/
abbrev SMap (α : Type) := List (Nat × α)

/-- The value at a key, if listed. -/
def mget? {α : Type} : SMap α → Nat → Option α
  | [], _ => none
  | (a, x) :: m, k => if a = k then some x else mget? m k

/-- The value at a key, or the default. -/
def mget {α : Type} (m : SMap α) (k : Nat) (d : α) : α := (mget? m k).getD d

/-- The map with a value at a key. -/
def mput {α : Type} : SMap α → Nat → α → SMap α
  | [], k, v => [(k, v)]
  | (a, x) :: m, k, v =>
    if a = k then (k, v) :: m else if k < a then (k, v) :: (a, x) :: m else (a, x) :: mput m k v

/-- The map without a key. -/
def mdel {α : Type} : SMap α → Nat → SMap α
  | [], _ => []
  | (a, x) :: m, k => if a = k then mdel m k else (a, x) :: mdel m k

/-- A map whose default is d keeps no entry equal to d: the canonical form of a sparse map. -/
def mset {α : Type} [DecidableEq α] (d : α) (m : SMap α) (k : Nat) (v : α) : SMap α :=
  if v = d then mdel m k else mput m k v

/-- Keys strictly rising. -/
def mrising {α : Type} : SMap α → Bool
  | [] => true
  | [_] => true
  | (a, _) :: (b, y) :: m => decide (a < b) && mrising ((b, y) :: m)

/-- A sorted set of numbers with one more member. -/
def sins : List Nat → Nat → List Nat
  | [], k => [k]
  | a :: l, k => if a = k then a :: l else if k < a then k :: a :: l else a :: sins l k

/-- A sorted set of numbers without a member. -/
def sdel : List Nat → Nat → List Nat
  | [], _ => []
  | a :: l, k => if a = k then sdel l k else a :: sdel l k

/-- Update element n of a list. -/
def lset {α : Type} : List α → Nat → α → List α
  | [], _, _ => []
  | _ :: l, 0, v => v :: l
  | x :: l, n + 1, v => x :: lset l n v

/-- Bits [hi:lo] of a number. -/
def bits (n hi lo : Nat) : Nat := n / 2 ^ lo % 2 ^ (hi + 1 - lo)

/-- Bit k of a number. -/
def bit (n k : Nat) : Bool := n / 2 ^ k % 2 == 1

/-- A 64-bit word of a number. -/
def w64 (n : Nat) : W64 := BitVec.ofNat 64 n

/-- A number with field [hi:lo] replaced. -/
def setBits (n hi lo v : Nat) : Nat :=
  n % 2 ^ lo + (v % 2 ^ (hi + 1 - lo)) * 2 ^ lo + n / 2 ^ (hi + 1) * 2 ^ (hi + 1)

/-- Signed reading of an n-bit field. -/
def sext (x n : Nat) : Int := (BitVec.ofNat n x).toInt

/-! ### Memory -/

/-- The on-wafer memory: the bytes that are not zero, the words that are empty, and the words whose stored data or check
bits are in error (false a single-bit error, true a poisoned word). Words are named by address / 8. -/
structure Memory where
  cells : List Host.Cell := []
  empties : List Nat := []
  errs : SMap Bool := []
  deriving DecidableEq, Repr

/-- What a byte reads as that nothing has written (R205; log entry 7). -/
def Memory.unlisted : Byte := 0#8

/-- One byte of memory. -/
def Memory.byte (m : Memory) (a : Nat) : Byte := mget m.cells a Memory.unlisted

/-- Memory with one byte written, in canonical form. -/
def Memory.setByte (m : Memory) (a : Nat) (b : Byte) : Memory := { m with cells := mset Memory.unlisted m.cells a b }

/-- The full/empty bit of a word: true is full. -/
def Memory.full (m : Memory) (w : Nat) : Bool := !m.empties.contains w

/-- Memory with the full/empty bit of a word set. -/
def Memory.setFull (m : Memory) (w : Nat) (f : Bool) : Memory :=
  { m with empties := if f then sdel m.empties w else sins m.empties w }

/-- Whether a word is poisoned (R231). -/
def Memory.poisoned (m : Memory) (w : Nat) : Bool := mget? m.errs w == some true

/-- Whether a word holds a single-bit error (R231). -/
def Memory.correctable (m : Memory) (w : Nat) : Bool := mget? m.errs w == some false

/-- Memory with the error record of a word set or cleared. -/
def Memory.setErr (m : Memory) (w : Nat) (e : Option Bool) : Memory :=
  { m with errs := match e with | some b => mput m.errs w b | none => mdel m.errs w }

/-- Members strictly rising. -/
def srising : List Nat → Bool
  | [] => true
  | [_] => true
  | a :: b :: l => decide (a < b) && srising (b :: l)

/-- The canonical form: addresses strictly rising, no byte listed that reads as an unlisted one, and the lists of empty
and of erroneous words strictly rising. -/
def Memory.wf (m : Memory) : Bool :=
  mrising m.cells && (m.cells.all fun c => decide (c.2 ≠ Memory.unlisted)) && srising m.empties && mrising m.errs

/-- n bytes from an address as one little-endian number (R5). -/
def Memory.read (m : Memory) (a : Nat) : Nat → Nat
  | 0 => 0
  | n + 1 => (m.byte a).toNat + 256 * Memory.read m (a + 1) n

/-- Write the n low bytes of a number at an address, lowest first; only bytes whose bit in the mask is 0 are written. -/
def Memory.write (m : Memory) (a v : Nat) (mask : Nat) : Nat → Memory
  | 0 => m
  | n + 1 =>
    Memory.write (if mask % 2 = 0 then m.setByte a (BitVec.ofNat 8 v) else m) (a + 1) (v / 256) (mask / 2) n

end Sys2Proof.Machine
end

