-- ==== Sys2Proof/Machine/Geometry.lean ====
section
/-! DEFINITION. Where things stand on the wafer: sites, basins, cores, the grid and the mesh, and the fields of a physical
address (spec/01_organisation.md R14 to R24, R44; spec/07_slice_engine.md R202, R203; spec/13_sluice.md R383). -/

namespace Sys2Proof.Machine

/-- Chiplet types (Table 1-1). A site number from 484 up names no site. -/
inductive SiteKind where
  | corner | prompt | token | memory | headgate | hostLink | scaleLink | outside
  deriving DecidableEq, Repr

def siteX (n : Nat) : Nat := n % 22
def siteY (n : Nat) : Nat := n / 22
def siteAtXY (x y : Nat) : Nat := 22 * y + x

/-- Whether a column holds M chiplets. -/
def memColumn (x : Nat) : Bool := x == 5 || x == 10 || x == 13 || x == 16 || x == 19

/-- Table 1-1. -/
def siteKind (n : Nat) : SiteKind :=
  let x := siteX n
  let y := siteY n
  if 484 ≤ n then .outside
  else
    let ex := x == 0 || x == 21
    let ey := y == 0 || y == 21
    if ex && ey then .corner
    else if ex || ey then
      let pos := if ey then x else y
      if pos == 5 || pos == 16 then .headgate
      else if pos == 10 || pos == 11 then .hostLink
      else .scaleLink
    else if memColumn x then .memory
    else if x < 11 then .prompt
    else .token

/-- Whether a site is bonded in every part: it exists and is no corner. -/
def siteExists (n : Nat) : Bool :=
  match siteKind n with
  | .corner => false
  | .outside => false
  | _ => true

/-- P and T sites. -/
def isCompute (n : Nat) : Bool :=
  match siteKind n with
  | .prompt => true
  | .token => true
  | _ => false

/-- Basins 0 P0, 1 P1, 2 T0, 3 T1 (R17). -/
def basinOf (n : Nat) : Nat := (if 11 ≤ siteX n then 2 else 0) + (if 11 ≤ siteY n then 1 else 0)

/-- The headgates of a basin (R15, R438). -/
def headgates (b : Nat) : List Nat := (List.range 484).filter fun n => siteKind n == .headgate && basinOf n == b

/-- Whether a basin is a prompt basin. -/
def promptBasin (b : Nat) : Bool := b < 2

/-- First row of compute sites of a basin (R383). -/
def basinRow (b : Nat) : Nat := if b % 2 = 1 then 11 else 1

/-- Compute columns of a basin, from the west. -/
def computeCols (b : Nat) : List Nat := if promptBasin b then [1, 2, 3, 4, 6, 7, 8, 9] else [11, 12, 14, 15, 17, 18, 20]

/-- Index of a compute column in its basin. -/
def colIndex (b x : Nat) : Nat := (computeCols b).findIdx (· == x)

/-- Compute chiplets in a basin: 80 or 70 (R210). -/
def chipletsOf (b : Nat) : Nat := if promptBasin b then 80 else 70

/-- Nmax (R22). -/
def nmaxOf (b : Nat) : Nat := 16 * chipletsOf b

/-- Chiplet number of a compute site, in ascending site number. -/
def chipletNumber (n : Nat) : Nat :=
  let b := basinOf n
  (siteY n - basinRow b) * (computeCols b).length + colIndex b (siteX n)

/-- The compute site of a chiplet number of a basin. -/
def chipletSite (b k : Nat) : Nat :=
  let w := (computeCols b).length
  siteAtXY ((computeCols b).getD (k % w) 0) (basinRow b + k / w)

/-- The compute sites of a basin in ascending site number. -/
def computeSites (b : Nat) : List Nat := (List.range (chipletsOf b)).map (chipletSite b)

/-- Cores are named by 16 · site + c. -/
def coreSite (k : Nat) : Nat := k / 16
def coreOf (site c : Nat) : Nat := 16 * site + c
def coreBasin (k : Nat) : Nat := basinOf (coreSite k)
def coreNum (k : Nat) : Nat := k % 16

/-- Quads are named by core / 4 (R19). -/
def quadOf (k : Nat) : Nat := k / 4

/-- Slots are named by 8 · core + slot (R20). -/
def slotKey (core slot : Nat) : Nat := 8 * core + slot

/-- Physical index of a core position in its basin (R22). -/
def physIndex (core : Nat) : Nat := 16 * chipletNumber (coreSite core) + coreNum core

/-- The core position of a physical index. -/
def physCore (b k : Nat) : Nat := coreOf (chipletSite b (k / 16)) (k % 16)

/-- Slice bytes of a core: 2 MiB on P, 4 MiB on T. -/
def sliceBytes (core : Nat) : Nat := if promptBasin (coreBasin core) then 0x200000 else 0x400000

/-- Physical address of a core's slice (R21, R206). -/
def slicePa (core : Nat) : Nat := coreSite core * 2 ^ 37 + coreNum core * 2 ^ 22

/-- Grid coordinates of a core (R383). -/
def gridX (core : Nat) : Nat := 4 * colIndex (coreBasin core) (siteX (coreSite core)) + coreNum core % 4
def gridY (core : Nat) : Nat := 4 * (siteY (coreSite core) - basinRow (coreBasin core)) + coreNum core / 4
def gridW (b : Nat) : Nat := 4 * (computeCols b).length
def gridH (_b : Nat) : Nat := 40

/-- The core at grid coordinates of a basin. -/
def gridCore (b gx gy : Nat) : Nat :=
  coreOf (siteAtXY ((computeCols b).getD (gx / 4) 0) (basinRow b + gy / 4)) (4 * (gy % 4) + gx % 4)

/-- Mesh coordinates of router position p of a site (R16). -/
def meshX (site p : Nat) : Nat := 4 * siteX site + p % 4
def meshY (site p : Nat) : Nat := 4 * siteY site + p / 4

/-- The lower-numbered headgate of a basin, which holds the ring and the basin's registers (R25). -/
def headgateOf (b : Nat) : Nat := ((List.range 484).find? fun n => siteKind n == .headgate && basinOf n == b).getD 0

/-- Point of a physical index on the placement circle (R24). -/
def ringPoint (b k : Nat) : Nat := k * 2 ^ 32 / nmaxOf b

/-- The S sites in ascending number (R456). -/
def linkSites : List Nat := (List.range 484).filter fun n => siteKind n == .scaleLink

/-- The site of a port of the module. -/
def portSite (n : Nat) : Nat := linkSites.getD (n / 2) 0

/-! ### Physical addresses -/

/-- Space, site and offset of a physical address (R14, R44). -/
def paSpace (pa : Nat) : Nat := pa / 2 ^ 46 % 4
def paSite (pa : Nat) : Nat := pa / 2 ^ 37 % 512
def paOff (pa : Nat) : Nat := pa % 2 ^ 37

/-- Where a physical address leads for an issuer of basin b, before liveness of cores (Table 7-1, R203): a byte of a slice, of an M
chiplet, a configuration offset, or a slice fault. -/
inductive PaClass where
  | slice (core off : Nat)
  | mchip (site off : Nat)
  | config (site off : Nat)
  | refused (cause : Nat)
  deriving DecidableEq, Repr

def classifyPa (b pa : Nat) : PaClass :=
  let n := paSite pa
  let o := paOff pa
  match paSpace pa with
  | 0 =>
    if !siteExists n then .refused 0x31
    else if basinOf n ≠ b then .refused 0x32
    else match siteKind n with
      | .prompt => if o / 2 ^ 26 = 0 && !bit o 21 then .slice (coreOf n (bits o 25 22)) (o % 2 ^ 21) else .refused 0x31
      | .token => if o / 2 ^ 26 = 0 then .slice (coreOf n (bits o 25 22)) (o % 2 ^ 22) else .refused 0x31
      | .memory => if o < 0x18000000 then .mchip n o else .refused 0x31
      | _ => .refused 0x31
  | 3 =>
    if !siteExists n then .refused 0x31
    else if basinOf n ≠ b then .refused 0x32
    else .config n o
  | _ => .refused 0x32

/-- Lines of an address: 64 bytes. Words: 8 bytes. -/
def lineOf (pa : Nat) : Nat := pa / 64
def wordOf (pa : Nat) : Nat := pa / 8

/-- The words an access of n bytes touches. -/
def wordsOf (pa n : Nat) : List Nat :=
  if n = 0 then [] else (List.range (wordOf (pa + n - 1) - wordOf pa + 1)).map (wordOf pa + ·)

/-- The lines an access of n bytes touches. -/
def linesOf (pa n : Nat) : List Nat :=
  if n = 0 then [] else (List.range (lineOf (pa + n - 1) - lineOf pa + 1)).map (lineOf pa + ·)

end Sys2Proof.Machine
end

