-- ==== Sys2Proof/Machine/State.lean ====
section
/-! DEFINITION. The state of the part as plain data, its reset value, and the reasons for which a step can stop. -/

namespace Sys2Proof.Machine

/-! ### Stops -/

/-- Faults of the model: every fault of the spec is a next state, taken by the part. -/
inductive Fault where
  /-- Raised by a meaning called for an encoded instruction while `cur` names no loaded block instruction: no step of
  the machine calls it so (log entry 3). Safe. -/
  | noFiringContext
  deriving DecidableEq, Repr

/-- Refusals of the model. -/
inductive Refusal where
  /-- Raised by an arm of exec whose instruction has no meaning in the model. Safe. -/
  | notModelled (mnemonic : String)
  deriving DecidableEq, Repr

/-! ### Tokens and blocks (spec/05_block_engine.md) -/

/-- A token (R144): data, null mask, and the basin clk from which it is usable (R176). -/
structure Token where
  data : W128 := 0#128
  mask : BitVec 16 := 0#16
  usable : Nat := 0
  deriving DecidableEq, Repr

/-- Where an instruction of a loaded block stands: not fired, fired with its result awaited since a TIME, resolved with
an effect that waits for commit, done, or resolved as null. That a failing predicate resolves an instruction
is read off its p token (R145). -/
inductive InstSt where
  | idle
  | wait (since : Nat)
  | ready
  | done
  | null
  deriving DecidableEq, Repr

/-- The operand slots of an instruction and its standing. -/
structure Inst where
  l : Option Token := none
  r : Option Token := none
  p : Option Token := none
  st : InstSt := .idle
  deriving DecidableEq, Repr

/-- Scopes of acquire, release and fence (R123). -/
inductive Scope where
  | core | basin | sys
  deriving DecidableEq, Repr

/-- Functions of the atomics (R222). -/
inductive AtomOp where
  | aadd | aand | aor | axor | amins | amaxs | aminn | amaxn | aswp | acas
  deriving DecidableEq, Repr

/-- Kinds of access (Table 7-5). -/
inductive MemKind where
  | ld (sz : LdSize)
  | ldd (sz : LdSize) (reg : Nat)
  | st (n : Nat)
  | take | look | give | amend | post | void | febit
  | atomic (op : AtomOp) (m : Order)
  | ldacq (sc : Scope)
  | strel (sc : Scope)
  | probe
  | fence (sc : Scope)
  | joinw
  | joinad (arm : Bool)
  deriving DecidableEq, Repr

/-- Commands of the matrix, copy and hypervector engines (Table 2-11). -/
inductive CmdKind where
  | mls | mlsc | mswap | mstream | mstreama | mzero | mdrain | mdrainn | mtask
  | cpy1 | cpy2 | gath | scat | fill | cpycv | cpymc | culv | pghand | ctask
  | hbind | hbund | hperm | hthr | hld | hst | hclr | hphase | hbndld | hbndst | hmove
  | hdist | hnear | hneark | hpopc
  deriving DecidableEq, Repr

/-- The store-mask forms, by what leaves the core at commit. -/
inductive OpKind where
  | mem (k : MemKind)
  | cmd (k : CmdKind)
  | qsend | qsendv | qrecv | qrecvd (reg : Nat)
  | wbar | warr | wcfg | wstep
  | launch | dpush | dpop | spawn | dweight
  deriving DecidableEq, Repr

/-- A store-mask form that has resolved with an effect: its operands and translated addresses. -/
structure Op where
  kind : OpKind
  ix : Nat
  lsid : Nat
  l : W128 := 0#128
  r : W128 := 0#128
  p : W128 := 0#128
  rmask : BitVec 16 := 0#16
  v : Nat := 0
  va : Nat := 0
  pa : Nat := 0
  size : Nat := 0
  reg : Nat := 0
  req : Nat := 0
  rgn : Option Nat := none
  deriving DecidableEq, Repr

/-- Supervisor forms sent at commit (R422 to R425, R431, R434). -/
inductive SupKind where
  | freeze | thaw | ackf | stopt | startt | tlbinv | swapout | swapin | wrctx | migr
  deriving DecidableEq, Repr

/-- A supervisor form that has fired. -/
structure SupOp where
  kind : SupKind
  ix : Nat
  l : W128
  r : W128
  p : W128
  deriving DecidableEq, Repr

/-- Exit forms (Table 5-1). -/
inductive ExitKind where
  | br | call | bri | calli | ret | susp | retire
  deriving DecidableEq, Repr

/-- The exit a block has fired. -/
structure Exit where
  kind : ExitKind
  target : W64
  deriving DecidableEq, Repr

/-- A block loaded in a slot and what it has done so far (R144 to R157). `hd` is its header word, `words` its
instruction words; `seen` the words its reads have taken from their homes, by LSID; `met` the clk in which R153 was first met (R176); `evt` the enabled
flags its commit raised with FPF and TIME at that merge, `told` whether its event message has been sent, and `park` whether the thread is to park for it once the tail is over (R112, R199); `bars` the release waits of WBARs beyond the
one that the slot's barrier wait word holds (R368); `frzDue` and `stopDue` the FREEZE and STOPT that a run kept beside a swapped-out image awaits (R419). -/
structure Run where
  addr : W64
  hd : Nat
  words : List Nat
  insts : List Inst
  seq : Nat
  from_ : Nat := 0
  fpc : W64 := 0#64
  nanm : W64 := 0#64
  lcore : W64 := 0#64
  nullFlag : Bool := false
  flags : Flags := 0#6
  exit : Option Exit := none
  ops : SMap Op := []
  sups : List SupOp := []
  watch : List Nat := []
  seen : List (Nat × Nat) := []
  tail : Bool := false
  held : Option Nat := none
  met : Option Nat := none
  evt : Flags := 0#6
  evtFpf : W64 := 0#64
  evtTime : Nat := 0
  told : Bool := false
  park : Bool := false
  bars : List (Nat × W64) := []
  frzDue : Bool := false
  stopDue : Bool := false
  deriving DecidableEq, Repr

/-- What a lookup has found: nothing yet, a miss under way, the block's header and halfwords, or a refusal of the fetch with its
slice cause and whether it can be replayed (R160, R162). -/
inductive Fetched where
  | asked
  | missing
  | block (hd : Nat) (body : List Nat)
  | bad (cause : Nat) (replay : Bool)
  deriving DecidableEq, Repr

/-- The next block of a slot: its address, the clk of the lookup, an ALIGN hold begun at a clk, whether the block left held an
ALIGN (R163), whether the block store missed it (Table 5-10), and what was found. -/
structure Lookup where
  addr : W64
  made : Nat
  hold : Option Nat := none
  aligned : Bool := false
  missed : Bool := false
  got : Fetched := .asked
  deriving DecidableEq, Repr

/-- Control registers and image words of a thread (Tables 3-9, 3-10, 3-3, 5-5, 14-1, 14-5). -/
structure Ctl where
  fpc : W64 := 0#64
  fpf : W64 := 0#64
  nanm : W64 := 0#64
  mfmt : W64 := 0x33#64
  msca : W64 := 0x3F80#64
  mscb : W64 := 0x3F80#64
  seg : W64 := 0#64
  wlim : W64 := 100000#64
  hvc : W64 := 6#64
  wid : W64 := 0#64
  vcore : W64 := 0#64
  imga : W64 := 0#64
  root : W64 := 0#64
  asn : W64 := 0#64
  esave : W64 := 0#64
  fseg : W64 := 0#64
  deriving DecidableEq, Repr

/-- How a continuation is ending (R161, R398, R434). -/
inductive EndKind where
  | susp | retire | swap | migrate
  deriving DecidableEq, Repr

/-- One thread slot (R20, R418, R428). An idle slot holds no continuation (`busy` false). `looks` are the lookups it has made in the last 256 clk,
with their clk (R163); `faultAt` is the clk in which its last fault was raised (R419). -/
structure Slot where
  busy : Bool := false
  g : SMap W128 := []
  full : BitVec 64 := BitVec.allOnes 64
  present : BitVec 16 := BitVec.allOnes 16
  pc : W64 := 0#64
  ctl : Ctl := {}
  stop : Bool := false
  frz : Bool := false
  rty : Bool := false
  evp : Bool := false
  tailBit : Bool := false
  cause : BitVec 8 := 0#8
  index : BitVec 7 := 0#7
  route : List W64 := List.replicate 8 0#64
  record : List W64 := List.replicate 8 0#64
  lastPkt : List W64 := List.replicate 8 0#64
  barWait : W64 := 0#64
  run : Option Run := none
  look : Option Lookup := none
  looks : List (W64 × Nat) := []
  seq : Nat := 0
  replays : Nat := 0
  replayAddr : W64 := 0#64
  deferFrz : Bool := false
  deferStop : Bool := false
  tlbWait : Bool := false
  failed : List (Nat × Nat × Nat × Nat) := []
  faultAt : Option Nat := none
  ending : Option EndKind := none
  armed : Bool := false
  wake : Bool := false
  owner : Nat := 0x100
  account : SMap W64 := []
  deriving DecidableEq, Repr

/-! ### Requests (spec/04_ordering.md, spec/07_slice_engine.md) -/

/-- Where a request stands: sent; waiting at its home; refused by a full waiting list at a clk (R228); reserving its word (R154). -/
inductive ReqSt where
  | sent | waiting | refused (at_ : Nat) | reserved
  deriving DecidableEq, Repr

/-- A request of a thread that has not performed: `seq` and `lsid` are its place in the thread's program order (R119), `left`
whether it left the core at commit, `ord` its place on the request channel of its core, `arr` the place of its arrival at the home where it waits
(R132), 0 while it has not arrived, `clk` the clk in which it was made (R336). -/
structure Req where
  id : Nat
  core : Nat
  slot : Nat
  ix : Nat
  seq : Nat
  lsid : Nat
  kind : MemKind
  va : Nat := 0
  pa : Nat := 0
  size : Nat := 8
  data : W128 := 0#128
  mask : BitVec 16 := 0#16
  cmp : W64 := 0#64
  info : Nat := 0
  rgn : Option Nat := none
  ord : Nat := 0
  arr : Nat := 0
  clk : Nat := 0
  left : Bool := false
  st : ReqSt := .sent
  since : Nat := 0
  deriving DecidableEq, Repr

/-- What an access needs of a leaf (R209, R224). -/
inductive Need where
  | read | write | fetch | probe
  deriving DecidableEq, Repr

/-- The address space of an access: the core whose window it sees, supervisor mode, ASN, ROOT and SEG (R206, R207). -/
structure Space where
  core : Nat
  sv : Bool
  asn : Nat
  root : Nat
  seg : Nat
  deriving DecidableEq, Repr

/-- An M-format form whose translation has missed the first-level cache (R210); `stale` says that an invalidation arrived during its walk (R424). -/
structure Miss where
  core : Nat
  slot : Nat
  ix : Nat
  va : Nat
  need : Need
  walk : Bool := false
  stale : Bool := false
  deriving DecidableEq, Repr

/-- A leaf in a translation cache: tag and page table entry (R210). -/
structure TlbEntry where
  asn : Nat
  vpn : Nat
  leaf : W64
  deriving DecidableEq, Repr

/-- A line an engine's command has asked to own, in order of arrival at the home; the oldest entry of a line is its owner
(R131). `arr` is the place of its arrival there, and bit k of `wrote` says that the owner has written the k-th 16 bytes of it (R259). -/
structure Own where
  line : Nat
  cmd : Nat
  core : Nat
  arr : Nat := 0
  wrote : Nat := 0
  deriving DecidableEq, Repr

/-- An ownership request under way (R131), with the place of its command in its thread's order; slot 8 stands for a task. `ord` is its place on the
request channel of its core: that of its command, or for a task that of the request itself. -/
structure OwnReq where
  id : Nat
  line : Nat
  cmd : Nat
  core : Nat
  slot : Nat := 8
  seq : Nat := 0
  lsid : Nat := 0
  since : Nat := 0
  ord : Nat := 0
  deriving DecidableEq, Repr

/-- The result of a performing form on its way to the tail (R155): none is a null token. `src` is the router position of the home that sends it, or none where
it crosses no flume. -/
structure Result where
  id : Nat
  core : Nat
  slot : Nat
  seq : Nat
  ix : Nat
  val : Option W128
  src : Option Nat := none
  since : Nat := 0
  deriving DecidableEq, Repr

/-- What a home answers to a request of an uncommitted block: the data it has read, the grant of a reservation, or a refusal with its cause. -/
inductive ReplyKind where
  | data (tok : Token)
  | granted
  | refused (cause : Nat)
  deriving DecidableEq, Repr

/-- An answer of a home that is held on its way back to the core (R326, R333): the instruction that waits for it, and the router position of the home. -/
structure Reply where
  id : Nat
  core : Nat
  slot : Nat
  seq : Nat
  ix : Nat
  va : Nat := 0
  kind : ReplyKind
  src : Nat
  flits : Nat := 1
  since : Nat := 0
  deriving DecidableEq, Repr

/-- A deferred fill on its way to its register (R150), with the tag it sets when it is written (R317); tag 64 is none. `hv` marks one of the
hypervector engine; `src` is the router position of the home that sends it, or none where it crosses no flume. -/
structure Fill where
  id : Nat
  core : Nat
  slot : Nat
  reg : Nat
  val : W128
  tag : Nat := 64
  hv : Bool := false
  src : Option Nat := none
  since : Nat := 0
  deriving DecidableEq, Repr

/-- A packet or event message on its way to a chiplet rider (R416): the thread it concerns and its eight words. -/
structure Packet where
  id : Nat
  dest : Nat
  site : Nat
  core : Nat
  slot : Nat
  words : List W64
  since : Nat := 0
  deriving DecidableEq, Repr

/-- A supervisor command on its way to a slot (R419). -/
structure SupCmd where
  id : Nat
  kind : SupKind
  core : Nat
  slot : Nat
  src : Nat
  word : Nat := 0
  val : W64 := 0#64
  fe : Bool := true
  deriving DecidableEq, Repr

/-- Why records are appended: a write-back, a join wake, a push at tail or head, a spawned continuation, a launch's records, a leat write, or a hint
move. -/
inductive AppendKind where
  | writeback | wake | push | pushHead | spawn | launch | leat | hint
  deriving DecidableEq, Repr

/-- Records on their way to the unit that serves a ditch (R380, R382); a DPUSH names its thread, its mode and ASN, and the address of the
record it has yet to read. `begun` says that some of its records have been appended. -/
structure Append where
  id : Nat
  basin : Nat
  ditch : Nat
  kind : AppendKind
  recs : List (List W64)
  core : Nat := 0
  slot : Nat := 8
  seq : Nat := 0
  lsid : Nat := 0
  ix : Nat := 127
  va : Nat := 0
  pa : Nat := 0
  asn : Nat := 0
  sv : Bool := true
  since : Nat := 0
  waiting : Bool := false
  begun : Bool := false
  deriving DecidableEq, Repr

/-! ### Flume queues (spec/11_flumes.md) -/

/-- Where a queue message stands: its body is being read; it is under way; it is held for lack of room; it has gone to a peer
module; it was refused; it was delivered; it was lost with its link, and is never acknowledged (R460). -/
inductive MsgSt where
  | reading | sent | held | away | refused | delivered | lost
  deriving DecidableEq, Repr

/-- A queue message under way (R338, R341): sender, destination core and queue, header words, head and body. One that came in through a scale-up port
has the port's place as its core, a slot of 8 or 9, and its sender's core and slot in `sender`. -/
structure QMsg where
  id : Nat
  core : Nat
  slot : Nat
  seq : Nat
  lsid : Nat
  ix : Nat
  wid : W64
  vc : W64
  dest : Nat
  qn : Nat
  peer : Option Nat := none
  nanm : Bool
  typed : Bool
  vec : Bool
  peerf : Bool := false
  smod : Nat := 0
  info : W64
  head : W128
  len : Nat := 0
  bodyPa : Nat := 0
  bodyVa : Nat := 0
  body : List W64 := []
  st : MsgSt := .sent
  since : Nat := 0
  sender : Option (Nat × Nat) := none
  deriving DecidableEq, Repr

/-- A receive request of QRECV or QRECVD, in the order of arrival at its queue (R343, R344). `ord` is its place among what left its core; `taken` holds the head
of the message it has removed, `body` the words it has yet to write and `put` the bytes it has written (R114). -/
structure RecvReq where
  id : Nat
  core : Nat
  slot : Nat
  ix : Nat
  seq : Nat
  lsid : Nat
  qn : Nat
  bufVa : Nat
  bufPa : Nat
  nanm : Bool
  deferred : Option Nat := none
  left : Bool := false
  granted : Bool := false
  since : Nat := 0
  ord : Nat := 0
  taken : Option W128 := none
  body : List W64 := []
  put : Nat := 0
  deriving DecidableEq, Repr

/-- A receive queue descriptor (Table 11-4). -/
structure RecvQ where
  en : Bool := false
  base : Nat := 0
  size : Nat := 0
  head : Nat := 0
  tail : Nat := 0
  count : Nat := 0
  nfull : Nat := 0
  moved : Bool := false
  deriving DecidableEq, Repr

/-- A request of DPOP, in the order of arrival at its ditch (R404); `place` is the address of the record it has reserved, `ord` its place among what left its
core, `taken` the record it has removed and `put` the bytes of it that it has written (R114). -/
structure PopReq where
  id : Nat
  core : Nat
  slot : Nat
  ix : Nat
  seq : Nat
  lsid : Nat
  ditch : Nat
  bufVa : Nat
  bufPa : Nat
  left : Bool := false
  place : Option Nat := none
  since : Nat := 0
  ord : Nat := 0
  taken : List W64 := []
  put : Nat := 0
  deriving DecidableEq, Repr

/-- A launch header on its way to the sluice (R384), from a thread, a leat port (its number, SEQ and TAG) or a completed launch. An accepted one that
waits for room is held as it was read. -/
structure Submit where
  id : Nat
  basin : Nat
  hdr : Nat
  core : Nat := 0
  slot : Nat := 8
  seq : Nat := 0
  lsid : Nat := 0
  ix : Nat := 127
  asn : Nat := 0
  sv : Bool := true
  leat : Option (Nat × Nat × Nat) := none
  accepted : Bool := false
  words : List W64 := []
  ditch : Nat := 0
  deriving DecidableEq, Repr

/-- An active launch (R384, R386): its header words as read, its count of live continuations, and for each group the continuations spawned into it
and those that have retired. -/
structure Launch where
  basin : Nat
  hdr : Nat
  words : List W64
  live : Nat
  started : Bool := false
  groups : SMap (Nat × Nat) := []
  deriving DecidableEq, Repr

/-- The dependants a completed launch has yet to signal, behind its release write (R386). -/
structure Signal where
  basin : Nat
  ditch : Nat
  list : Nat
  count : Nat
  next : Nat := 0
  req : Option Nat := none
  deriving DecidableEq, Repr

/-! ### The weir (spec/12_weir.md) -/

/-- A barrier arrival under way (R359, R368); `beat` is the beat in which it left its core. -/
structure Arrival where
  id : Nat
  core : Nat
  slot : Nat
  seq : Nat
  lsid : Nat
  ix : Nat
  cell : Nat
  wbar : Bool
  beat : Option Nat := none
  deriving DecidableEq, Repr

/-- A basin part's completion on its way to the module root (R363): the generation completed, and the TIME and lateness of the
arrival that completed it. -/
structure Report where
  id : Nat
  src : Nat
  root : Nat
  cell : Nat
  gen : Nat
  act : Nat
  late : Bool
  since : Nat := 0
  deriving DecidableEq, Repr

/-- Where a step request comes from (R356, R365): a thread or the host, the power arbiter, a boost for a generation of a root's cell, or the return of one. -/
inductive StepKind where
  | ask | power | boost (root cell gen : Nat) | back
  deriving DecidableEq, Repr

/-- A step request on its way to a headgate, from the router position `src`. -/
structure StepReq where
  id : Nat
  basin : Nat
  m : Nat
  ts : Nat
  kind : StepKind
  src : Nat := 0
  since : Nat := 0
  deriving DecidableEq, Repr

/-- A released generation of a cell (R360, R362). -/
structure Release where
  gen : Nat
  rtime : Nat
  late : Bool := false
  abort : Bool := false
  deriving DecidableEq, Repr

/-- A barrier cell (Table 12-3), with the releases announced, the latest first, and for a root the basins that have reported MGEN, the release time that the
latest of these completions gives with its LATE (R360), and whether it has asked for a boost for MGEN (R365). -/
structure Cell where
  en : Bool := false
  mod : Bool := false
  bmask : Nat := 0
  boost : Bool := false
  expect : Nat := 0
  gen : Nat := 0
  count : Nat := 0
  err : Bool := false
  mgen : Nat := 0
  rels : List Release := []
  reported : List Nat := []
  ract : Nat := 0
  rlate : Bool := false
  asked : Bool := false
  deriving DecidableEq, Repr

/-! ### The sluice (spec/13_sluice.md) -/

/-- A rectangle of the grid. -/
structure Rect where
  x : Nat := 0
  y : Nat := 0
  w : Nat := 0
  h : Nat := 0
  deriving DecidableEq, Repr

/-- A region of the grid (Table 13-2). -/
structure Region where
  rect : Rect := {}
  valid : Bool := false
  deriving DecidableEq, Repr

/-- A ditch (Table 13-1): its registers; the addresses of its records in order and of its segments; the head gang that ages with the TIME
since which; the rectangle held for it; and the records moved here by a hint (R390) or pushed by DPUSH (R389). -/
structure Ditch where
  en : Bool := false
  mode : Bool := false
  share : Bool := false
  win : Nat := 7
  weight : Nat := 0
  asn : Nat := 0
  home : Nat := 0
  root : Nat := 0
  maxseg : Nat := 0
  agelim : Nat := 100000
  deficit : Nat := 0
  aged : Bool := false
  tail : Nat := 0
  recs : List Nat := []
  segs : List Nat := []
  age : Option (Nat × Nat) := none
  held : Option Rect := none
  hinted : List Nat := []
  pushed : List Nat := []
  deriving DecidableEq, Repr

/-! ### Engines (spec/08_matrix_engine.md, spec/09_copy_engine.md, spec/10_hypervector_engine.md) -/

/-- A group, by its launch header and virtual core number (R38). -/
structure Group where
  hdr : Nat
  vc : Nat
  deriving DecidableEq, Repr

/-- A committed engine command with the values sampled as its block began (R110, R240, R311): `tag` is the physical tag; slot 8
stands for no issuing thread; `desc` holds the record or descriptor it has read, `idx` the index list of a SCAT;
`row` the row a rerun starts from (R262), `iw` the instruction word, `feed` the source words read so far, in the order of their reads (R133); `rp` marks
a command of the replay port (R468), `ditch` a task taken from a ditch (R255). -/
structure Cmd where
  id : Nat
  kind : CmdKind
  v : Nat := 0
  core : Nat
  slot : Nat
  seq : Nat := 0
  lsid : Nat := 0
  l : W128 := 0#128
  r : W128 := 0#128
  fpc : W64 := 0#64
  nanm : W64 := 0#64
  mfmt : W64 := 0#64
  msca : W64 := 0#64
  mscb : W64 := 0#64
  hvc : W64 := 0#64
  sp : Space
  grp : Group
  wid : W64 := 0#64
  tag : Nat := 0
  reg : Nat := 0
  arrived : Bool := false
  desc : List W64 := []
  idx : List Nat := []
  row : Option Nat := none
  iw : Nat := 0
  feed : List Nat := []
  rp : Bool := false
  ditch : Bool := false
  deriving DecidableEq, Repr

/-- A line a command has yet to write: its address as the command names it, the line it leads to or the cause that refuses it,
byte k of `data` where bit k of `mask` is 1, what becomes of the full/empty bits of the words written, and the row, table entry or
target core it belongs to. -/
structure LineWrite where
  va : Nat
  line : Nat
  bad : Option Nat := none
  data : Nat := 0
  mask : Nat := 0
  fe : Option Bool := none
  row : Nat := 0
  deriving DecidableEq, Repr

/-- A plane of the array with its record (R239, Table 8-4): its rows as runs of 64 elements, and its block scales as runs of 64
halfwords. -/
structure Plane where
  valid : Bool := false
  fmt : Nat := 0
  nanm : Bool := false
  pbs : Bool := false
  usc : Nat := 0
  ktl : Nat := 0
  elems : List Nat := []
  scales : List Nat := []
  deriving DecidableEq, Repr

/-- An accumulator element (Table 8-2). -/
structure AccEl where
  value : BitVec 48 := 0#48
  leaves : List (BitVec 48) := []
  jm : Nat := 0
  mode : Nat := 0
  sat : Bool := false
  val : Bool := false
  deriving DecidableEq, Repr

/-- A command running in a unit: the phase of a task, the lines it has yet to write, and whether the row or the vector at their head is at hand; for a table
search, the entry being read and what was found so far (R314). -/
structure Running where
  cmd : Cmd
  phase : Nat := 0
  todo : List LineWrite := []
  planned : Bool := false
  entry : Nat := 0
  dist : Nat := 8193
  index : Nat := 0
  neq : Nat := 0
  deriving DecidableEq, Repr

/-- The matrix engine of a core (R234 to R238, R253, R262). On a folded core `user` is the group that used the planes last, and `parked` are those
whose planes lie in their save areas (R265). -/
structure MatEng where
  active : Plane := {}
  shadow : Plane := {}
  acc : SMap AccEl := []
  flg : Flags := 0#6
  cause : Nat := 0
  halt : Bool := false
  faddr : Nat := 0
  fthread : Nat := 0
  taskf : Bool := false
  ftag : Nat := 0
  sub : Nat := 0
  rowf : Nat := 0
  intake : List Cmd := []
  tasks : List Cmd := []
  load : Option Running := none
  stream : Option Running := none
  task : Option Running := none
  faulted : Option Running := none
  user : Option Group := none
  parked : List Group := []
  deriving DecidableEq, Repr

/-- A write of a culvert that has been sent and not acknowledged, with the TIME at which it was sent, and the data bytes that its acknowledgement counts (R299). -/
structure Sent where
  id : Nat
  va : Nat
  sentAt : Nat
  bytes : Nat := 0
  deriving DecidableEq, Repr

/-- An active copy command: its stage (0 data, 1 flag, 2 release, 3 data done without a flag, 4 a task's first read), lines still to write, culvert writes sent and not acknowledged, and bytes written (R285, R290 to R292). -/
structure CopyRun where
  cmd : Cmd
  task : Bool := false
  stage : Nat := 0
  todo : List LineWrite := []
  out : List Sent := []
  bdone : Nat := 0
  bad : Option (Nat × Nat) := none
  deriving DecidableEq, Repr

/-- The copy engine of a core (R276, R285, R295, R297, R299). -/
structure CopyEng where
  intake : List Cmd := []
  tasks : List Cmd := []
  active : SMap CopyRun := []
  taskTurn : Bool := false
  flg : SMap Flags := []
  cause : Nat := 0
  clim : Nat := 1000
  faddr : Nat := 0
  fthread : Nat := 0
  taskf : Bool := false
  ftag : Nat := 0
  sub : Nat := 0
  stage : Nat := 0
  flagq : Bool := false
  bdone : Nat := 0
  deriving DecidableEq, Repr

/-- A bundle accumulator (R303 to R305): its 8,192 counters, or the empty list where every one is zero. -/
structure HvAcc where
  cnt : List Int := []
  sat : Bool := false
  ph : Bool := false
  deriving DecidableEq, Repr

/-- The hypervector engine of a core (R303, R307, R323); `user` and `parked` of its accumulators as of the planes of the matrix engine (R320). -/
structure HvEng where
  h : SMap (BitVec 8192) := []
  a0 : HvAcc := {}
  a1 : HvAcc := {}
  cause : Nat := 0
  faddr : Nat := 0
  fthread : Nat := 0
  ftag : Nat := 0
  sub : Nat := 0
  entry : Nat := 0
  intake : List Cmd := []
  run : Option Running := none
  user : Option Group := none
  parked : List Group := []
  deriving DecidableEq, Repr

/-! ### Cores -/

/-- The turn of a clk (R169 to R171): the slot that fires in it, and the instructions it fires. -/
structure Turn where
  slot : Nat
  sel : List Nat
  deriving DecidableEq, Repr

/-- The replay port of a core (Table 16-7). `held` says that the command waits for room in the count of its tag, and `awaits` is the tag of one that has ended
(R268, R468). -/
structure ReplayPort where
  ent : Nat := 0
  done : Bool := false
  busy : Bool := false
  cause : Nat := 0
  root : Nat := 0
  asn : Nat := 0
  fillv : W64 := 0#64
  fvalid : Bool := false
  held : Bool := false
  awaits : Option Nat := none
  deriving DecidableEq, Repr

/-- A group being swapped out (R398): the core whose rider asked, the slot named, and the records so far. -/
structure SwapJob where
  grp : Group
  src : Nat
  slot : Nat := 0
  recs : List (Nat × List W64) := []
  deriving DecidableEq, Repr

/-- A group being migrated (R434): the core whose rider asked, and the slot named. -/
structure MigJob where
  grp : Group
  src : Nat
  slot : Nat := 0
  deriving DecidableEq, Repr

/-- A line of the register store (R147): the line of the context image it holds, by its address / 64, and whether pre-emption has marked it
evictable. -/
structure RegLine where
  addr : Nat
  evict : Bool := false
  deriving DecidableEq, Repr

/-- One core, but for its slots and engines. `members` are the groups folded onto it and `awaiting` those of them whose engine state lies in
their save areas (R431); `ownSp` is the ASN and ROOT of the owner of its engines, and `tagsAt` TAGS at
the start of the present clk (R271). -/
structure Core where
  tags : W64 := BitVec.allOnes 64
  tagsAt : W64 := BitVec.allOnes 64
  counts : SMap Nat := []
  turn : Option Turn := none
  divFree : Nat := 0
  ldivFree : Nat := 0
  sfuFree : Nat := 0
  prio : Option Nat := none
  prioQ : List Nat := []
  commitAt : Option Nat := none
  idleClk : Nat := 0
  gated : Bool := false
  gen : Nat := 0
  lcid : Nat := 0
  owner : Option Group := none
  ownSp : Nat × Nat := (0, 0)
  members : List Group := []
  foldK : Nat := 0
  awaiting : List Group := []
  swap : Option SwapJob := none
  mig : Option MigJob := none
  queues : List RecvQ := List.replicate 8 {}
  rdir : Bool := false
  phase : Nat := 0
  target : Nat := 0
  tgtId : Nat := 0
  lmoved : Nat := 0
  ce : Nat := 0
  ue : Nat := 0
  ulast : Nat := 0
  rlines : List RegLine := []
  replay : ReplayPort := {}
  deriving DecidableEq, Repr

/-- The fetch port of a quad (R162): the core served last, and the clk in which it was served. -/
structure FetchPort where
  last : Nat := 3
  clk : Option Nat := none
  deriving DecidableEq, Repr

/-- A block held in a block store: virtual address, root, header and halfwords (R162). -/
structure StoreEntry where
  addr : Nat
  root : Nat
  hd : Nat
  body : List Nat
  deriving DecidableEq, Repr

/-! ### Sites and basins -/

/-- What the manufacture of a part fixes (R2, R438, R445; log entry 33): the grade entries of the basins, the lanes that the boot store records as
dead and those that a bond test finds dead (as bits of DBM), the sites whose clock does not lock, the failure codes of sites that fail their
checks, the addresses of words that the bring-up clear finds uncorrectable, words of the sumps of S, H and G sites so found, chiplet revisions and station
addresses. -/
structure Part where
  grade : List Nat := [17, 17, 17, 17]
  record : SMap Nat := []
  defect : SMap Nat := []
  noLock : List Nat := []
  fails : SMap Nat := []
  badWords : List Nat := []
  badPlaces : SMap (List Nat) := []
  rev : SMap Nat := []
  mac : SMap Nat := []
  deriving DecidableEq, Repr

/-- The markers of a changed entry of a network-select table (R333): the destination, the messages that were under way on the old route, and that route: its
entry and waypoint. -/
structure Mark where
  dst : Nat
  keys : List Nat
  entry : Nat
  wx : Nat := 0
  wy : Nat := 0
  deriving DecidableEq, Repr

/-- One site. `gen` is the ring generation of its sluice unit (R26). `bst` to `nbad` are its bring-up state (Tables 15-2, 15-3), `offers` the offers it has collected: hop, origin, edge. `nst` lists the entries of the network-select table that are not 11; `marks` the changed entries whose markers are
outstanding, `nstWait` and `wayWait` the changes that wait for them (R333); `sump` the messages in its sump, oldest
first, each with the place of its first flit (R334), and `sumpw` the words of the sump memory of an S, H or G chiplet. -/
structure Site where
  live : BitVec 16 := 0#16
  rider : Nat := 0
  gen : Nat := 0
  hditch : Nat := 0
  nst : SMap Nat := []
  wx : Nat := 0
  wy : Nat := 0
  marks : List Mark := []
  nstWait : List (Nat × Nat) := []
  wayWait : Option (Nat × Nat) := none
  sump : List (Nat × Nat) := []
  sumpw : SMap W64 := []
  mstate : Nat := 0
  ce : Nat := 0
  ue : Nat := 0
  ulast : Nat := 0
  bst : Nat := 0
  origin : Nat := 0
  hop : Nat := 0
  pedge : Nat := 0
  fcode : Nat := 0
  dbm : Nat := 0
  tcfg : Nat := 0
  trdy : Nat := 0
  nbad : Nat := 0
  offers : List (Nat × Nat × Nat) := []
  deriving DecidableEq, Repr

/-- A marker that a trace session owes: of a reset, with its TIME, or of a number of dropped events. -/
inductive Owed where
  | reset (time : Nat)
  | drop (n : Nat)
  deriving DecidableEq, Repr

/-- A trace session (Table 16-6), with its count of entries and the markers it owes, in the order of their events (R466, R467). -/
structure TraceSession where
  en : Bool := false
  src : Nat := 0
  snum : Nat := 0
  site : Nat := 0
  core : Nat := 0
  buf : Nat := 0
  size : Nat := 0
  head : Nat := 0
  tail : Nat := 0
  drops : Nat := 0
  count : Nat := 0
  owed : List Owed := []
  deriving DecidableEq, Repr

/-- An interleave descriptor (Table 7-3). -/
structure Interleave where
  valid : Bool := false
  div : Nat := 0
  lbase : Nat := 0
  lsize : Nat := 0
  mem : SMap Nat := []
  deriving DecidableEq, Repr

/-- One basin: its counters, and TIME as its readers see it, the count at the start of the present clk (R351); clock control (Table 12-2), with the TIME of the edge from which its edges are counted and their number since, the
generation a boost was asked for and whether a return is due; `relocks` the TIMEs of its last steps that made its seams relock (R330); barrier cells; ditches and sluice control (Tables 13-1, 13-2), whether an event
has called for a pass, and the last share boundary; the save pool; the ring; interleave descriptors; trace sessions; the phase of bring-up; the margin
monitor with its run of low samples and their number. -/
structure Basin where
  cyc : Nat := 0
  ncyc : Nat := 0
  tick : Nat := 0
  on : Bool := false
  m : Nat := 17
  base : Nat := 17
  bmax : Nat := 17
  pm : Nat := 0
  stepPend : Bool := false
  pboost : Bool := false
  moved : Bool := false
  clamp : Bool := false
  pts : Nat := 0
  lts : Nat := 0
  nstep : Nat := 0
  nref : Nat := 0
  sreq : W64 := 0#64
  sts : W64 := 0#64
  relock : Bool := false
  relocks : List Nat := []
  epoch : Nat := 0
  edges : Nat := 0
  boost : Option (Nat × Nat × Nat) := none
  back : Bool := false
  cells : SMap Cell := []
  ditches : SMap Ditch := []
  free : List Nat := []
  resv : Nat := 64
  hold : Bool := false
  quant : Nat := 1
  regions : SMap Region := []
  images : List Nat := []
  savePool : List Nat := []
  passDue : Bool := false
  shared : Nat := 0
  gen : Nat := 0
  pend : Bool := false
  bank0 : List Nat := []
  bank1 : List Nat := []
  interleave : SMap Interleave := []
  traces : SMap TraceSession := []
  phase : Nat := 0
  tstart : Nat := 0
  tdone : Nat := 0
  mthr : Nat := 4
  mmin : Nat := 63
  nrpl : Nat := 0
  mrow : Nat := 0
  msamp : Nat := 0
  peers : SMap Nat := []
  deriving DecidableEq, Repr

/-! ### The machine -/

/-- One act of the schedule: a slot fires an instruction of its block, or an event takes place (log entry 1). -/
inductive Act where
  | fire (core slot ix : Nat)
  | ev (i : Instr)
  deriving DecidableEq, Repr

/-- The instruction that fires (log entry 3). -/
structure Firing where
  core : Nat
  slot : Nat
  ix : Nat
  deriving DecidableEq, Repr

/-- A message on its way to a peer module (R456, R457): its flits, each a header word and eight payload words; `cmd` names the engine command
or the queue message it belongs to, `port` the port it leaves by; `asks` marks an ownership request (R283), and `begun` one of which some flit has been sent. -/
structure PeerMsg where
  id : Nat
  pmod : Nat
  vc : Nat
  core : Nat
  cmd : Nat
  flag : Bool := false
  asks : Bool := false
  begun : Bool := false
  port : Nat := 0
  flits : List (List W64)
  deriving DecidableEq, Repr

/-- A flit in the replay buffer of a port (R457): its number, key slot and count under that slot, the message it is part of, its ciphertext, the CRC over the
clear flit, and the tag. -/
structure SentFlit where
  seq : Nat
  ks : Bool
  ctr : Nat
  msg : Nat
  words : List W64
  crc : BitVec 32
  tag : W64
  deriving DecidableEq, Repr

/-- A scale-up port (Table 16-4): its key slots, the flits it holds for replay, the messages waiting behind them, the numbers of both directions,
the width change that is pending, the flits of a message it is receiving, and what it has put on the link: flits, and the SEQ of each NAK. -/
structure LinkPort where
  en : Bool := false
  width : Nat := 0
  wreq : Bool := false
  txks : Bool := false
  key0 : List W64 := [0#64, 0#64]
  key1 : List W64 := [0#64, 0#64]
  salt0 : Nat := 0
  salt1 : Nat := 0
  nakr : Nat := 0
  rmod : Nat := 0
  txSeq : Nat := 0
  rxSeq : Nat := 0
  tx0 : Nat := 0
  tx1 : Nat := 0
  rx0 : Nat := 0
  rx1 : Nat := 0
  replay : List SentFlit := []
  waiting : List PeerMsg := []
  nakSeq : Nat := 0
  nakRun : Nat := 0
  rxNak : Nat := 0
  tw : Option Nat := none
  twWidth : Nat := 0
  stopTo : Nat := 0
  lost : Bool := false
  training : Bool := false
  part : List (List W64) := []
  out : List LinkFlit := []
  naksOut : List Nat := []
  deriving DecidableEq, Repr

/-- A culvert write to host memory that awaits its COMPL (R453). -/
structure HostWrite where
  id : Nat
  port : Nat
  seq : Nat
  core : Nat
  cmd : Nat
  flag : Bool
  addr : W64
  data : Nat
  mask : Nat
  fe : Option Bool
  sentAt : Nat
  deriving DecidableEq, Repr

/-- A request accepted by a leat port and not yet answered (R452): the bytes its accesses have covered and the words they have read (R451), whether it has
been executed, the append it waits for, and its completion once it is known. -/
structure LeatJob where
  seq : Nat
  frame : Frame
  at_ : Nat := 0
  words : List W64 := []
  ran : Bool := false
  appendId : Option Nat := none
  reply : Option Frame := none
  deriving DecidableEq, Repr

/-- A leat port (Table 16-3): its registers, stored completions by SEQ, and the sequence number of its host writes. -/
structure LeatPort where
  en : Bool := false
  mode : Bool := false
  link : Bool := false
  ipv6lo : W64 := 0#64
  ipv6hi : W64 := 0#64
  expseq : Nat := 0
  naks : Nat := 0
  hbase : W64 := 0#64
  badf : Nat := 0
  dups : Nat := 0
  hostSeq : Nat := 0
  done : List (Nat × Frame) := []
  jobs : List LeatJob := []
  deriving DecidableEq, Repr

/-- A test access port (R439): its instruction register, all ones (BYPASS) after reset (log entry 93), and the data register of CFGACC. -/
structure Tap where
  ir : BitVec 8 := 0xFF#8
  dr : BitVec 129 := 0#129
  deriving DecidableEq, Repr

/-- The machine. `gateReports` are the gatings reported to the power arbiter, core and TIME, the latest first (R364). `peerOut` are the messages to peer modules that await an answer, `pwin` the power windows closed, `plower` the basins that owe a step to BMAX (R463), `taps` the test
ports. `boots` are the firmware images in the boot stores of the headgates and `stage` the staging store, byte by byte; `restart` says that a firmware restart is
under way (R454, R461). -/
structure State where
  agenda : List Act := []
  cur : Option Firing := none
  nextId : Nat := 0
  powered : Bool := false
  time : Nat := 0
  mem : Memory := {}
  slots : SMap Slot := []
  cores : SMap Core := []
  sites : SMap Site := []
  basins : SMap Basin := []
  stores : SMap (List StoreEntry) := []
  ports : SMap FetchPort := []
  tlb1 : SMap (List TlbEntry) := []
  tlb2 : SMap (List TlbEntry) := []
  misses : List Miss := []
  reqs : List Req := []
  waitq : List Nat := []
  replies : List Reply := []
  resv : List (Nat × Nat) := []
  owned : List Own := []
  ownReqs : List OwnReq := []
  withdrawals : List Nat := []
  results : List Result := []
  fills : List Fill := []
  pkts : List Packet := []
  supCmds : List SupCmd := []
  qmsgs : List QMsg := []
  recvs : List RecvReq := []
  appends : List Append := []
  pops : List PopReq := []
  submits : List Submit := []
  launches : List Launch := []
  signals : List Signal := []
  arrivals : List Arrival := []
  reports : List Report := []
  stepReqs : List StepReq := []
  gateReports : List (Nat × Nat) := []
  asleep : SMap Run := []
  saves : List (Group × Nat) := []
  foldImgs : List Nat := []
  armedImgs : List Nat := []
  mymod : Nat := 0
  links : SMap LinkPort := []
  leats : SMap LeatPort := []
  hostWrites : List HostWrite := []
  leatOut : List (Nat × Frame) := []
  peerOut : List PeerMsg := []
  taps : SMap Tap := []
  plim : Nat := 220
  pavg : Nat := 0
  pbusy : Option Nat := none
  pdown : List Nat := []
  plower : List Nat := []
  pdue : Nat := 0
  pwin : Nat := 0
  part : Part := {}
  boots : SMap (SMap Byte) := []
  stage : SMap Byte := []
  restart : Bool := false
  mats : SMap MatEng := []
  copies : SMap CopyEng := []
  hvs : SMap HvEng := []
  deriving DecidableEq, Repr

/-- The machine the instant power is good: every site is DARK (R443), TIME is 0, and nothing has been written. -/
def State.reset : State := {}

/-! ### Reading and replacing the parts of the state -/

def State.slotAt (s : State) (core slot : Nat) : Slot := mget s.slots (slotKey core slot) {}
def State.coreAt (s : State) (k : Nat) : Core := mget s.cores k {}
def State.siteAt (s : State) (n : Nat) : Site := mget s.sites n {}
def State.basinAt (s : State) (b : Nat) : Basin := mget s.basins b {}
def State.setSlot (s : State) (core slot : Nat) (v : Slot) : State := { s with slots := mput s.slots (slotKey core slot) v }
def State.setCore (s : State) (k : Nat) (v : Core) : State := { s with cores := mput s.cores k v }
def State.setSite (s : State) (n : Nat) (v : Site) : State := { s with sites := mput s.sites n v }
def State.setBasin (s : State) (b : Nat) (v : Basin) : State := { s with basins := mput s.basins b v }
def State.matAt (s : State) (k : Nat) : MatEng := mget s.mats k {}
def State.copyAt (s : State) (k : Nat) : CopyEng := mget s.copies k {}
def State.hvAt (s : State) (k : Nat) : HvEng := mget s.hvs k {}
def State.setMat (s : State) (k : Nat) (v : MatEng) : State := { s with mats := mput s.mats k v }
def State.setCopy (s : State) (k : Nat) (v : CopyEng) : State := { s with copies := mput s.copies k v }
def State.setHv (s : State) (k : Nat) (v : HvEng) : State := { s with hvs := mput s.hvs k v }
def State.cyc (s : State) (core : Nat) : Nat := (s.basinAt (coreBasin core)).cyc

/-- TIME as a core reads it (R351). -/
def State.tick (s : State) (core : Nat) : Nat := (s.basinAt (coreBasin core)).tick

end Sys2Proof.Machine
end

