-- ==== Sys2Proof/Machine/Xlate.lean ====
section
/-! DEFINITION. Where an address leads: liveness, homes, the local window, page tables, translation caches and
interleaved regions (spec/07_slice_engine.md R202 to R216). -/

namespace Sys2Proof.Machine

/-- Bit c of LIVE of the core's site (Table 1-11). -/
def State.coreLive (s : State) (k : Nat) : Bool := isCompute (coreSite k) && (s.siteAt (coreSite k)).live.getLsbD (coreNum k)

/-- The core that holds the chiplet rider of a site (R20). -/
def State.riderCore (s : State) (site : Nat) : Nat := coreOf site (s.siteAt site).rider

/-- Whether a site answers configuration reads and writes (R444), and whether a headgate of a basin does, for the registers of the basin (R438). -/
def State.answers (s : State) (n : Nat) : Bool := siteExists n && decide (3 ≤ (s.siteAt n).bst) && decide ((s.siteAt n).bst ≤ 5)
def State.basinAnswers (s : State) (b : Nat) : Bool := (headgates b).any s.answers

/-- A write of configuration space that a site, or the registers of a basin, take; writes where none answers are ignored (R444). -/
def State.taken (s : State) (answers : Bool) (t : State) : Host.Outcome State Fault Refusal := .next (if answers then t else s)

/-- Where a physical address leads for an issuer in basin b (Table 7-1). -/
def State.place (s : State) (b pa : Nat) : PaClass :=
  match classifyPa b pa with
  | .slice core off => if s.coreLive core then .slice core off else .refused 0x31
  | c => c

/-- A slice that is being migrated sends what reaches a line that has moved on to the same offset of the new slice (R301, R434, R436). -/
def State.redirect (s : State) (pa : Nat) : Nat :=
  if paSpace pa = 0 && isCompute (paSite pa) then
    let k := coreOf (paSite pa) (bits pa 25 22)
    if (s.coreAt k).rdir ∧ pa % 2 ^ 22 < 64 * (s.coreAt k).lmoved then slicePa (s.coreAt k).target + pa % 2 ^ 22 else pa
  else pa

/-- The words, the lines and the bytes (from a multiple of 8) of an access, where each of them lies now. -/
def State.wordsAt (s : State) (pa n : Nat) : List Nat := (wordsOf pa n).map fun w => wordOf (s.redirect (8 * w))
def State.linesAt (s : State) (pa n : Nat) : List Nat := (linesOf pa n).map fun l => lineOf (s.redirect (64 * l))
def State.readBytes (s : State) (pa n : Nat) : Nat :=
  ((List.range ((n + 7) / 8)).map fun k => s.mem.read (s.redirect (pa + 8 * k)) 8 * 2 ^ (64 * k)).sum % 2 ^ (8 * n)

/-- Whether a physical address lies in the sump of a chiplet (R204). -/
def State.inSump (s : State) (b pa : Nat) : Bool :=
  match s.place b pa with
  | .slice core off => decide (s.riderCore (coreSite core) = core) && decide (sliceBytes core - 0x20000 ≤ off)
  | .mchip _ off => decide (0x18000000 - 0x20000 ≤ off)
  | _ => false

/-- The home of a word: a slice, an M chiplet, or a configuration site (R115, R137). -/
def homeOf (pa : Nat) : Nat :=
  if paSpace pa = 3 then 2 ^ 30 + paSite pa
  else match siteKind (paSite pa) with
    | .memory => paSite pa * 2 ^ 15
    | _ => pa / 2 ^ 22

/-- The route entry to a site in the table of another (R331): 3 is unreachable. -/
def State.nstEntry (s : State) (src dst : Nat) : Nat := mget (s.siteAt src).nst dst 3

/-- Whether a leg of a route on a flume (R325) enters no corner: its turn does not lie in one. -/
def legOk (flume src dst : Nat) : Bool :=
  siteKind (if flume = 0 then siteAtXY (siteX dst) (siteY src) else siteAtXY (siteX src) (siteY dst)) != .corner

/-- Whether a sending site has a route to another: its entry gives one that enters no corner site (R332). A waypoint outside the grid leads nowhere. -/
def State.reachable (s : State) (src dst : Nat) : Bool :=
  let v := s.siteAt src
  match s.nstEntry src dst with
  | 0 => legOk 0 src dst
  | 1 => legOk 1 src dst
  | 2 =>
    let w := siteAtXY (v.wx / 4) (v.wy / 4)
    decide (v.wx < 88) && decide (v.wy < 88) && siteKind w != .corner && legOk 0 src w && legOk 0 w dst
  | _ => false

/-- Whether the home of an address is a retired M chiplet (R216). -/
def State.retiredHome (s : State) (pa : Nat) : Bool :=
  decide (paSpace pa = 0) && decide (siteKind (paSite pa) = .memory) && decide ((s.siteAt (paSite pa)).mstate = 2)

/-- Count an uncorrectable word at its home (R231, R232, R215). -/
def State.countUe (s : State) (pa : Nat) : State :=
  let n := paSite pa
  match siteKind n with
  | .memory =>
    let v := s.siteAt n
    s.setSite n { v with ue := min (v.ue + 1) (2 ^ 32 - 1), ulast := wordOf (paOff pa) * 8 }
  | _ =>
    let k := coreOf n (bits pa 25 22)
    let v := s.coreAt k
    s.setCore k { v with ue := min (v.ue + 1) (2 ^ 32 - 1), ulast := wordOf (pa % sliceBytes k) * 8 }

/-- Count a corrected single-bit error at its home. -/
def State.countCe (s : State) (pa : Nat) : State :=
  let n := paSite pa
  match siteKind n with
  | .memory => let v := s.siteAt n; s.setSite n { v with ce := min (v.ce + 1) (2 ^ 32 - 1) }
  | _ =>
    let k := coreOf n (bits pa 25 22)
    let v := s.coreAt k
    s.setCore k { v with ce := min (v.ce + 1) (2 ^ 32 - 1) }

/-- Correct the single-bit errors of the words of an access, counting each (R231). -/
def State.correct (s : State) : List Nat → State
  | [] => s
  | w :: ws =>
    if s.mem.correctable w then
      State.correct (({ s with mem := s.mem.setErr w none } : State).countCe (8 * w)) ws
    else State.correct s ws

/-- The first poisoned word of an access. -/
def State.firstPoisoned (s : State) (ws : List Nat) : Option Nat := ws.find? s.mem.poisoned

/-! ### Translation -/

/-- What translation answers: an address with the rights its leaf reports and the interleave descriptor it came through, a miss in
the first-level cache, or a cause with the leaf that was met, 0 where none was. -/
inductive Xl where
  | ok (pa : Nat) (w x svo : Bool) (rgn : Option Nat)
  | miss
  | bad (cause leaf : Nat)
  deriving DecidableEq, Repr

/-- The address space of a thread's accesses. -/
def Slot.space (sl : Slot) (core slot : Nat) : Space :=
  ⟨core, slot == 7, sl.ctl.asn.toNat, sl.ctl.root.toNat, sl.ctl.seg.toNat⟩

/-- The local window (R206). -/
def windowPa (core seg va : Nat) : Option Nat :=
  let o := va - 0x7FFF00000000
  let base := bits seg 21 16 * 0x10000
  let sb := sliceBytes core
  let size := if bits seg 37 32 = 0 then sb - base else bits seg 37 32 * 0x10000
  if sb ≤ base || size ≤ o || sb < base + size then none else some (slicePa core + base + o)

/-- Whether a virtual address lies in the local window. -/
def inWindow (va : Nat) : Bool := va / 2 ^ 32 == 0x7FFF

/-- A right the leaf refuses (R209, R224). -/
def leafRefuses (leaf : Nat) (need : Need) (sv : Bool) : Bool :=
  (bit leaf 3 && !sv) ||
    match need with
    | .write => !bit leaf 1
    | .fetch => !bit leaf 2
    | .read => false
    | .probe => false

/-- The physical address under a leaf (R208, R214). -/
def State.leafPa (s : State) (b leaf va : Nat) : Except Nat Nat :=
  if bit leaf 4 then
    let d := mget (s.basinAt b).interleave (bits leaf 11 8) {}
    let q := bits leaf 47 16 * 0x10000 + va % 0x10000
    if !d.valid || d.div * d.lsize ≤ q then .error 0x3D
    else
      let g := q / 256
      .ok (Nat.lor (mget d.mem (g % d.div) 0 * 2 ^ 37) (d.lbase * 0x10000 + g / d.div * 256 + q % 256))
  else .ok (bits leaf 47 16 * 0x10000 + va % 0x10000)

/-- The answer for an address whose leaf is known. -/
def State.underLeaf (s : State) (sp : Space) (leaf va : Nat) (need : Need) : Xl :=
  if leafRefuses leaf need sp.sv then .bad 0x35 leaf
  else match s.leafPa (coreBasin sp.core) leaf va with
    | .ok pa => .ok pa (bit leaf 1) (bit leaf 2) (bit leaf 3) (if bit leaf 4 then some (bits leaf 11 8) else none)
    | .error c => .bad c leaf

/-- A leaf in a cache. -/
def tlbFind (l : List TlbEntry) (asn vpn : Nat) : Option Nat :=
  match l.find? fun e => decide (e.asn = asn) && decide (e.vpn = vpn) with
  | some e => some e.leaf.toNat
  | none => none

/-- The cache with an entry made most recent, at most n entries kept (R210). -/
def tlbTouch (l : List TlbEntry) (e : TlbEntry) (n : Nat) : List TlbEntry :=
  (e :: l.filter fun x => !(decide (x.asn = e.asn) && decide (x.vpn = e.vpn))).take n

/-- The chiplet that is the second-level home of a page (R210). -/
def tlbHome (b asn vpn : Nat) : Nat :=
  chipletSite b ((vpn * 0x9E3779B1 + asn * 0x85EBCA6B) % 2 ^ 32 * chipletsOf b / 2 ^ 32)

/-- The set of a page in the second-level store. -/
def tlbSet (asn vpn : Nat) : Nat := Nat.xor vpn asn % 256

/-- The second-level store with an entry made most recent: 4 ways a set. -/
def tlb2Touch (l : List TlbEntry) (e : TlbEntry) : List TlbEntry :=
  let same := fun x : TlbEntry => tlbSet x.asn x.vpn == tlbSet e.asn e.vpn
  tlbTouch (l.filter same) e 4 ++ l.filter fun x => !same x

/-- A word of a page table: on-wafer memory of the walking basin (R209). The error carries the address for the home's
counters. -/
def State.tableWord (s : State) (b pa : Nat) : Except (Nat × Nat) Nat :=
  let pa := s.redirect pa
  let here : Bool := match s.place b pa with
    | .slice _ _ => true
    | .mchip _ _ => true
    | _ => false
  if !here then .error (0x36, pa)
  else if s.retiredHome pa then .error (0x3A, pa)
  else if s.mem.poisoned (wordOf pa) then .error (0x39, pa)
  else .ok (s.mem.read (wordOf pa * 8) 8)

/-- A non-leaf entry: the next table, at level 1 (its bit 13 zero) or level 2 (R208). -/
def nextTable (level : Nat) (e : Nat) : Except Nat Nat :=
  if !bit e 0 then .error 0x34
  else if bits e 11 1 ≠ 0 || bit e 12 || bits e 63 48 ≠ 0 || (level = 1 && bit e 13) then .error 0x36
  else .ok (bits e 47 13 * 2 ^ 13)

/-- Whether a leaf with V 1 is well formed (Table 7-2). -/
def leafFormed (e : Nat) : Bool :=
  bits e 7 5 == 0 && !bit e 12 && bits e 63 48 == 0 && bits e 15 13 == 0 && (bit e 4 || bits e 11 8 == 0)

/-- The walk of R207 to R209: the leaf, or a cause and the table word that met it. -/
def State.walk (s : State) (b root va : Nat) : Except (Nat × Nat) Nat := do
  let e1 ← s.tableWord b (root + 8 * bits va 47 37)
  let t2 ← (nextTable 1 e1).mapError fun c => (c, root + 8 * bits va 47 37)
  let e2 ← s.tableWord b (t2 + 8 * bits va 36 26)
  let t3 ← (nextTable 2 e2).mapError fun c => (c, t2 + 8 * bits va 36 26)
  let e3 ← s.tableWord b (t3 + 8 * bits va 25 16)
  if !bit e3 0 then .error (0x34, t3 + 8 * bits va 25 16)
  else if !leafFormed e3 then .error (0x36, t3 + 8 * bits va 25 16)
  else .ok e3

/-- The table words a walk reads (R209, R231). -/
def State.walkReads (s : State) (b root va : Nat) : List Nat :=
  let a1 := root + 8 * bits va 47 37
  match s.tableWord b a1 with
  | .error _ => []
  | .ok e1 => wordOf (s.redirect a1) :: match nextTable 1 e1 with
    | .error _ => []
    | .ok t2 =>
      let a2 := t2 + 8 * bits va 36 26
      match s.tableWord b a2 with
      | .error _ => []
      | .ok e2 => wordOf (s.redirect a2) :: match nextTable 2 e2 with
        | .error _ => []
        | .ok t3 =>
          let a3 := t3 + 8 * bits va 25 16
          match s.tableWord b a3 with
          | .error _ => []
          | .ok _ => [wordOf (s.redirect a3)]

/-- Translation without tables: canonical form, window, and the untranslated supervisor (R206, R207), whose PROBE reports every right (log entry
72). None where tables decide. A window address out of bounds reports the window's rights. -/
def directXl (sp : Space) (va : Nat) : Option Xl :=
  if 2 ^ 48 ≤ va then some (.bad 0x37 0)
  else if inWindow va then
    match windowPa sp.core sp.seg va with
    | some pa => some (.ok pa true false false none)
    | none => some (.bad 0x33 2)
  else if sp.sv && sp.root == 0 then some (.ok va true true false none)
  else none

/-- Translation through the first-level cache alone. -/
def State.xlateFast (s : State) (sp : Space) (va : Nat) (need : Need) : Xl :=
  match directXl sp va with
  | some r => r
  | none =>
    match tlbFind (mget s.tlb1 sp.core []) sp.asn (va / 0x10000) with
    | some leaf => s.underLeaf sp leaf va need
    | none => .miss

/-- Put a leaf into the first-level cache of a core. -/
def State.fillL1 (s : State) (core asn vpn leaf : Nat) : State :=
  { s with tlb1 := mput s.tlb1 core (tlbTouch (mget s.tlb1 core []) ⟨asn, vpn, w64 leaf⟩ 32) }

/-- Put a leaf into the second-level store of its home. -/
def State.fillL2 (s : State) (b asn vpn leaf : Nat) : State :=
  let h := tlbHome b asn vpn
  { s with tlb2 := mput s.tlb2 h (tlb2Touch (mget s.tlb2 h []) ⟨asn, vpn, w64 leaf⟩) }

/-- The leaf of a page in the second-level store of its home. -/
def State.findL2 (s : State) (b asn vpn : Nat) : Option Nat := tlbFind (mget s.tlb2 (tlbHome b asn vpn) []) asn vpn

/-- Mark a page's first-level entry as the most recently used. -/
def State.touchL1 (s : State) (sp : Space) (va : Nat) : State :=
  match directXl sp va with
  | some _ => s
  | none =>
    match tlbFind (mget s.tlb1 sp.core []) sp.asn (va / 0x10000) with
    | some leaf => s.fillL1 sp.core sp.asn (va / 0x10000) leaf
    | none => s

/-- The leaf of a page found in the second-level store becomes its most recent (R210). -/
def State.touchL2 (s : State) (b asn vpn leaf : Nat) : State := s.fillL2 b asn vpn leaf

/-- What a walk leaves at the homes of its table words: single-bit errors are corrected, and a poisoned word is counted (R231). -/
def State.afterWalk (s : State) (b root va : Nat) : State :=
  let t := s.correct (s.walkReads b root va)
  match s.walk b root va with
  | .ok _ => t
  | .error c => if c.1 = 0x39 then t.countUe c.2 else t

/-- Translation to the end: caches, then the walk, filling the caches with a valid leaf. Used by block fetch and by the engines, whose own timing is not modelled. -/
def State.xlate (s : State) (sp : Space) (va : Nat) (need : Need) : Xl × State :=
  match s.xlateFast sp va need with
  | .miss =>
    let b := coreBasin sp.core
    let vpn := va / 0x10000
    match s.findL2 b sp.asn vpn with
    | some leaf => (s.underLeaf sp leaf va need, (s.touchL2 b sp.asn vpn leaf).fillL1 sp.core sp.asn vpn leaf)
    | none =>
      let t := s.afterWalk b sp.root va
      match s.walk b sp.root va with
      | .ok leaf => (s.underLeaf sp leaf va need, (t.fillL2 b sp.asn vpn leaf).fillL1 sp.core sp.asn vpn leaf)
      | .error c => (.bad c.1 0, t)
  | r => (r, s.touchL1 sp va)

/-- The check of a data access of an issuer at its translated address, before a home is asked (R202 to R204, R216, R332).
`load` is a load, which supervisor mode may aim at a sump. An access of a core to its own slice sends no message. -/
def State.checkMem (s : State) (sp : Space) (load : Bool) (pa : Nat) : Option Nat :=
  let routed := s.reachable (coreSite sp.core) (paSite pa)
  match s.place (coreBasin sp.core) pa with
  | .refused c => some c
  | .config _ _ => if routed then none else some 0x31
  | p =>
    let own : Bool := match p with | .slice k _ => decide (k = sp.core) | _ => false
    if s.inSump (coreBasin sp.core) pa && !(sp.sv && load) then some 0x3B
    else if !own && !routed then some 0x31
    else if s.retiredHome pa then some 0x3A
    else none

end Sys2Proof.Machine
end

