-- ==== Sys2Proof/Machine/Ops.lean ====
section
/-! DEFINITION. The shared operations of the block engine: reading the loaded block, sending tokens, taking a fault and
coming back from one (spec/05_block_engine.md R144 to R161, R174, R175; spec/14_ditch_rider.md R416 to R423). -/

namespace Sys2Proof.Machine

/-- The outcome of a meaning. -/
abbrev Out := Host.Outcome State Fault Refusal

/-! ### Updates -/

def State.modSlot (s : State) (core slot : Nat) (f : Slot → Slot) : State := s.setSlot core slot (f (s.slotAt core slot))
def State.modCore (s : State) (k : Nat) (f : Core → Core) : State := s.setCore k (f (s.coreAt k))
def State.modSite (s : State) (n : Nat) (f : Site → Site) : State := s.setSite n (f (s.siteAt n))
def State.modBasin (s : State) (b : Nat) (f : Basin → Basin) : State := s.setBasin b (f (s.basinAt b))
def State.modRun (s : State) (core slot : Nat) (f : Run → Run) : State :=
  s.modSlot core slot fun sl => { sl with run := sl.run.map f }

def State.runAt (s : State) (core slot : Nat) : Option Run := (s.slotAt core slot).run

/-- The instruction of index ix of a loaded block, decoded from its word. -/
def Run.instr (r : Run) (ix : Nat) : Option Instr :=
  match r.words[ix]? with
  | none => none
  | some w => match decodeWord w with
    | .ok i => some i
    | .error _ => none

/-- The shape of instruction ix; an index past the block has the empty shape. -/
def Run.shape (r : Run) (ix : Nat) : Shape :=
  match r.instr ix with
  | some i => i.shape
  | none => {}

def Run.inst (r : Run) (ix : Nat) : Inst := r.insts.getD ix {}
def Run.setInst (r : Run) (ix : Nat) (i : Inst) : Run := { r with insts := lset r.insts ix i }
def Run.modInst (r : Run) (ix : Nat) (f : Inst → Inst) : Run := r.setInst ix (f (r.inst ix))
def State.modInst (s : State) (core slot ix : Nat) (f : Inst → Inst) : State := s.modRun core slot fun r => r.modInst ix f
def State.setSt (s : State) (core slot ix : Nat) (st : InstSt) : State := s.modInst core slot ix fun i => { i with st := st }

/-- The next unused id. -/
def State.bump (s : State) : State := { s with nextId := s.nextId + 1 }

/-! ### Packets (R416, R417) -/

/-- Words of a fault packet or notice (Table 14-2). -/
def packetWords (kind site core slot cause index : Nat) (tail repl nothr : Bool) (blk va : Nat) (wid : W64) (info time lcid vc : Nat) :
    List W64 :=
  [w64 (kind + site * 2 ^ 8 + core * 2 ^ 17 + slot * 2 ^ 21 + cause * 2 ^ 24 + index * 2 ^ 32 + tail.toNat * 2 ^ 39 +
      repl.toNat * 2 ^ 40 + nothr.toNat * 2 ^ 41),
    w64 (blk % 2 ^ 48), w64 (va % 2 ^ 48), wid, w64 info, w64 time, w64 (lcid % 2 ^ 16 + vc % 2 ^ 32 * 2 ^ 32), 0#64]

/-- Send a packet to the chiplet rider of a site. -/
def State.sendPkt (s : State) (site core slot : Nat) (words : List W64) : State :=
  { s with pkts := s.pkts ++ [⟨s.nextId, s.riderCore site, coreSite core, coreNum core, slot, words, s.time⟩], nextId := s.nextId + 1 }

/-- A notice or a report-only fault that names a thread or a unit and freezes nothing (R433). -/
def State.notice (s : State) (core slot kind cause info : Nat) (nothr : Bool) : State :=
  let sl := s.slotAt core slot
  s.sendPkt (coreSite core) core slot
    (packetWords kind (coreSite core) (coreNum core) slot cause 127 false false nothr 0 0
      (if nothr then 0#64 else sl.ctl.wid) info s.time (s.coreAt core).lcid (if nothr then 0 else sl.ctl.vcore.toNat))

/-- The fault packet of a thread, with the copy kept in its image (R416). -/
def State.faultPkt (s : State) (core slot cause ix : Nat) (tail repl : Bool) (va info : Nat) : State :=
  let sl := s.slotAt core slot
  let ws := packetWords 0x41 (coreSite core) (coreNum core) slot cause ix tail repl false sl.pc.toNat va sl.ctl.wid info
    s.time (s.coreAt core).lcid sl.ctl.vcore.toNat
  (s.modSlot core slot fun sl => { sl with lastPkt := ws }).sendPkt (coreSite core) core slot ws

/-! ### Discarding a block (R156, R174) -/

/-- Whether a request belongs to the uncommitted block of a slot. -/
def Req.ofBlock (q : Req) (core slot : Nat) : Bool := decide (q.core = core) && decide (q.slot = slot) && !q.left
def PopReq.ofBlock (q : PopReq) (core slot : Nat) : Bool := decide (q.core = core) && decide (q.slot = slot) && !q.left
def RecvReq.ofBlock (q : RecvReq) (core slot : Nat) : Bool := decide (q.core = core) && decide (q.slot = slot) && !q.left

/-- Withdraw what an uncommitted block has asked of homes, queues and walkers, and free its reservations. -/
def State.withdraw (s : State) (core slot : Nat) : State :=
  let mine := (s.reqs.filter fun q => q.ofBlock core slot).map Req.id
  { s with
    reqs := s.reqs.filter fun q => !q.ofBlock core slot
    resv := s.resv.filter fun e => !mine.contains e.2
    replies := s.replies.filter fun r => !(decide (r.core = core) && decide (r.slot = slot))
    recvs := s.recvs.filter fun q => !q.ofBlock core slot
    pops := s.pops.filter fun q => !q.ofBlock core slot
    withdrawals := s.withdrawals.filter fun i => !mine.contains i
    waitq := s.waitq.filter fun i => !mine.contains i
    misses := s.misses.filter fun m => !(decide (m.core = core) && decide (m.slot = slot)) }

/-- Priority ends with the block that holds it; the next slot in waiting order takes it (R157). -/
def Core.dropPrio (k : Core) (slot : Nat) : Core :=
  if k.prio = some slot then { k with prio := k.prioQ.head?, prioQ := k.prioQ.tail }
  else { k with prioQ := k.prioQ.filter (· ≠ slot) }

/-- A turn under way ends for a slot whose block is gone. -/
def Core.dropTurn (k : Core) (slot : Nat) : Core :=
  match k.turn with
  | some t => if t.slot = slot then { k with turn := some { t with sel := [] } } else k
  | none => k

/-- Discard the uncommitted block of a slot: nothing of it remains, and the program counter holds its address. -/
def State.discard (s : State) (core slot : Nat) : State :=
  match s.runAt core slot with
  | none => s
  | some r =>
    ((s.withdraw core slot).modSlot core slot fun sl => { sl with run := none, look := none, pc := r.addr }).modCore core
      fun k => (k.dropPrio slot).dropTurn slot

/-- The address a slot frozen with TAIL holds: the target of the exit fired, else the block's own address (R420). -/
def Run.tailPc (r : Run) : W64 :=
  match r.exit with
  | some e => match e.kind with
    | .retire => r.addr
    | _ => e.target
  | none => r.addr

/-! ### Taking a fault: the one operation (R174, R175, R226, R416 to R420) -/

/-- The failures after commit that a thread which now freezes has yet to report: each has its packet, the oldest first (R226). -/
def State.tellFailed (s : State) (core slot : Nat) : State :=
  match (s.slotAt core slot).failed with
  | [] => s
  | fs => (fs.foldl (fun s f => s.faultPkt core slot f.1 f.2.1 true false f.2.2.1 f.2.2.2) s).modSlot core slot fun sl => { sl with failed := [], frz := true }

/-- Freeze a slot, or put it into the retry latch, with a cause and index, and send the packet. -/
def State.freezeWith (s : State) (core slot cause ix : Nat) (tail repl : Bool) (va info : Nat) : State :=
  (s.modSlot core slot fun sl =>
    { sl with
      frz := if repl then sl.frz else true
      rty := if repl then true else sl.rty
      tailBit := tail
      cause := BitVec.ofNat 8 cause
      index := BitVec.ofNat 7 ix
      faultAt := some (s.cyc core)
      replays := 0 }).faultPkt core slot cause ix tail repl va info

/-- The floating-point event message of a committed block (Table 6-1), with FPF and TIME as they were at the merge. -/
def State.fpEvent (s : State) (core slot : Nat) (r : Run) (next : W64) (evt : Flags) (tail : Bool) (fpf : W64) (time : Nat) : State :=
  s.sendPkt (coreSite core) core slot
    [w64 (0x40 + coreSite core * 2 ^ 8 + coreNum core * 2 ^ 17 + slot * 2 ^ 21 + evt.toNat * 2 ^ 24 + tail.toNat * 2 ^ 30),
      r.addr &&& 0xFFFFFFFFFFFF#64, next &&& 0xFFFFFFFFFFFF#64, (s.slotAt core slot).ctl.wid, fpf, w64 time, 0#64, 0#64]

/-- Whether a block's exit is RETIRE. -/
def Run.retires (r : Run) : Bool := match r.exit with | some e => decide (e.kind = .retire) | none => false

/-- NEXT of an event: the address at which the thread resumes, 0 after RETIRE, and the block's own address where no exit has fired (log entry
74). -/
def Run.eventNext (r : Run) : W64 := if r.retires then 0#64 else r.tailPc

/-- The event of the flags merged at commit, sent once the address of the next block is known: with the commit, or when the tail ends for a block
whose exit lies there (R112, R199). The thread is to park. -/
def State.lateEvent (s : State) (core slot : Nat) (r : Run) : State :=
  if r.evt = 0#6 || r.told then s
  else
    (s.fpEvent core slot r r.eventNext r.evt false r.evtFpf r.evtTime).modRun core slot fun r => { r with told := true, park := !r.retires }

/-- Take a fault of the block loaded in a slot: before commit the block is discarded and the thread freezes at the block's
address (or parks in the retry latch when the fault is replayable); after commit the block stands, the packet marks TAIL,
and the registers its tail writes stay empty (row 0x27 of Table 5-9). Failures after commit that waited for the block's end have their packets first (R226). With
no block loaded the thread stops at its program counter. -/
def State.raise (s : State) (core slot cause ix : Nat) (repl : Bool) (va info : Nat) : State :=
  match s.runAt core slot with
  | none => s.freezeWith core slot cause ix false repl va info
  | some r =>
    if r.tail then
      ((((s.lateEvent core slot r).modSlot core slot fun sl =>
        { sl with run := none, look := none, pc := r.tailPc, ending := none, evp := sl.evp || sl.run.any Run.park }).modCore core
        fun k => k.dropTurn slot).tellFailed core slot).freezeWith core slot cause ix true false va info
    else ((s.discard core slot).tellFailed core slot).freezeWith core slot cause ix false repl va info

/-! ### What an instruction waits for -/

/-- Put a token into an operand slot. -/
def Inst.put (i : Inst) (sl : OpSlot) (t : Token) : Inst :=
  match sl with
  | .l => { i with l := some t }
  | .r => { i with r := some t }
  | .p => { i with p := some t }

def Inst.slot (i : Inst) : OpSlot → Option Token
  | .l => i.l
  | .r => i.r
  | .p => i.p

/-- Whether a token has a null byte in its low n bytes. -/
def Token.nullIn (t : Token) (n : Nat) : Bool := t.mask.toNat % 2 ^ n != 0

/-- Whether a token is null in every byte. A narrower result whose lanes are all null has mask 0x00FF and is no such token (log entry 73). -/
def Token.isNull (t : Token) : Bool := t.mask == 0xFFFF#16

/-- Bits [63:0] of a token. -/
def Token.lo (t : Token) : W64 := t.data.setWidth 64

/-- What a scalar predicate makes of an instruction: it has not arrived, it is admitted, it resolves without firing, or it fires
null (R57, R145). -/
inductive PredR where
  | absent | go | skip | null
  deriving DecidableEq, Repr

def predOf (p : Pred) (tok : Option Token) : PredR :=
  match p with
  | .always => .go
  | .onTrue => match tok with
    | none => .absent
    | some t => if t.nullIn 8 then .null else if t.data.getLsbD 0 then .go else .skip
  | .onFalse => match tok with
    | none => .absent
    | some t => if t.nullIn 8 then .null else if t.data.getLsbD 0 then .skip else .go

/-- Whether an instruction is resolved without firing by clk `now`: a scalar predicate token usable by then fails its mode, or an exit's l or p
token is null (R145, R176). Lane forms never are (R180). `lane` says the form reads its predicate lane by lane. -/
def resolvedUnfired (sh : Shape) (lane : Bool) (now : Nat) (i : Inst) : Bool :=
  let p := i.p.filter fun t => decide (t.usable ≤ now)
  if lane || sh.sig = .lrp then false
  else
    (predOf sh.pm p == .skip) ||
      (sh.exit.isSome && ((predOf sh.pm p == .null) ||
        (match i.l with | some t => decide (t.usable ≤ now) && t.nullIn 8 | none => false)))

/-- Majors of the lane forms (R177). -/
def Shape.isLane (sh : Shape) : Bool := decide (0x30 ≤ sh.major) && decide (sh.major ≤ 0x59)

/-- Whether an instruction of the block is resolved without firing at clk `now`: a token for it is discarded (R145). -/
def Run.shut (r : Run) (now ix : Nat) : Bool := resolvedUnfired (r.shape ix) (Shape.isLane (r.shape ix)) now (r.inst ix)

/-- Whether every operand slot of the instruction holds a token usable at clk `now`. -/
def Inst.ready (i : Inst) (sh : Shape) (now : Nat) : Bool :=
  let ok := fun (sl : OpSlot) => !sh.has sl || (match i.slot sl with | some t => decide (t.usable ≤ now) | none => false)
  ok .l && ok .r && ok .p

/-- Whether some instruction of a loaded block holds its tokens and can fire (Table 5-6). -/
def State.couldFire (s : State) (core : Nat) (r : Run) : Bool :=
  let now := s.cyc core
  (List.range r.words.length).any fun ix =>
    decide ((r.inst ix).st = .idle) && (r.inst ix).ready (r.shape ix) now && !r.shut now ix

/-- Whether an instruction's result is awaited by a wait that parks its thread (Table 5-6): a register, a full/empty state,
an owned or reserved word, a queue, a ditch, a barrier, a tag, a join or IDLE. -/
def State.parksOn (s : State) (core slot : Nat) (r : Run) (ix : Nat) : Bool :=
  match (r.inst ix).st with
  | .wait _ =>
    match r.instr ix with
    | some (.read ..) => true
    | some (.qrecv ..) => true
    | some (.dpop ..) => true
    | some (.wwait ..) => true
    | some (.wsleep ..) => true
    | some (.wbar ..) => true
    | some (.twany ..) => true
    | some (.twall ..) => true
    | some (.tffr ..) => true
    | some (.joinw ..) => true
    | some (.idle ..) => true
    | _ => s.reqs.any fun q => decide (q.core = core) && decide (q.slot = slot) && decide (q.ix = ix) &&
        (match q.st with | .waiting => true | .refused _ => true | _ => false)
  | _ => false

/-- Whether a thread is parked: by its state bits, by holding no block to run, or by a wait of its block while nothing of it can fire (Table 5-6,
R272). -/
def State.isParked (s : State) (core slot : Nat) : Bool :=
  let sl := s.slotAt core slot
  sl.rty || !sl.busy ||
    match sl.run with
    | some r => sl.evp || (!s.couldFire core r && ((List.range r.words.length).any (s.parksOn core slot r) || r.held.isSome))
    | none => sl.evp

/-- Freeze a thread at a block boundary for failures after commit, the oldest first; each has its packet (R226). -/
def State.freezeTail (s : State) (core slot : Nat) (fs : List (Nat × Nat × Nat × Nat)) : State :=
  match fs with
  | [] => s
  | f :: rest =>
    rest.foldl (fun s f => s.faultPkt core slot f.1 f.2.1 true false f.2.2.1 f.2.2.2)
      ((s.modSlot core slot fun sl => { sl with failed := [], ending := none, look := none }).freezeWith core slot f.1 f.2.1 true false f.2.2.1 f.2.2.2)

/-- A failure after commit (R226): the thread freezes at its next block boundary, or at once if it is parked, in its tail too; a thread that has
retired only has its packet sent. -/
def State.failAfter (s : State) (core slot cause ix va info : Nat) : State :=
  let sl := s.slotAt core slot
  if !sl.busy then s.faultPkt core slot cause ix true false va info
  else
    match sl.run with
    | none => s.freezeTail core slot [(cause, ix, va, info)]
    | some r =>
      if !s.isParked core slot then s.modSlot core slot fun sl => { sl with failed := sl.failed ++ [(cause, ix, va, info)] }
      else if r.tail then s.raise core slot cause ix false va info
      else (s.discard core slot).freezeTail core slot (sl.failed ++ [(cause, ix, va, info)])

/-! ### Sending tokens (R146) -/

/-- The null token (R144). -/
def nullToken : Token := { mask := 0xFFFF#16 }

/-- A scalar value token. -/
def scalarToken (v : W64) : Token := { data := v.setWidth 128 }

/-- Send a token to a target: a filled slot raises the token-collision fault 0x20 with the consumer's index; a token for an empty slot of an
instruction already resolved without firing is discarded (R145). -/
def State.sendTo (s : State) (core slot : Nat) (t : Option Target) (tok : Token) : State :=
  match t with
  | none => s
  | some t =>
    match s.runAt core slot with
    | none => s
    | some r =>
      if ((r.inst t.idx.toNat).slot t.slot).isSome then s.raise core slot 0x20 t.idx.toNat false 0 0
      else if r.shut (s.cyc core) t.idx.toNat then s
      else s.modInst core slot t.idx.toNat fun i => i.put t.slot tok

/-- Send a token to both targets, usable from a clk `lat` after the present one (R176). -/
def State.deliver (s : State) (core slot : Nat) (t u : Option Target) (lat : Nat) (tok : Token) : State :=
  let tok := { tok with usable := s.cyc core + lat }
  (s.sendTo core slot t tok).sendTo core slot u tok

/-! ### The context of a firing instruction -/

/-- What a meaning sees: the slot, its block and the instruction's operands. -/
structure Ctx where
  core : Nat
  slot : Nat
  ix : Nat
  sl : Slot
  run : Run
  inst : Inst

/-- The context that `cur` names. -/
def State.ctx? (s : State) : Option Ctx :=
  match s.cur with
  | none => none
  | some f =>
    match (s.slotAt f.core f.slot).run with
    | none => none
    | some r => if f.ix < r.words.length then some ⟨f.core, f.slot, f.ix, s.slotAt f.core f.slot, r, r.inst f.ix⟩ else none

/-- Whether every operand slot of the instruction holds a token. -/
def Inst.filled (i : Inst) (sh : Shape) : Bool :=
  let ok := fun (sl : OpSlot) => !sh.has sl || (i.slot sl).isSome
  ok .l && ok .r && ok .p

/-- An instruction that has fired and is done. -/
def State.finish (s : State) (c : Ctx) : State := s.setSt c.core c.slot c.ix .done

/-- Merge flags into the block's (R110). -/
def State.addFlags (s : State) (c : Ctx) (f : Flags) : State :=
  if f = 0#6 then s else s.modRun c.core c.slot fun r => { r with flags := r.flags ||| f }

/-- An instruction that fires and sends a token. -/
def State.fireToken (s : State) (c : Ctx) (t u : Option Target) (lat : Nat) (tok : Token) (f : Flags) : State :=
  ((s.finish c).addFlags c f).deliver c.core c.slot t u lat tok

/-- The frame of a form that fires once its data slots are filled: nothing happens before, and it resolves as R145 lays
down. `null` is what it does with a null predicate. -/
def firing (p : Pred) (ready : Inst → Bool) (null act : Ctx → State) (s : State) : Out :=
  match s.ctx? with
  | none => .fault .noFiringContext
  | some c =>
    if c.inst.st ≠ .idle || !ready c.inst then .next s
    else match predOf p c.inst.p with
      | .absent => .next s
      | .skip => .next s
      | .null => .next (null c)
      | .go => .next (act c)

def needNone : Inst → Bool := fun _ => true
def needL : Inst → Bool := fun i => i.l.isSome
def needLR : Inst → Bool := fun i => i.l.isSome && i.r.isSome
def needLRP : Inst → Bool := fun i => i.l.isSome && i.r.isSome && i.p.isSome

/-- The operand tokens of a context; a missing one reads as a zero value (a form never fires without its own). -/
def Ctx.l (c : Ctx) : Token := c.inst.l.getD {}
def Ctx.r (c : Ctx) : Token := c.inst.r.getD {}
def Ctx.p (c : Ctx) : Token := c.inst.p.getD {}

end Sys2Proof.Machine
end

