-- ==== Sys2Proof/Machine/Operands.lean ====
section
/-! DEFINITION. Operand forms: the lanes of a token (Table 2-18, R179 to R182), effective addresses and the data of loads and
stores (R217 to R220). -/

namespace Sys2Proof
/-- lane_width (Table 2-18). -/
def LaneTy.width : LaneTy → Nat
  | .s8 => 8 | .s16 => 16 | .s32 => 32 | .s64 => 64 | .n8 => 8 | .n16 => 16 | .n32 => 32 | .n64 => 64
  | .f16 => 16 | .bf16 => 16 | .f32 => 32

/-- lane_count (Table 2-18). -/
def LaneTy.count (y : LaneTy) : Nat := 128 / y.width

/-- The matrix format of a floating-point lane. -/
def LaneTy.fmt : LaneTy → MFmt
  | .f16 => .f16 | .bf16 => .bf16 | .f32 => .f32
  | .s8 => .s8 | .s16 => .s8 | .s32 => .s8 | .s64 => .s8 | .n8 => .s8 | .n16 => .s8 | .n32 => .s8 | .n64 => .s8

/-- The type of twice the width, same signedness (R188). -/
def LaneTy.wider : LaneTy → LaneTy
  | .s8 => .s16 | .s16 => .s32 | .s32 => .s64 | .s64 => .s64
  | .n8 => .n16 | .n16 => .n32 | .n32 => .n64 | .n64 => .n64
  | .f16 => .f32 | .bf16 => .f32 | .f32 => .f32

/-- The type of half the width, same signedness (R188). -/
def LaneTy.narrower : LaneTy → LaneTy
  | .s8 => .s8 | .s16 => .s8 | .s32 => .s16 | .s64 => .s32
  | .n8 => .n8 | .n16 => .n8 | .n32 => .n16 | .n64 => .n32
  | .f16 => .f16 | .bf16 => .bf16 | .f32 => .f16

/-- Bytes of an LD or LDD (Table 2-10). -/
def LdSize.bytes : LdSize → Nat
  | .n8 => 1 | .n16 => 2 | .n32 => 4 | .n64 => 8 | .s8 => 1 | .s16 => 2 | .s32 => 4 | .q => 16

/-- Bytes of an ST. -/
def StSize.bytes : StSize → Nat
  | .n8 => 1 | .n16 => 2 | .n32 => 4 | .n64 => 8 | .q => 16

end Sys2Proof

namespace Sys2Proof.Machine

/-! ### Lanes -/

/-- get_lane (Table 2-18). -/
def getLane (v : W128) (y : LaneTy) (i : Nat) : Nat := v.toNat / 2 ^ (y.width * i) % 2 ^ y.width

/-- The bytes of lane i in a null mask. -/
def laneMask (y : LaneTy) (i : Nat) : Nat := (2 ^ (y.width / 8) - 1) * 2 ^ (i * (y.width / 8))

/-- Whether lane i of a token has a null byte. -/
def laneNull (t : Token) (y : LaneTy) (i : Nat) : Bool := Nat.land t.mask.toNat (laneMask y i) != 0

/-- lane_true (Table 2-18). -/
def laneTrue (v : W128) (y : LaneTy) (i : Nat) : Bool := getLane v y i % 2 == 1

/-- Whether a predicate token lets lane i through, under a type (R179). -/
def predLane (p : Pred) (tok : Option Token) (y : LaneTy) (i : Nat) : Bool :=
  match p with
  | .always => true
  | .onTrue => match tok with
    | some t => !laneNull t y i && laneTrue t.data y i
    | none => false
  | .onFalse => match tok with
    | some t => !laneNull t y i && !laneTrue t.data y i
    | none => false

/-- The signed or unsigned value of a lane code. -/
def laneInt (y : LaneTy) (x : Nat) : Int := if y.isSigned then sext x y.width else x

/-- wrap (Table 2-18). -/
def wrapInt (x : Int) (w : Nat) : Nat := intCode w x

/-- A lane's result: a code with flags, or null. -/
abbrev LaneRes := Option (Nat × Flags)

/-- A token built from lanes of a width: the data, the mask of its null lanes, the union of the flags. -/
def packLanes (w : Nat) : List LaneRes → Nat × Nat × Flags
  | [] => (0, 0, 0#6)
  | r :: rs =>
    let (d, m, f) := packLanes w rs
    match r with
    | some (x, g) => (x % 2 ^ w + 2 ^ w * d, 2 ^ (w / 8) * m, f ||| g)
    | none => (2 ^ w * d, 2 ^ (w / 8) - 1 + 2 ^ (w / 8) * m, f)

/-- The token of a list of lanes; `full` says that every lane null makes the token null in all 16 bytes. -/
def laneToken (w : Nat) (rs : List LaneRes) : Token × Flags :=
  let (d, m, f) := packLanes w rs
  ({ data := BitVec.ofNat 128 d, mask := BitVec.ofNat 16 m }, f)

/-! ### Addresses and data of the slice forms -/

/-- The effective address l[63:0] + off6 · size (R217). -/
def effAddr (l : W64) (off : BitVec 6) (size : Nat) : Nat :=
  (l + off.signExtend 64 * BitVec.ofNat 64 size).toNat

/-- The value an LD or LDD delivers of the bytes read (R219). -/
def extendLoad (sz : LdSize) (x : Nat) : W128 :=
  match sz with
  | .n8 => BitVec.ofNat 128 x
  | .n16 => BitVec.ofNat 128 x
  | .n32 => BitVec.ofNat 128 x
  | .n64 => BitVec.ofNat 128 x
  | .s8 => ((BitVec.ofNat 8 x).signExtend 64).setWidth 128
  | .s16 => ((BitVec.ofNat 16 x).signExtend 64).setWidth 128
  | .s32 => ((BitVec.ofNat 32 x).signExtend 64).setWidth 128
  | .q => BitVec.ofNat 128 x

end Sys2Proof.Machine
end

