-- ==== Sys2Proof/Machine/Regs.lean ====
section
/-! DEFINITION. The register map of configuration space: which register lies at an offset of a site, and whether its word holds a
field whose access is SV (spec/01_organisation.md R25, R44 to R46; spec/05_block_engine.md R173; spec/07_slice_engine.md R203, R213, R215, R232;
spec/08_matrix_engine.md R262; spec/09_copy_engine.md R299; spec/10_hypervector_engine.md R323; spec/11_flumes.md R331, R337; spec/12_weir.md R357,
R358; spec/13_sluice.md R379, R381, R410; spec/14_ditch_rider.md R414, R425, R427, R436; spec/15_headgates.md R444, R449; spec/16_edges_and_health.md
R455, R456, R460, R465, R468). -/

namespace Sys2Proof.Machine

/-- A configuration register, by the words of its table. -/
inductive Reg where
  | header
  | capHead (off : Nat)
  | compute
  | mchip (k : Nat)
  | nst (k : Nat)
  | ringCap
  | band (k : Nat)
  | leat (k : Nat)
  | link (port k : Nat)
  | arbiter (k : Nat)
  | bringUp (k : Nat)
  | account (core slot k : Nat)
  | sliceErr (core k : Nat)
  | mat (core k : Nat)
  | copy (core k : Nat)
  | hv (core k : Nat)
  | queue (core q k : Nat)
  | siteSluice (k : Nat)
  | migr (core k : Nat)
  | replay (core k : Nat)
  | slotCtl (core slot : Nat)
  | mirror (core slot w : Nat)
  | sump (off : Nat)
  | rgen
  | rpub
  | bank (n k : Nat)
  | wbank (n k : Nat)
  | interleave (off : Nat)
  | cell (k : Nat)
  | clock (k : Nat)
  | ditch (d k : Nat)
  | sluice (k : Nat)
  | save (k : Nat)
  | trace (n k : Nat)
  | peer (m : Nat)
  deriving DecidableEq, Repr

/-- The capability list of a site: offset, ID and words of body of each (Table 1-10). Their offsets are the model's (log entry 13). -/
def capsOf (n : Nat) : List (Nat × Nat × Nat) :=
  let own : List (Nat × Nat × Nat) := match siteKind n with
    | .prompt => [(0x100, 1, 1)]
    | .token => [(0x100, 1, 1)]
    | .memory => [(0x100, 2, 3)]
    | _ => []
  let more : List (Nat × Nat × Nat) := match siteKind n with
    | .headgate => [(0x300, 4, 1), (0x400, 5, 4), (0x500, 8, 3)]
    | .hostLink => [(0x300, 6, 7)]
    | .scaleLink => [(0x300, 7, 16)]
    | _ => []
  own ++ (0x200, 3, 18) :: more

/-- The register a word of a capability's body is. -/
def capReg (n id k : Nat) : Option Reg :=
  match id with
  | 1 => some .compute
  | 2 => some (.mchip k)
  | 3 => some (.nst k)
  | 4 => some .ringCap
  | 5 => some (.band k)
  | 6 => some (.leat k)
  | 7 => some (.link (2 * linkSites.findIdx (· == n) + k / 8) (k % 8))
  | 8 => some (.arbiter k)
  | _ => none

/-- What lies in the first 64 KiB of a site: its header word and its capabilities. -/
def lowReg (n off : Nat) : Option Reg :=
  if off = 0 then some .header
  else match (capsOf n).find? fun c => decide (c.1 ≤ off) && decide (off < c.1 + 8 + 8 * c.2.2) with
    | none => none
    | some c => if off = c.1 then some (.capHead off) else capReg n c.2.1 ((off - c.1) / 8 - 1)

/-- The registers of a compute site above its capabilities. -/
def computeReg (n off : Nat) : Option Reg :=
  let core := fun (base size : Nat) => coreOf n ((off - base) / size)
  let word := fun (base size : Nat) => (off - base) % size / 8
  let lies := fun (base size : Nat) => decide (base ≤ off) && decide (off < base + size)
  if lies 0x20000 0x2000 then some (.account (core 0x20000 0x200) ((off - 0x20000) % 0x200 / 0x40) (word 0x20000 0x40))
  else if lies 0x40000 0x200 then some (.sliceErr (core 0x40000 0x20) (word 0x40000 0x20))
  else if lies 0x50000 0x400 then some (.mat (core 0x50000 0x40) (word 0x50000 0x40))
  else if lies 0x60000 0x400 then some (.copy (core 0x60000 0x40) (word 0x60000 0x40))
  else if lies 0x70000 0x400 then some (.hv (core 0x70000 0x40) (word 0x70000 0x40))
  else if lies 0x80000 0x1000 then some (.queue (core 0x80000 0x100) ((off - 0x80000) % 0x100 / 0x20) (word 0x80000 0x20))
  else if lies 0xC0000 (8 * 136) then some (.siteSluice ((off - 0xC0000) / 8))
  else if lies 0xE0000 0x400 then some (.migr (core 0xE0000 0x40) (word 0xE0000 0x40))
  else if lies 0x110000 0x400 then some (.replay (core 0x110000 0x40) (word 0x110000 0x40))
  else if lies 0xF00000 0x2000 then
    (if (off - 0xF00000) % 0x40 = 0 then some (.slotCtl (core 0xF00000 0x200) ((off - 0xF00000) / 0x40 % 8)) else none)
  else if lies 0x1000000 0x40000 then some (.mirror (core 0x1000000 0x4000) ((off - 0x1000000) / 0x800 % 8) (word 0x1000000 0x800))
  else if lies 0x2000000 0x20000 then some (.sump (off - 0x2000000))
  else none

/-- The registers of a headgate above its capabilities. -/
def gateReg (off : Nat) : Option Reg :=
  let word := fun (base size : Nat) => (off - base) % size / 8
  let lies := fun (base size : Nat) => decide (base ≤ off) && decide (off < base + size)
  if off = 0x10000 then some .rgen
  else if off = 0x10008 then some .rpub
  else if lies 0x11000 0x1000 then some (.bank 0 (word 0x11000 0x1000))
  else if lies 0x12000 0x1000 then some (.bank 1 (word 0x12000 0x1000))
  else if lies 0x15000 0x1000 then some (.wbank 0 (word 0x15000 0x1000))
  else if lies 0x16000 0x1000 then some (.wbank 1 (word 0x16000 0x1000))
  else if lies 0x30000 0x800 then some (.interleave (off - 0x30000))
  else if lies 0x90000 0x800 then some (.cell ((off - 0x90000) / 8))
  else if lies 0x90800 0x38 then some (.clock ((off - 0x90800) / 8))
  else if lies 0xA0000 0x4000 then some (.ditch ((off - 0xA0000) / 0x40) (word 0xA0000 0x40))
  else if lies 0xB0000 (8 * 24) then some (.sluice ((off - 0xB0000) / 8))
  else if lies 0xD0000 0x10 then some (.save ((off - 0xD0000) / 8))
  else if lies 0x100000 0x100 then some (.trace ((off - 0x100000) / 0x40) (word 0x100000 0x40))
  else if lies 0x120000 0x800 then some (.peer ((off - 0x120000) / 8))
  else none

/-- The register at an offset of a site; an offset with none reads as zero and takes no write (R203). -/
def regAt (n off : Nat) : Option Reg :=
  if off % 8 ≠ 0 || !siteExists n then none
  else if off < 0x10000 then lowReg n off
  else if 0xF0000 ≤ off && off < 0xF0028 then some (.bringUp ((off - 0xF0000) / 8))
  else if isCompute n then computeReg n off
  else if siteKind n = .headgate then gateReg off
  else none

/-- Whether a register's word holds a field whose access is SV. -/
def Reg.sv : Reg → Bool
  | .mchip k => k == 0
  | .nst k => decide (k < 17)
  | .leat k => k == 0 || (decide (2 ≤ k) && decide (k ≤ 5))
  | .link _ k => decide (k < 7)
  | .arbiter _ => true
  | .bringUp k => k == 1
  | .account _ _ _ => true
  | .mat _ k => k == 0
  | .copy _ k => k == 0
  | .queue _ _ k => k == 0 || k == 3
  | .siteSluice k => k == 0
  | .migr _ k => k == 0
  | .replay _ k => decide (k < 2)
  | .slotCtl _ _ => true
  | .mirror _ _ _ => true
  | .sump _ => true
  | .rpub => true
  | .wbank _ _ => true
  | .interleave off => decide (off % 0x80 < 80)
  | .cell k => k % 4 == 0
  | .clock k => k == 0 || k == 5 || k == 6
  | .ditch _ k => k == 0 || k == 1 || k == 4 || k == 5 || k == 7
  | .sluice k => k == 1 || k == 2 || k == 3 || k == 5 || decide (9 ≤ k)
  | .save k => k == 0
  | .trace _ k => decide (k < 4)
  | .peer _ => true
  | _ => false

/-- Whether the configuration word at an offset of a site holds a field whose access is SV (R414). -/
def svWord (site off : Nat) : Bool := match regAt site off with | some r => r.sv | none => false

end Sys2Proof.Machine
end

