-- ==== Sys2Proof/Machine/Scalar.lean ====
section
/-! DEFINITION. The block control and scalar forms (spec/05_block_engine.md R148 to R151, R158, R161, R163 to R168). -/

namespace Sys2Proof.Machine

/-! ### Scalar functions (Tables 5-2 to 5-4) -/

def boolWord (b : Bool) : W64 := if b then 1#64 else 0#64

def fMulhs (a b : W64) : W64 := BitVec.ofInt 64 (a.toInt * b.toInt / 2 ^ 64)
def fMulhn (a b : W64) : W64 := BitVec.ofNat 64 (a.toNat * b.toNat / 2 ^ 64)
def fDivs (a b : W64) : W64 := if b = 0#64 then BitVec.allOnes 64 else BitVec.ofInt 64 (a.toInt.tdiv b.toInt)
def fDivn (a b : W64) : W64 := if b = 0#64 then BitVec.allOnes 64 else BitVec.ofNat 64 (a.toNat / b.toNat)
def fRems (a b : W64) : W64 := if b = 0#64 then a else BitVec.ofInt 64 (a.toInt.tmod b.toInt)
def fRemn (a b : W64) : W64 := if b = 0#64 then a else BitVec.ofNat 64 (a.toNat % b.toNat)
def fMins (a b : W64) : W64 := if a.toInt ≤ b.toInt then a else b
def fMinn (a b : W64) : W64 := if a.toNat ≤ b.toNat then a else b
def fMaxs (a b : W64) : W64 := if b.toInt ≤ a.toInt then a else b
def fMaxn (a b : W64) : W64 := if b.toNat ≤ a.toNat then a else b
def fAbs (a : W64) : W64 := if a.toInt < 0 then -a else a
def fShl (a b : W64) : W64 := a <<< (b.toNat % 64)
def fShrn (a b : W64) : W64 := a >>> (b.toNat % 64)
def fShrs (a b : W64) : W64 := a.sshiftRight (b.toNat % 64)
def fRotl (a b : W64) : W64 := a.rotateLeft (b.toNat % 64)

/-- popcount of the low n bits. -/
def popcount (x : Nat) : Nat → Nat
  | 0 => 0
  | n + 1 => x % 2 + popcount (x / 2) n

/-- Trailing zeros of the low n bits; n when they are all zero. -/
def ctzAux (x : Nat) : Nat → Nat
  | 0 => 0
  | n + 1 => if x % 2 = 1 then 0 else ctzAux (x / 2) n + 1

def fPopc (a : W64) : W64 := BitVec.ofNat 64 (popcount a.toNat 64)
def fClz (a : W64) : W64 := BitVec.ofNat 64 (if a = 0#64 then 64 else 63 - a.toNat.log2)
def fCtz (a : W64) : W64 := BitVec.ofNat 64 (ctzAux a.toNat 64)
def fExts (n : Nat) (a : W64) : W64 := (a.setWidth n).signExtend 64
def fExtn (n : Nat) (a : W64) : W64 := (a.setWidth n).setWidth 64

/-! ### The shapes of scalar forms (R144, R145, R164) -/

/-- A scalar form of one operand: null when a byte of l[63:0] is null. -/
def scalar1 (f : W64 → W64) (lat : Nat) (p : Pred) (t u : Option Target) (s : State) : Out :=
  firing p needL (fun c => s.fireToken c t u lat nullToken 0#6)
    (fun c => s.fireToken c t u lat (if c.l.nullIn 8 then nullToken else scalarToken (f c.l.lo)) 0#6) s

/-- A scalar form of two operands. -/
def scalar2 (f : W64 → W64 → W64) (lat : Nat) (p : Pred) (t u : Option Target) (s : State) : Out :=
  firing p needLR (fun c => s.fireToken c t u lat nullToken 0#6)
    (fun c => s.fireToken c t u lat (if c.l.nullIn 8 || c.r.nullIn 8 then nullToken else scalarToken (f c.l.lo c.r.lo)) 0#6) s

/-- The core's divider taken for 20 clk (R171). -/
def State.takeDivider (s : State) (core : Nat) : State := s.modCore core fun k => { k with divFree := s.cyc core + 20 }

/-- A division form: as a scalar form, with the divider taken. -/
def scalarDiv (f : W64 → W64 → W64) (p : Pred) (t u : Option Target) (s : State) : Out :=
  firing p needLR (fun c => (s.takeDivider c.core).fireToken c t u 20 nullToken 0#6)
    (fun c => (s.takeDivider c.core).fireToken c t u 20
      (if c.l.nullIn 8 || c.r.nullIn 8 then nullToken else scalarToken (f c.l.lo c.r.lo)) 0#6) s

/-- An immediate form (R165): i is the sign-extended immediate. -/
def scalarImm (f : W64 → W64 → W64) (lat : Nat) (p : Pred) (i : BitVec 14) (t : Option Target) (s : State) : Out :=
  scalar1 (fun a => f a (i.signExtend 64)) lat p t none s

/-- A shift by an immediate 0 to 63. -/
def scalarShift (f : W64 → W64 → W64) (p : Pred) (i : BitVec 14) (t : Option Target) (s : State) : Out :=
  scalar1 (fun a => f a (i.setWidth 64)) 1 p t none s

def execAdd (p : Pred) (t u : Option Target) (s : State) : Out := scalar2 (· + ·) 1 p t u s
def execSub (p : Pred) (t u : Option Target) (s : State) : Out := scalar2 (· - ·) 1 p t u s
def execMul (p : Pred) (t u : Option Target) (s : State) : Out := scalar2 (· * ·) 3 p t u s
def execMulhs (p : Pred) (t u : Option Target) (s : State) : Out := scalar2 fMulhs 3 p t u s
def execMulhn (p : Pred) (t u : Option Target) (s : State) : Out := scalar2 fMulhn 3 p t u s
def execDivs (p : Pred) (t u : Option Target) (s : State) : Out := scalarDiv fDivs p t u s
def execDivn (p : Pred) (t u : Option Target) (s : State) : Out := scalarDiv fDivn p t u s
def execRems (p : Pred) (t u : Option Target) (s : State) : Out := scalarDiv fRems p t u s
def execRemn (p : Pred) (t u : Option Target) (s : State) : Out := scalarDiv fRemn p t u s
def execMins (p : Pred) (t u : Option Target) (s : State) : Out := scalar2 fMins 1 p t u s
def execMinn (p : Pred) (t u : Option Target) (s : State) : Out := scalar2 fMinn 1 p t u s
def execMaxs (p : Pred) (t u : Option Target) (s : State) : Out := scalar2 fMaxs 1 p t u s
def execMaxn (p : Pred) (t u : Option Target) (s : State) : Out := scalar2 fMaxn 1 p t u s
def execNeg (p : Pred) (t u : Option Target) (s : State) : Out := scalar1 (- ·) 1 p t u s
def execAbs (p : Pred) (t u : Option Target) (s : State) : Out := scalar1 fAbs 1 p t u s
def execAnd (p : Pred) (t u : Option Target) (s : State) : Out := scalar2 (· &&& ·) 1 p t u s
def execOr (p : Pred) (t u : Option Target) (s : State) : Out := scalar2 (· ||| ·) 1 p t u s
def execXor (p : Pred) (t u : Option Target) (s : State) : Out := scalar2 (· ^^^ ·) 1 p t u s
def execAndn (p : Pred) (t u : Option Target) (s : State) : Out := scalar2 (fun a b => a &&& ~~~b) 1 p t u s
def execShl (p : Pred) (t u : Option Target) (s : State) : Out := scalar2 fShl 1 p t u s
def execShrn (p : Pred) (t u : Option Target) (s : State) : Out := scalar2 fShrn 1 p t u s
def execShrs (p : Pred) (t u : Option Target) (s : State) : Out := scalar2 fShrs 1 p t u s
def execRotl (p : Pred) (t u : Option Target) (s : State) : Out := scalar2 fRotl 1 p t u s
def execNot (p : Pred) (t u : Option Target) (s : State) : Out := scalar1 (~~~ ·) 1 p t u s
def execPopc (p : Pred) (t u : Option Target) (s : State) : Out := scalar1 fPopc 1 p t u s
def execClz (p : Pred) (t u : Option Target) (s : State) : Out := scalar1 fClz 1 p t u s
def execCtz (p : Pred) (t u : Option Target) (s : State) : Out := scalar1 fCtz 1 p t u s
def execCeq (p : Pred) (t u : Option Target) (s : State) : Out := scalar2 (fun a b => boolWord (a == b)) 1 p t u s
def execCne (p : Pred) (t u : Option Target) (s : State) : Out := scalar2 (fun a b => boolWord (a != b)) 1 p t u s
def execClts (p : Pred) (t u : Option Target) (s : State) : Out := scalar2 (fun a b => boolWord (a.slt b)) 1 p t u s
def execCles (p : Pred) (t u : Option Target) (s : State) : Out := scalar2 (fun a b => boolWord (a.sle b)) 1 p t u s
def execCltn (p : Pred) (t u : Option Target) (s : State) : Out := scalar2 (fun a b => boolWord (a.ult b)) 1 p t u s
def execClen (p : Pred) (t u : Option Target) (s : State) : Out := scalar2 (fun a b => boolWord (a.ule b)) 1 p t u s
def execExts8 (p : Pred) (t u : Option Target) (s : State) : Out := scalar1 (fExts 8) 1 p t u s
def execExts16 (p : Pred) (t u : Option Target) (s : State) : Out := scalar1 (fExts 16) 1 p t u s
def execExts32 (p : Pred) (t u : Option Target) (s : State) : Out := scalar1 (fExts 32) 1 p t u s
def execExtn8 (p : Pred) (t u : Option Target) (s : State) : Out := scalar1 (fExtn 8) 1 p t u s
def execExtn16 (p : Pred) (t u : Option Target) (s : State) : Out := scalar1 (fExtn 16) 1 p t u s
def execExtn32 (p : Pred) (t u : Option Target) (s : State) : Out := scalar1 (fExtn 32) 1 p t u s
def execAddi (p : Pred) (i : BitVec 14) (t : Option Target) (s : State) : Out := scalarImm (· + ·) 1 p i t s
def execMuli (p : Pred) (i : BitVec 14) (t : Option Target) (s : State) : Out := scalarImm (· * ·) 3 p i t s
def execAndi (p : Pred) (i : BitVec 14) (t : Option Target) (s : State) : Out := scalarImm (· &&& ·) 1 p i t s
def execOri (p : Pred) (i : BitVec 14) (t : Option Target) (s : State) : Out := scalarImm (· ||| ·) 1 p i t s
def execXori (p : Pred) (i : BitVec 14) (t : Option Target) (s : State) : Out := scalarImm (· ^^^ ·) 1 p i t s
def execShli (p : Pred) (i : BitVec 14) (t : Option Target) (s : State) : Out := scalarShift fShl p i t s
def execShrni (p : Pred) (i : BitVec 14) (t : Option Target) (s : State) : Out := scalarShift fShrn p i t s
def execShrsi (p : Pred) (i : BitVec 14) (t : Option Target) (s : State) : Out := scalarShift fShrs p i t s
def execCeqi (p : Pred) (i : BitVec 14) (t : Option Target) (s : State) : Out :=
  scalarImm (fun a b => boolWord (a == b)) 1 p i t s
def execCltsi (p : Pred) (i : BitVec 14) (t : Option Target) (s : State) : Out :=
  scalarImm (fun a b => boolWord (a.slt b)) 1 p i t s

/-- SEL (Table 5-4): l or r, data and mask, by p; null when p is null. -/
def execSel (t u : Option Target) (s : State) : Out :=
  firing .always needLRP (fun c => s.finish c)
    (fun c => s.fireToken c t u 1
      (if c.p.nullIn 8 then nullToken else if c.p.data.getLsbD 0 then c.l else c.r) 0#6) s

/-! ### Block control (R166) -/

/-- MOV: the l token, data and mask. -/
def execMov (p : Pred) (t u : Option Target) (s : State) : Out :=
  firing p needL (fun c => s.fireToken c t u 1 nullToken 0#6) (fun c => s.fireToken c t u 1 c.l 0#6) s

def State.setNull (s : State) (c : Ctx) : State := (s.finish c).modRun c.core c.slot fun r => { r with nullFlag := true }

/-- NULL: sets the block's NULL flag, with a null predicate too. -/
def execNull (p : Pred) (s : State) : Out := firing p needNone (fun c => s.setNull c) (fun c => s.setNull c) s

/-- Whether a block holds an ALIGN (R163). -/
def Run.holdsAlign (r : Run) : Bool := (List.range r.words.length).any fun i => match r.instr i with | some .align => true | _ => false

/-- ALIGN: the hint of R163, which a block gives by holding it. -/
def execAlign (s : State) : Out := firing .always needNone (fun c => s.finish c) (fun c => s.finish c) s

def execMovi (p : Pred) (i : BitVec 14) (t : Option Target) (s : State) : Out :=
  firing p needNone (fun c => s.fireToken c t none 1 nullToken 0#6)
    (fun c => s.fireToken c t none 1 (scalarToken (i.signExtend 64)) 0#6) s

def execAppi (p : Pred) (i : BitVec 14) (t : Option Target) (s : State) : Out :=
  scalar1 (fun a => (a <<< 14) ||| i.setWidth 64) 1 p t none s

/-! ### Registers (R147 to R149) -/

/-- The value of a general register in a slot. -/
def Slot.reg (sl : Slot) (n : Nat) : W128 := mget sl.g n 0#128

/-- A register set and left full. -/
def Slot.setReg (sl : Slot) (n : Nat) (v : W128) : Slot :=
  { sl with g := mset 0#128 sl.g n v, full := sl.full ||| (1#64 <<< n) }

/-- A register marked empty. -/
def Slot.markEmpty (sl : Slot) (n : Nat) : Slot := { sl with full := sl.full &&& ~~~(1#64 <<< n) }

def Slot.isFull (sl : Slot) (n : Nat) : Bool := sl.full.getLsbD n

/-- One register read from its place in the context image (Table 14-5). -/
def loadReg (m : Memory) (img : Nat) (sl : Slot) (n : Nat) : Slot :=
  let v := BitVec.ofNat 128 (m.read (img + 16 * n) 16)
  let sl := sl.setReg n v
  if m.full (wordOf (img + 16 * n)) then sl else sl.markEmpty n

/-- The register store with a line loaded: the most recent, for a thread that occupies a slot. Of more than 512 lines the least recently used
evictable one goes (R147). -/
def rlinesLoad (l : List RegLine) (a : Nat) : List RegLine :=
  let l := { addr := a } :: l.filter fun x => decide (x.addr ≠ a)
  if l.length ≤ 512 then l
  else
    let old := (l.reverse.find? RegLine.evict).map RegLine.addr
    l.filter fun x => decide (some x.addr ≠ old)

/-- The lines of a context image in the register store, marked evictable by pre-emption (R147, R398), or given up with the image. -/
def rlinesEvict (l : List RegLine) (img : Nat) : List RegLine :=
  l.map fun x => if img / 64 ≤ x.addr && x.addr < img / 64 + 32 then { x with evict := true } else x
def rlinesDrop (l : List RegLine) (img : Nat) : List RegLine :=
  l.filter fun x => !(decide (img / 64 ≤ x.addr) && decide (x.addr < img / 64 + 32))

/-- A line of the register store becomes the most recent. -/
def rlinesTouch (l : List RegLine) (a : Nat) : List RegLine :=
  match l.find? fun x => decide (x.addr = a) with
  | some x => x :: l.filter fun y => decide (y.addr ≠ a)
  | none => l

/-- The line of a register loaded from its home if it is not present (R147); a poisoned word fails the load (R231). -/
def State.loadLine (s : State) (core slot n : Nat) : Option State :=
  let sl := s.slotAt core slot
  let i := n / 4
  if sl.present.getLsbD i then some s
  else
    let img := s.redirect (sl.ctl.imga.toNat + 64 * i) - 64 * i
    match s.firstPoisoned (wordsOf (img + 64 * i) 64) with
    | some _ => none
    | none =>
      let s := (s.correct (wordsOf (img + 64 * i) 64)).modCore core fun k => { k with rlines := rlinesLoad k.rlines ((sl.ctl.imga.toNat + 64 * i) / 64) }
      some (s.modSlot core slot fun sl =>
        let sl := (List.range 4).foldl (fun sl k => loadReg s.mem img sl (4 * i + k)) sl
        { sl with present := sl.present ||| (1#16 <<< i) })

/-- A register has become full: the READs of it that wait deliver (R148). -/
def State.wakeReads (s : State) (core slot n : Nat) : State :=
  match s.runAt core slot with
  | none => s
  | some r => (List.range r.words.length).foldl (fun s i => match (r.inst i).st, r.instr i with
    | .wait _, some (.read g t u) =>
      if g.toNat = n then (s.setSt core slot i .done).deliver core slot t u 1 { data := (s.slotAt core slot).reg n } else s
    | _, _ => s) s

/-- READ and READT: the register's value when full; empty, READ waits and READT faults. -/
def readReg (trap : Bool) (n : Nat) (t u : Option Target) (s : State) (c : Ctx) : State :=
  match s.loadLine c.core c.slot n with
  | none => (s.countUe (c.sl.ctl.imga.toNat + 16 * n)).raise c.core c.slot 0x39 c.ix false (c.sl.ctl.imga.toNat + 16 * n) 0
  | some s =>
    let sl := s.slotAt c.core c.slot
    if sl.isFull n then s.fireToken c t u 2 { data := sl.reg n } 0#6
    else if trap then s.raise c.core c.slot 0x23 c.ix false 0 0
    else s.setSt c.core c.slot c.ix (.wait s.time)

def execRead (r : BitVec 6) (t u : Option Target) (s : State) : Out :=
  firing .always needNone (fun c => s.finish c) (fun c => readReg false r.toNat t u s c) s

def execReadt (r : BitVec 6) (t u : Option Target) (s : State) : Out :=
  firing .always needNone (fun c => s.finish c) (fun c => readReg true r.toNat t u s c) s

/-- The bytes of a token that are not null laid over a value (R149). -/
def mergeBytes (old : W128) (t : Token) : W128 :=
  (List.range 16).foldl (fun v i =>
    if t.mask.getLsbD i then v else (v &&& ~~~(255#128 <<< (8 * i))) ||| (t.data &&& (255#128 <<< (8 * i)))) old

/-- A register takes a token: its null bytes keep what they were, and the register is full. A line that cannot be loaded leaves it. -/
def State.writeReg (s : State) (core slot n : Nat) (t : Token) : State :=
  match s.loadLine core slot n with
  | none => s
  | some s => s.modSlot core slot fun sl => sl.setReg n (mergeBytes (sl.reg n) t)

/-- Whether the exit that a block has fired is a call (R159). -/
def Run.calls (r : Run) : Bool :=
  match r.exit with
  | some e => (match e.kind with | .call => true | .calli => true | _ => false)
  | none => false

/-- The link of a block (R159). -/
def Run.link (r : Run) : W64 := w64 ((r.addr.toNat + 8 + 2 * bits r.hd 47 40 + 15) / 16 * 16)

/-- What a WRITE in the tail fills its register with: its token, or the link for g63 in a block that has called (R159). -/
def Run.tailToken (r : Run) (n : Nat) (t : Token) : Token :=
  if n = 63 && r.calls then { data := r.link.setWidth 128 } else t

/-- WRITE resolves when its token arrives and takes effect at commit; in a tail it fills its register at once (R155). -/
def execWrite (r : BitVec 6) (s : State) : Out :=
  firing .always needL (fun c => s.finish c)
    (fun c => if c.run.tail then (s.finish c).writeReg c.core c.slot r.toNat (c.run.tailToken r.toNat c.l) else s.finish c) s

/-- WRC resolves when its token arrives and takes effect at commit. -/
def execWrc (_r : BitVec 6) (s : State) : Out := firing .always needL (fun c => s.finish c) (fun c => s.finish c) s

/-! ### Control registers (R67, R151, R167, R415) -/

/-- MKDIM.ROWS. -/
def matrixRows (core : Nat) : Nat := if promptBasin (coreBasin core) then 64 else 32

/-- LCORE of a core (R29). -/
def Core.lcore (k : Core) : W64 := w64 (k.lcid % 2 ^ 16 + k.gen % 2 ^ 16 * 2 ^ 32)

/-- Index of a thread's group among the fold members of its core, and the share of n units each holds (R265, R268). -/
def Core.foldIndex (k : Core) (g : Group) : Nat := k.members.findIdx (· == g)
def Core.share (k : Core) (n : Nat) : Nat := if k.foldK < 2 then n else n / k.foldK

/-- The group of the thread in a slot: its launch header and virtual core number (R38). -/
def Slot.group (sl : Slot) : Group := ⟨(sl.record.getD 7 0#64).toNat, sl.ctl.vcore.toNat % 2 ^ 32⟩

/-- Tags as a group sees them: on a folded core tag n of the i-th member is tag i·q + n of the core, and tags from q up read as set (R268). -/
def Core.tagsOf (k : Core) (g : Group) (tags : W64) : W64 :=
  if k.foldK < 2 then tags
  else (tags >>> (k.foldIndex g * k.share 64)) ||| (BitVec.allOnes 64 <<< k.share 64)

/-- TAGS as the thread of a slot reads them now. -/
def State.tagsView (s : State) (core slot : Nat) : W64 := (s.coreAt core).tagsOf (s.slotAt core slot).group (s.coreAt core).tags

/-- The value an RDC delivers. -/
def State.ctlValue (s : State) (c : Ctx) (n : Nat) : W64 :=
  let x := c.sl.ctl
  match n with
  | 0 => x.fpc
  | 1 => x.fpf
  | 2 => x.nanm
  | 3 => x.mfmt
  | 4 => x.msca
  | 5 => x.mscb
  | 6 => w64 (matrixRows c.core)
  | 7 => x.seg
  | 8 => x.wlim
  | 9 => s.tagsView c.core c.slot
  | 10 => w64 (s.cyc c.core)
  | 11 => w64 ((s.basinAt (coreBasin c.core)).ncyc / 2 ^ 16)
  | 12 => w64 (s.tick c.core)
  | 13 => x.wid
  | 14 => x.vcore
  | 15 => c.run.lcore
  | 16 => x.hvc
  | 32 => x.root
  | 33 => x.asn
  | 34 => x.esave
  | 35 => x.imga
  | _ => 0#64

def execRdc (r : BitVec 6) (t u : Option Target) (s : State) : Out :=
  firing .always needNone (fun c => s.finish c)
    (fun c => s.fireToken c t u 2 (scalarToken (s.ctlValue c r.toNat)) 0#6) s

/-- WLIM is clamped on a write (Table 5-5). -/
def clampLimit (v : W64) : W64 := w64 (max 1000 (min (v.toNat % 2 ^ 30) 1000000000))

/-- The control registers after a WRC, reserved and read-only fields unchanged (R9, R167, R415). A folded thread's SEG is not
written (R432). -/
def Ctl.write (x : Ctl) (folded : Bool) (n : Nat) (v : W64) : Ctl :=
  match n with
  | 0 => { x with fpc := v &&& 0x3F07#64 }
  | 1 => { x with fpf := v &&& 0x3F#64 }
  | 2 => { x with nanm := v &&& 1#64 }
  | 3 => { x with mfmt := v &&& 0xFFF#64 }
  | 4 => { x with msca := v &&& 0x1FFFF#64 }
  | 5 => { x with mscb := v &&& 0x1FFFF#64 }
  | 7 => if folded then x else { x with seg := v &&& 0x3F003F0000#64 }
  | 8 => { x with wlim := clampLimit v }
  | 16 => { x with hvc := v &&& 0xF#64 }
  | 32 => { x with root := v &&& 0xFFFFFFFFFFFF#64 }
  | 33 => { x with asn := v &&& 0xFFFF#64 }
  | _ => x

/-! ### Exits (R158 to R161) -/

/-- The target A + 16·off19 of an exit. -/
def exitTarget (a : W64) (o : BitVec 19) : W64 := a + (o.signExtend 64 <<< 4)

/-- A slot makes a lookup (R162): it awaits the fetch port. -/
def Slot.makeLook (sl : Slot) (k : Lookup) : Slot :=
  { sl with look := some k, looks := (k.addr, k.made) :: sl.looks.filter fun e => decide (k.made ≤ e.2 + 256) }

/-- The lookup of a block's target: one of a block that holds ALIGN is held (R163). -/
def Run.lookup (r : Run) (target : W64) (now : Nat) : Lookup :=
  { addr := target, made := now, hold := if r.holdsAlign then some now else none, aligned := r.holdsAlign }

/-- An exit fires: a second one raises 0x21; else it is recorded, and the lookup of its target starts as a prefetch. A block that
holds ALIGN makes it at commit (R163). -/
def State.fireExit (s : State) (c : Ctx) (k : ExitKind) (target : W64) : State :=
  if c.run.exit.isSome then s.raise c.core c.slot 0x21 c.ix false 0 0
  else
    let s := (s.finish c).modRun c.core c.slot fun r => { r with exit := some ⟨k, target⟩ }
    match k with
    | .susp => s
    | .retire => s
    | _ => if c.run.holdsAlign && !c.run.tail then s
      else s.modSlot c.core c.slot fun sl => sl.makeLook (c.run.lookup target (s.cyc c.core))

/-- An exit whose target is an offset. -/
def exitOff (k : ExitKind) (p : Pred) (o : BitVec 19) (s : State) : Out :=
  firing p needNone (fun _ => s) (fun c => s.fireExit c k (exitTarget c.run.addr o)) s

/-- An exit whose target is in l; a null l resolves it without firing. -/
def exitReg (k : ExitKind) (p : Pred) (s : State) : Out :=
  firing p needL (fun _ => s) (fun c => if c.l.nullIn 8 then s else s.fireExit c k c.l.lo) s

def execBr (p : Pred) (_x : BitVec 3) (o : BitVec 19) (s : State) : Out := exitOff .br p o s
def execCall (p : Pred) (_x : BitVec 3) (o : BitVec 19) (s : State) : Out := exitOff .call p o s
def execBri (p : Pred) (_x : BitVec 3) (s : State) : Out := exitReg .bri p s
def execCalli (p : Pred) (_x : BitVec 3) (s : State) : Out := exitReg .calli p s
def execRet (p : Pred) (_x : BitVec 3) (s : State) : Out := exitReg .ret p s
def execSusp (p : Pred) (_x : BitVec 3) (o : BitVec 19) (s : State) : Out := exitOff .susp p o s
def execRetire (p : Pred) (_x : BitVec 3) (s : State) : Out :=
  firing p needNone (fun _ => s) (fun c => s.fireExit c .retire 0#64) s

end Sys2Proof.Machine
end

