-- ==== Sys2Proof/Machine/Slice.lean ====
section
/-! DEFINITION. The slice forms when they fire: operands, alignment, translation, and the request or the pending operation
they leave (spec/07_slice_engine.md R212, R217 to R225; spec/04_ordering.md R118). -/

namespace Sys2Proof.Machine

/-! ### Kinds of access -/

/-- Store-mask forms (Table 7-5). -/
def MemKind.storeMask : MemKind → Bool
  | .ld _ => false | .look => false | .febit => false | .ldacq _ => false | .probe => false | .joinw => false
  | _ => true

/-- Forms that deliver a token before commit. -/
def MemKind.early : MemKind → Bool := fun k => !k.storeMask

/-- Forms that need a reservation before commit (R154, R221). -/
def MemKind.reserves : MemKind → Bool
  | .take => true | .give => true | .amend => true | _ => false

/-- Performing forms (R152). -/
def MemKind.performing : MemKind → Bool
  | .take => true | .atomic _ _ => true | _ => false

/-- What the form needs of the page (R209, R224). -/
def MemKind.need : MemKind → Need
  | .st _ => .write | .give => .write | .amend => .write | .post => .write | .void => .write | .atomic _ _ => .write
  | .strel _ => .write | .joinad _ => .write | .probe => .probe
  | _ => .read

/-- The loads that supervisor mode may aim at a sump (R204); LOOK and FEBIT count as such (log entry 75). -/
def MemKind.isLoad : MemKind → Bool
  | .ld _ => true | .ldd _ _ => true | .look => true | .ldacq _ => true | .febit => true | .probe => true | _ => false

/-- Forms with an r operand whose null byte makes them null (R218). -/
def MemKind.usesR : MemKind → Bool
  | .give => true | .amend => true | .post => true | .atomic _ _ => true | .strel _ => true | .joinad _ => true | _ => false

def MemKind.usesP : MemKind → Bool
  | .atomic .acas _ => true | _ => false

/-- Forms that may reach configuration space (R203). -/
def MemKind.configOk : MemKind → Bool
  | .ld .n64 => true | .st 8 => true | .ldacq _ => true | .strel _ => true | _ => false

/-- Forms whose word enters the load-watch set when they are sent (R156). -/
def MemKind.watched : MemKind → Bool
  | .ld _ => true | .look => true | .ldacq _ => true | _ => false

/-- What the machine needs of an M-format form: kind, size, offset, LSID, target and fill register. -/
structure MForm where
  kind : MemKind
  size : Nat
  off : BitVec 6
  lsid : Nat
  t : Option Target := none
  reg : Nat := 0
  deriving DecidableEq, Repr

/-- The LD or LDD kinds of R219 with .s64 as .n64. -/
def formLd (z : LdSize) (n : BitVec 4) (o : BitVec 6) (t : Option Target) : MForm :=
  { kind := .ld z, size := z.bytes, off := o, lsid := n.toNat, t := t }
def formLdd (z : LdSize) (n : BitVec 4) (o r : BitVec 6) : MForm :=
  { kind := .ldd z r.toNat, size := z.bytes, off := o, lsid := n.toNat, reg := r.toNat }
def formSt (z : StSize) (n : BitVec 4) (o : BitVec 6) : MForm := { kind := .st z.bytes, size := z.bytes, off := o, lsid := n.toNat }
def formWord (k : MemKind) (n : BitVec 4) (o : BitVec 6) (t : Option Target) : MForm :=
  { kind := k, size := 8, off := o, lsid := n.toNat, t := t }

/-- PROBE reads the word that holds the byte at its address, which need not be aligned (R217, R224). -/
def formProbe (n : BitVec 4) (t : Option Target) : MForm := { kind := .probe, size := 1, off := 0#6, lsid := n.toNat, t := t }

/-- The M-format form of an instruction. -/
def memForm : Instr → Option MForm
  | .ld _ z n o t => some (formLd z n o t)
  | .st _ z n o => some (formSt z n o)
  | .ldd _ z n r o => some (formLdd z n o r)
  | .take _ n o t => some (formWord .take n o t)
  | .look _ n o t => some (formWord .look n o t)
  | .give _ n o => some (formWord .give n o none)
  | .amend _ n o => some (formWord .amend n o none)
  | .post _ n o => some (formWord .post n o none)
  | .void _ n o => some (formWord .void n o none)
  | .febit _ n o t => some (formWord .febit n o t)
  | .aadd _ m n o t => some (formWord (.atomic .aadd m) n o t)
  | .aand _ m n o t => some (formWord (.atomic .aand m) n o t)
  | .aor _ m n o t => some (formWord (.atomic .aor m) n o t)
  | .axor _ m n o t => some (formWord (.atomic .axor m) n o t)
  | .amins _ m n o t => some (formWord (.atomic .amins m) n o t)
  | .amaxs _ m n o t => some (formWord (.atomic .amaxs m) n o t)
  | .aminn _ m n o t => some (formWord (.atomic .aminn m) n o t)
  | .amaxn _ m n o t => some (formWord (.atomic .amaxn m) n o t)
  | .aswp _ m n o t => some (formWord (.atomic .aswp m) n o t)
  | .acas m n o t => some (formWord (.atomic .acas m) n o t)
  | .ldacqCore _ n o t => some (formWord (.ldacq .core) n o t)
  | .ldacqBasin _ n o t => some (formWord (.ldacq .basin) n o t)
  | .ldacqSys _ n o t => some (formWord (.ldacq .sys) n o t)
  | .strelCore _ n o => some (formWord (.strel .core) n o none)
  | .strelBasin _ n o => some (formWord (.strel .basin) n o none)
  | .strelSys _ n o => some (formWord (.strel .sys) n o none)
  | .probe _ n t => some (formProbe n t)
  | _ => none

/-! ### Firing -/

/-- Whether a slice cause is replayable (R212). -/
def replayable (cause : Nat) : Bool := cause == 0x34 || cause == 0x35 || cause == 0x3A

/-- A form that comes out null: its token is null, a store-mask form resolves as null (R218). -/
def State.memNull (s : State) (c : Ctx) (f : MForm) : State :=
  if f.kind.storeMask then s.setSt c.core c.slot c.ix .null else s.fireToken c f.t none 6 nullToken 0#6

/-- PROBE's token (Table 7-6). -/
def probeToken (pa : Nat) (fe w x svo : Bool) (status : Nat) : Token :=
  { data := BitVec.ofNat 128 (pa % 2 ^ 48 + fe.toNat * 2 ^ 48 + w.toNat * 2 ^ 49 + x.toNat * 2 ^ 50 + svo.toNat * 2 ^ 51 + status * 2 ^ 52) }

/-- PROBE's STATUS for a slice cause met before a home (R224). -/
def probeStatus (cause : Nat) : Nat :=
  match cause with
  | 0x34 => 1 | 0x37 => 2 | 0x36 => 3 | 0x31 => 4 | 0x33 => 4 | 0x32 => 5 | 0x3A => 6 | 0x3D => 7 | 0x35 => 8 | 0x3B => 9
  | 0x39 => 10 | _ => 4

/-- The TIME at which the form of a context fired: the present one, or, where it has awaited its translation, when that wait began (R229). -/
def State.firedAt (s : State) (c : Ctx) : Nat := match c.inst.st with | .wait t => t | _ => s.time

/-- The request a form sends. -/
def State.newReq (s : State) (c : Ctx) (f : MForm) (ea pa info : Nat) (rgn : Option Nat) : Req :=
  { id := s.nextId, core := c.core, slot := c.slot, ix := c.ix, seq := c.run.seq, lsid := f.lsid, kind := f.kind, va := ea, pa := pa,
    size := f.size, data := c.r.data, mask := c.r.mask, cmp := c.p.lo, info := info, rgn := rgn, ord := s.nextId, clk := s.cyc c.core, since := s.firedAt c }

def State.sendReq (s : State) (q : Req) : State := { s with reqs := s.reqs ++ [q], nextId := s.nextId + 1 }

/-- The operation a store-mask form leaves for commit. -/
def State.addOp (s : State) (core slot : Nat) (op : Op) : State :=
  s.modRun core slot fun r => { r with ops := mput r.ops op.lsid op }

/-- A form whose address is known and permitted sends its request, records its operation, or both (R154, R220, R221). `info` holds the
leaf's W, X and SVO and the address translation gave, for PROBE. -/
def State.memSend (s : State) (c : Ctx) (f : MForm) (ea pa info : Nat) (rgn : Option Nat) : State :=
  let q := s.newReq c f ea pa info rgn
  let op : Op :=
    { kind := .mem f.kind, ix := c.ix, lsid := f.lsid, l := c.l.data, r := c.r.data, p := c.p.data, rmask := c.r.mask,
      va := ea, pa := pa, size := f.size, reg := f.reg, req := s.nextId, rgn := rgn }
  if f.kind.storeMask then
    let s := s.addOp c.core c.slot op
    if f.kind.reserves then (s.sendReq q).setSt c.core c.slot c.ix (.wait q.since) else s.setSt c.core c.slot c.ix .ready
  else
    let s := (s.sendReq q).setSt c.core c.slot c.ix (.wait q.since)
    if f.kind.watched then s.modRun c.core c.slot fun r => { r with watch := (wordsOf pa f.size).foldl sins r.watch } else s

/-- A cause met by a form before its home is asked: PROBE reports it, any other form takes the fault (R212, R224). -/
def State.memFault (s : State) (c : Ctx) (f : MForm) (ea cause : Nat) (w x svo : Bool) : State :=
  if f.kind = .probe then
    s.fireToken c f.t none 6 (probeToken 0 false w x svo (probeStatus cause)) 0#6
  else s.raise c.core c.slot cause c.ix (replayable cause) ea 0

/-- The checks of a translated address: where it leads, the privilege of a configuration word, the sump, the route and a retired
home (R202 to R204, R216, R332, R414). -/
def State.memChecked (s : State) (c : Ctx) (f : MForm) (ea pa0 : Nat) (w x svo : Bool) (rgn : Option Nat) : State :=
  let sp := c.sl.space c.core c.slot
  let pa := s.redirect pa0
  let info := w.toNat + 2 * x.toNat + 4 * svo.toNat + 8 * pa0
  if paSpace pa = 3 && !f.kind.configOk then s.memFault c f ea 0x31 w x svo
  else match s.place (coreBasin c.core) pa with
  | .config site off =>
    match s.checkMem sp f.kind.isLoad pa with
    | some cause => s.memFault c f ea cause w x svo
    | none => if svWord site off && !sp.sv then s.raise c.core c.slot 0xA1 c.ix false ea 0 else s.memSend c f ea pa 0 rgn
  | _ =>
    match s.checkMem sp f.kind.isLoad pa with
    | some 0x3A => if f.kind = .probe then s.memSend c f ea pa info rgn else s.memFault c f ea 0x3A w x svo
    | some cause => s.memFault c f ea cause w x svo
    | none => s.memSend c f ea pa info rgn

/-- What a form does with the answer of translation; a miss asks the second-level home (R210, R212). -/
def State.memXl (s : State) (c : Ctx) (f : MForm) (ea : Nat) (r : Xl) : State :=
  match r with
  | .ok pa w x svo rgn => s.memChecked c f ea pa w x svo rgn
  | .bad cause leaf => s.memFault c f ea cause (bit leaf 1) (bit leaf 2) (bit leaf 3)
  | .miss =>
    ({ s with misses := s.misses ++ [{ core := c.core, slot := c.slot, ix := c.ix, va := ea, need := f.kind.need }] } : State).setSt
      c.core c.slot c.ix (.wait s.time)

/-- Whether an operand makes the form null (R218); an ST is null when every byte it would write is null (R180). -/
def MForm.isNull (f : MForm) (c : Ctx) : Bool :=
  c.l.nullIn 8 || (f.kind.usesR && c.r.nullIn 8) || (f.kind.usesP && c.p.nullIn 8) ||
    match f.kind with
    | .st n => c.r.mask.toNat % 2 ^ n == 2 ^ n - 1
    | _ => false

/-- An M-format form with its operands present. -/
def State.memFire (s : State) (f : MForm) (c : Ctx) : State :=
  let ea := effAddr c.l.lo f.off f.size
  if f.isNull c then s.memNull c f
  else if f.kind != .probe && ea % f.size ≠ 0 then s.raise c.core c.slot 0x30 c.ix false ea 0
  else
    let sp := c.sl.space c.core c.slot
    let ea := if f.kind = .probe then c.l.lo.toNat else ea
    (s.touchL1 sp ea).memXl c f ea (s.xlateFast sp ea f.kind.need)

/-- The data slots of an M-format form. -/
def MForm.slots (f : MForm) : Inst → Bool :=
  match f.kind with
  | .st _ => needLR
  | k => if k.usesP then needLRP else if k.usesR then needLR else needL

/-- The meaning of an M-format form when it fires. -/
def memExec (p : Pred) (f : MForm) (s : State) : Out := firing p f.slots (fun c => s.memNull c f) (fun c => s.memFire f c) s

def execLd (p : Pred) (z : LdSize) (n : BitVec 4) (o : BitVec 6) (t : Option Target) (s : State) : Out := memExec p (formLd z n o t) s
def execSt (p : Pred) (z : StSize) (n : BitVec 4) (o : BitVec 6) (s : State) : Out := memExec p (formSt z n o) s
def execLdd (p : Pred) (z : LdSize) (n : BitVec 4) (r o : BitVec 6) (s : State) : Out := memExec p (formLdd z n o r) s
def execTake (p : Pred) (n : BitVec 4) (o : BitVec 6) (t : Option Target) (s : State) : Out := memExec p (formWord .take n o t) s
def execLook (p : Pred) (n : BitVec 4) (o : BitVec 6) (t : Option Target) (s : State) : Out := memExec p (formWord .look n o t) s
def execGive (p : Pred) (n : BitVec 4) (o : BitVec 6) (s : State) : Out := memExec p (formWord .give n o none) s
def execAmend (p : Pred) (n : BitVec 4) (o : BitVec 6) (s : State) : Out := memExec p (formWord .amend n o none) s
def execPost (p : Pred) (n : BitVec 4) (o : BitVec 6) (s : State) : Out := memExec p (formWord .post n o none) s
def execVoid (p : Pred) (n : BitVec 4) (o : BitVec 6) (s : State) : Out := memExec p (formWord .void n o none) s
def execFebit (p : Pred) (n : BitVec 4) (o : BitVec 6) (t : Option Target) (s : State) : Out := memExec p (formWord .febit n o t) s

/-- An atomic (R222). -/
def atomicExec (op : AtomOp) (p : Pred) (m : Order) (n : BitVec 4) (o : BitVec 6) (t : Option Target) (s : State) : Out :=
  memExec p (formWord (.atomic op m) n o t) s

def execAadd (p : Pred) (m : Order) (n : BitVec 4) (o : BitVec 6) (t : Option Target) (s : State) : Out := atomicExec .aadd p m n o t s
def execAand (p : Pred) (m : Order) (n : BitVec 4) (o : BitVec 6) (t : Option Target) (s : State) : Out := atomicExec .aand p m n o t s
def execAor (p : Pred) (m : Order) (n : BitVec 4) (o : BitVec 6) (t : Option Target) (s : State) : Out := atomicExec .aor p m n o t s
def execAxor (p : Pred) (m : Order) (n : BitVec 4) (o : BitVec 6) (t : Option Target) (s : State) : Out := atomicExec .axor p m n o t s
def execAmins (p : Pred) (m : Order) (n : BitVec 4) (o : BitVec 6) (t : Option Target) (s : State) : Out := atomicExec .amins p m n o t s
def execAmaxs (p : Pred) (m : Order) (n : BitVec 4) (o : BitVec 6) (t : Option Target) (s : State) : Out := atomicExec .amaxs p m n o t s
def execAminn (p : Pred) (m : Order) (n : BitVec 4) (o : BitVec 6) (t : Option Target) (s : State) : Out := atomicExec .aminn p m n o t s
def execAmaxn (p : Pred) (m : Order) (n : BitVec 4) (o : BitVec 6) (t : Option Target) (s : State) : Out := atomicExec .amaxn p m n o t s
def execAswp (p : Pred) (m : Order) (n : BitVec 4) (o : BitVec 6) (t : Option Target) (s : State) : Out := atomicExec .aswp p m n o t s
def execAcas (m : Order) (n : BitVec 4) (o : BitVec 6) (t : Option Target) (s : State) : Out :=
  atomicExec .acas .always m n o t s

/-! ### Reads of one block out of order (R120, R126) -/

/-- Whether a form sends its token to an instruction. -/
def feedsIx (sh : Shape) (ix : Nat) : Bool :=
  (match sh.t with | some t => decide (t.idx.toNat = ix) | none => false) || (match sh.u with | some t => decide (t.idx.toNat = ix) | none => false)

/-- Which instructions of a block depend on instruction i through tokens. -/
def Run.dependents (r : Run) (i : Nat) : List Bool :=
  (List.range r.words.length).foldl (fun acc j =>
    acc ++ [decide (j = i) || (List.range j).any fun k => acc.getD k false && feedsIx (r.shape k) j]) []

/-- The fences of a block that have fired, by LSID; a fence of core scope orders nothing (R123). -/
def Run.fences (r : Run) : List Nat :=
  r.ops.filterMap fun e => match e.2.kind with
    | .mem (.fence .basin) => some e.1
    | .mem (.fence .sys) => some e.1
    | _ => none

/-- Whether a read, by instruction and word, has performed before one that comes ahead of it: the later one has the lower LSID, and both name one
word or a fence stands between them. A read whose address comes from the other's value follows it all the same. -/
def Run.swapped (r : Run) (y x : Nat × Nat) : Bool :=
  let lsid := fun (i : Nat) => (r.shape i).lsid.getD 0
  decide (lsid x.1 < lsid y.1) && !(r.dependents y.1).getD x.1 false &&
    (decide (x.2 = y.2) || r.fences.any fun f => decide (lsid x.1 < f) && decide (f < lsid y.1))

/-- Whether the reads that a block has performed, in the order of their instants, break the order of Table 4-1 or of R126. -/
def Run.disordered (r : Run) : Bool :=
  (List.range r.seen.length).any fun j => (List.range j).any fun i =>
    match r.seen[i]?, r.seen[j]? with
    | some y, some x => r.swapped y x
    | _, _ => false

/-- A block with nothing fired (R144, R156). -/
def Run.fresh (r : Run) (now : Nat) : Run :=
  { addr := r.addr, hd := r.hd, words := r.words, insts := r.words.map fun _ => {}, seq := r.seq, from_ := now + 1, fpc := r.fpc,
    nanm := r.nanm, lcore := r.lcore }

/-- The block of a slot starts again with every token, state, reservation and request dropped. -/
def State.beginAgain (s : State) (core slot : Nat) : State :=
  ((s.withdraw core slot).modSlot core slot fun sl => { sl with run := sl.run.map fun r => r.fresh (s.cyc core), look := none }).modCore core
    fun k => k.dropTurn slot

/-- A block whose reads have performed out of their order starts again (log entry 76). -/
def State.reorder (s : State) (core slot : Nat) : State :=
  match s.runAt core slot with
  | some r => if r.disordered && !r.tail then s.beginAgain core slot else s
  | none => s

/-- A FENCE resolves in the clk it fires and leaves its operation for commit (R126, R223). -/
def fenceExec (p : Pred) (sc : Scope) (n : BitVec 4) (s : State) : Out :=
  firing p needNone (fun c => s.setSt c.core c.slot c.ix .null)
    (fun c => ((s.addOp c.core c.slot { kind := .mem (.fence sc), ix := c.ix, lsid := n.toNat }).setSt c.core c.slot c.ix .ready).reorder c.core c.slot) s

def execFenceCore (p : Pred) (n : BitVec 4) (s : State) : Out := fenceExec p .core n s
def execFenceBasin (p : Pred) (n : BitVec 4) (s : State) : Out := fenceExec p .basin n s
def execFenceSys (p : Pred) (n : BitVec 4) (s : State) : Out := fenceExec p .sys n s

def execLdacqCore (p : Pred) (n : BitVec 4) (o : BitVec 6) (t : Option Target) (s : State) : Out :=
  memExec p (formWord (.ldacq .core) n o t) s
def execLdacqBasin (p : Pred) (n : BitVec 4) (o : BitVec 6) (t : Option Target) (s : State) : Out :=
  memExec p (formWord (.ldacq .basin) n o t) s
def execLdacqSys (p : Pred) (n : BitVec 4) (o : BitVec 6) (t : Option Target) (s : State) : Out :=
  memExec p (formWord (.ldacq .sys) n o t) s
def execStrelCore (p : Pred) (n : BitVec 4) (o : BitVec 6) (s : State) : Out := memExec p (formWord (.strel .core) n o none) s
def execStrelBasin (p : Pred) (n : BitVec 4) (o : BitVec 6) (s : State) : Out := memExec p (formWord (.strel .basin) n o none) s
def execStrelSys (p : Pred) (n : BitVec 4) (o : BitVec 6) (s : State) : Out := memExec p (formWord (.strel .sys) n o none) s

def execProbe (p : Pred) (n : BitVec 4) (t : Option Target) (s : State) : Out :=
  memExec p (formProbe n t) s

end Sys2Proof.Machine
end

