-- ==== Sys2Proof/Machine/Start.lean ====
section
/-! DEFINITION. Block boundaries: the next block of a slot, its fetch, its lookup events, and replays (spec/05_block_engine.md R156,
R157, R160, R162, R163, R176; spec/02_encoding.md R68, R69). -/

namespace Sys2Proof.Machine

/-- One of the eight counters of a slot's rotation account grows (Table 5-7). -/
def State.account (s : State) (core slot k n : Nat) : State :=
  s.modSlot core slot fun sl => { sl with account := mset 0#64 sl.account k (mget sl.account k 0#64 + w64 n) }

/-- The state bits under which a slot does not fire (R418). -/
def Slot.held (sl : Slot) : Bool := sl.stop || sl.frz || sl.rty || sl.evp

/-- A fence of the thread that has not completed (R126). -/
def State.fencePending (s : State) (core slot : Nat) : Bool :=
  s.reqs.any fun q => decide (q.core = core) && decide (q.slot = slot) && q.left &&
    (match q.kind with | .fence _ => true | _ => false)

/-- Whether a boundary may be left for the next block: a fence, a translation invalidation and the end of the continuation hold it. -/
def State.boundaryHeld (s : State) (core slot : Nat) : Bool :=
  (s.slotAt core slot).tlbWait || (s.slotAt core slot).ending.isSome || s.fencePending core slot

/-- The first clk in which a block that a lookup found may fire, by the lookup alone: a missed block follows at 32 bytes a clk (Table 5-10). -/
def Lookup.firstClk (k : Lookup) (hd : Nat) : Nat := k.made + 3 + if k.missed then (8 + 2 * bits hd 47 40 + 31) / 32 - 1 else 0

/-- Load the next block of a slot: its first instruction fires no earlier than the clk after the present one and three clk after the lookup, or
later where the block store missed it (Table 5-10). The count of replays ends at a different address (R157). -/
def State.loadBlock (s : State) (core slot : Nat) (k : Lookup) (hd : Nat) (ws : List Nat) : State :=
  let now := s.cyc core
  let lc := (s.coreAt core).lcore
  s.modSlot core slot fun sl =>
    { sl with
      look := none
      seq := sl.seq + 1
      replays := if sl.replayAddr = k.addr then sl.replays else 0
      replayAddr := k.addr
      run := some
        { addr := k.addr, hd := hd, words := ws, insts := ws.map fun _ => {}, seq := sl.seq, from_ := max (now + 1) (k.firstClk hd),
          fpc := sl.ctl.fpc, nanm := sl.ctl.nanm, lcore := lc } }

/-- Move a slot on from a block boundary: a failure or a command waiting for the boundary acts first; else a lookup is made for the
block at the program counter, and what it found is loaded, is illegal (R68), or cannot be fetched (R160). -/
def State.settle (s : State) (core slot : Nat) : State :=
  let sl := s.slotAt core slot
  if !sl.busy || sl.run.isSome then s
  else match sl.failed with
    | f :: fs => s.freezeTail core slot (f :: fs)
    | [] =>
      if sl.deferFrz || sl.deferStop then s.modSlot core slot fun sl =>
        { sl with frz := sl.frz || sl.deferFrz, stop := sl.stop || sl.deferStop, deferFrz := false, deferStop := false, look := none }
      else if sl.held || s.boundaryHeld core slot then s
      else match sl.look with
        | none => s.modSlot core slot fun sl => sl.makeLook { addr := sl.pc, made := s.cyc core }
        | some k => match k.got with
          | .asked => s
          | .missing => s
          | .bad cause repl =>
            (s.modSlot core slot fun sl => { sl with look := none }).raise core slot cause 127 repl k.addr.toNat 0
          | .block hd body => match decodeBlock (slot == 7) hd body with
            | .ok (_, ws, _) => s.loadBlock core slot k hd ws
            | .error (c, ix) => (s.modSlot core slot fun sl => { sl with look := none }).raise core slot c.code ix false 0 0

/-- Replay the block of a slot: everything it did is dropped and it starts again (R156); at four replays in a row the slot takes or
awaits priority (R157). -/
def State.replay (s : State) (core slot : Nat) : State :=
  let n := (s.slotAt core slot).replays + 1
  let s := ((s.beginAgain core slot).modSlot core slot fun sl => { sl with replays := n }).account core slot 7 1
  if n < 4 then s
  else s.modCore core fun k =>
    if k.prio = none then { k with prio := some slot }
    else if k.prio = some slot || k.prioQ.contains slot then k else { k with prioQ := k.prioQ ++ [slot] }

/-- Siblings that have loaded a word the commit writes replay (R156). -/
def State.replaySiblings (s : State) (core slot : Nat) (ws : List Nat) : State :=
  (List.range 8).foldl (fun s n =>
    match s.runAt core n with
    | some x => if n ≠ slot && !x.tail && ws.any x.watch.contains then s.replay core n else s
    | none => s) s

/-! ### The block store (R162) -/

/-- A block in the store of a quad. -/
def storeFind (l : List StoreEntry) (addr root : Nat) : Option StoreEntry :=
  l.find? fun e => decide (e.addr = addr) && decide (e.root = root)

/-- The store with a block made most recent, 64 blocks at most. -/
def storeTouch (l : List StoreEntry) (e : StoreEntry) : List StoreEntry :=
  (e :: l.filter fun x => !(decide (x.addr = e.addr) && decide (x.root = e.root))).take 64

/-- Set what the lookup of a slot has found. -/
def State.found (s : State) (core slot : Nat) (g : Fetched) : State :=
  s.modSlot core slot fun sl => { sl with look := sl.look.map fun k => { k with got := g, hold := none, missed := k.missed || g == .missing } }

/-- Whether the ALIGN hold of a lookup is over: every other live core of the quad whose slot of the same number runs a
continuation of the same launch has looked up the same target since the hold began, or stands at it (R163; log entry 77). -/
def State.quadJoined (s : State) (core slot : Nat) (k : Lookup) : Bool :=
  let hdr := (s.slotAt core slot).record.getD 7 0#64
  (List.range 4).all fun i =>
    let c := 4 * quadOf core + i
    let sl := s.slotAt c slot
    if c = core || !s.coreLive c || !sl.busy || sl.record.getD 7 0#64 ≠ hdr then true
    else (sl.looks.any fun e => e.1 == k.addr && decide (k.hold.getD 0 ≤ e.2)) ||
      (match sl.look with | some q => q.addr == k.addr | none => false) ||
      (match sl.run with | some r => r.addr == k.addr | none => false)

/-- Whether the lookup of a slot stands before the fetch port: it has been made, and no ALIGN and no fence holds it (R126, R163). -/
def State.lookReady (s : State) (core slot : Nat) : Bool :=
  match (s.slotAt core slot).look with
  | some k => decide (k.got = .asked) && !s.fencePending core slot && (k.hold.isNone || s.quadJoined core slot k)
  | none => false

/-- The slot of a core whose lookup was made first. -/
def State.firstLook (s : State) (core : Nat) : Option Nat :=
  let made := fun (n : Nat) => match (s.slotAt core n).look with | some k => k.made | none => 0
  ((List.range 8).filter (s.lookReady core)).foldl (fun b n => match b with
    | none => some n
    | some m => if made n < made m then some n else some m) none

/-- The lookup that the port of a quad accepts next: cores in turn after the one served last, each core's in the order in which they were made
(R162). -/
def State.portPick (s : State) (quad : Nat) : Option (Nat × Nat) :=
  let p := mget s.ports quad {}
  (List.range 4).findSome? fun i =>
    let c := 4 * quad + (p.last + 1 + i) % 4
    (s.firstLook c).map (c, ·)

/-- The lookups that one broadcast of the port serves: one, or, behind an ALIGN, every one of the quad's same slots and launch for the target
(R163). -/
def State.servedWith (s : State) (core slot : Nat) (k : Lookup) : List (Nat × Nat) :=
  let me := s.slotAt core slot
  if !k.aligned then [(core, slot)]
  else (core, slot) :: ((List.range 4).map (4 * quadOf core + ·)).filterMap fun c =>
    let sl := s.slotAt c slot
    match sl.look with
    | some q =>
      if c ≠ core && q.got = .asked && q.addr == k.addr && sl.ctl.root == me.ctl.root && sl.record.getD 7 0#64 == me.record.getD 7 0#64 then some (c, slot)
      else none
    | none => none

/-- BLOCK_LOOKUP: the port of a quad accepts one lookup a clk. A malformed target is refused, a hit is served, a miss is begun or joined. -/
def State.blockLookup (s : State) (core slot : Nat) : State :=
  let sl := s.slotAt core slot
  let q := quadOf core
  match sl.look with
  | none => s
  | some k =>
    if !s.lookReady core slot || s.portPick q ≠ some (core, slot) || (mget s.ports q {}).clk = some (s.cyc core) then s
    else
      let s := { s with ports := mput s.ports q { last := core % 4, clk := some (s.cyc core) } }
      if k.addr.toNat % 16 ≠ 0 || 2 ^ 48 ≤ k.addr.toNat then (s.found core slot (.bad 0x25 false)).settle core slot
      else match storeFind (mget s.stores q []) k.addr.toNat sl.ctl.root.toNat with
        | some e =>
          (s.servedWith core slot k).foldl (fun s w => (s.found w.1 w.2 (.block e.hd e.body)).settle w.1 w.2)
            { s with stores := mput s.stores q (storeTouch (mget s.stores q []) e) }
        | none => (s.servedWith core slot k).foldl (fun s w => s.found w.1 w.2 .missing) s

def execBlockLookup (c sl : Nat) (s : State) : Out := .next (s.blockLookup c sl)

/-- ALIGN_HOLD_TIMEOUT: a held lookup, and those held with it for the target, are served after 256 clk. -/
def State.alignTimeout (s : State) (core slot : Nat) : State :=
  match (s.slotAt core slot).look with
  | some k => match k.hold with
    | some n =>
      if n + 256 ≤ s.cyc core then
        (s.servedWith core slot k).foldl (fun s w => s.modSlot w.1 w.2 fun sl => { sl with look := sl.look.map fun k => { k with hold := none } }) s
      else s
    | none => s
  | none => s

def execAlignHoldTimeout (c sl : Nat) (s : State) : Out := .next (s.alignTimeout c sl)

/-! ### Reading code -/

/-- Where a byte of code lies, or the cause of a refusal and whether it can be replayed (R160, R203, R204, R206). -/
def State.fetchXl (s : State) (sp : Space) (va : Nat) : Except (Nat × Bool) Nat × State :=
  if inWindow va then (.error (0x25, false), s)
  else match s.xlate sp va .fetch with
    | (.ok pa _ _ _ _, s) =>
      let at_ := s.redirect pa
      (match s.place (coreBasin sp.core) at_ with
        | .config _ _ => .error (0x25, false)
        | _ => match s.checkMem sp true at_ with
          | some 0x3A => .error (0x3A, true)
          | some _ => .error (0x25, false)
          | none => .ok pa, s)
    | (.miss, s) => (.error (0x34, true), s)
    | (.bad c _, s) => (.error (if replayable c then (c, true) else if c = 0x39 then (0x39, false) else (0x25, false)), s)

/-- n bytes of code from an address that does not cross a page; a poisoned word is counted and fails the fetch (R231). -/
def State.fetchBytes (s : State) (pa n : Nat) : Except (Nat × Bool) Nat × State :=
  match s.firstPoisoned (s.wordsAt pa n) with
  | some w => (.error (0x39, false), s.countUe (8 * w))
  | none => (.ok (s.readBytes pa n), s.correct (s.wordsAt pa n))

/-- n bytes of code from a virtual address, across one page boundary at most. -/
def State.fetchRun (s : State) (sp : Space) (va n : Nat) : Except (Nat × Bool) Nat × State :=
  let n1 := min n (0x10000 - va % 0x10000)
  match s.fetchXl sp va with
  | (.error e, s) => (.error e, s)
  | (.ok pa, s) => match s.fetchBytes pa n1 with
    | (.error e, s) => (.error e, s)
    | (.ok a, s) =>
      if n ≤ n1 then (.ok a, s)
      else match s.fetchXl sp (va + n1) with
        | (.error e, s) => (.error e, s)
        | (.ok pb, s) => match s.fetchBytes pb (n - n1) with
          | (.error e, s) => (.error e, s)
          | (.ok b, s) => (.ok (a + b * 2 ^ (8 * n1)), s)

/-- The halfwords of a number, lowest first. -/
def halfwords (x : Nat) : Nat → List Nat
  | 0 => []
  | n + 1 => x % 65536 :: halfwords (x / 65536) n

/-- A block's header and halfwords. A header that breaks a rule of its own gives an empty body: the block is illegal, whatever its body (R69). -/
def State.fetchBlock (s : State) (sp : Space) (va : Nat) : Except (Nat × Bool) (Nat × List Nat) × State :=
  match s.fetchRun sp va 8 with
  | (.error e, s) => (.error e, s)
  | (.ok hd, s) =>
    match decodeHeader hd with
    | .error _ => (.ok (hd, []), s)
    | .ok h => match s.fetchRun sp (va + 8) (2 * h.blen) with
      | (.error e, s) => (.error e, s)
      | (.ok body, s) => (.ok (hd, halfwords body h.blen), s)

/-- Whether a line of the code is owned by an engine's command (R132). The address is looked at through the fetcher's translation. -/
def State.codeOwned (s : State) (sp : Space) (va : Nat) : Bool :=
  match (s.fetchXl sp va).1 with
  | .ok pa => s.owned.any fun o => (s.linesAt pa 264).contains o.line
  | .error _ => false

/-- Every slot of the quad that waits for a missed block; a thread whose fence is pending fetches none (R126). -/
def State.fetchWaiters (s : State) (core : Nat) (addr : W64) (root : W64) : List (Nat × Nat) :=
  (List.range 32).filterMap fun i =>
    let k := 4 * quadOf core + i / 8
    let sl := s.slotAt k (i % 8)
    match sl.look with
    | some q => if q.got = .missing && q.addr = addr && sl.ctl.root = root && !s.fencePending k (i % 8) then some (k, i % 8) else none
    | none => none

/-- BLOCK_MISS_FILL: the missed block is read and broadcast to the waiting slots of the quad; a refusal reaches the slot that asked. -/
def State.blockFill (s : State) (core slot : Nat) : State :=
  let sl := s.slotAt core slot
  match sl.look with
  | some { got := .missing, addr := a, .. } =>
    let sp := sl.space core slot
    if s.codeOwned sp a.toNat || s.fencePending core slot then s
    else match s.fetchBlock sp a.toNat with
      | (.error e, s) => (s.found core slot (.bad e.1 e.2)).settle core slot
      | (.ok (hd, body), s) =>
        let q := quadOf core
        let s := { s with stores := mput s.stores q (storeTouch (mget s.stores q []) ⟨a.toNat, sl.ctl.root.toNat, hd, body⟩) }
        (s.fetchWaiters core a sl.ctl.root).foldl (fun s k => (s.found k.1 k.2 (.block hd body)).settle k.1 k.2) s
  | _ => s

def execBlockMissFill (c sl : Nat) (s : State) : Out := .next (s.blockFill c sl)

end Sys2Proof.Machine
end

