-- ==== Sys2Proof/Machine/Flume.lean ====
section
/-! DEFINITION. The flumes: channels, routes, the messages under way, and what holds them on their way: markers, seams and sumps
(spec/11_flumes.md R325 to R336; spec/04_ordering.md R138). -/

namespace Sys2Proof.Machine

/-! ### Channels (Table 11-1) -/

/-- The virtual channels. -/
inductive Chan where
  | request | response | command | culvert | control
  deriving DecidableEq, Repr

def Chan.num : Chan → Nat
  | .request => 0 | .response => 1 | .command => 2 | .culvert => 3 | .control => 4

/-! ### Routes (R16, R325, R332) -/

/-- Mesh coordinates of the router position of a core. Positions of other sites are named the same way. -/
def meshAt (k : Nat) : Nat × Nat := (meshX (coreSite k) (coreNum k), meshY (coreSite k) (coreNum k))

/-- The site of mesh coordinates. -/
def meshSite (p : Nat × Nat) : Nat := siteAtXY (p.1 / 4) (p.2 / 4)

/-- The router position of the home of an address: the slice's, or position 0 of an M site and of configuration space (R16). -/
def homePos (pa : Nat) : Nat :=
  if paSpace pa = 0 && isCompute (paSite pa) then coreOf (paSite pa) (bits pa 25 22) else coreOf (paSite pa) 0

/-- The numbers from a to b, up or down, both included. -/
def stepsTo (a b : Nat) : List Nat :=
  if a ≤ b then (List.range (b - a + 1)).map (a + ·) else (List.range (a - b + 1)).map (a - ·)

/-- The routers of a leg: Flume 0 goes along X first, Flume 1 along Y first. -/
def legPath (flume : Nat) (p q : Nat × Nat) : List (Nat × Nat) :=
  if flume = 0 then (stepsTo p.1 q.1).map (fun x => (x, p.2)) ++ ((stepsTo p.2 q.2).drop 1).map fun y => (q.1, y)
  else (stepsTo p.2 q.2).map (fun y => (p.1, y)) ++ ((stepsTo p.1 q.1).drop 1).map fun x => (x, q.2)

/-- A message under way: its channel, its name, the positions it travels between, its flits, the TIME from which it is under way, its place in the order of
sending, and whether it takes Flume A whatever the table says (the packets of riders, R416). -/
structure Flight where
  id : Nat
  chan : Chan
  key : Nat
  src : Nat
  dst : Nat
  flits : Nat := 1
  since : Nat := 0
  ord : Nat := key
  flumeA : Bool := false
  deriving DecidableEq, Repr

/-- The entry and the waypoint with which a message was sent: for one that was under way when its entry changed, those of the old route (R332, R333). -/
def State.routeOf (s : State) (f : Flight) : Nat × Nat × Nat :=
  let v := s.siteAt (coreSite f.src)
  match v.marks.find? fun m => decide (m.dst = coreSite f.dst) && m.keys.contains f.key with
  | some m => (m.entry, m.wx, m.wy)
  | none => (s.nstEntry (coreSite f.src) (coreSite f.dst), v.wx, v.wy)

/-- The flume of a route and the routers it takes. -/
def State.path (s : State) (f : Flight) : Nat × List (Nat × Nat) :=
  let r := s.routeOf f
  let p := meshAt f.src
  let q := meshAt f.dst
  if f.flumeA then (0, legPath 0 p q)
  else match r.1 with
    | 1 => (1, legPath 1 p q)
    | 2 => (0, legPath 0 p r.2 ++ (legPath 0 r.2 q).drop 1)
    | _ => (0, legPath 0 p q)

/-- The links of a route, each as the router it leaves and the one it enters. -/
def linksOf (p : List (Nat × Nat)) : List ((Nat × Nat) × (Nat × Nat)) := p.zip (p.drop 1)

/-- The waypoint of a message's route, where it lies ahead of the message as it leaves site n (R327): on the first leg. A route that leaves the site on both legs may
do so on either (log entry 85). -/
def State.wayAhead (s : State) (f : Flight) (n : Nat) : Option (Nat × Nat) :=
  let r := s.routeOf f
  let leaves := fun (p : List (Nat × Nat)) => (linksOf p).any fun l => decide (meshSite l.1 = n)
  if !f.flumeA && r.1 = 2 && leaves (legPath 0 (meshAt f.src) r.2) &&
      (!leaves (legPath 0 r.2 (meshAt f.dst)) || Config.spillLeg n f.id) then some r.2
  else none

/-! ### What is under way -/

/-- The router position of the port through which a peer module is reached from basin b. -/
def State.peerPos (s : State) (b pmod : Nat) : Nat := coreOf (portSite (mget (s.basinAt b).peers pmod 0 % 128)) 0

/-- The router position of the headgate that holds the control of a basin (R357). -/
def gatePos (b : Nat) : Nat := coreOf (headgateOf b) 0

/-- The place of a request on the request channel of its core. -/
def Req.key (q : Req) : Nat := max q.id q.ord

/-- The messages of Table 11-1, as each kind travels: requests, ownership requests (on the culvert channel across a seam, R283), -/
def Req.flight (q : Req) : Flight := { id := q.id, chan := .request, key := q.key, src := q.core, dst := homePos q.pa, since := q.since }
def OwnReq.flight (o : OwnReq) : Flight :=
  { id := o.id, chan := if coreBasin o.core = basinOf (paSite (64 * o.line)) then .request else .culvert, key := o.id, src := o.core
    dst := homePos (64 * o.line), since := o.since, ord := o.ord }

/-- answers of homes, and results and fills that come from one, -/
def Reply.flight (r : Reply) : Flight := { id := r.id, chan := .response, key := r.id, src := r.src, dst := r.core, flits := r.flits, since := r.since }
def Result.flight (r : Result) : Option Flight :=
  r.src.map fun n => { id := r.id, chan := .response, key := r.id, src := n, dst := r.core, since := r.since }
def Fill.flight (r : Fill) : Option Flight :=
  r.src.map fun n => { id := r.id, chan := .response, key := r.id, src := n, dst := r.core, since := r.since }

/-- queue messages on their way, and then their acknowledgements and refusals on the way back, -/
def State.msgFlight (s : State) (m : QMsg) : Flight :=
  let there : Flight :=
    { id := m.id, chan := .command, key := m.id, src := m.core, dst := (m.peer.map (s.peerPos (coreBasin m.core))).getD m.dest, flits := 1 + (m.len + 63) / 64, since := m.since }
  match m.st with
  | .delivered => { there with chan := .response, src := there.dst, dst := m.core, flits := 1 }
  | .refused => { there with chan := .response, src := there.dst, dst := m.core, flits := 1 }
  | _ => there

/-- packets, culvert writes, -/
def Packet.flight (p : Packet) : Flight :=
  { id := p.id, chan := .control, key := p.id, src := coreOf p.site p.core, dst := p.dest, since := p.since, flumeA := true }
def Sent.flight (w : Sent) (core : Nat) : Flight := { id := w.id, chan := .culvert, key := w.id, src := core, dst := homePos w.va, since := w.sentAt }

/-- and the signals of weir and sluice: arrivals, reports, step requests and records on their way to a ditch. -/
def Arrival.flight (a : Arrival) : Option Flight :=
  a.beat.map fun n => { id := a.id, chan := .control, key := a.id, src := a.core, dst := gatePos (coreBasin a.core), since := 64 * n }
def Report.flight (r : Report) : Flight := { id := r.id, chan := .control, key := r.id, src := gatePos r.src, dst := gatePos r.root, since := r.since }
def StepReq.flight (r : StepReq) : Flight := { id := r.id, chan := .control, key := r.id, src := r.src, dst := gatePos r.basin, since := r.since }
def State.appendFlight (s : State) (a : Append) : Option Flight :=
  if 8 ≤ a.slot then none
  else some { id := a.id, chan := .control, key := a.id, src := a.core, dst := coreOf (mget (s.basinAt a.basin).ditches a.ditch {}).home 0, since := a.since }

/-- The culvert writes under way, each with its core. -/
def State.outWrites (s : State) : List (Nat × Sent) := (s.copies.flatMap fun e => e.2.active).flatMap fun e => e.2.out.map fun w => (e.2.cmd.core, w)

/-- Every message under way. -/
def State.flights (s : State) : List Flight :=
  s.reqs.map Req.flight ++ s.ownReqs.map OwnReq.flight ++ s.qmsgs.map s.msgFlight ++ s.pkts.map Packet.flight ++
    s.replies.map Reply.flight ++ s.results.filterMap Result.flight ++ s.fills.filterMap Fill.flight ++
    s.arrivals.filterMap Arrival.flight ++ s.reports.map Report.flight ++ s.stepReqs.map StepReq.flight ++
    s.appends.filterMap s.appendFlight ++ s.outWrites.map fun e => e.2.flight e.1

/-- The message that a number names. -/
def State.flightOf (s : State) (i : Nat) : Option Flight := s.flights.find? (·.id == i)

/-! ### What holds a message -/

/-- Whether a message follows a change of route whose markers are outstanding: it was not under way when the change was made (R333). -/
def State.routeHeld (s : State) (src dst key : Nat) : Bool := (s.siteAt src).marks.any fun m => decide (m.dst = dst) && !m.keys.contains key

/-- Whether the seam FIFOs of a basin stop after its last step, which changed m (R355). -/
def Basin.relocking (v : Basin) (time : Nat) : Bool := v.relock && decide (time < v.lts + 1500)

/-- Whether a router belongs to an S chiplet whose interface with its basin is relocking (R459). -/
def State.portHeld (s : State) (p : Nat × Nat) : Bool := siteKind (meshSite p) == .scaleLink && (s.basinAt (basinOf (meshSite p))).relocking s.time

/-- Whether a route crosses a seam of a basin whose clock is relocking (R330), or begins or ends at a scale-up port of such a basin (R459). -/
def State.seamHeld (s : State) (path : List (Nat × Nat)) : Bool :=
  (s.basins.any fun e => e.2.relocking s.time) && (path.head?.any s.portHeld || path.getLast?.any s.portHeld || (linksOf path).any fun l =>
    let a := basinOf (meshSite l.1)
    let b := basinOf (meshSite l.2)
    decide (a ≠ b) && ((s.basinAt a).relocking s.time || (s.basinAt b).relocking s.time))

/-- Whether a message lies in a sump. -/
def State.inSumpOf (s : State) (i : Nat) : Bool := s.sites.any fun e => e.2.sump.any fun x => decide (x.1 = i)

/-- Whether two routes share a link controller of a site. -/
def sharesLink (n : Nat) (p q : Nat × List (Nat × Nat)) : Bool :=
  decide (p.1 = q.1) && (linksOf p.2).any fun l => decide (meshSite l.1 = n) && (linksOf q.2).contains l

/-- Whether a link controller of site n has spilled a message of the channel of another that passes it: what comes later goes into the sump behind it
(R334). -/
def State.spillsAt (s : State) (n : Nat) (f : Flight) : Bool :=
  (s.siteAt n).sump.any fun x => decide (x.1 ≠ f.id) && match s.flightOf x.1 with
    | some g => decide (g.chan = f.chan) && sharesLink n (s.path f) (s.path g)
    | none => false

/-- Whether a message cannot come further now: its route is held behind markers, a seam on it is relocking, it lies in a sump, or it is behind
what does. -/
def State.wayHeld (s : State) (f : Flight) : Bool :=
  s.routeHeld (coreSite f.src) (coreSite f.dst) f.key || s.seamHeld (s.path f).2 || s.inSumpOf f.id ||
    (s.sites.filter fun e => !e.2.sump.isEmpty).any fun e => s.spillsAt e.1 f

/-- Whether a message of a channel that would be sent now is held. -/
def State.sendHeld (s : State) (chan : Chan) (src dst : Nat) : Bool :=
  s.wayHeld { id := s.nextId, chan := chan, key := s.nextId, src := src, dst := dst, since := s.time }

/-- Whether an access of an engine, of a walker or of a body or buffer to an address of its basin is held: its request, or the answer (log entry 79). An access to
the core's own slice sends no message. -/
def State.engineHeld (s : State) (core pa : Nat) : Bool :=
  decide (homeOf pa ≠ homeOf (slicePa core)) && (s.sendHeld .request core (homePos pa) || s.sendHeld .response (homePos pa) core)

/-- Whether the answer of a home to a request is held on its way, or follows one to the same core that is (R138, R326, R330, R333). -/
def State.replyHeld (s : State) (q : Req) : Bool :=
  decide (homeOf q.pa ≠ homeOf (slicePa q.core)) &&
    (s.sendHeld .response (homePos q.pa) q.core || s.replies.any fun r => decide (r.core = q.core) && decide (r.src = homePos q.pa))

/-- Where the answer to a request comes from; none where it crosses no flume. -/
def Req.answerSrc (q : Req) : Option Nat := if homeOf q.pa = homeOf (slicePa q.core) then none else some (homePos q.pa)

/-- A fence goes to no home. -/
def MemKind.isFence : MemKind → Bool
  | .fence _ => true | _ => false

/-- Whether request i is one of a thread that is under way to another home, and is held there. -/
def State.reqHeld (s : State) (q : Req) : Bool :=
  !q.kind.isFence && decide (homeOf q.pa ≠ homeOf (slicePa q.core)) && (decide (q.st = .sent) || (q.left && decide (q.st = .reserved))) &&
    s.wayHeld q.flight

end Sys2Proof.Machine
end

