-- ==== Sys2Proof/Machine/Home.lean ====
section
/-! DEFINITION. A request at the home of its word: what it waits for, what it sees, and what it does at its one instant
(spec/04_ordering.md R114 to R128, R132; spec/07_slice_engine.md R216, R220 to R224, R226, R228, R231; spec/13_sluice.md
R400, R405, R406). -/

namespace Sys2Proof.Machine

/-! ### Kinds of access (Table 4-2, Table 7-5) -/

/-- Accesses that read data or state of their word. -/
def MemKind.reads : MemKind → Bool
  | .st _ => false | .give => false | .amend => false | .post => false | .void => false | .strel _ => false | .fence _ => false
  | _ => true

/-- Accesses that write data or state of their word. -/
def MemKind.writes : MemKind → Bool
  | .st _ => true | .take => true | .give => true | .amend => true | .post => true | .void => true | .atomic _ _ => true
  | .strel _ => true | .joinad _ => true
  | _ => false

/-- The stores of R118, whose written data is their r operand; a pending one is forwarded (R116). -/
def MemKind.isStore : MemKind → Bool
  | .st _ => true | .give => true | .amend => true | .post => true | .strel _ => true | _ => false

/-- Acquires (Table 4-2); core scope orders as a plain access (R123). -/
def MemKind.acquires : MemKind → Bool
  | .take => true | .look => true | .joinw => true | .ldacq .basin => true | .ldacq .sys => true | .atomic _ .acq => true
  | .atomic _ .ar => true
  | _ => false

/-- Releases (Table 4-2). -/
def MemKind.releases : MemKind → Bool
  | .give => true | .amend => true | .post => true | .void => true | .strel .basin => true | .strel .sys => true
  | .atomic _ .rel => true | .atomic _ .ar => true | .joinad _ => true
  | _ => false

/-- A plain load, served from pending writes (R116). -/
def MemKind.forwards : MemKind → Bool
  | .ld _ => true | .ldd _ _ => true | _ => false

/-- Atomics, full/empty operations and acquire loads: what waits at its home for the writes of its core to its word (R116). -/
def MemKind.waitsHome : MemKind → Bool
  | .ld _ => false | .ldd _ _ => false | .st _ => false | .strel _ => false | .fence _ => false | .probe => false
  | _ => true

/-- The loads of R118. -/
def MemKind.blockLoad : MemKind → Bool
  | .ld _ => true | .look => true | .ldacq _ => true | _ => false

def Req.words (q : Req) : List Nat := wordsOf q.pa q.size

/-- How many bytes of a word a plain store writes. -/
def Req.bytesOf (q : Req) (w : Nat) : Nat :=
  ((List.range q.size).filter fun i => (q.pa + i) / 8 == w && !bit q.mask.toNat i).length

/-- The words that a write covers whole: ST by the bytes it writes, POST, STREL (R231). -/
def Req.covers (q : Req) : List Nat :=
  match q.kind with
  | .st _ => q.words.filter fun w => q.bytesOf w == 8
  | .post => q.words
  | .strel _ => q.words
  | _ => []

/-- The words whose poison fails an access: those it reads or writes in part (R231). A null half of a store leaves its word alone. -/
def Req.meets (q : Req) : List Nat :=
  match q.kind with
  | .st _ => q.words.filter fun w => decide (0 < q.bytesOf w) && decide (q.bytesOf w < 8)
  | .post => []
  | .strel _ => []
  | _ => q.words
def Req.sameThread (a q : Req) : Bool := decide (a.core = q.core) && decide (a.slot = q.slot)
def overlaps (a : Nat) (n : Nat) (b : Nat) (m : Nat) : Bool := decide (a / 8 ≤ (b + m - 1) / 8) && decide (b / 8 ≤ (a + n - 1) / 8)
def Req.overlaps (a q : Req) : Bool := !a.kind.isFence && !q.kind.isFence && Machine.overlaps a.pa a.size q.pa q.size

/-- Program order of one thread (R119). -/
def Req.before (a q : Req) : Bool := decide (a.seq < q.seq) || (decide (a.seq = q.seq) && decide (a.lsid < q.lsid))

/-! ### What holds a request back in its core -/

/-- A deferred load of the fence's own block at a higher LSID: the fence orders it after the block's lower reads only (R126). -/
def Req.passedBy (a q : Req) : Bool :=
  decide (a.seq = q.seq) && match q.kind with | .ldd _ _ => true | _ => false

/-- Whether q meets a pending write of its core to its word at their home, where it waits for it (R116). -/
def Req.meetsThere (a q : Req) : Bool := a.left && a.kind.writes && q.kind.waitsHome && a.overlaps q

/-- An access of the same core that left before this one left and has not performed holds it (Table 4-1, R121, R126). A form that holds the reservation of its word
has no read of another thread to wait for there (log entry 78). -/
def Req.holdsLeft (a q : Req) : Bool :=
  a.left && decide (a.core = q.core) && decide (a.ord < q.ord) &&
    ((a.sameThread q &&
        ((a.kind.reads && q.kind.writes) || a.kind.acquires || q.kind.releases || (a.kind.isFence && !a.passedBy q) || q.kind.isFence)) ||
      (!a.meetsThere q &&
        ((a.overlaps q && (a.sameThread q || a.kind.writes || decide (q.st ≠ .reserved))) ||
          (a.kind.writes && q.kind.writes && decide (homeOf a.pa = homeOf q.pa)))))

/-- What holds an access made before its block commits: an earlier acquire of the thread, an earlier access of the thread to the
word, and for a plain load pending writes of the core to the word that are not forwarded to it (R116, Table 4-1). -/
def Req.holdsEarly (a q : Req) : Bool :=
  decide (a.core = q.core) &&
    ((a.sameThread q && a.before q && (a.left || a.kind.early) &&
        (a.kind.acquires || (a.overlaps q && !(a.kind.isStore && q.kind.forwards) && !a.meetsThere q))) ||
      (a.left && a.kind.writes && a.overlaps q && !(a.kind.isStore && q.kind.forwards) && !a.meetsThere q))

/-- Which instructions of an uncommitted block can still send a token at clk `now`: waiting for a result, or unfired with every slot filled or
fed by such an instruction. Performing forms send only after commit (R152). -/
def Run.live (r : Run) (now : Nat) : List Bool :=
  (List.range r.words.length).foldl (fun acc i =>
    let x := r.inst i
    let sh := r.shape i
    let fed := fun (sl : OpSlot) => !sh.has sl || (x.slot sl).isSome ||
      (List.range i).any fun j => acc.getD j false &&
        (decide ((r.shape j).t = some ⟨sl, BitVec.ofNat 6 i⟩) || decide ((r.shape j).u = some ⟨sl, BitVec.ofNat 6 i⟩))
    acc ++ [match x.st with
      | .wait _ => true
      | .idle => !r.shut now i && fed .l && fed .r && fed .p
      | _ => false]) []

/-- Instructions that hold later-LSID accesses of their block until they have delivered (R124, R272, R369, R426). -/
def holdsLater : Instr → Bool
  | .look .. => true | .ldacqBasin .. => true | .ldacqSys .. => true | .joinw .. => true | .twany .. => true | .twall .. => true
  | .tffr .. => true | .wwait .. => true | .idle .. => true
  | _ => false

/-- An acquire or a tag wait of the same block at a lower LSID that has not delivered; IDLE, which has no LSID, counts as lower than any from the time it fires
(R426; log entry 37). -/
def Run.heldByWait (r : Run) (now lsid : Nat) : Bool :=
  (List.range r.words.length).any fun j =>
    (r.live now).getD j false && (match (r.shape j).lsid with
        | some n => decide (n < lsid)
        | none => match (r.inst j).st with | .wait _ => true | _ => false) &&
      (match r.instr j with | some i => holdsLater i | none => false)

/-- What a load makes of a lower-LSID store of its block: no overlap, the store's bytes, or a wait (R118). -/
inductive StoreView where
  | apart
  | wait
  | bytes (pa n data mask : Nat)
  deriving DecidableEq, Repr

/-- A store form of an uncommitted block as a load sees it. -/
def State.storeView (s : State) (r : Run) (sp : Space) (q : Req) (j : Nat) : StoreView :=
  match r.instr j with
  | none => .apart
  | some i => match memForm i with
    | none => .apart
    | some f =>
      if !f.kind.isStore || q.lsid ≤ f.lsid || !(r.live (s.cyc q.core)).getD j false && (mget? r.ops f.lsid).isNone then .apart
      else match mget? r.ops f.lsid with
        | some op => if overlaps op.pa op.size q.pa q.size then .bytes op.pa op.size op.r.toNat op.rmask.toNat else .apart
        | none => match (r.inst j).l with
          | none => .wait
          | some t =>
            let ea := effAddr t.lo f.off f.size
            if t.nullIn 8 then .apart
            else match s.xlateFast sp ea .read with
              | .ok pa _ _ _ _ => if overlaps (s.redirect pa) f.size q.pa q.size then .wait else .apart
              | _ => if overlaps ea f.size q.va q.size then .wait else .apart

/-- The store forms of the block in ascending LSID, as views. -/
def State.storeViews (s : State) (r : Run) (q : Req) : List StoreView :=
  let sp := (s.slotAt q.core q.slot).space q.core q.slot
  (List.range q.lsid).filterMap fun n =>
    ((List.range r.words.length).find? fun j => decide ((r.shape j).lsid = some n)).map (s.storeView r sp q)

/-- The views a request needs: loads only. -/
def State.viewsFor (s : State) (q : Req) : List StoreView :=
  if q.left || !q.kind.blockLoad then []
  else match s.runAt q.core q.slot with
    | some r => s.storeViews r q
    | none => []

/-- Earlier in the program order of one thread (R119). -/
def earlier (seq lsid seq' lsid' : Nat) : Bool := decide (seq < seq') || (decide (seq = seq') && decide (lsid < lsid'))

/-- A receive, deferred or not, or a pop of the thread, earlier in its order, that has left and not performed: an acquire (Table 4-2, R347). -/
def State.acquirePending (s : State) (core slot seq lsid : Nat) : Bool :=
  (s.recvs.any fun r => r.left && decide (r.core = core) && decide (r.slot = slot) && earlier r.seq r.lsid seq lsid) ||
    s.pops.any fun r => r.left && decide (r.core = core) && decide (r.slot = slot) && earlier r.seq r.lsid seq lsid

/-- The body read of a QSENDV, or a DPUSH of the thread, earlier in its order and not done: it holds the thread's later
stores, atomics and commands (R341, R403). -/
def State.deferredPending (s : State) (core slot seq lsid : Nat) : Bool :=
  (s.qmsgs.any fun m => decide (m.st = .reading) && decide (m.core = core) && decide (m.slot = slot) && earlier m.seq m.lsid seq lsid) ||
    s.appends.any fun a => (decide (a.kind = .push) || decide (a.kind = .pushHead)) && decide (a.core = core) && decide (a.slot = slot) &&
      earlier a.seq a.lsid seq lsid

/-- A deferred load of the thread, earlier in its order, that has left and not read its value: it holds the thread's later stores, atomics and commands (R121). -/
def State.deferredLoad (s : State) (core slot seq lsid : Nat) : Bool :=
  s.reqs.any fun q => q.left && q.kind.forwards && decide (q.core = core) && decide (q.slot = slot) && earlier q.seq q.lsid seq lsid

/-- Whether the core still holds a committed command of a thread: behind a deferred load, a deferred receive or the body read of a send (R121, R341, R344). -/
def State.commandHeld (s : State) (core slot seq lsid : Nat) : Bool :=
  s.deferredLoad core slot seq lsid || s.acquirePending core slot seq lsid || s.deferredPending core slot seq lsid

/-- Commands whose lines are known once the core has read a list, a descriptor or a record (R283). -/
def CmdKind.readsFirst : CmdKind → Bool
  | .scat => true | .culv => true | .pghand => true | .ctask => true | _ => false

/-- A copy command that has left the core earlier and has yet to read its list, descriptor or record: its ownership requests go out before
the core's later accesses (R132, R283). -/
def State.commandReading (s : State) (core ord : Nat) : Bool :=
  (s.copyAt core).intake.any fun c => !c.arrived && decide (c.id < ord) && !s.commandHeld core c.slot c.seq c.lsid && c.kind.readsFirst

/-- The same for a later store or command of the thread itself, whether or not its command has left the core (R283). -/
def State.listUnread (s : State) (core slot ord : Nat) : Bool :=
  (s.copyAt core).intake.any fun c => !c.arrived && decide (c.slot = slot) && decide (c.id < ord) && c.kind.readsFirst

/-- Whether every access of a thread before a place of its order has performed (R124, R130). -/
def State.earlierDone (s : State) (core slot seq lsid : Nat) : Bool :=
  !(s.reqs.any fun q => q.left && decide (q.core = core) && decide (q.slot = slot) && earlier q.seq q.lsid seq lsid) &&
    !s.acquirePending core slot seq lsid && !s.deferredPending core slot seq lsid

/-- Whether the messages of a thread before a place of its order have been delivered (R347). -/
def State.messagesDone (s : State) (core slot seq lsid : Nat) : Bool :=
  !(s.qmsgs.any fun m => decide (m.core = core) && decide (m.slot = slot) && earlier m.seq m.lsid seq lsid)

/-- A read that a fence of its block keeps behind another: both have been sent or left, the other has the lower LSID and has not performed, and the
fence lies between (R126). -/
def State.fencedBehind (s : State) (a q : Req) : Bool :=
  a.sameThread q && decide (a.seq = q.seq) && a.kind.reads && q.kind.reads && !q.kind.writes &&
    ((match s.runAt q.core q.slot with
      | some r => !q.left && r.fences.any fun f => decide (a.lsid < f) && decide (f < q.lsid)
      | none => false) ||
      (q.left && s.reqs.any fun f => f.left && f.sameThread q && f.kind.isFence && decide (f.seq = q.seq) && decide (a.lsid < f.lsid) &&
        decide (f.lsid < q.lsid)))

/-- Whether the core still holds a request (R116 to R126). -/
def State.holdsBack (s : State) (q : Req) : Bool :=
  (s.reqs.any fun a => s.fencedBehind a q) || s.acquirePending q.core q.slot q.seq q.lsid || s.commandReading q.core q.key ||
  if q.left then
    (s.reqs.any fun a => a.holdsLeft q) ||
      (!q.kind.forwards && s.deferredPending q.core q.slot q.seq q.lsid) || (q.kind.writes && s.listUnread q.core q.slot q.ord) ||
      (decide (q.kind = .strel .sys) && !s.messagesDone q.core q.slot q.seq q.lsid)
  else
    (s.reqs.any fun a => decide (a.id ≠ q.id) && a.holdsEarly q) || (s.viewsFor q).contains .wait ||
      (match s.runAt q.core q.slot with
        | some r => r.heldByWait (s.cyc q.core) q.lsid
        | none => false)

/-! ### What a read sees -/

/-- Lay the bytes of a write over the value of an access of n bytes at pa; the second part is the mask of the bytes so covered. -/
def layBytes (pa n : Nat) (v : Nat × Nat) (wpa wn wdata wmask : Nat) : Nat × Nat :=
  (List.range n).foldl (fun v i =>
    let k := pa + i - wpa
    if wpa ≤ pa + i && k < wn && !bit wmask k then
      (setBits v.1 (8 * i + 7) (8 * i) (bits wdata (8 * k + 7) (8 * k)), Nat.lor v.2 (2 ^ i))
    else v) v

/-- Pending writes of the core that are forwarded to a plain load, in the order in which they left (R116). A deferred load sees those
that left before it. -/
def State.pendingFor (s : State) (q : Req) : List Req :=
  if !q.kind.forwards then []
  else s.reqs.filter fun a => a.left && a.kind.isStore && decide (a.core = q.core) && decide (a.slot < 8) && (!q.left || decide (a.ord < q.ord))

/-- The value a read of a request would take from its core, and which of its bytes. -/
def State.forwarded (s : State) (q : Req) : Nat × Nat :=
  let v := (s.pendingFor q).foldl (fun v a => layBytes q.pa q.size v a.pa a.size a.data.toNat a.mask.toNat) (0, 0)
  (s.viewsFor q).foldl (fun v w => match w with
    | .bytes pa n d m => layBytes q.pa q.size v pa n d m
    | _ => v) v

/-- Whether every byte of a read is taken from its core, so that its home is not asked. LOOK always asks it, for its gate (R118, R221). -/
def State.served (s : State) (q : Req) : Bool := q.kind.blockLoad && q.kind != .look && (s.forwarded q).2 == 2 ^ q.size - 1

/-- The value a read delivers. -/
def State.valueFor (s : State) (q : Req) : Nat :=
  let f := s.forwarded q
  (layBytes q.pa q.size (s.mem.read q.pa q.size, 0) q.pa q.size f.1 (2 ^ q.size - 1 - f.2)).1

/-! ### The home (R128, R132, R228) -/

/-- Whether an owner has yet to write what an access waits for: anything of the line, and towards its own core the 16 bytes in question. Once it has begun to write
the line, its 16-byte parts are separate accesses with no order among them (R259). -/
def Own.keeps (o : Own) (q : Req) : Bool :=
  decide (o.wrote = 0) || (decide (o.core = q.core) && q.words.any fun w => decide (w / 8 = o.line) && !bit o.wrote (w % 8 / 2))

/-- The owners an access waits for: those whose requests reached the home before it, and those that the access of the same core
reaches the home after (R131, R132). -/
def State.ownedAgainst (s : State) (q : Req) : Bool :=
  let ls := linesOf q.pa q.size
  (s.owned.any fun o => ls.contains o.line && (decide (q.arr = 0) || decide (o.arr < q.arr)) && o.keeps q) ||
    s.ownReqs.any fun o => ls.contains o.line && decide (o.core = q.core) && decide (o.ord < q.key)

/-- Whether a request still waits at its home for a write of its core to its word (R116). -/
def State.pendingAhead (s : State) (q : Req) : Bool :=
  s.reqs.any fun a => decide (a.id ≠ q.id) && decide (a.core = q.core) && a.meetsThere q && (!q.left || decide (a.ord < q.ord))

/-- A reservation by which the word is kept from a request (R154). A write that has left the same core is not kept by it: TAKE, GIVE and AMEND perform
behind the pending writes of their core (R116, R121; log entry 78). The loads and state reads of the
block that holds it read the word as it stands before their own block's writes (R118). -/
def State.reservedAgainst (s : State) (q : Req) : Bool :=
  s.resv.any fun e => q.words.contains e.1 && decide (e.2 ≠ q.id) &&
    !(s.reqs.any fun a => decide (a.id = e.2) &&
      ((q.left && q.kind.writes && decide (a.core = q.core)) || (q.kind.early && a.sameThread q && decide (a.seq = q.seq))))

/-- The gate of a form (Table 7-5a, R406); a form that holds its reservation has passed its own. -/
def State.gateOpen (s : State) (q : Req) : Bool :=
  let full := s.mem.full (wordOf q.pa)
  match q.kind with
  | .take => q.left || full
  | .look => full
  | .amend => q.left || full
  | .give => q.left || !full
  | .joinw => decide (sext (s.mem.read q.pa 8) 64 ≤ 0)
  | _ => true

/-- Whether the home of an address has a route for its response to a core (R332; log entry 79). A core's own slice sends none. -/
def State.answersCore (s : State) (pa core : Nat) : Bool :=
  decide (homeOf pa = homeOf (slicePa core)) || s.reachable (paSite pa) (coreSite core)

/-- Whether the home of a thread's access has a route for its response. -/
def State.answerable (s : State) (q : Req) : Bool := decide (8 ≤ q.slot) || s.answersCore q.pa q.core

/-- The cause with which a home refuses an access: a retired chiplet, no route for the response, a cleared region, a poisoned word (R216, R226, R231,
R332). -/
def State.homeRefuses (s : State) (q : Req) : Option Nat :=
  let cleared : Bool := match q.rgn with
    | some d => !(mget (s.basinAt (coreBasin q.core)).interleave d {}).valid
    | none => false
  if s.retiredHome q.pa then some 0x3A
  else if !s.answerable q then some 0x31
  else if cleared then some 0x3D
  else if (s.firstPoisoned q.meets).isSome then some 0x39
  else none

/-- Whether the home can serve a request now. A retired home refuses every request at once (R216), and no gate keeps a poisoned word (R231). -/
def State.homeReady (s : State) (q : Req) : Bool :=
  s.served q || s.retiredHome q.pa || (!s.ownedAgainst q && !s.pendingAhead q && !s.reservedAgainst q && (s.gateOpen q || (s.homeRefuses q).isSome))

/-- Take a request out of the machine. -/
def State.dropReq (s : State) (q : Req) : State :=
  { s with
    reqs := s.reqs.filter fun a => decide (a.id ≠ q.id)
    waitq := s.waitq.filter (· ≠ q.id)
    resv := s.resv.filter fun e => decide (e.2 ≠ q.id)
    withdrawals := s.withdrawals.filter (· ≠ q.id) }

/-- The result of a performing form, on its way to the tail (R155). -/
def State.sendResult (s : State) (q : Req) (v : Option W128) : State :=
  { s with results := s.results ++ [⟨s.nextId, q.core, q.slot, q.seq, q.ix, v, q.answerSrc, s.time⟩], nextId := s.nextId + 1 }

/-- The target of an instruction of a loaded block. -/
def State.targetOf (s : State) (core slot ix : Nat) : Option Target :=
  match s.runAt core slot with
  | some r => (r.shape ix).t
  | none => none

/-- Deliver the token of a form that acts before commit. -/
def State.giveToken (s : State) (core slot ix : Nat) (tok : Token) : State :=
  let t := s.targetOf core slot ix
  (s.setSt core slot ix .done).deliver core slot t none 1 tok

/-- An answer of a home is held on its way back to the core (R326, R330, R333). -/
def State.holdReply (s : State) (q : Req) (k : ReplyKind) : State :=
  { s.bump with
    replies := s.replies ++ [{ id := s.nextId, core := q.core, slot := q.slot, seq := q.seq, ix := q.ix, va := q.va, kind := k, src := homePos q.pa, since := s.time }] }

/-- A home answers a form that acts before commit with a token. -/
def State.answer (s : State) (q : Req) (tok : Token) : State :=
  if s.replyHeld q then s.holdReply q (.data tok) else s.giveToken q.core q.slot q.ix tok

/-- A read of a block has performed at its home: its words join those seen, and the block goes on with the token, or starts again where its reads
have come out of order (R120, R126; log entry 76). -/
def State.readAnswer (s : State) (q : Req) (tok : Token) : State :=
  let see := fun (r : Run) => { r with seen := r.seen ++ q.words.map fun w => (q.ix, w) }
  match s.runAt q.core q.slot with
  | some r => if (see r).disordered then s.beginAgain q.core q.slot else (s.modRun q.core q.slot see).answer q tok
  | none => s

/-- An access refused at its home: before commit the block's fault, after commit R226; one of the sluice, which has no thread, is reported
with 0x95 (R39, R386). -/
def State.refuse (s : State) (q : Req) (cause : Nat) : State :=
  let s := if cause = 0x39 then s.countUe (8 * ((s.firstPoisoned q.meets).getD 0)) else s
  if !q.left then
    (if s.replyHeld q then (s.dropReq q).holdReply q (.refused cause)
    else (s.dropReq q).raise q.core q.slot cause q.ix (replayable cause) q.va 0)
  else if 8 ≤ q.slot then
    (s.dropReq q).sendPkt (coreSite q.core) (s.riderCore (coreSite q.core)) 7
      (packetWords 0x41 (coreSite q.core) (coreNum q.core) 0 0x95 127 false false true 0 q.va 0#64 q.info s.time (s.coreAt q.core).lcid 0)
  else
    let s := (s.dropReq q).failAfter q.core q.slot cause q.ix q.va 0
    if q.kind.performing then s.sendResult q none else s

/-- The words of a write that covers them lose their poison and are left full. -/
def State.heal (s : State) (ws : List Nat) : State :=
  { s with mem := ws.foldl (fun m w => if m.poisoned w then (m.setErr w none).setFull w true else m) s.mem }

/-- The new value of an atomic (R222); none writes nothing. -/
def atomicValue (op : AtomOp) (old b c : W64) : Option W64 :=
  match op with
  | .aadd => some (old + b)
  | .aand => some (old &&& b)
  | .aor => some (old ||| b)
  | .axor => some (old ^^^ b)
  | .amins => some (fMins old b)
  | .amaxs => some (fMaxs old b)
  | .aminn => some (fMinn old b)
  | .amaxn => some (fMaxn old b)
  | .aswp => some b
  | .acas => if old = b then some c else none

def State.putMem (s : State) (pa v mask n : Nat) : State := { s with mem := s.mem.write pa v mask n }
def State.putFull (s : State) (w : Nat) (f : Bool) : State := { s with mem := s.mem.setFull w f }

/-- Wake the continuation whose record a join counter holds (R400, R405): one still suspending is appended when it completes, else the
record in the image is appended to its ditch. -/
def State.joinWake (s : State) (basin img : Nat) : State :=
  match s.slots.find? fun e => e.2.busy && e.2.armed && e.2.ctl.imga.toNat == img with
  | some e => { s with slots := mput s.slots e.1 { e.2 with wake := true } }
  | none =>
    let rec_ := (List.range 8).map fun k => w64 (s.mem.read (s.redirect (img + 0x4C0) + 8 * k) 8)
    let ditch := bits (rec_.getD 0 0#64).toNat 23 16
    { s with
      appends := s.appends ++ [{ id := s.nextId, basin := basin, ditch := ditch, kind := .wake, recs := [rec_], since := s.time }]
      armedImgs := sdel s.armedImgs img
      nextId := s.nextId + 1 }

/-- JOINAD at the home of its counter (R400, R405). `cmp` holds the image address of the thread. -/
def State.joinAdd (s : State) (q : Req) (arm : Bool) : State :=
  let count := w64 (s.mem.read q.pa 8) + q.data.setWidth 64
  let waiter := s.mem.read (q.pa + 8) 8
  let s := s.putMem q.pa count.toNat 0 8
  let taken := arm && !bit waiter 0
  let w1 := if taken then bits q.cmp.toNat 47 11 * 2 ^ 11 + 1 else waiter
  let s :=
    if taken then s.modSlot q.core q.slot fun sl => { sl with armed := true }
    else if arm then s.notice q.core q.slot 0x41 0x96 0 true
    else s
  if count.toInt ≤ 0 && bit w1 0 then
    (s.putMem (q.pa + 8) (w1 - 1) 0 8).joinWake (coreBasin q.core) (bits w1 47 11 * 2 ^ 11)
  else s.putMem (q.pa + 8) w1 0 8

/-- PROBE at the home (R224): `info` holds W, X and SVO of the leaf and the address that translation gave. -/
def State.probeAt (s : State) (q : Req) : State :=
  let w := bit q.info 0
  let x := bit q.info 1
  let v := bit q.info 2
  let s' := s.dropReq q
  if s.retiredHome q.pa then s'.answer q (probeToken 0 false w x v 6)
  else match s.firstPoisoned q.words with
    | some n => (s'.countUe (8 * n)).readAnswer q (probeToken (q.info / 8) false w x v 11)
    | none =>
      (s'.modRun q.core q.slot fun r => { r with watch := sins r.watch (wordOf q.pa) }).readAnswer q
        (probeToken (q.info / 8) (s.mem.full (wordOf q.pa)) w x v 0)

/-- A request performs: the whole of its effect at its one instant (R115, R219 to R224). -/
def State.perform (s : State) (q : Req) : State :=
  if q.kind = .probe then (s.correct q.words).probeAt q
  else if s.served q then
    let v := s.valueFor q
    (s.dropReq q).giveToken q.core q.slot q.ix { data := extendLoad (match q.kind with | .ld sz => sz | _ => .n64) v }
  else match s.homeRefuses q with
  | some c => s.refuse q c
  | none =>
    let s := (s.correct q.words).heal q.covers
    let v := s.valueFor q
    let old := w64 v
    let wd := wordOf q.pa
    let s' := s.dropReq q
    match q.kind with
    | .ld sz => s'.readAnswer q { data := extendLoad sz v }
    | .ldd sz reg =>
      { s' with
        fills := s'.fills ++ [{ id := s'.nextId, core := q.core, slot := q.slot, reg := reg, val := extendLoad sz v, src := q.answerSrc, since := s'.time }]
        nextId := s'.nextId + 1 }
    | .st n => s'.putMem q.pa q.data.toNat q.mask.toNat n
    | .take => (s'.putFull wd false).sendResult q (some (old.setWidth 128))
    | .look => s'.readAnswer q { data := old.setWidth 128 }
    | .give => (s'.putMem q.pa q.data.toNat 0 8).putFull wd true
    | .amend => (s'.putMem q.pa q.data.toNat 0 8).putFull wd true
    | .post => (s'.putMem q.pa q.data.toNat 0 8).putFull wd true
    | .void => s'.putFull wd false
    | .febit => s'.readAnswer q (scalarToken (boolWord (s.mem.full wd)))
    | .atomic op _ =>
      let s' := match atomicValue op old (q.data.setWidth 64) q.cmp with
        | some n => s'.putMem q.pa n.toNat 0 8
        | none => s'
      s'.sendResult q (some (old.setWidth 128))
    | .ldacq _ => s'.readAnswer q { data := old.setWidth 128 }
    | .strel _ => s'.putMem q.pa q.data.toNat 0 8
    | .joinw => s'.readAnswer q { data := old.setWidth 128 }
    | .joinad arm => s'.joinAdd q arm
    | .probe => s'
    | .fence _ => s'

/-- A reservation is granted: the word is kept for the block (R154, R221). -/
def State.reserve (s : State) (q : Req) : State :=
  match s.homeRefuses q with
  | some c => s.refuse q c
  | none =>
    let s := s.correct q.words
    let t : State :=
      { s with
        resv := s.resv ++ [(wordOf q.pa, q.id)]
        waitq := s.waitq.filter (· ≠ q.id)
        reqs := s.reqs.map fun a => if a.id = q.id then { a with st := .reserved } else a }
    if s.replyHeld q then t.holdReply q .granted else t.setSt q.core q.slot q.ix .ready

/-- The home serves a request: a form that reserves before commit is granted its reservation, any other performs. -/
def State.serve (s : State) (q : Req) : State := if q.kind.reserves && !q.left then s.reserve q else s.perform q

/-- A state change at words re-tests the requests waiting there, the oldest first, each served once (R128). -/
def State.retest (s : State) (ws : List Nat) : Nat → State
  | 0 => s
  | n + 1 =>
    let ok := fun (i : Nat) => match s.reqs.find? (·.id == i) with
      | some q => q.words.any ws.contains && s.homeReady q && !s.holdsBack q
      | none => false
    match s.waitq.find? ok with
    | none => s
    | some i => match s.reqs.find? (·.id == i) with
      | none => s
      | some q => State.retest (s.serve q) ws n

/-- Re-test after an access that changed words. -/
def State.retestAll (s : State) (ws : List Nat) : State := s.retest ws s.waitq.length

/-- The words at which requests of some kind wait. -/
def State.waitWords (s : State) (p : Req → Bool) : List Nat := (s.reqs.filter fun q => s.waitq.contains q.id && p q).flatMap Req.words

/-- Whether a home has room on its waiting list (R228). -/
def State.waitRoom (s : State) (home : Nat) : Bool :=
  decide ((s.waitq.filter fun i => match s.reqs.find? (·.id == i) with | some q => homeOf q.pa == home | none => false).length < 128)

/-- A request that its home cannot serve joins the waiting list in its place of arrival, or is refused when the list is full. -/
def State.enqueue (s : State) (q : Req) : State :=
  if s.waitRoom (homeOf q.pa) then
    { s.bump with
      waitq := s.waitq ++ [q.id]
      reqs := s.reqs.map fun a => if a.id = q.id then { a with st := .waiting, arr := s.nextId } else a }
  else { s with reqs := s.reqs.map fun a => if a.id = q.id then { a with st := .refused (s.cyc q.core) } else a }

/-- A fence completes when no earlier access of its thread remains; one of system scope also waits for the thread's messages (R126, R223). -/
def State.fenceDone (s : State) (q : Req) : Bool :=
  !(s.reqs.any fun a => a.left && a.sameThread q && decide (a.ord < q.ord)) &&
    !s.acquirePending q.core q.slot q.seq q.lsid && !s.deferredPending q.core q.slot q.seq q.lsid &&
    !(decide (q.kind = .fence .sys) && !s.messagesDone q.core q.slot q.seq q.lsid)

/-- Whether the core still holds an ownership request: behind its earlier stores to that home and its earlier requests for the line (R131), behind the
thread's deferred loads, body reads and acquires (R121, R124), and behind what an earlier copy command of the thread has yet to read (R283). -/
def State.requestHeld (s : State) (o : OwnReq) : Bool :=
  (s.reqs.any fun q => q.left && decide (q.core = o.core) && decide (q.ord < o.ord) &&
      ((decide (homeOf q.pa = homeOf (64 * o.line)) && decide (q.st = .sent)) || (decide (q.slot = o.slot) && (q.kind.forwards || q.kind.acquires)))) ||
    (s.ownReqs.any fun x => decide (x.core = o.core) && decide (x.id < o.id) && decide (x.line = o.line)) ||
    s.acquirePending o.core o.slot o.seq o.lsid || s.deferredPending o.core o.slot o.seq o.lsid || s.listUnread o.core o.slot o.ord

/-- Whether a request of the core to the same home is on the channel before a place of it: what comes behind it does not arrive ahead of it (R138). Nothing of a core's
own slice is on a channel. -/
def State.sentAhead (s : State) (core home key id : Nat) : Bool :=
  decide (home ≠ homeOf (slicePa core)) &&
    ((s.reqs.any fun a => decide (a.id ≠ id) && decide (a.core = core) && !a.kind.isFence && decide (homeOf a.pa = home) &&
        (decide (a.st = .sent) || (a.left && decide (a.st = .reserved))) && decide (a.key < key) && !s.served a && !s.holdsBack a) ||
      s.ownReqs.any fun o => decide (o.id ≠ id) && decide (o.core = core) && decide (homeOf (64 * o.line) = home) &&
        (decide (o.ord < key) || (decide (o.ord = key) && decide (o.id < id))) && !s.requestHeld o)

/-- A request to memory reaches its home, in its place on the channel (R115, R128, R138, R228). -/
def State.accessMemory (s : State) (q : Req) : State :=
  if q.kind.isFence then (if s.fenceDone q then (s.dropReq q).settle q.core q.slot else s)
  else if s.holdsBack q || (decide (q.st ≠ .waiting) && !s.served q && s.sentAhead q.core (homeOf q.pa) q.key q.id) then s
  else match q.st with
    | .reserved => if q.left && !s.pendingAhead q then (s.serve q).retestAll q.words else s
    | .refused _ => s
    | .sent => if s.homeReady q then (s.serve q).retestAll q.words else s.enqueue q
    | .waiting => if s.homeReady q then (s.serve q).retestAll q.words else s

/-- WAITLIST_RESEND: a refused request is sent again 64 clk later. -/
def State.resend (s : State) (i : Nat) : State :=
  { s with reqs := s.reqs.map fun a => match a.st with
      | .refused n => if a.id = i && n + 64 ≤ s.cyc a.core then { a with st := .sent } else a
      | _ => a }

def execWaitlistResend (i : Nat) (s : State) : Out := .next (s.resend i)

/-- WITHDRAWAL: a request not yet served is removed, its word left as it was, and the thread takes the wait-limit fault 0x38 with
the state sought (R229). -/
def State.withdrawal (s : State) (i : Nat) : State :=
  if !s.withdrawals.contains i then s
  else match s.reqs.find? (·.id == i) with
    | none => { s with withdrawals := s.withdrawals.filter (· ≠ i) }
    | some q =>
      if q.left || decide (q.st = .reserved) then { s with withdrawals := s.withdrawals.filter (· ≠ i) }
      else
        let sought := match q.kind with | .give => 0 | _ => 1
        let cause := if q.kind = .joinw then 0x97 else 0x38
        ((s.dropReq q).raise q.core q.slot cause q.ix false q.va (if cause = 0x38 then sought else 0)).retestAll q.words

def execWithdrawal (i : Nat) (s : State) : Out := .next (s.withdrawal i)

/-- PATROL_SCRUB: the word is read and a single-bit error corrected; a double-bit error is counted (R231). -/
def State.scrub (s : State) (pa : Nat) : State :=
  let w := wordOf pa
  if s.mem.poisoned w then s.countUe (8 * w) else s.correct [w]

def execPatrolScrub (a : Nat) (s : State) : Out := .next (s.scrub a)

/-- SOFT_ERROR: one bit, or two, of a stored word and its check bits change. A word already in error is left poisoned. -/
def State.softError (s : State) (pa : Nat) (double : Bool) : State :=
  let w := wordOf pa
  { s with mem := s.mem.setErr w (some (double || s.mem.poisoned w || s.mem.correctable w)) }

def execSoftError (a : Nat) (w : Bool) (s : State) : Out := .next (s.softError a w)

/-- The size code of a deferred or plain load: the format that the combining node compares. -/
def MemKind.format : MemKind → Option (Bool × LdSize)
  | .ld z => some (false, z)
  | .ldd z _ => some (true, z)
  | _ => none

/-- COMBINED_READ: the combining node of a chiplet lets an identical LD or LDD of another core of the chiplet, waiting there for no more than 16 clk
after the first, be served with request i: both perform at the instant at which the home serves the merged request (R143, R336; log entry 80). -/
def State.combinedRead (s : State) (i j : Nat) : State :=
  match s.reqs.find? (·.id == i), s.reqs.find? (·.id == j) with
  | some a, some b =>
    let plain := fun (q : Req) => q.kind.forwards && decide (q.st = .sent) && !s.holdsBack q && !s.served q && decide (paSpace q.pa ≠ 3) &&
      decide ((s.forwarded q).2 = 0) && s.homeReady q && !s.reqHeld q && !s.sentAhead q.core (homeOf q.pa) q.key q.id
    if i ≠ j && a.core ≠ b.core && coreSite a.core = coreSite b.core && a.pa = b.pa && a.kind.format = b.kind.format && b.clk ≤ a.clk + 16 &&
        a.clk ≤ b.clk + 16 && plain a && plain b then
      (s.perform a).perform b
    else s
  | _, _ => s

/-- A held answer reaches its core: the token, the grant or the fault of the block that asked. -/
def State.takeReply (s : State) (r : Reply) : State :=
  let s := { s with replies := s.replies.filter fun x => decide (x.id ≠ r.id) }
  match r.kind with
  | .data tok => s.giveToken r.core r.slot r.ix tok
  | .granted => s.setSt r.core r.slot r.ix .ready
  | .refused c => s.raise r.core r.slot c r.ix (replayable c) r.va 0

/-- The answers that nothing holds any more arrive, those of one way in their order. -/
def State.takeReplies (s : State) : State :=
  s.replies.foldl (fun s r =>
    if !(s.replies.any fun x => decide (x.id = r.id)) || s.wayHeld r.flight ||
        (s.replies.any fun x => decide (x.id < r.id) && decide (x.core = r.core) && decide (x.src = r.src)) then s
    else s.takeReply r) s

def execCombinedRead (i j : Nat) (s : State) : Out := .next (s.combinedRead i j)

end Sys2Proof.Machine
end

