-- ==== Sys2Proof/Machine/Engine.lean ====
section
/-! DEFINITION. What the matrix, copy and hypervector engines share: tags, intakes, ownership of lines, reads and writes of memory,
faults after commit, trace entries, and the E-format forms when they fire (spec/01_organisation.md R43; spec/04_ordering.md R129 to
R135; spec/08_matrix_engine.md R243 to R246; spec/09_copy_engine.md R268 to R276; spec/10_hypervector_engine.md R308 to R310;
spec/16_edges_and_health.md R465 to R467). -/

namespace Sys2Proof.Machine

/-! ### Completion tags (R43, R268) -/

/-- The physical tag a thread's tag number means; 64 stands for a number past its fold share, which no counter has. -/
def Core.physTag (k : Core) (g : Group) (t : Nat) : Nat :=
  if k.foldK < 2 then t else if t < k.share 64 then k.foldIndex g * k.share 64 + t else 64

def State.physTag (s : State) (core : Nat) (g : Group) (t : Nat) : Nat := (s.coreAt core).physTag g t

/-- A command naming a tag is counted. -/
def State.tagUp (s : State) (core t : Nat) : State :=
  if 64 ≤ t then s
  else s.modCore core fun k =>
    { k with tags := k.tags &&& ~~~(1#64 <<< t), counts := mset 0 k.counts t (mget k.counts t 0 + 1) }

/-- A tag is set: the replay that awaits it is done (R468). -/
def ReplayPort.tagSet (r : ReplayPort) (t : Nat) : ReplayPort :=
  if r.awaits = some t then { r with done := true, busy := false, awaits := none } else r

/-- A command's writes have performed: the tag is set when no command is left that counts on it. -/
def State.tagDown (s : State) (core t : Nat) : State :=
  if 64 ≤ t then s
  else s.modCore core fun k =>
    let n := mget k.counts t 0 - 1
    { k with
      tags := if n = 0 then k.tags ||| (1#64 <<< t) else k.tags, counts := mset 0 k.counts t n
      replay := if n = 0 then k.replay.tagSet t else k.replay }

/-- Whether the counts of a core leave room for more commands with these tags. -/
def State.tagRoom (s : State) (core : Nat) (ts : List Nat) : Bool :=
  ts.all fun t => 64 ≤ t || decide (mget (s.coreAt core).counts t 0 + ts.count t ≤ 15)

/-! ### Intakes -/

/-- The engine a command goes to. -/
inductive EngineId where
  | matrix | copy | hyper
  deriving DecidableEq, Repr

def CmdKind.engine : CmdKind → EngineId
  | .mls => .matrix | .mlsc => .matrix | .mswap => .matrix | .mstream => .matrix | .mstreama => .matrix | .mzero => .matrix
  | .mdrain => .matrix | .mdrainn => .matrix | .mtask => .matrix
  | .cpy1 => .copy | .cpy2 => .copy | .gath => .copy | .scat => .copy | .fill => .copy | .cpycv => .copy | .cpymc => .copy
  | .culv => .copy | .pghand => .copy | .ctask => .copy
  | .hbind => .hyper | .hbund => .hyper | .hperm => .hyper | .hthr => .hyper | .hld => .hyper | .hst => .hyper | .hclr => .hyper
  | .hphase => .hyper | .hbndld => .hyper | .hbndst => .hyper | .hmove => .hyper | .hdist => .hyper | .hnear => .hyper
  | .hneark => .hyper | .hpopc => .hyper

/-- The fill forms of the hypervector engine (R308). -/
def CmdKind.isFill : CmdKind → Bool
  | .hdist => true | .hnear => true | .hneark => true | .hpopc => true
  | _ => false

/-- Entries in use in an intake: an entry frees when its command completes (R246). A task no longer holds one, and a command that halted the
matrix engine holds its own until RETRY, SKIP or FLUSH. -/
def MatEng.running (m : MatEng) : Nat :=
  m.load.toList.length + m.stream.toList.length + if m.taskf then 0 else m.faulted.toList.length
def MatEng.used (m : MatEng) : Nat := m.intake.length + m.running
def CopyEng.used (m : CopyEng) : Nat := m.intake.length + (m.active.filter fun e => !e.2.task).length
def HvEng.used (m : HvEng) : Nat := m.intake.length + m.run.toList.length

def State.intakeUsed (s : State) (core : Nat) : EngineId → Nat
  | .matrix => (s.matAt core).used
  | .copy => (s.copyAt core).used
  | .hyper => (s.hvAt core).used

def State.pushIntake (s : State) (c : Cmd) : State :=
  match c.kind.engine with
  | .matrix => let m := s.matAt c.core; s.setMat c.core { m with intake := m.intake ++ [c] }
  | .copy => let m := s.copyAt c.core; s.setCopy c.core { m with intake := m.intake ++ [c] }
  | .hyper => let m := s.hvAt c.core; s.setHv c.core { m with intake := m.intake ++ [c] }

/-! ### Lines: translation and ownership (R131) -/

/-- The physical address that an engine's or a unit's access to an address means, or the slice cause that refuses it: an answer that finds no route back refuses it
too (R203, R204, R216, R332; log entry 79). -/
def State.engineAt (s : State) (sp : Space) (va : Nat) (need : Need) : Except Nat Nat × State :=
  match s.xlate sp va need with
  | (.ok pa _ _ _ _, s) =>
    let at_ := s.redirect pa
    (match s.place (coreBasin sp.core) at_ with
      | .config _ _ => .error 0x31
      | _ => match s.checkMem sp false at_ with
        | some c => .error c
        | none => if s.answersCore at_ sp.core then .ok pa else .error 0x31, s)
  | (.bad c _, s) => (.error c, s)
  | (.miss, s) => (.error 0x34, s)

/-- The same with the address where it lies now. -/
def State.engineXl (s : State) (sp : Space) (va : Nat) (need : Need) : Except Nat Nat × State :=
  let r := s.engineAt sp va need
  (r.1.map r.2.redirect, r.2)

/-- The line a virtual line address leads to, as a line write without data. -/
def State.aimLine (s : State) (sp : Space) (lw : LineWrite) : LineWrite × State :=
  match s.engineXl sp lw.va .write with
  | (.ok pa, s) => ({ lw with line := lineOf pa, bad := none }, s)
  | (.error c, s) => ({ lw with line := 0, bad := some c }, s)

/-- Aim a list of lines in order. -/
def State.aimLines (s : State) (sp : Space) : List LineWrite → List LineWrite × State
  | [] => ([], s)
  | l :: ls =>
    let r := s.aimLine sp l
    let q := State.aimLines r.2 sp ls
    (r.1 :: q.1, q.2)

/-- Whether a command has asked for a line. -/
def State.asked (s : State) (cmd line : Nat) : Bool :=
  (s.owned.any fun o => decide (o.cmd = cmd) && decide (o.line = line)) ||
    s.ownReqs.any fun o => decide (o.cmd = cmd) && decide (o.line = line)

/-- The place of a command's ownership requests on the request channel: its own, or for a task, which issues when it starts, the present one (R131). -/
def State.askPlace (s : State) (c : Cmd) : Nat := if 8 ≤ c.slot || decide (c.kind = .mtask) then s.nextId else c.id

/-- Send an ownership request of a command for each line not yet asked for, in order. -/
def State.askLines (s : State) (c : Cmd) : List LineWrite → State
  | [] => s
  | l :: ls =>
    State.askLines (if l.bad.isSome || s.asked c.id l.line then s
      else { s.bump with ownReqs := s.ownReqs ++ [⟨s.nextId, l.line, c.id, c.core, c.slot, c.seq, c.lsid, s.time, s.askPlace c⟩] }) c ls

/-- Words of a list of lines. -/
def lineWords (ls : List Nat) : List Nat := ls.flatMap fun l => (List.range 8).map fun k => 8 * l + k

/-- A command releases every line it holds or has asked for; those who wait there are served (R135). -/
def State.releaseLines (s : State) (cmd : Nat) : State :=
  let mine := (s.owned.filter fun o => decide (o.cmd = cmd)).map Own.line
  ({ s with
    owned := s.owned.filter fun o => decide (o.cmd ≠ cmd)
    ownReqs := s.ownReqs.filter fun o => decide (o.cmd ≠ cmd) } : State).retestAll (lineWords mine)

/-- OWNERSHIP_REQUEST: a request arrives at the home in its place on the channel; the oldest request of a line is its owner (R131, R138). -/
def State.ownershipRequest (s : State) (i : Nat) : State :=
  match s.ownReqs.find? (·.id == i) with
  | none => s
  | some o =>
    if s.requestHeld o || s.sentAhead o.core (homeOf (64 * o.line)) o.ord o.id ||
        ((homeOf (64 * o.line) ≠ homeOf (slicePa o.core)) && s.wayHeld o.flight) then s
    else { s.bump with
      ownReqs := s.ownReqs.filter (fun x => decide (x.id ≠ i)), owned := s.owned ++ [⟨o.line, o.cmd, o.core, s.nextId, 0⟩] }

def execOwnershipRequest (i : Nat) (s : State) : Out := .next (s.ownershipRequest i)

/-! ### Reads (R133) -/

/-- What an engine read gives: bytes, a wait for a line of an earlier command of the core, or a slice cause at an address. -/
inductive Rd where
  | ok (v : Nat)
  | wait
  | bad (cause va : Nat)
  deriving DecidableEq, Repr

/-- The 16 bytes of its line in which an address lies. -/
def pieceOf (pa : Nat) : Nat := pa % 64 / 16

/-- A read waits for what an earlier command of the same core has yet to write where it owns the line or has asked for it, and for no other (R132). -/
def State.readWaits (s : State) (c : Cmd) (pa : Nat) : Bool :=
  (s.owned.any fun o => decide (o.line = lineOf pa) && decide (o.core = c.core) && decide (o.cmd < c.id) && !bit o.wrote (pieceOf pa)) ||
    s.ownReqs.any fun o => decide (o.line = lineOf pa) && decide (o.core = c.core) && decide (o.cmd < c.id)

/-- A read of n bytes of one word, at one instant. -/
def State.readPiece (s : State) (c : Cmd) (va n : Nat) : Rd × State :=
  match s.engineXl c.sp va .read with
  | (.error e, s) => (.bad e va, s)
  | (.ok pa, s) =>
    if s.readWaits c pa || s.engineHeld c.core pa then (.wait, s)
    else match s.firstPoisoned (wordsOf pa n) with
      | some w => (.bad 0x39 va, s.countUe (8 * w))
      | none => (.ok (s.mem.read pa n), s.correct (wordsOf pa n))

/-- What is computed from source words: the next word it needs (with the row it belongs to), a fault of the data itself, or a value. A command reads its source word by
word, each at an instant of its own, and works on the words read so far (R133, R316). -/
inductive Fed (α : Type) where
  | need (va n row : Nat)
  | bad (cause va row : Nat)
  | ok (a : α)

def Fed.bind {α β : Type} (x : Fed α) (f : α → Fed β) : Fed β :=
  match x with
  | .need va n row => .need va n row
  | .bad c va row => .bad c va row
  | .ok a => f a

/-- A run of n bytes out of the words read, in ascending address; the answer holds the words left. Fuel bounds the number of words. -/
def fedRun (row va n : Nat) (f : List Nat) : Nat → Fed (Nat × List Nat)
  | 0 => .ok (0, f)
  | fuel + 1 =>
    if n = 0 then .ok (0, f)
    else
      let k := min n (8 - va % 8)
      match f with
      | [] => .need va k row
      | v :: f => (fedRun row (va + k) (n - k) f fuel).bind fun r => .ok (v + r.1 * 2 ^ (8 * k), r.2)

def fedBytes (row va n : Nat) (f : List Nat) : Fed (Nat × List Nat) := fedRun row va n f (n / 8 + 2)

/-- Runs of n bytes from each of a list of addresses, the k-th of them row k0 + k. -/
def fedRuns (n k0 : Nat) (f : List Nat) : List Nat → Fed (List Nat × List Nat)
  | [] => .ok ([], f)
  | a :: as => (fedBytes k0 a n f).bind fun r => (fedRuns n (k0 + 1) r.2 as).bind fun q => .ok (r.1 :: q.1, q.2)

/-- What an event makes of a computation on source words: a wait, one more word read, a slice cause or a fault of the data (with the address and the row), or
the value. -/
inductive Got (α : Type) where
  | wait
  | more (c : Cmd)
  | refused (cause va row : Nat)
  | bad (cause va row : Nat)
  | ok (a : α)

/-- One event of a command that reads: the next word is read. -/
def State.feed {α : Type} (s : State) (c : Cmd) (x : Fed α) : Got α × State :=
  match x with
  | .ok a => (.ok a, s)
  | .bad e va row => (.bad e va row, s)
  | .need va n row => match s.readPiece c va n with
    | (.wait, s) => (.wait, s)
    | (.bad e a, s) => (.refused e a row, s)
    | (.ok v, s) => (.more { c with feed := c.feed ++ [v] }, s)

/-! ### Line writes (R114, R131, R259) -/

/-- One of n things that the spec leaves in any order. -/
def State.choose (s : State) (n : Nat) : Nat × State := if n ≤ 1 then (0, s) else (Config.choice s.nextId % n, s.bump)

/-- The bytes of a mask that lie in the k-th 16 bytes of a line. -/
def pieceMask (mask k : Nat) : Nat := bits mask (16 * k + 15) (16 * k) * 2 ^ (16 * k)

/-- The first byte of a line that a mask names. -/
def firstByte (mask : Nat) : Nat := ((List.range 64).find? (bit mask)).getD 0

/-- The words of a line that a mask touches, and those it covers. -/
def maskWords (line mask : Nat) : List Nat :=
  (List.range 8).filterMap fun k => if bits mask (8 * k + 7) (8 * k) ≠ 0 then some (8 * line + k) else none
def maskFullWords (line mask : Nat) : List Nat :=
  (List.range 8).filterMap fun k => if bits mask (8 * k + 7) (8 * k) = 255 then some (8 * line + k) else none

/-- The 16-byte parts of a line that a command has yet to write and of which no word is reserved (R154). -/
def State.freePieces (s : State) (lw : LineWrite) : List Nat :=
  (List.range 4).filter fun k => pieceMask lw.mask k ≠ 0 && !(s.resv.any fun e => (maskWords lw.line (pieceMask lw.mask k)).contains e.1)

/-- The core whose command owns a line (R131). -/
def State.lineOwner (s : State) (cmd : Nat) (lw : LineWrite) : Option Nat :=
  match s.owned.find? fun o => decide (o.line = lw.line) with
  | some o => if o.cmd = cmd then some o.core else none
  | none => none

/-- Whether a command may write to a line now: it owns it, some part of it is free, and the way to its home is (R131, R154, R333). -/
def State.lineReady (s : State) (cmd : Nat) (lw : LineWrite) : Bool :=
  (match s.lineOwner cmd lw with
    | some k => !s.engineHeld k (64 * lw.line)
    | none => false) && !(s.freePieces lw).isEmpty

/-- The cause with which a home refuses an engine's write: a retired home, or a poisoned word written in part (R216, R231). -/
def State.lineRefused (s : State) (lw : LineWrite) : Option Nat :=
  if s.retiredHome (64 * lw.line) then some 0x3A
  else if ((maskWords lw.line lw.mask).filter fun w => !(maskFullWords lw.line lw.mask).contains w).any s.mem.poisoned then some 0x39
  else none

/-- Count the poisoned words that a write meets in part. -/
def State.countRefused (s : State) (lw : LineWrite) (cause : Nat) : State :=
  if cause ≠ 0x39 then s
  else match (maskWords lw.line lw.mask).find? fun w => s.mem.poisoned w && !(maskFullWords lw.line lw.mask).contains w with
    | some w => s.countUe (8 * w)
    | none => s

/-- Bytes written into a line, with the full/empty bits of the words touched; single-bit errors there are corrected (R231). -/
def State.putLine (s : State) (lw : LineWrite) : State :=
  let s := ((s.correct (maskWords lw.line lw.mask)).heal (maskFullWords lw.line lw.mask)).putMem (64 * lw.line) lw.data (2 ^ 64 - 1 - lw.mask % 2 ^ 64) 64
  match lw.fe with
  | none => s
  | some b => { s with mem := (maskWords lw.line lw.mask).foldl (fun m w => m.setFull w b) s.mem }

/-- What is known of a line once a part of it is written: the command still owns it, or releases it. -/
def State.afterPiece (s : State) (cmd : Nat) (lw : LineWrite) (k : Nat) (again : Bool) : State :=
  let mine := fun (o : Own) => decide (o.line = lw.line) && decide (o.cmd = cmd)
  if again then s
  else if lw.mask = 0 then { s with owned := s.owned.filter fun o => !mine o }
  else { s with owned := s.owned.map fun o => if mine o then { o with wrote := Nat.lor o.wrote (2 ^ k) } else o }

/-- The owner writes 16 bytes of a line, one of the parts it has yet to write, in any order, and releases the line with the last of them, unless it
writes to it `again`; those who wait there are served. The answer holds what is left of the line, or the cause of a refusal and its address. -/
def State.writePiece (s : State) (cmd : Nat) (lw : LineWrite) (again : Bool) : Except (Nat × Nat) LineWrite × State :=
  let r := s.choose (s.freePieces lw).length
  let k := (s.freePieces lw).getD r.1 0
  let m := pieceMask lw.mask k
  let part := { lw with mask := m }
  match r.2.lineRefused part with
  | some e => (.error (e, lw.va + firstByte m), r.2.countRefused part e)
  | none =>
    let rest := { lw with mask := Nat.xor lw.mask m }
    (.ok rest, ((r.2.putLine part).afterPiece cmd rest k again).retestAll (lineWords [lw.line]))

/-- Whether another of a list of line writes goes to a line too. -/
def writesAgain (line : Nat) (ls : List LineWrite) : Bool := ls.any fun l => decide (l.line = line) && l.bad.isNone

/-! ### Order towards the issuing thread (R130) -/

/-- Commands that release at system scope (Table 4-2). -/
def CmdKind.sysRelease : CmdKind → Bool
  | .culv => true | .pghand => true | _ => false

/-- Whether every access of the issuing thread before a command has performed, and for a release at system scope every message too (R124, R130). -/
def State.threadDone (s : State) (c : Cmd) : Bool :=
  s.earlierDone c.core c.slot c.seq c.lsid && (!c.kind.sysRelease || s.messagesDone c.core c.slot c.seq c.lsid)

/-! ### Completion and faults -/

/-- A command is complete for its tag; a replayed one ends its replay when the tag is set (R468), and at once where it has none. -/
def State.cmdDone (s : State) (c : Cmd) : State :=
  let put := fun (f : ReplayPort → ReplayPort) => s.modCore c.core fun k => { k with replay := f k.replay }
  if !c.rp then s.tagDown c.core c.tag
  else if 64 ≤ c.tag then put fun r => { r with done := true, busy := false }
  else (put fun r => { r with awaits := some c.tag }).tagDown c.core c.tag

/-- The slot in which the issuing thread of a command runs: its own, or the one on the core that now holds it. -/
def State.threadSlot (s : State) (c : Cmd) : Option Nat :=
  let holds := fun (n : Nat) => let sl := s.slotAt c.core n
    sl.busy && sl.group == c.grp && sl.ctl.wid == c.wid
  if 8 ≤ c.slot then none
  else if holds c.slot then some c.slot
  else (List.range 8).find? holds

/-- The tag number that a fault of a command reports: its physical tag, or where it names none of its share, the number it gave. -/
def Cmd.faultTag (c : Cmd) : Nat := if c.tag < 64 then c.tag else bits c.r.toNat 5 0

/-- INFO of an engine's fault packet (Table 14-3). -/
def engineInfo (cause sub tag : Nat) : Nat :=
  (if cause = 0x46 || cause = 0x52 || cause = 0x56 || cause = 0x61 then sub % 256 else 0) + tag % 64 * 256

/-- The chiplet rider of the home of a ditch: the source that a packet of work without a thread names (R416). -/
def State.ditchRider (s : State) (b d : Nat) : Nat := s.riderCore (chipletSite b (mget (s.basinAt b).ditches d {}).home)

/-- The source of a packet of a command without a thread: the rider of the home of its record's ditch, or, for one of no record, that of the core's chiplet. -/
def State.taskRider (s : State) (c : Cmd) : Nat :=
  match c.desc with
  | w :: _ => s.ditchRider (coreBasin c.core) (bits w.toNat 23 16)
  | [] => s.riderCore (coreSite c.core)

/-- Report a fault found after commit to the issuing thread, or to the rider alone where there is none (R260, R298, R322). -/
def State.reportFault (s : State) (c : Cmd) (cause va sub : Nat) : State :=
  let info := engineInfo cause sub c.faultTag
  let s := if c.rp then s.modCore c.core fun k => { k with replay := { k.replay with cause := cause } } else s
  if 8 ≤ c.slot then
    s.sendPkt (coreSite c.core) (s.taskRider c) 7
      (packetWords 0x41 (coreSite c.core) (coreNum c.core) 0 cause 127 false false true 0 va 0#64 info s.time (s.coreAt c.core).lcid 0)
  else match s.threadSlot c with
    | some n => s.failAfter c.core n cause 127 va info
    | none =>
      s.sendPkt (coreSite c.core) c.core c.slot
        (packetWords 0x41 (coreSite c.core) (coreNum c.core) c.slot cause 127 true false false 0 va c.wid info s.time
          (s.coreAt c.core).lcid c.grp.vc)

/-! ### Traces (R465 to R467) -/

/-- Append a trace entry's sixteen words to a session's ring; those who wait there are served (R128). A retired home refuses the words (R216). -/
def State.traceWrite (s : State) (b n : Nat) (ws : List W64) : State :=
  let t := mget (s.basinAt b).traces n {}
  let a := t.buf + 128 * (t.tail % max 1 t.size)
  let names := s.wordsAt a 128
  let put := fun (s : State) => s.modBasin b fun v => { v with traces := mput v.traces n { t with tail := (t.tail + 1) % 2 ^ 32, count := t.count + 1 } }
  if s.retiredHome a then put s
  else
    let s := (s.correct names).heal names
    let m := (List.range 16).foldl (fun m k =>
      (m.write (s.redirect (a + 8 * k)) (ws.getD k 0#64).toNat 0 8).setFull (wordOf (s.redirect (a + 8 * k))) true) s.mem
    (put { s with mem := m }).retestAll names

/-- A packet of a unit of a basin to the rider of its first live compute chiplet. -/
def State.basinPkt (s : State) (b kind code info : Nat) : State :=
  match (computeSites b).find? fun n => (s.siteAt n).live ≠ 0#16 with
  | some n => s.sendPkt n (s.riderCore n) 7 (packetWords kind n 0 0 code 127 false false true 0 0 0#64 info s.time 0 0)
  | none => s

/-- A health notice (R464): to the rider of the first live compute chiplet of the basin, and as an EVENT frame to every enabled leat port. -/
def State.healthPkt (s : State) (b code info : Nat) : State :=
  let ws := packetWords 0x42 (((computeSites b).find? fun n => (s.siteAt n).live ≠ 0#16).getD 0) 0 0 code 127 false false true 0 0 0#64 info s.time 0 0
  let f : Frame := { w0 := w64 (1 + 0xB * 2 ^ 4 + 64 * 2 ^ 16), w1 := 0#64, w2 := 0#64, w3 := 0#64, payload := ws }
  let s := s.basinPkt b 0x42 code info
  { s with leatOut := s.leatOut ++ (s.leats.filter fun e => e.2.en).map fun e => (e.1, { f with carrier := Carrier.ofMode e.2.mode }) }

/-- Room in a session's ring. -/
def TraceSession.room (t : TraceSession) : Bool := decide ((t.tail + 2 ^ 32 - t.head) % 2 ^ 32 < t.size)

/-- The header words of an entry: its type and issuer, the time, the count. -/
def traceHead (type site core slot extra time count : Nat) : List W64 :=
  [w64 (type + site * 2 ^ 8 + core * 2 ^ 17 + slot * 2 ^ 21 + extra * 2 ^ 32), w64 time, w64 count, 0#64, 0#64, 0#64, 0#64, 0#64]

/-- Write the markers a session owes, in the order of their events, while it has room. -/
def State.traceOwe (s : State) (b n : Nat) : List Owed → State
  | [] => s.modBasin b fun v => { v with traces := mput v.traces n { mget v.traces n {} with owed := [] } }
  | o :: rest =>
    let t := mget (s.basinAt b).traces n {}
    if !t.en || !t.room then s.modBasin b fun v => { v with traces := mput v.traces n { t with owed := o :: rest } }
    else match o with
      | .reset at_ => State.traceOwe (s.traceWrite b n (traceHead 4 t.site t.core 0 0 at_ t.count)) b n rest
      | .drop k => State.traceOwe ((s.traceWrite b n (traceHead 5 t.site t.core 0 k s.time t.count)).healthPkt b 0xB6 (n + k * 2 ^ 32)) b n rest
def State.traceOwed (s : State) (b n : Nat) : State := s.traceOwe b n (mget (s.basinAt b).traces n {}).owed

/-- Another dropped event is owed. -/
def oweDrop (l : List Owed) : List Owed :=
  match l.getLast? with
  | some (.drop k) => l.dropLast ++ [.drop (k + 1)]
  | _ => l ++ [.drop 1]

/-- An event of a traced source: an entry is written, or the event is dropped and counted. -/
def State.traceEvent (s : State) (b n type core slot : Nat) (body : List W64) : State :=
  let s := s.traceOwed b n
  let t := mget (s.basinAt b).traces n {}
  if t.room && t.owed.isEmpty then
    s.traceWrite b n (traceHead type (coreSite core) (coreNum core) (slot % 8) 0 s.time t.count ++ body)
  else s.modBasin b fun v =>
    { v with traces := mput v.traces n { t with drops := min (t.drops + 1) (2 ^ 32 - 1), owed := oweDrop t.owed } }

/-- The open sessions of a basin that trace a source. -/
def State.tracers (s : State) (b : Nat) (p : TraceSession → Bool) : List Nat :=
  (List.range 4).filter fun n => let t := mget (s.basinAt b).traces n {}; t.en && p t

/-- The 64-byte intake entry of a command (R263, R300, R319; log entry 17): l, r, the instruction word, and the sampled registers. -/
def Cmd.entry (c : Cmd) : List W64 :=
  let half := fun (v : W128) => [v.setWidth 64, w64 (v.toNat / 2 ^ 64)]
  let regs := match c.kind.engine with
    | .matrix => [w64 ((c.msca.toNat % 2 ^ 17) + c.mscb.toNat % 2 ^ 17 * 2 ^ 17 + c.mfmt.toNat % 2 ^ 12 * 2 ^ 34 + c.fpc.toNat % 8 * 2 ^ 46 +
        c.nanm.toNat % 2 * 2 ^ 49)]
    | .copy => [w64 (c.fpc.toNat % 8 + c.nanm.toNat % 2 * 2 ^ 49)]
    | .hyper => [c.hvc]
  half c.l ++ half c.r ++ [w64 (c.iw % 2 ^ 32 + c.slot * 2 ^ 32 + c.grp.vc % 2 ^ 24 * 2 ^ 36)] ++ regs ++ [c.wid, w64 (c.sp.asn * 2 ^ 48 + c.grp.hdr % 2 ^ 48)]

/-- A command reaches its engine's intake: a traced one leaves an entry. -/
def State.traceCmd (s : State) (c : Cmd) : State :=
  let src := match c.kind.engine with | .matrix => 1 | .copy => 2 | .hyper => 3
  let b := coreBasin c.core
  (s.tracers b fun t => decide (t.src = src) && decide (t.site = coreSite c.core) && decide (t.core = coreNum c.core)).foldl
    (fun s n => s.traceEvent b n 2 c.core c.slot c.entry) s

/-- Mark the first command that has not arrived as arrived. -/
def arriveFirst : List Cmd → Option (Cmd × List Cmd)
  | [] => none
  | c :: cs =>
    if c.arrived then (match arriveFirst cs with | some (x, l) => some (x, c :: l) | none => none)
    else some ({ c with arrived := true }, { c with arrived := true } :: cs)

/-! ### Spans of destination lines -/

/-- The lines of a span of n bytes, ascending, as line addresses. -/
def spanLines (va n : Nat) : List Nat := if n = 0 then [] else (List.range ((va + n - 1) / 64 - va / 64 + 1)).map fun i => (va / 64 + i) * 64

/-! ### The E-format command forms when they fire (R243 to R246, R274 to R276, R308 to R310) -/

/-- Whether a group owns the engines of a core: it is their owner, or a member of the fold (R393, R265). -/
def Core.owns (k : Core) (g : Group) : Bool := k.owner == some g || (decide (2 ≤ k.foldK) && k.members.contains g)

/-- The ditch of a thread's record (Table 13-4). -/
def Slot.ofDitch (sl : Slot) : Nat := bits (sl.record.getD 0 0#64).toNat 23 16

/-- An engine command with its operands: a null byte in l or r makes it null; a thread whose group does not own the engines of its core takes
0x94, its INFO the ditch of the thread's record (R393, R417); else it is left for commit. -/
def State.cmdFire (s : State) (k : CmdKind) (n : BitVec 4) (v : BitVec 4) (reg : Nat) (c : Ctx) : State :=
  if c.l.mask ≠ 0#16 || c.r.mask ≠ 0#16 then s.setSt c.core c.slot c.ix .null
  else if !(s.coreAt c.core).owns c.sl.group then s.raise c.core c.slot 0x94 c.ix false 0 c.sl.ofDitch
  else (s.addOp c.core c.slot
      { kind := .cmd k, ix := c.ix, lsid := n.toNat, l := c.l.data, r := c.r.data, v := v.toNat, reg := reg }).setSt c.core c.slot c.ix .ready

/-- The meaning of an engine command form when it fires. -/
def cmdExec (k : CmdKind) (p : Pred) (n : BitVec 4) (v : BitVec 4) (reg : Nat) (s : State) : Out :=
  firing p needLR (fun c => s.setSt c.core c.slot c.ix .null) (fun c => s.cmdFire k n v reg c) s

def execMls (p : Pred) (n : BitVec 4) (s : State) : Out := cmdExec .mls p n 0#4 0 s
def execMlsc (p : Pred) (n v : BitVec 4) (s : State) : Out := cmdExec .mlsc p n v 0 s
def execMswap (p : Pred) (n : BitVec 4) (s : State) : Out := cmdExec .mswap p n 0#4 0 s
def execMstream (p : Pred) (n : BitVec 4) (s : State) : Out := cmdExec .mstream p n 0#4 0 s
def execMstreama (p : Pred) (n : BitVec 4) (s : State) : Out := cmdExec .mstreama p n 0#4 0 s
def execMzero (p : Pred) (n v : BitVec 4) (s : State) : Out := cmdExec .mzero p n v 0 s
def execMdrain (p : Pred) (n : BitVec 4) (s : State) : Out := cmdExec .mdrain p n 0#4 0 s
def execMdrainn (p : Pred) (n : BitVec 4) (s : State) : Out := cmdExec .mdrainn p n 0#4 0 s
def execMtask (p : Pred) (n : BitVec 4) (s : State) : Out := cmdExec .mtask p n 0#4 0 s
def execCpy1 (p : Pred) (n v : BitVec 4) (s : State) : Out := cmdExec .cpy1 p n v 0 s
def execCpy2 (p : Pred) (n v : BitVec 4) (s : State) : Out := cmdExec .cpy2 p n v 0 s
def execGath (p : Pred) (n v : BitVec 4) (s : State) : Out := cmdExec .gath p n v 0 s
def execScat (p : Pred) (n v : BitVec 4) (s : State) : Out := cmdExec .scat p n v 0 s
def execFill (p : Pred) (n v : BitVec 4) (s : State) : Out := cmdExec .fill p n v 0 s
def execCpycv (p : Pred) (n v : BitVec 4) (s : State) : Out := cmdExec .cpycv p n v 0 s
def execCpymc (p : Pred) (n v : BitVec 4) (s : State) : Out := cmdExec .cpymc p n v 0 s
def execCulv (p : Pred) (n v : BitVec 4) (s : State) : Out := cmdExec .culv p n v 0 s
def execPghand (p : Pred) (n v : BitVec 4) (s : State) : Out := cmdExec .pghand p n v 0 s
def execCtask (p : Pred) (n : BitVec 4) (s : State) : Out := cmdExec .ctask p n 0#4 0 s
def execHbind (p : Pred) (n v : BitVec 4) (s : State) : Out := cmdExec .hbind p n v 0 s
def execHbund (p : Pred) (n v : BitVec 4) (s : State) : Out := cmdExec .hbund p n v 0 s
def execHperm (p : Pred) (n : BitVec 4) (s : State) : Out := cmdExec .hperm p n 0#4 0 s
def execHthr (p : Pred) (n v : BitVec 4) (s : State) : Out := cmdExec .hthr p n v 0 s
def execHld (p : Pred) (n : BitVec 4) (s : State) : Out := cmdExec .hld p n 0#4 0 s
def execHst (p : Pred) (n : BitVec 4) (s : State) : Out := cmdExec .hst p n 0#4 0 s
def execHclr (p : Pred) (n v : BitVec 4) (s : State) : Out := cmdExec .hclr p n v 0 s
def execHphase (p : Pred) (n : BitVec 4) (s : State) : Out := cmdExec .hphase p n 0#4 0 s
def execHbndld (p : Pred) (n : BitVec 4) (s : State) : Out := cmdExec .hbndld p n 0#4 0 s
def execHbndst (p : Pred) (n : BitVec 4) (s : State) : Out := cmdExec .hbndst p n 0#4 0 s
def execHmove (p : Pred) (n v : BitVec 4) (s : State) : Out := cmdExec .hmove p n v 0 s
def execHdist (p : Pred) (n v : BitVec 4) (r : BitVec 6) (s : State) : Out := cmdExec .hdist p n v r.toNat s
def execHnear (p : Pred) (n : BitVec 4) (r : BitVec 6) (s : State) : Out := cmdExec .hnear p n 0#4 r.toNat s
def execHneark (p : Pred) (n : BitVec 4) (r : BitVec 6) (s : State) : Out := cmdExec .hneark p n 0#4 r.toNat s
def execHpopc (p : Pred) (n v : BitVec 4) (r : BitVec 6) (s : State) : Out := cmdExec .hpopc p n v r.toNat s

/-! ### Status forms (R252, R297) -/

/-- Table 8-3 for the direct commands and tasks that satisfy a test. A running MSWAP busies both units; a running task shows in TASK alone (log entry 81). -/
def State.matStatusOf (s : State) (core : Nat) (p : Cmd → Bool) : Nat :=
  let m := s.matAt core
  let swapping : Bool := match m.load with | some r => decide (r.cmd.kind = .mswap) | none => false
  let ndir := (m.intake.filter fun c => c.arrived && p c).length +
    ((m.load.toList ++ m.stream.toList ++ if m.taskf then [] else m.faulted.toList).filter fun r => p r.cmd).length
  m.load.isSome.toNat + (m.stream.isSome || swapping).toNat * 2 + m.task.isSome.toNat * 4 + m.halt.toNat * 8 + ndir * 2 ^ 4 +
    (m.tasks.filter p).length * 2 ^ 9 + m.active.valid.toNat * 2 ^ 14 + m.shadow.valid.toNat * 2 ^ 15 + m.flg.toNat * 2 ^ 16 + m.cause * 2 ^ 24 +
    matrixRows core * 2 ^ 32 + (s.coreAt core).foldK * 2 ^ 40

/-- Table 8-3. -/
def State.matStatus (s : State) (core : Nat) : Nat := s.matStatusOf core fun _ => true

/-- Table 9-7 for the commands and tasks that satisfy a test, as the i-th virtual core of the core reads it. -/
def State.copyStatusOf (s : State) (core i : Nat) (p : Cmd → Bool) : Nat :=
  let m := s.copyAt core
  (m.intake.filter fun c => c.arrived && p c).length + (m.active.filter fun e => !e.2.task && p e.2.cmd).length + (m.tasks.filter p).length * 2 ^ 5 +
    m.active.length * 2 ^ 10 + (mget m.flg i 0#6).toNat * 2 ^ 14 + m.cause * 2 ^ 24 +
    (s.coreAt core).foldK * 2 ^ 32

def State.copyStatus (s : State) (core i : Nat) : Nat := s.copyStatusOf core i fun _ => true

/-- A group's index among the virtual cores of a core; 0 where the core is not folded. -/
def Core.vIndex (k : Core) (g : Group) : Nat := if k.foldK < 2 then 0 else k.foldIndex g

def execMstat (p : Pred) (_n : BitVec 4) (t : Option Target) (s : State) : Out :=
  firing p needNone (fun c => s.fireToken c t none 2 nullToken 0#6)
    (fun c => if !(s.coreAt c.core).owns c.sl.group then s.raise c.core c.slot 0x94 c.ix false 0 c.sl.ofDitch
      else s.fireToken c t none 2 (scalarToken (w64 (s.matStatus c.core))) 0#6) s

def execCstat (p : Pred) (_n : BitVec 4) (t : Option Target) (s : State) : Out :=
  firing p needNone (fun c => s.fireToken c t none 2 nullToken 0#6)
    (fun c => if !(s.coreAt c.core).owns c.sl.group then s.raise c.core c.slot 0x94 c.ix false 0 c.sl.ofDitch
      else s.fireToken c t none 2 (scalarToken (w64 (s.copyStatus c.core ((s.coreAt c.core).vIndex c.sl.group)))) 0#6) s

/-! ### Tag waits (R270 to R273) -/

/-- Which of the three waits. -/
inductive TagWait where
  | any | all | first
  deriving DecidableEq, Repr

/-- The token of a tag wait, once its condition holds. -/
def tagAnswer (k : TagWait) (tags m : W64) : Option W64 :=
  let t := tags &&& m
  match k with
  | .all => if t = m then some m else none
  | .any => if t ≠ 0#64 || m = 0#64 then some t else none
  | .first => if m = 0#64 then some 64#64 else if t ≠ 0#64 then some (fCtz t) else none

/-- The wait an instruction is. -/
def tagWaitOf : Instr → Option (TagWait × Option Target)
  | .twany _ _ t => some (.any, t)
  | .twall _ _ t => some (.all, t)
  | .tffr _ _ t => some (.first, t)
  | _ => none

/-- A tag wait fires: a null operand delivers null at once, a mask past the fold share raises 0x59, else the wait begins (R273). -/
def State.tagFire (s : State) (t : Option Target) (c : Ctx) : State :=
  let k := s.coreAt c.core
  if c.l.nullIn 8 then s.fireToken c t none 2 nullToken 0#6
  else if 2 ≤ k.foldK && c.l.lo.toNat / 2 ^ (k.share 64) ≠ 0 then s.raise c.core c.slot 0x59 c.ix false 0 0
  else s.setSt c.core c.slot c.ix (.wait s.time)

def tagExec (p : Pred) (t : Option Target) (s : State) : Out :=
  firing p needL (fun c => s.fireToken c t none 2 nullToken 0#6) (fun c => s.tagFire t c) s

def execTwany (p : Pred) (_n : BitVec 4) (t : Option Target) (s : State) : Out := tagExec p t s
def execTwall (p : Pred) (_n : BitVec 4) (t : Option Target) (s : State) : Out := tagExec p t s
def execTffr (p : Pred) (_n : BitVec 4) (t : Option Target) (s : State) : Out := tagExec p t s

/-- TAG_WAIT_DELIVER: the wait delivers in a clk at whose start its condition held (R271). -/
def State.tagDeliver (s : State) (core slot ix : Nat) : State :=
  match s.runAt core slot with
  | none => s
  | some r =>
    match (r.inst ix).st, (r.instr ix).bind tagWaitOf with
    | .wait _, some (k, t) =>
      match tagAnswer k ((s.coreAt core).tagsOf (s.slotAt core slot).group (s.coreAt core).tagsAt) (((r.inst ix).l.getD {}).lo) with
      | some v => (s.setSt core slot ix .done).deliver core slot t none 2 (scalarToken v)
      | none => s
    | _, _ => s

def execTagWaitDeliver (c sl ix : Nat) (s : State) : Out := .next (s.tagDeliver c sl ix)

end Sys2Proof.Machine
end

