-- ==== Sys2Proof/Machine/Links.lean ====
section
/-! DEFINITION. What leaves the module: messages to peer modules through the scale-up ports, and culvert writes to host memory through the
leat ports (spec/16_edges_and_health.md R450 to R460; spec/11_flumes.md R327, R332, R333). -/

namespace Sys2Proof.Machine

def State.linkAt (s : State) (n : Nat) : LinkPort := mget s.links n {}
def State.modLink (s : State) (n : Nat) (f : LinkPort → LinkPort) : State := { s with links := mput s.links n (f (s.linkAt n)) }
def State.leatAt (s : State) (n : Nat) : LeatPort := mget s.leats n {}
def State.modLeat (s : State) (n : Nat) (f : LeatPort → LeatPort) : State := { s with leats := mput s.leats n (f (s.leatAt n)) }

/-- The port a peer module is reached through from basin b; none where it is unreachable (R456). -/
def State.peerPort (s : State) (b pmod : Nat) : Option Nat :=
  if 256 ≤ pmod || pmod = s.mymod then none
  else
    let e := mget (s.basinAt b).peers pmod 0
    if bit e 15 then some (e % 128) else none

/-- The key and the salt of a slot. -/
def LinkPort.slot (p : LinkPort) (k : Bool) : List W64 × W64 := if k then (p.key1, w64 p.salt1) else (p.key0, w64 p.salt0)

/-- A flit as it goes on the link: its ciphertext with a trailer that acknowledges the last flit accepted (R457). -/
def LinkPort.wire (p : LinkPort) (f : SentFlit) : LinkFlit :=
  ⟨BitVec.ofNat 12 f.seq, f.ks, BitVec.ofNat 12 (p.rxSeq + 4095), false, f.crc, f.tag, f.words⟩

/-- A flit goes on the link under the sending slot: numbered, counted, encrypted, and kept until it is acknowledged. -/
def LinkPort.load (p : LinkPort) (msg : Nat) (w : List W64) : LinkPort :=
  let k := p.slot p.txks
  let ctr := if p.txks then p.tx1 else p.tx0
  let c := Config.linkEncrypt k.1 k.2 ctr w
  let f : SentFlit := ⟨p.txSeq, p.txks, ctr, msg, c, Config.linkCrc w, Config.linkTag k.1 k.2 ctr c⟩
  { p with
    replay := p.replay ++ [f], out := p.out ++ [p.wire f], txSeq := (p.txSeq + 1) % 4096
    tx0 := if p.txks then p.tx0 else p.tx0 + 1
    tx1 := if p.txks then p.tx1 + 1 else p.tx1 }

/-- Send what waits, flit by flit, while the link is up and the replay buffer of 512 flits has room. -/
def LinkPort.pumpOn (p : LinkPort) : Nat → LinkPort
  | 0 => p
  | fuel + 1 =>
    match p.waiting with
    | [] => p
    | m :: rest =>
      if !p.en || p.width = 0 || 512 ≤ p.replay.length then p
      else match m.flits with
        | [] => LinkPort.pumpOn { p with waiting := rest } fuel
        | [w] => LinkPort.pumpOn ({ p with waiting := rest }.load m.id w) fuel
        | w :: ws => LinkPort.pumpOn ({ p with waiting := { m with flits := ws, begun := true } :: rest }.load m.id w) fuel
def LinkPort.pump (p : LinkPort) : LinkPort := p.pumpOn (512 + p.waiting.length)

/-- A message to a peer module goes to its port; all but an answer and an ownership request await an answer. -/
def State.peerSend (s : State) (port : Nat) (m : PeerMsg) : State :=
  let m := { m with port := port }
  let s : State := if m.vc = 1 || m.asks then s else { s with peerOut := s.peerOut ++ [m] }
  s.modLink port fun p => { p with waiting := p.waiting ++ [m] }.pump

/-- The header of a flit (Table 11-2) of a message of n flits, with the waypoint while it lies ahead. -/
def flitHeader (src dst : Nat) (vc n i : Nat) (way : Option (Nat × Nat) := none) : W64 :=
  let d := meshAt dst
  let q := meshAt src
  w64 ((match way with | some w => 2 ^ 17 + w.1 * 2 ^ 18 + w.2 * 2 ^ 25 | none => 0) + d.1 + d.2 * 2 ^ 7 + vc * 2 ^ 14 + q.1 * 2 ^ 32 + q.2 * 2 ^ 39 + n * 2 ^ 46 + i * 2 ^ 50)

/-- The answer to a message of a peer module, from core `at_` to its core `to_`: cause 0 acknowledges (R290, R342). -/
def State.peerAnswer (s : State) (port to_ at_ num cause : Nat) : State :=
  (s.peerSend port
    { id := s.nextId, pmod := (s.linkAt port).rmod, vc := 1, core := at_, cmd := num,
      flits := [flitHeader at_ to_ 1 1 0 :: Config.peerReply num cause] }).bump

/-- The eight words of a 64-byte line. -/
def lineWords64 (v : Nat) : List W64 := (List.range 8).map fun k => w64 (bits v (64 * k + 63) (64 * k))

/-- The host address of an address in host space (R453); none where it names no H site with the port. -/
def State.hostAddr (s : State) (pa : Nat) : Option (Nat × W64) :=
  if siteKind (paSite pa) = .hostLink then some (paSite pa, (s.leatAt (paSite pa)).hbase + w64 (paOff pa)) else none

/-- The WRITE frame of a host write (R453): the words of the line that the mask covers, from the first of them on. -/
def HostWrite.frame (h : HostWrite) : Frame :=
  let ks := (List.range 8).filter fun k => bits h.mask (8 * k + 7) (8 * k) ≠ 0
  let lo := ks.headD 0
  { w0 := w64 (1 + 1 * 2 ^ 4 + (match h.fe with | none => 0 | some true => 1 | some false => 2) * 2 ^ 8 + 8 * ks.length * 2 ^ 16 + h.seq * 2 ^ 32)
    w1 := h.addr + w64 (8 * lo), w2 := 0#64, w3 := 0#64, payload := ks.map fun k => w64 (bits h.data (64 * k + 63) (64 * k)) }

/-- A frame leaves a leat port in the form that MODE selects (R450). -/
def State.leatSend (s : State) (port : Nat) (f : Frame) : State :=
  { s with leatOut := s.leatOut ++ [(port, { f with carrier := Carrier.ofMode (s.leatAt port).mode })] }

/-- A culvert write to host memory leaves through the leat port in the port's own sequence. -/
def State.hostSend (s : State) (pa : Nat) (core cmd : Nat) (flag : Bool) (data mask : Nat) (fe : Option Bool) : State :=
  match s.hostAddr pa with
  | none => s
  | some (port, a) =>
    let p := s.leatAt port
    let h : HostWrite := ⟨s.nextId, port, p.hostSeq, core, cmd, flag, a, data, mask, fe, s.time⟩
    { (s.modLeat port fun p => { p with hostSeq := (p.hostSeq + 1) % 2 ^ 32 }).leatSend port h.frame with
      hostWrites := s.hostWrites ++ [h], nextId := s.nextId + 1 }

/-! ### Completions of the leat (R451, R452) -/

/-- A frame to the host (Table 16-1). -/
def replyFrame (op seq tag status reason : Nat) (payload : List W64) : Frame :=
  { w0 := w64 (1 + op * 2 ^ 4 + 8 * payload.length * 2 ^ 16 + seq * 2 ^ 32), w1 := 0#64, w2 := w64 (tag + status * 2 ^ 32 + reason * 2 ^ 40), w3 := 0#64
    payload := payload }

/-- Whether a SEQ lies in the 256 values below the expected one (R452). -/
def LeatPort.recent (p : LeatPort) (q : Nat) : Bool := decide (q ≠ p.expseq) && decide ((p.expseq + 2 ^ 32 - q) % 2 ^ 32 ≤ 256)

/-- Completions leave in SEQ order: the leading requests whose completions are known are answered, and the answers whose SEQ may still be duplicated are
kept. -/
def State.leatFlush (s : State) (port : Nat) : Nat → State
  | 0 => s
  | fuel + 1 =>
    let p := s.leatAt port
    match p.jobs with
    | [] => s
    | j :: rest => match j.reply with
      | none => s
      | some f =>
        State.leatFlush ((s.modLeat port fun p =>
          { p with jobs := rest, done := ((j.seq, f) :: p.done.filter fun e => decide (e.1 ≠ j.seq)).filter fun e => p.recent e.1 }).leatSend port f) port fuel

/-- The completion of a request is known. -/
def State.leatReply (s : State) (port seq : Nat) (f : Frame) : State :=
  let s := s.modLeat port fun p => { p with jobs := p.jobs.map fun j => if j.seq = seq then { j with reply := some f } else j }
  s.leatFlush port (s.leatAt port).jobs.length

end Sys2Proof.Machine
end

