-- ==== Sys2Proof/Machine/Accum.lean ====
section
/-! DEFINITION. Matrix summation: block results, accumulator elements, and the value a drain takes (spec/03_numbers.md R96 to R103;
spec/08_matrix_engine.md R235 to R239). -/

namespace Sys2Proof
/-- Density of a format (R235). -/
def MFmt.density : MFmt → Nat
  | .b1 => 8 | .e3m2 => 2 | .e2m3 => 2 | .e2m1 => 2 | .s4 => 2
  | .f32 => 1 | .bf16 => 1 | .f16 => 1 | .e4m3 => 1 | .e5m2 => 1 | .c8 => 1 | .s8 => 1

/-- The classes of R97. -/
inductive MClass where
  | scaled | unscaled | integer
  deriving DecidableEq, Repr

def MFmt.cls : MFmt → MClass
  | .f32 => .unscaled | .bf16 => .unscaled | .f16 => .unscaled
  | .e4m3 => .scaled | .e5m2 => .scaled | .c8 => .scaled | .e3m2 => .scaled | .e2m3 => .scaled | .e2m1 => .scaled
  | .s8 => .integer | .s4 => .integer | .b1 => .integer

end Sys2Proof

namespace Sys2Proof.Machine

/-- The MODE of a row a class adds into (R237). -/
def modeOf : MClass → Nat
  | .integer => 2 | .scaled => 1 | .unscaled => 1

/-- round48 with the flags it raises (R96, R238): OF, UF and NX. -/
def round48F (q : Val) : Nat × Flags :=
  let r := round48 q
  match q with
  | .fin _ num _ _ =>
    if num = 0 then (r, 0#6)
    else
      let v := f48Value r
      (r, flagIf v.isInf flagOF ||| flagIf v.isZero flagUF ||| flagIf (v.isInf || Val.cmp v q != .eq) flagNX)
  | _ => (r, 0#6)

/-- NV when a NaN arises from operands that are not NaN (R238). -/
def nvBorn (q : Val) (ops : List Val) : Flags := flagIf (q.isNan && !ops.any Val.isNan) flagNV

/-- round48 of the sum of two f48 codes. -/
def f48AddF (a b : Nat) : Nat × Flags :=
  let x := f48Value a
  let y := f48Value b
  let q := Val.add false x y
  let r := round48F q
  (r.1, r.2 ||| nvBorn q [x, y])

/-- The exact sum of a list of values in order; a sum of zero is -0 only when every term is -0. -/
def exactSum : List Val → Val
  | [] => .zero false
  | v :: vs => vs.foldl (Val.add false) v

/-- NV for products of which one is +infinity and one -infinity: their sum is a NaN of operands that are not. -/
def nvClash (ps : List Val) : Flags := flagIf (ps.contains (.inf false) && ps.contains (.inf true)) flagNV

/-- block_scaled (R98): the exact sum of the products, scaled once. NV is raised by each product that is a NaN of operands that are not, and by a sum
of both infinities, whatever else the block holds (R238; log entry 82). -/
def blockScaled (as ws : List Val) (sA sB : Nat) : Nat × Flags :=
  if !scaleOk sA || !scaleOk sB then (f48Nan, flagNV)
  else
    let ps := List.zipWith Val.mul as ws
    let r := round48F (Val.mul (Val.mul (exactSum ps) (bfValue sA)) (bfValue sB))
    (r.1, (List.zipWith (fun a w => nvBorn (Val.mul a w) [a, w]) as ws).foldl (· ||| ·) (r.2 ||| nvClash ps))

/-- One level of the pairwise tree. -/
def treeLevel : List Nat → List Nat × Flags
  | a :: b :: l =>
    let s := f48AddF a b
    let r := treeLevel l
    (s.1 :: r.1, s.2 ||| r.2)
  | l => (l, 0#6)

/-- n levels of the tree; the root comes first. -/
def treeSum (l : List Nat) : Nat → Nat × Flags
  | 0 => (l.headD 0, 0#6)
  | n + 1 =>
    let r := treeLevel l
    let q := treeSum r.1 n
    (q.1, r.2 ||| q.2)

/-- block_tree (R99): rounded products, summed by the five-level tree. -/
def blockTree (as ws : List Val) : Nat × Flags :=
  let ps := List.zipWith (fun a w => let q := Val.mul a w; let r := round48F q; (r.1, r.2 ||| nvBorn q [a, w])) as ws
  let t := treeSum (ps.map Prod.fst) 5
  (t.1, ps.foldl (fun f p => f ||| p.2) t.2)

/-- group_value (Table 3-7). -/
def groupValue : List Nat → Nat × Flags
  | [] => (0, 0#6)
  | [a] => (a, 0#6)
  | [a, b] => f48AddF a b
  | [a, b, c] =>
    let s := f48AddF a b
    let t := f48AddF s.1 c
    (t.1, s.2 ||| t.2)
  | a :: b :: c :: d :: _ =>
    let s := f48AddF a b
    let t := f48AddF c d
    let u := f48AddF s.1 t.1
    (u.1, s.2 ||| t.2 ||| u.2)

/-- acc_close_group (R100): the first group since the clear gives its own value; nothing happens with no open leaf. -/
def AccEl.close (e : AccEl) : AccEl × Flags :=
  match e.leaves with
  | [] => (e, 0#6)
  | ls =>
    let g := groupValue (ls.map BitVec.toNat)
    if e.val then
      let s := f48AddF e.value.toNat g.1
      ({ e with value := BitVec.ofNat 48 s.1, leaves := [] }, g.2 ||| s.2)
    else ({ e with value := BitVec.ofNat 48 g.1, leaves := [], val := true }, g.2)

/-- acc_add_block (R100). -/
def AccEl.addBlock (e : AccEl) (b : Nat) : AccEl × Flags :=
  let e : AccEl := { e with leaves := e.leaves ++ [BitVec.ofNat 48 b], jm := (e.jm + 1) % 4, mode := 1 }
  if e.jm = 0 then e.close else (e, 0#6)

/-- acc_add_int (R102): the sum clamped to ±(2^47 - 1). -/
def AccEl.addInt (e : AccEl) (x : Int) : AccEl × Flags :=
  let s := e.value.toInt + x
  let lim : Int := 2 ^ 47 - 1
  let c := clampInt (-lim) lim s
  ({ e with value := BitVec.ofInt 48 c, sat := e.sat || c != s, mode := 2 }, flagIf (c != s) flagNS)

/-- The integer a value of an integer format is. -/
def valInt : Val → Int
  | .fin neg num den exp => Val.signed neg (num / den * 2 ^ exp.toNat)
  | _ => 0

/-- The exact integer sum of the products of a block. -/
def blockInt (as ws : List Val) : Int := (List.zipWith (fun a w => valInt a * valInt w) as ws).foldl (· + ·) 0

/-- The value a drain takes from an element whose groups are closed (R237). -/
def AccEl.drainVal (e : AccEl) : Val :=
  if e.mode = 2 then .ofInt e.value.toInt else if e.val then f48Value e.value.toNat else .zero false

/-- One block added into an element, by class. -/
def AccEl.addClass (e : AccEl) (k : MClass) (as ws : List Val) (sA sB : Nat) : AccEl × Flags :=
  match k with
  | .integer => e.addInt (blockInt as ws)
  | .scaled => let b := blockScaled as ws sA sB; let r := e.addBlock b.1; (r.1, b.2 ||| r.2)
  | .unscaled => let b := blockTree as ws; let r := e.addBlock b.1; (r.1, b.2 ||| r.2)

/-- The blocks of a row added into an element in ascending b; `sAs` and `sBs` are its scale pairs. -/
def AccEl.addRow (e : AccEl) (k : MClass) (as ws : List Val) (sAs sBs : List Nat) : Nat → AccEl × Flags
  | 0 => (e, 0#6)
  | n + 1 =>
    let r := e.addClass k (as.take 32) (ws.take 32) (sAs.headD 0) (sBs.headD 0)
    let q := AccEl.addRow r.1 k (as.drop 32) (ws.drop 32) sAs.tail sBs.tail n
    (q.1, r.2 ||| q.2)

/-- Table 8-2 as a number. -/
def AccEl.image (e : AccEl) : Nat :=
  e.value.toNat + packElems 48 (e.leaves.map BitVec.toNat) * 2 ^ 48 + e.leaves.length * 2 ^ 192 + e.jm * 2 ^ 194 + e.mode * 2 ^ 196 +
    e.sat.toNat * 2 ^ 198 + e.val.toNat * 2 ^ 199

/-- An element read back from its image. -/
def AccEl.ofImage (n : Nat) : AccEl :=
  { value := BitVec.ofNat 48 n, leaves := (List.range (bits n 193 192)).map fun i => BitVec.ofNat 48 (n / 2 ^ (48 * (i + 1))),
    jm := bits n 195 194, mode := bits n 197 196, sat := bit n 198, val := bit n 199 }

end Sys2Proof.Machine
end

