-- ==== Sys2Proof/Machine/Header.lean ====
section
/-! DEFINITION. Launch headers and continuation records: their fields, and the memory the part's own units read and write
(spec/01_organisation.md R34 to R38; spec/07_slice_engine.md R216, R231). -/

namespace Sys2Proof.Machine

/-! ### Launch headers (Table 1-6) -/

/-- Bits [hi:lo] of word i of a record or header. -/
def wordBits (ws : List W64) (i hi lo : Nat) : Nat := bits (ws.getD i 0#64).toNat hi lo

def hdrNlev (h : List W64) : Nat := wordBits h 0 10 8
def hdrGlev (h : List W64) : Nat := wordBits h 0 13 11
def hdrKlev (h : List W64) : Nat := wordBits h 0 16 14
def hdrPlace (h : List W64) : Nat := wordBits h 0 18 17
def hdrFold (h : List W64) : Bool := wordBits h 0 19 19 == 1
def hdrQuota (h : List W64) : Nat := wordBits h 0 22 20
def hdrDitch (h : List W64) : Nat := wordBits h 0 31 24
def hdrWidth (h : List W64) (i : Nat) : Nat := wordBits h 1 (6 * i + 5) (6 * i)
def hdrExtent (h : List W64) (i : Nat) : Nat := wordBits h (2 + i / 2) (32 * (i % 2) + 31) (32 * (i % 2))
def hdrEntry (h : List W64) : Nat := wordBits h 5 47 0
def hdrCmap (h : List W64) : Nat := wordBits h 10 47 0

/-- Product of the extents of fields lo to hi − 1. -/
def hdrProduct (h : List W64) (lo hi : Nat) : Nat := ((List.range hi).filter (lo ≤ ·)).foldl (fun n i => n * hdrExtent h i) 1

/-- Groups of a launch, groups of a gang, and items of a group (R38). -/
def hdrGroups (h : List W64) : Nat := hdrProduct h (hdrGlev h) (hdrNlev h)
def hdrGang (h : List W64) : Nat := if hdrKlev h = 0 then 1 else hdrProduct h (hdrGlev h) (hdrKlev h)
def hdrItems (h : List W64) : Nat := hdrProduct h 0 (hdrNlev h)

/-- The lowest bit of field i in a work identifier (R37). -/
def hdrLow (h : List W64) (i : Nat) : Nat := (List.range i).foldl (fun n j => n + hdrWidth h j) 0

/-- Field i of a work identifier. -/
def hdrField (h : List W64) (wid i : Nat) : Nat := wid / 2 ^ hdrLow h i % 2 ^ hdrWidth h i

/-- The mixed-radix value of fields lo to hi − 1 (R38). -/
def hdrRadix (h : List W64) (wid lo hi : Nat) : Nat :=
  ((List.range hi).filter (lo ≤ ·)).foldr (fun i v => hdrField h wid i + hdrExtent h i * v) 0

/-- The group number of a work identifier. -/
def hdrGroup (h : List W64) (wid : Nat) : Nat := hdrRadix h wid (hdrGlev h) (hdrNlev h)

/-- The gang a work identifier belongs to; every group is a gang of one where KLEV is 0. -/
def hdrGangOf (h : List W64) (wid : Nat) : Nat := hdrRadix h wid (if hdrKlev h = 0 then hdrGlev h else hdrKlev h) (hdrNlev h)

/-- The work identifier of item j, in ascending order: the fields are the digits of j, field 0 the least significant. -/
def hdrWid (h : List W64) (j : Nat) : Nat :=
  ((List.range (hdrNlev h)).foldl (fun (x : Nat × Nat) i =>
    (x.1 + x.2 % hdrExtent h i * 2 ^ hdrLow h i, x.2 / hdrExtent h i)) (0, j)).1

/-- An active launch. -/
def State.launchOf (s : State) (b hdr : Nat) : Option Launch := s.launches.find? fun l => decide (l.basin = b) && decide (l.hdr = hdr)

def State.modLaunch (s : State) (b hdr : Nat) (f : Launch → Launch) : State :=
  { s with launches := s.launches.map fun l => if l.basin = b ∧ l.hdr = hdr then f l else l }

/-! ### Continuation records (Table 1-5, R34) -/

def recKind (r : List W64) : Nat := wordBits r 0 3 0
def recState (r : List W64) : Nat := wordBits r 0 7 4
def recPlace (r : List W64) : Nat := wordBits r 0 9 8
def recRadius (r : List W64) : Nat := wordBits r 0 15 10
def recDitch (r : List W64) : Nat := wordBits r 0 23 16
def recWake (r : List W64) : Bool := wordBits r 0 24 24 == 1
def recParg (r : List W64) : Nat := wordBits r 0 63 32
def recHdr (r : List W64) : Nat := (r.getD 7 0#64).toNat

/-- A record with field [hi:lo] of its word 0 replaced. -/
def recSet (r : List W64) (hi lo v : Nat) : List W64 := lset r 0 (w64 (setBits (r.getD 0 0#64).toNat hi lo v))

/-- n words of memory as the part reads them. -/
def State.memWords (s : State) (pa n : Nat) : List W64 :=
  (List.range n).map fun k => w64 (s.mem.read (s.redirect (pa + 8 * k)) 8)

/-- Words the part writes into memory: single-bit errors of theirs are corrected and counted, their poison is cleared, their full/empty bits stay, and those who
wait there are re-tested; a retired home refuses the write (R128, R216, R231; log entry 19). -/
def State.unitWrite (s : State) (pa : Nat) (ws : List W64) : State :=
  if s.retiredHome pa then s
  else
    let names := s.wordsAt pa (8 * ws.length)
    let s := s.correct names
    let m := (List.range ws.length).foldl (fun (m : Memory) k => m.write (s.redirect (pa + 8 * k)) (ws.getD k 0#64).toNat 0 8) s.mem
    ({ s with mem := names.foldl (fun m w => if m.poisoned w then m.setErr w none else m) m } : State).retestAll names

/-- A part of memory rewritten by a unit: those who wait at a word of it are re-tested (R128). -/
def State.areaWrite (s : State) (a n : Nat) (f : Memory → Memory) : State :=
  let t : State := { s with mem := f s.mem }
  t.retestAll ((t.waitWords fun _ => true).filter fun w => decide (a ≤ 8 * w) && decide (8 * w < a + n))

/-- The words of a launch header: as read when the launch was accepted, else as memory holds them. -/
def State.hdrWords (s : State) (b hdr : Nat) : List W64 :=
  match s.launchOf b hdr with
  | some l => l.words
  | none => s.memWords hdr 16

/-- The group of a record (R38). -/
def State.recGroup (s : State) (b : Nat) (r : List W64) : Group := ⟨recHdr r, hdrGroup (s.hdrWords b (recHdr r)) (r.getD 1 0#64).toNat⟩

/-- The records of the suspended continuations of a basin: those in ditches, those on their way to one, those of a group being swapped out, and those that wait
in their images for a join (R161, R398, R400). -/
def State.awayRecs (s : State) (b : Nat) : List (List W64) :=
  (((s.basinAt b).ditches.flatMap fun d => d.2.recs.map fun x => s.memWords x 8) ++
      ((s.appends.filter fun a => decide (a.basin = b)).flatMap Append.recs) ++
      ((s.cores.filter fun e => decide (coreBasin e.1 = b)).flatMap fun e => match e.2.swap with | some j => j.recs.map Prod.snd | none => []) ++
      ((s.armedImgs.filter fun i => decide (coreBasin (homePos (s.redirect i)) = b)).map fun i => s.memWords (i + 0x4C0) 8)).filter fun r =>
    recKind r == 1 && recState r == 1

end Sys2Proof.Machine
end

