-- ==== Sys2Proof/Machine/Matrix.lean ====
section
/-! DEFINITION. The matrix engine: arrival, start and completion of its commands, tile tasks, faults and their control, and its part of
the save area (spec/08_matrix_engine.md R234 to R268). -/

namespace Sys2Proof.Machine

/-! ### Fields of a command (Table 8-6) -/

def Cmd.lw (c : Cmd) (hi lo : Nat) : Nat := bits c.l.toNat hi lo
def Cmd.rw (c : Cmd) (hi lo : Nat) : Nat := bits c.r.toNat hi lo
def Cmd.addr (c : Cmd) : Nat := c.lw 47 0
def Cmd.pitch (c : Cmd) : Nat := c.lw 95 64
def Cmd.nrow (c : Cmd) : Nat := c.rw 15 8
def Cmd.arow (c : Cmd) : Nat := c.rw 23 16
def Cmd.saddr (c : Cmd) : Nat := c.rw 95 48
def Cmd.fa (c : Cmd) : Option MFmt := MFmt.ofCode (bits c.mfmt.toNat 3 0)
def Cmd.fb (c : Cmd) : Option MFmt := MFmt.ofCode (bits c.mfmt.toNat 7 4)
def Cmd.fo (c : Cmd) : Option MFmt := MFmt.ofCode (bits c.mfmt.toNat 11 8)
def Cmd.rm (c : Cmd) : RMode := c.fpc.setWidth 2
def Cmd.satBit (c : Cmd) : Bool := c.fpc.getLsbD 2
def Cmd.nanmBit (c : Cmd) : Bool := c.nanm.getLsbD 0
def uscOf (w : W64) : Nat := bits w.toNat 15 0
def pbsOf (w : W64) : Bool := w.getLsbD 16

/-- The rows a virtual core may name, and where they begin (R265). -/
def State.foldRows (s : State) (core : Nat) : Nat := (s.coreAt core).share 64
def State.foldBase (s : State) (core : Nat) (g : Group) : Nat :=
  let k := s.coreAt core
  if k.foldK < 2 then 0 else k.foldIndex g * k.share 64

/-- A tag number a command may name (R268). -/
def State.tagOk (s : State) (c : Cmd) : Bool := decide (c.rw 5 0 < (s.coreAt c.core).share 64)

/-- The checks of R244 and of the form's own limits; q is the number of rows the issuer may name. -/
def Cmd.matFields (c : Cmd) (q : Nat) : Bool :=
  let clean := c.lw 63 48 == 0 && c.lw 127 96 == 0 && c.rw 7 6 == 0 && c.rw 31 24 == 0 && c.rw 127 96 == 0
  let rows := decide (c.arow + c.nrow ≤ q) && decide (c.nrow ≤ 64)
  let noRows := c.nrow == 0 && c.arow == 0
  let noScale := c.rw 47 32 == 0
  let noSaddr := c.saddr == 0
  let a8 := c.addr % 8 == 0 && c.pitch % 8 == 0
  clean && match c.kind with
    | .mls => a8 && noRows && noScale && c.saddr % 8 == 0
    | .mlsc => c.addr % 2 == 0 && c.pitch == 0 && noRows && noScale && c.saddr % 8 == 0
    | .mswap => c.lw 127 0 == 0 && noRows && noScale && noSaddr
    | .mstream => a8 && rows && decide (1 ≤ c.nrow) && noScale && c.saddr % 8 == 0
    | .mstreama => a8 && rows && decide (1 ≤ c.nrow) && noScale && c.saddr % 8 == 0
    | .mzero => c.lw 127 0 == 0 && rows && noScale && noSaddr
    | .mdrain => a8 && rows && decide (1 ≤ c.nrow) && noSaddr
    | .mdrainn => a8 && rows && decide (1 ≤ c.nrow) && noSaddr
    | .mtask => c.addr % 64 == 0 && c.pitch == 0 && noRows && noScale && noSaddr
    | _ => false

/-- KT of a pair (R235). -/
def ktOf (rows : Nat) (fa fb : MFmt) : Nat := rows * min fa.density fb.density

/-! ### Destination lines -/

/-- The lines of n bytes `v` at an address, as line writes of a row. -/
def rowPieces (va n v row : Nat) (fe : Option Bool) : List LineWrite :=
  (spanLines va n).map fun a =>
    let lo := va - a
    let skip := a - va
    let k := min (n - skip) (64 - lo)
    { va := a, line := 0, data := v / 2 ^ (8 * skip) % 2 ^ (8 * k) * 2 ^ (8 * lo), mask := (2 ^ k - 1) * 2 ^ lo, fe := fe, row := row }

/-- The line writes of a drain, row by row in ascending address, with no data yet (R251). -/
def Cmd.drainSpans (c : Cmd) : List LineWrite :=
  match c.fo with
  | none => []
  | some fo => ((List.range c.nrow).drop (c.row.getD 0)).flatMap fun m => rowPieces (c.addr + m * c.pitch) (8 * fo.width) 0 m none

/-- The lines of a drain aimed, and an ownership request sent in ascending address order for each not yet asked for (R131). -/
def State.planDrain (s : State) (c : Cmd) : List LineWrite × State :=
  let r := s.aimLines c.sp c.drainSpans
  (r.1, r.2.askLines c (r.1.mergeSort fun a b => decide (a.va ≤ b.va)))

/-- Ownership requests of a drain at its issue. -/
def State.askDrain (s : State) (c : Cmd) : State := if c.matFields (s.foldRows c.core) then (s.planDrain c).2 else s

/-! ### Faults (R260, R261) -/

/-- Release the lines of every queued direct command of a core's matrix engine. -/
def State.releaseQueued (s : State) (core : Nat) : State :=
  (s.matAt core).intake.foldl (fun s c => s.releaseLines c.id) s

/-- Exchange the planes with their records (R248). -/
def MatEng.swap (m : MatEng) : MatEng := { m with active := m.shadow, shadow := m.active }

/-- Whether a command that runs or has stopped is a task. -/
def Running.isTask (r : Running) : Bool := decide (r.cmd.kind = .mtask) && decide (r.cmd.desc ≠ [])

/-- A task abandoned between its two swaps leaves the planes as they were before it (log entry 18). -/
def MatEng.unswap (m : MatEng) : MatEng :=
  match m.faulted with
  | some r => if r.isTask && (r.phase = 2 || r.phase = 3) then m.swap else m
  | none => m

/-- The engine halted, with its record of a fault (R260 to R262). -/
def MatEng.haltFor (m : MatEng) (c : Cmd) (isTask : Bool) (cause sub va row : Nat) : MatEng :=
  { m with
    cause := cause, halt := true, faddr := va % 2 ^ 48
    fthread := coreSite c.core + coreNum c.core * 2 ^ 9 + c.slot % 8 * 2 ^ 13
    taskf := isTask || decide (8 ≤ c.slot), ftag := c.faultTag, sub := sub, rowf := min row 64 }

/-- A matrix fault: the command stops, its lines are released, its tag set, the engine halts, and the fault is reported. A second fault, of the other unit or of a
command that arrives, takes the place of the first in the record and for RETRY; a fault that is not of memory has the address of what broke the rule, the task record
or the block, where there is one, else 0 (log entry 81). -/
def State.matFault (s : State) (r : Running) (isTask : Bool) (cause sub va row : Nat) : State :=
  let c := r.cmd
  let m := (s.matAt c.core).unswap
  let other := fun (x : Running) => decide (x.cmd.id ≠ c.id)
  let s := s.setMat c.core
    { m.haltFor c isTask cause sub va row with
      load := m.load.filter other, stream := m.stream.filter other, task := m.task.filter other
      faulted := some { r with todo := [], planned := false, cmd := { c with row := if row = 0 then c.row else some row, feed := [] } } }
  (((s.releaseLines c.id).cmdDone c).releaseQueued c.core).reportFault c cause va sub

/-! ### Loads (R247) -/

/-- The codes of n successive c8 blocks from block k at p on. -/
def fedC8 (k p : Nat) (f : List Nat) : Nat → Fed (List (List Nat) × List Nat)
  | 0 => .ok ([], f)
  | n + 1 => (fedBytes k p 2 f).bind fun h =>
    if c8Len h.1 < 34 then .bad 0x42 p k
    else (fedBytes k (p + 2) (c8Len h.1 - 2) h.2).bind fun v =>
      let w := h.1 + v.1 * 65536
      match c8Decode ((List.range (c8Len h.1)).map fun i => bits w (8 * i + 7) (8 * i)) with
      | none => .bad 0x42 p k
      | some codes => (fedC8 (k + 1) (p + c8Len h.1) v.2 n).bind fun r => .ok (codes :: r.1, r.2)

/-- The rows of a plane as a load reads them. -/
def Cmd.loadRows (c : Cmd) (fb : MFmt) : Fed (List Nat × List Nat) :=
  let rows := matrixRows c.core
  match c.kind with
  | .mlsc => (fedC8 0 c.addr c.feed 64).bind fun r =>
    let h := if rows = 32 && c.v = 1 then 32 else 0
    .ok ((List.range rows).map fun k => packElems 8 (r.1.map fun col => col.getD (h + k) 0), r.2)
  | _ => fedRuns (8 * fb.width) 0 c.feed ((List.range (rows * fb.density)).map fun k => c.addr + k * c.pitch)

/-- A load: the new shadow plane out of the words read. -/
def Cmd.loadPlane (c : Cmd) (fb : MFmt) : Fed Plane :=
  (c.loadRows fb).bind fun r =>
    let ktl := matrixRows c.core * fb.density
    let pbs := pbsOf c.mscb
    let base : Plane := { valid := true, fmt := fb.code, nanm := c.nanmBit, pbs := pbs, usc := uscOf c.mscb, ktl := ktl, elems := r.1 }
    if pbs && fb.cls = .scaled then
      (fedRuns 128 ktl r.2 ((List.range (ktl / 32)).map fun b => c.saddr + 128 * b)).bind fun sc => .ok { base with scales := sc.1 }
    else .ok base

/-! ### Streams (R241, R242, R249) -/

/-- The element keys of a row of the accumulator file. -/
def rowKeys (e : Nat) : List Nat := (List.range 64).map fun n => 64 * e + n

/-- Clear rows of the accumulator file (R237). -/
def clearRows (acc : SMap AccEl) (lo n : Nat) : SMap AccEl := acc.filter fun x => !(decide (64 * lo ≤ x.1) && decide (x.1 < 64 * (lo + n)))

/-- What the groups that a clear closes raise (R100). -/
def clearFlags (acc : SMap AccEl) (lo n : Nat) : Flags :=
  acc.foldl (fun f x => if 64 * lo ≤ x.1 && x.1 < 64 * (lo + n) then f ||| x.2.close.2 else f) 0#6

/-- Clear rows of the engine; the groups that close by it raise their flags. -/
def MatEng.clear (m : MatEng) (lo n : Nat) : MatEng := { m with acc := clearRows m.acc lo n, flg := m.flg ||| clearFlags m.acc lo n }

/-- The checks of a stream at its start, in order: the cause of the first that fails (R241, R249). -/
def State.streamCheck (s : State) (c : Cmd) (adds : Bool) : Option Nat :=
  let m := s.matAt c.core
  match c.fa with
  | none => some 0x40
  | some .c8 => some 0x40
  | some fa =>
    if !m.active.valid then some 0x47
    else match MFmt.ofCode m.active.fmt with
      | none => some 0x47
      | some fb =>
        if fa.cls ≠ fb.cls then some 0x41
        else if (3 ≤ fa.code || 3 ≤ fb.code) && c.nanmBit != m.active.nanm then some 0x43
        else if adds && (List.range c.nrow).any (fun i =>
            let md := (mget m.acc (64 * (c.arow + i + s.foldBase c.core c.grp)) {}).mode
            md != 0 && md != modeOf fa.cls) then some 0x45
        else none

/-- One row of 64 elements streamed into the accumulator. `cols` are the columns of the plane as values. -/
def streamRow (acc : SMap AccEl) (e : Nat) (k : MClass) (as : List Val) (cols : List (List Val)) (sAs : List Nat) (sBs : List (List Nat))
    (nb : Nat) : SMap AccEl × Flags :=
  (List.range 64).foldl (fun r n =>
    let el := (mget r.1 (64 * e + n) {}).addRow k as (cols.getD n []) sAs (sBs.getD n []) nb
    (mset {} r.1 (64 * e + n) el.1, r.2 ||| el.2)) (acc, 0#6)

/-- The words of a streamed row: its run, and its block scales where they are read (R242). -/
def Cmd.streamWords (c : Cmd) (fa : MFmt) (kt : Nat) (k : MClass) (m : Nat) : Fed (Nat × List Nat) :=
  let nb := kt / 32
  (fedBytes m (c.addr + m * c.pitch) (kt * fa.width / 8) c.feed).bind fun r =>
    if k = .scaled && pbsOf c.msca then
      (fedBytes m (c.saddr + 2 * (m * nb)) (2 * nb) r.2).bind fun q => .ok (r.1, (List.range nb).map fun b => packedElem q.1 16 b)
    else .ok (r.1, List.replicate nb (uscOf c.msca))

/-- Row m of a stream added through the active plane: the engine with the row's sums. -/
def MatEng.addRow (e : MatEng) (c : Cmd) (fa fb : MFmt) (kt base m : Nat) (w : Nat × List Nat) : MatEng :=
  let rows := e.active.elems.map fun run => (List.range 64).map fun n => fmtValue (packedElem run fb.width n) fb e.active.nanm
  let cols := (List.range 64).map fun n => (rows.take kt).map fun r => r.getD n (.zero false)
  let sBs := (List.range 64).map fun n =>
    if e.active.pbs then e.active.scales.map fun run => packedElem run 16 n else List.replicate (kt / 32) e.active.usc
  let as := (List.range kt).map fun i => fmtValue (packedElem w.1 fa.width i) fa c.nanmBit
  let r := streamRow e.acc (c.arow + m + base) fa.cls as cols w.2 sBs (kt / 32)
  { e with acc := r.1, flg := e.flg ||| r.2 }

/-! ### Drains (R251) -/

/-- One element drained: its closed state, its code and the flags. -/
def drainEl (el : AccEl) (c : Cmd) (fo : MFmt) : AccEl × Nat × Flags :=
  let cl := el.close
  let v := cl.1.drainVal
  let r := match fo with
    | .f32 => roundFmt v fo c.rm false c.nanmBit
    | .bf16 => roundFmt v fo c.rm false c.nanmBit
    | .f16 => roundFmt v fo c.rm false c.nanmBit
    | _ => narrowScaled v (c.rw 47 32) fo c.rm c.satBit c.nanmBit
  (cl.1, r.1, cl.2 ||| r.2)

/-- One row drained: the accumulator with its groups closed, the run of codes, the flags. -/
def drainRow (acc : SMap AccEl) (e : Nat) (c : Cmd) (fo : MFmt) : SMap AccEl × Nat × Flags :=
  let r := (rowKeys e).foldl (fun (r : SMap AccEl × List Nat × Flags) k =>
    let d := drainEl (mget r.1 k {}) c fo
    (mset {} r.1 k d.1, r.2.1 ++ [d.2.1], r.2.2 ||| d.2.2)) (acc, [], 0#6)
  (r.1, packElems fo.width r.2.1, r.2.2)

/-! ### Saved planes (Tables 8-4, 8-10; R265) -/

def Plane.record (p : Plane) : Nat :=
  p.valid.toNat + p.fmt * 2 + p.nanm.toNat * 2 ^ 5 + p.pbs.toNat * 2 ^ 6 + p.usc * 2 ^ 7 + p.ktl * 2 ^ 23

/-- Words written to memory at an address. -/
def putWords (m : Memory) (a : Nat) : List W64 → Memory
  | [] => m
  | w :: ws => putWords (m.write a w.toNat 0 8) (a + 8) ws

/-- A plane's elements and scales written at their place in a save area. -/
def putPlane (m : Memory) (a : Nat) (p : Plane) : Memory :=
  let w := match MFmt.ofCode p.fmt with | some f => 8 * f.width | none => 8
  let m := m.write a (packElems (8 * w) p.elems) 0 16384
  m.write (a + 16384) (packElems 1024 p.scales) 0 2048

/-- A plane read back from a save area. -/
def getPlane (m : Memory) (rec a : Nat) : Plane :=
  let w := match MFmt.ofCode (bits rec 4 1) with | some f => 8 * f.width | none => 8
  let ktl := bits rec 32 23
  { valid := bit rec 0, fmt := bits rec 4 1, nanm := bit rec 5, pbs := bit rec 6, usc := bits rec 22 7, ktl := ktl,
    elems := (List.range ktl).map fun k => m.read (a + w * k) w,
    scales := if bit rec 6 then (List.range (ktl / 32)).map fun b => m.read (a + 16384 + 128 * b) 128 else [] }

/-- The save area of a group, where one has been taken (R425). -/
def State.saveArea (s : State) (g : Group) : Option Nat := (s.saves.find? fun e => e.1 == g).map Prod.snd

/-- ESAVE of every image of a group: in the slots that hold the group, and in the images its suspended continuations name (R425). -/
def State.noteArea (s : State) (b : Nat) (g : Group) (a : Nat) : State :=
  let s := { s with slots := s.slots.map fun (e : Nat × Slot) =>
    if e.2.busy ∧ e.1 % 8 < 7 ∧ e.2.group = g then (e.1, { e.2 with ctl := { e.2.ctl with esave := w64 a } }) else e }
  ((s.awayRecs b).filter fun r => s.recGroup b r == g).foldl (fun (s : State) (r : List W64) => s.unitWrite ((r.getD 6 0#64).toNat + 0x550) [w64 a]) s

/-- The save area of a group, taken from the pool of its basin where it has none yet, its address noted in every image of the group; none where the pool is empty
(R425). -/
def State.takeArea (s : State) (b : Nat) (g : Group) : Option (Nat × State) :=
  match s.saveArea g with
  | some a => some (a, s)
  | none => match (s.basinAt b).savePool with
    | [] => none
    | a :: rest => some (a, ({ (s.modBasin b fun v => { v with savePool := rest }) with saves := s.saves ++ [(g, a)] } : State).noteArea b g a)

/-- Whether a command of a group finds the planes of another user of a folded core. -/
def State.planesOther (s : State) (core : Nat) (g : Group) : Bool :=
  decide (2 ≤ (s.coreAt core).foldK) && (s.matAt core).user != some g

/-- The planes change user on a folded core (R265): they go to the last user's save area, and the new user's are read, or are clear where it has none. None
while no area is to be had for them. -/
def State.swapPlanes (s : State) (core : Nat) (g : Group) : Option State :=
  let m := s.matAt core
  if !s.planesOther core g then some s
  else
    let saved : Option State := match m.user with
      | none => some s
      | some u => (s.takeArea (coreBasin core) u).map fun x =>
        x.2.areaWrite x.1 0xA000 fun mem =>
          putPlane (putPlane (putWords mem (x.1 + 8) [w64 m.active.record, w64 m.shadow.record]) (x.1 + 0x1000) m.active) (x.1 + 0x5800) m.shadow
    let parked := m.parked.filter (fun x => !(x == g)) ++ m.user.toList
    saved.map fun s => match s.saveArea g, m.parked.contains g with
      | some a, true => s.setMat core
          { m with
            active := getPlane s.mem (s.mem.read (a + 8) 8) (a + 0x1000)
            shadow := getPlane s.mem (s.mem.read (a + 0x10) 8) (a + 0x5800)
            user := some g, parked := parked }
      | _, _ => s.setMat core { m with active := {}, shadow := {}, user := some g, parked := parked }

/-! ### Tile tasks (R253 to R256) -/

/-- Word 0 of a task record (Table 1-5): its kind, the reserved bits, and a radius only where it is hinted. -/
def taskWord (w : W64) (kind : Nat) : Bool :=
  bits w.toNat 3 0 == kind && bits w.toNat 31 25 == 0 && (bits w.toNat 9 8 == 1 || bits w.toNat 15 10 == 0)

/-- Whether the reserved bits of a tile task record are zero and its addresses aligned (Table 8-7, R36). -/
def taskFormed (ws : List W64) : Bool :=
  let w := fun (i hi lo : Nat) => bits (ws.getD i 0#64).toNat hi lo
  w 1 63 48 == 0 && w 2 63 48 == 0 && w 3 63 48 == 0 && w 5 63 48 == 0 && w 6 15 12 == 0 && w 7 63 23 == 0 &&
    w 1 47 0 % (if w 6 7 4 = 5 then 2 else 8) == 0 && w 2 47 0 % 8 == 0 && (w 6 61 61 == 0 || w 3 47 0 % 8 == 0)

/-- Whether a record keeps the field rules of Table 8-7 and the limits of the direct forms; q is the fold share of rows and of tags (R268; log entry
83). -/
def taskFields (ws : List W64) (q tag : Nat) : Bool :=
  let w := fun (i hi lo : Nat) => bits (ws.getD i 0#64).toNat hi lo
  let fb := w 6 7 4
  let streams := fun (f : Nat) => match MFmt.ofCode f with | none => false | some .c8 => false | some _ => true
  let b := if fb = 5 then w 4 31 0 == 0 else w 4 31 0 % 8 == 0
  let a := w 4 63 32 % 8 == 0
  let d := w 6 61 61 == 0 || (w 5 31 0 % 8 == 0 && streams (w 6 11 8))
  let pred := fun (used t : Nat) => used == 0 || (t != tag && decide (t < q))
  let formats := streams (w 6 3 0) && (MFmt.ofCode fb).isSome
  taskFormed ws && b && a && d && formats && pred (w 7 12 12) (w 7 11 6) && pred (w 7 19 19) (w 7 18 13) && decide (w 6 59 54 + w 6 53 48 + 1 ≤ q)

/-- The command of a phase of a task: load, stream or drain. -/
def Cmd.phase (c : Cmd) (k : CmdKind) : Cmd :=
  let w := fun (i hi lo : Nat) => bits (c.desc.getD i 0#64).toNat hi lo
  let rows := (w 6 53 48 + 1) * 2 ^ 8 + w 6 59 54 * 2 ^ 16
  let lr := match k with
    | .mls => (w 1 47 0 + w 4 31 0 * 2 ^ 64, 0)
    | .mlsc => (w 1 47 0, 0)
    | .mdrain => (w 3 47 0 + w 5 31 0 * 2 ^ 64, rows + w 5 47 32 * 2 ^ 32)
    | _ => (w 2 47 0 + w 4 63 32 * 2 ^ 64, rows)
  { c with
    kind := k, v := w 6 63 63, l := BitVec.ofNat 128 lr.1, r := BitVec.ofNat 128 lr.2
    mfmt := w64 (w 6 11 0), msca := w64 (w 6 31 16), mscb := w64 (w 6 47 32), nanm := w64 (w 6 62 62)
    fpc := w64 (w 7 21 20 + w 7 22 22 * 4) }

def Cmd.taskLoad (c : Cmd) : Cmd := c.phase (if bits (c.desc.getD 6 0#64).toNat 7 4 = 5 then .mlsc else .mls)
def Cmd.taskAccum (c : Cmd) : Bool := (c.desc.getD 6 0#64).getLsbD 60
def Cmd.taskDrains (c : Cmd) : Bool := (c.desc.getD 6 0#64).getLsbD 61
def Cmd.taskStream (c : Cmd) : Cmd := c.phase (if c.taskAccum then .mstreama else .mstream)
def Cmd.taskDrain (c : Cmd) : Cmd := c.phase .mdrain

/-- Whether every used predecessor's tag is set; tag numbers are the issuer's. -/
def State.predsSet (s : State) (c : Cmd) (p0 p1 : Option Nat) : Bool :=
  let ok := fun (p : Option Nat) => match p with
    | some t => let n := s.physTag c.core c.grp t; decide (n < 64) && (s.coreAt c.core).tags.getLsbD n
    | none => true
  ok p0 && ok p1

def State.taskReady (s : State) (c : Cmd) : Bool :=
  let w := c.desc.getD 7 0#64
  s.predsSet c (if w.getLsbD 12 then some (bits w.toNat 11 6) else none) (if w.getLsbD 19 then some (bits w.toNat 18 13) else none)

/-! ### Arrival and start (R246, R257) -/

/-- The checks that a command undergoes as it reaches the engine: its fields and limits first, then the formats that a load or a drain names (R241, R244,
R249). -/
def State.matCheck (s : State) (c : Cmd) : Option Nat :=
  let plain := fun (f : Option MFmt) => match f with | none => some 0x40 | some .c8 => some 0x40 | _ => none
  if !s.tagOk c || !c.matFields (s.foldRows c.core) then some 0x44
  else match c.kind with
    | .mls => plain c.fb
    | .mlsc => if c.fb = some .c8 then none else some 0x40
    | .mdrain => plain c.fo
    | .mdrainn => plain c.fo
    | _ => none

/-- MATRIX_INTAKE_ARRIVAL: the first command under way reaches the intake, behind what an earlier copy command of its thread reads first (R283); one that
breaks a rule faults there. -/
def State.matArrive (s : State) (core : Nat) : State :=
  let m := s.matAt core
  match arriveFirst m.intake with
  | none => s
  | some (c, l) =>
    if s.commandHeld core c.slot c.seq c.lsid || s.listUnread core c.slot c.id then s
    else match s.matCheck c with
      | none => (s.setMat core { m with intake := l }).traceCmd c
      | some e => ((s.setMat core { m with intake := l.filter fun x => decide (x.id ≠ c.id) }).traceCmd c).matFault { cmd := c } false e 0 0 0

def execMatrixIntakeArrival (c : Nat) (s : State) : Out := .next (s.matArrive c)

/-- Replace a command of the intake of a core. -/
def State.setIntake (s : State) (core : Nat) (c : Cmd) : State :=
  let m := s.matAt core
  s.setMat core { m with intake := m.intake.map fun x => if x.id = c.id then c else x }

/-- An MTASK at its place in the intake: the record is read word by word and checked, and the task queued (R254). -/
def State.matTask (s : State) (c : Cmd) : State :=
  let out := fun (s : State) => s.setMat c.core { (s.matAt c.core) with intake := (s.matAt c.core).intake.tail }
  if 16 ≤ (s.matAt c.core).tasks.length then s
  else match s.feed c (fedBytes 0 c.addr 64 c.feed) with
    | (.wait, _) => s
    | (.more c, s) => s.setIntake c.core c
    | (.refused e a _, s) => (out s).matFault { cmd := c } false 0x46 e a 0
    | (.bad _ _ _, s) => s
    | (.ok v, s) =>
      let ws := (List.range 8).map fun i => w64 (bits v.1 (64 * i + 63) (64 * i))
      if !taskWord (ws.getD 0 0#64) 2 || !taskFields ws (s.foldRows c.core) (c.rw 5 0) then (out s).matFault { cmd := c } false 0x48 0 c.addr 0
      else if (ws.getD 6 0#64).getLsbD 62 ≠ c.nanmBit then (out s).matFault { cmd := c } false 0x43 0 c.addr 0
      else
        let m := (out s).matAt c.core
        s.setMat c.core { m with tasks := m.tasks ++ [{ c with desc := ws, feed := [] }] }

/-- What a direct command does in the clk in which it starts: the checks, the clear of a stream, and the lines of a drain. -/
def State.matBegin (s : State) (c : Cmd) : State :=
  let r : Running := { cmd := c }
  let m := s.matAt c.core
  match s.matCheck c with
  | some e => s.matFault r false e 0 0 0
  | none => match c.kind with
    | .mls => s.setMat c.core { m with load := some r, shadow := { m.shadow with valid := false } }
    | .mlsc => s.setMat c.core { m with load := some r, shadow := { m.shadow with valid := false } }
    | .mswap => s.setMat c.core { m with load := some r }
    | .mzero => s.setMat c.core { m with stream := some r }
    | .mdrain => let p := s.planDrain c; p.2.setMat c.core { (p.2.matAt c.core) with stream := some { r with todo := p.1 } }
    | .mdrainn => let p := s.planDrain c; p.2.setMat c.core { (p.2.matAt c.core) with stream := some { r with todo := p.1 } }
    | k =>
      let adds := k == .mstreama || c.row.isSome
      match s.streamCheck c adds with
      | some e => s.matFault r false e 0 0 0
      | none =>
        let m := if adds then m else m.clear (c.arow + s.foldBase c.core c.grp) c.nrow
        s.setMat c.core { m with stream := some { r with cmd := { c with row := some (c.row.getD 0) } } }

/-- Which commands the load unit runs. -/
def CmdKind.onLoad : CmdKind → Bool
  | .mls => true | .mlsc => true | _ => false

/-- MATRIX_COMMAND_START: the intake head starts when its unit, or for MSWAP and MTASK both, is idle, no task runs, the engine is not halted,
and its thread's earlier accesses have performed (R130, R257). On a folded core a command of another user than the planes' last waits for both units, and
the planes change hands with its start (R265). -/
def State.matStart (s : State) (core : Nat) : State :=
  let m := s.matAt core
  match m.intake with
  | [] => s
  | c :: rest =>
    let swapping := match m.load with | some r => r.cmd.kind == .mswap | none => false
    let both := m.load.isNone && m.stream.isNone
    let free := match c.kind with
      | .mswap => both
      | .mtask => both
      | k => !swapping && (if k.onLoad then m.load.isNone else m.stream.isNone)
    if !c.arrived || m.halt || m.task.isSome || !free || (s.planesOther core c.grp && !both) || !s.threadDone c then s
    else if c.kind = .mtask && (s.matCheck c).isNone then s.matTask c
    else match s.swapPlanes core c.grp with
      | none => s
      | some s => (s.setMat core { (s.matAt core) with intake := rest }).matBegin c

def execMatrixCommandStart (c : Nat) (s : State) : Out := .next (s.matStart c)

/-! ### Completion (R259) -/

/-- What one advance of a running command gives: it goes on with a new standing, it is complete, or it faults. -/
inductive Adv where
  | stay (r : Running)
  | done
  | bad (cause sub va row : Nat)

/-- Advance a load by a word, or complete it. -/
def State.advLoad (s : State) (r : Running) : Adv × State :=
  let c := r.cmd
  let spoilt := fun (s : State) => s.setMat c.core { (s.matAt c.core) with shadow := {} }
  match c.fb with
  | none => (.bad 0x40 0 0 0, s)
  | some fb => match s.feed c (c.loadPlane fb) with
    | (.wait, s) => (.stay r, s)
    | (.more c, s) => (.stay { r with cmd := c }, s)
    | (.refused e a row, s) => (.bad 0x46 e a row, spoilt s)
    | (.bad e a row, s) => (.bad e 0 a row, spoilt s)
    | (.ok p, s) => (.done, s.setMat c.core { (s.matAt c.core) with shadow := p })

/-- Advance a stream: a word is read, or a row whose words are all read is added (R249). -/
def State.advStream (s : State) (r : Running) : Adv × State :=
  let c := r.cmd
  let m := c.row.getD 0
  match c.fa, MFmt.ofCode (s.matAt c.core).active.fmt with
  | some fa, some fb =>
    if c.nrow ≤ m then (.done, s)
    else
      let kt := ktOf (matrixRows c.core) fa fb
      match s.feed c (c.streamWords fa kt fa.cls m) with
      | (.wait, s) => (.stay r, s)
      | (.more c, s) => (.stay { r with cmd := c }, s)
      | (.refused e a row, s) => (.bad 0x46 e a row, s)
      | (.bad e a row, s) => (.bad e 0 a row, s)
      | (.ok w, s) =>
        let s := s.setMat c.core ((s.matAt c.core).addRow c fa fb kt (s.foldBase c.core c.grp) m w)
        if c.nrow ≤ m + 1 then (.done, s) else (.stay { r with cmd := { c with row := some (m + 1), feed := [] } }, s)
  | _, _ => (.done, s)

/-- The row at the head of a drain's lines is drained: its groups close, its flags are raised, and its lines have their bytes (R251). -/
def State.drainHead (s : State) (r : Running) (fo : MFmt) (row : Nat) : Running × State :=
  let c := r.cmd
  let m := s.matAt c.core
  let d := drainRow m.acc (c.arow + row + s.foldBase c.core c.grp) c fo
  let data := rowPieces (c.addr + row * c.pitch) (8 * fo.width) d.2.1 row none
  let fill := fun (lw : LineWrite) => match data.find? fun p => decide (lw.row = row) && decide (p.va = lw.va) with
    | some p => { lw with data := p.data }
    | none => lw
  ({ r with todo := r.todo.map fill, planned := true }, s.setMat c.core { m with acc := d.1, flg := m.flg ||| d.2.2 })

/-- MDRAIN clears a row after its last write performs. -/
def State.rowDone (s : State) (c : Cmd) (row : Nat) : State :=
  if c.kind = .mdrainn then s
  else
    let m := s.matAt c.core
    s.setMat c.core { m with acc := clearRows m.acc (c.arow + row + s.foldBase c.core c.grp) 1 }

/-- Advance a drain: its rows in ascending order, one line at a time, 16 bytes an event. -/
def State.advDrain (s : State) (r : Running) : Adv × State :=
  let c := r.cmd
  match c.fo, r.todo with
  | none, _ => (.bad 0x40 0 0 0, s)
  | _, [] => (.done, s)
  | some fo, lw :: rest =>
    if !r.planned then let q := s.drainHead r fo lw.row; (.stay q.1, q.2)
    else match lw.bad with
      | some e => (.bad 0x46 e (lw.va + firstByte lw.mask) lw.row, s)
      | none =>
        if !s.lineReady c.id lw then (.stay r, s)
        else match s.writePiece c.id lw (writesAgain lw.line rest) with
          | (.error e, s) => (.bad 0x46 e.1 e.2 lw.row, s)
          | (.ok l, s) =>
            if l.mask ≠ 0 then (.stay { r with todo := l :: rest }, s)
            else
              let ends := rest.all fun x => decide (x.row ≠ lw.row)
              let s := if ends then s.rowDone c lw.row else s
              if rest.isEmpty then (.done, s) else (.stay { r with todo := rest, planned := !ends }, s)

/-- Advance a direct command of a unit. -/
def State.advDirect (s : State) (r : Running) : Adv × State :=
  let c := r.cmd
  match c.kind with
  | .mls => s.advLoad r
  | .mlsc => s.advLoad r
  | .mswap => (.done, s.setMat c.core (s.matAt c.core).swap)
  | .mstream => s.advStream r
  | .mstreama => s.advStream r
  | .mzero =>
    let m := (s.matAt c.core).clear (c.arow + s.foldBase c.core c.grp) c.nrow
    (.done, s.setMat c.core { m with flg := if c.v = 1 then 0#6 else m.flg })
  | _ => s.advDrain r

/-- What a task makes of the advance of its phase: it keeps how far the phase has come, goes on to the next, or faults. -/
def Running.inPhase (r : Running) (next : Nat) (a : Adv) : Adv :=
  match a with
  | .stay q => .stay { r with todo := q.todo, planned := q.planned, cmd := { r.cmd with feed := q.cmd.feed, row := q.cmd.row } }
  | .done => .stay { r with phase := next, todo := [], planned := false, cmd := { r.cmd with row := none, feed := [] } }
  | .bad a b d e => .bad a b d e

/-- Advance a task (R256): load, swap, stream, drain, swap. -/
def State.advTask (s : State) (r : Running) : Adv × State :=
  let c := r.cmd
  match r.phase with
  | 0 =>
    let q := s.advLoad { r with cmd := { c.taskLoad with row := none } }
    (r.inPhase 1 q.1, q.2)
  | 1 => (r.inPhase 2 .done, s.setMat c.core (s.matAt c.core).swap)
  | 2 =>
    let d := c.taskStream
    if c.row.isNone then
      match s.streamCheck d c.taskAccum with
      | some e => (.bad e 0 0 0, s)
      | none =>
        let m := s.matAt c.core
        let m := if c.taskAccum then m else m.clear (d.arow + s.foldBase c.core c.grp) d.nrow
        (.stay { r with cmd := { c with row := some 0 } }, s.setMat c.core m)
    else
      let q := s.advStream { r with cmd := { d with row := c.row } }
      (r.inPhase (if c.taskDrains then 3 else 4) q.1, q.2)
  | 3 =>
    let d := { c.taskDrain with row := c.row }
    if r.todo.isEmpty then let p := s.planDrain d; (.stay { r with todo := p.1, planned := false }, p.2)
    else let q := s.advDrain { r with cmd := d }; (r.inPhase 4 q.1, q.2)
  | _ => (.done, s.setMat c.core (s.matAt c.core).swap)

/-- MATRIX_COMMAND_COMPLETE: the command of a unit (0 load, 1 stream, 2 task) goes on by one word, row or write, and completes or
faults when it is at its end. -/
def State.matComplete (s : State) (core u : Nat) : State :=
  let m := s.matAt core
  let put := fun (m : MatEng) (r : Option Running) =>
    if u = 0 then { m with load := r } else if u = 1 then { m with stream := r } else { m with task := r }
  match (if u = 0 then m.load else if u = 1 then m.stream else m.task) with
  | none => s
  | some r => match (if u = 2 then s.advTask r else s.advDirect r) with
    | (.stay r, s) => s.setMat core (put (s.matAt core) (some r))
    | (.done, s) => (s.setMat core (put (s.matAt core) none)).cmdDone r.cmd
    | (.bad a b d e, s) => s.matFault r (u == 2) a b d e

def execMatrixCommandComplete (c u : Nat) (s : State) : Out := .next (s.matComplete c u)

/-- A task taken from a ditch runs for the group that owns the engines, under its space (R255, R296). -/
def State.taskOwned (s : State) (c : Cmd) : Cmd :=
  let k := s.coreAt c.core
  match c.ditch, k.owner with
  | true, some g => { c with grp := g, sp := { c.sp with asn := k.ownSp.1, root := k.ownSp.2 } }
  | _, _ => c

/-- MATRIX_TASK_START: the oldest ready task starts when the intake holds no direct command and both units are idle; its load clears the shadow plane, and its drain
lines are asked for now (R256, R259). -/
def State.matTaskStart (s : State) (core : Nat) : State :=
  let m := s.matAt core
  if m.halt || (m.intake.any fun c => c.arrived) || m.load.isSome || m.stream.isSome || m.task.isSome then s
  else match m.tasks.find? s.taskReady with
    | none => s
    | some t => match s.swapPlanes core (s.taskOwned t).grp with
      | none => s
      | some s =>
        let m := s.matAt core
        let c := { s.taskOwned t with id := s.nextId, row := none, feed := [] }
        let s := (s.setMat core { m with tasks := m.tasks.erase t, task := some { cmd := c }, shadow := { m.shadow with valid := false } }).bump
        if c.taskDrains then s.askDrain { c.taskDrain with id := c.id } else s

def execMatrixTaskStart (c : Nat) (s : State) : Out := .next (s.matTaskStart c)

/-! ### Control of a halted engine (R262) -/

/-- RETRY: the faulted command is rerun from its row with its sampled values, its tag counted again, whatever its count (log entry 81). It takes back the
entry it has held. -/
def State.matRetry (s : State) (core : Nat) : State :=
  let m := s.matAt core
  if !m.halt then s
  else match m.faulted with
    | none => s.setMat core { m with halt := false }
    | some r =>
      let s := s.tagUp core r.cmd.tag
      let load := r.cmd.kind.onLoad
      if r.isTask then s.setMat core { m with halt := false, faulted := none, task := some r }
      else s.setMat core
        { m with
          halt := false, faulted := none
          intake := { r.cmd with arrived := true, feed := [], row := if load then none else r.cmd.row } :: m.intake }

/-- SKIP: the faulted command is abandoned. -/
def State.matSkip (s : State) (core : Nat) : State :=
  let m := s.matAt core
  if !m.halt then s else s.setMat core { m.unswap with halt := false, faulted := none }

/-- FLUSH: every queued command and task is abandoned too, each complete for its tag. -/
def State.matFlush (s : State) (core : Nat) : State :=
  let m := s.matAt core
  if !m.halt then s
  else
    let gone := m.intake ++ m.tasks
    gone.foldl (fun s c => (s.releaseLines c.id).cmdDone c)
      (s.setMat core { m.unswap with halt := false, faulted := none, intake := [], tasks := [] })

def execMatrixRetry (c : Nat) (s : State) : Out := .next (s.matRetry c)
def execMatrixSkip (c : Nat) (s : State) : Out := .next (s.matSkip c)
def execMatrixFlush (c : Nat) (s : State) : Out := .next (s.matFlush c)

/-- A ditch tile task taken into the queue of a core (R255): one that breaks a rule raises 0x48 and counts no tag; the task that runs goes on, and a command halted
before stays the one that RETRY reruns (R256). The answer says whether the record was taken. -/
def State.matTake (s : State) (core : Nat) (ws : List W64) (c : Cmd) : Bool × State :=
  let m := s.matAt core
  let tag := bits (ws.getD 7 0#64).toNat 5 0
  if (s.coreAt core).foldK ≥ 2 || 16 ≤ m.tasks.length then (false, s)
  else if !taskFields ws 64 tag then
    let c := { c with tag := 64, r := BitVec.ofNat 128 tag, desc := ws }
    (true, ((s.setMat core (m.haltFor c true 0x48 0 0 0)).releaseQueued core).reportFault c 0x48 0 0)
  else if !s.tagRoom core [tag] then (false, s)
  else (true, (s.setMat core { m with tasks := m.tasks ++ [{ c with tag := tag, desc := ws, ditch := true }] }).tagUp core tag)

/-- The next source word that a running command of the matrix engine needs. -/
def State.matReads (s : State) (r : Running) (isTask : Bool) : Fed Unit :=
  let words := fun (c : Cmd) => match c.kind with
    | .mls => (match c.fb with | some fb => (c.loadPlane fb).bind fun _ => .ok () | none => .ok ())
    | .mlsc => (match c.fb with | some fb => (c.loadPlane fb).bind fun _ => .ok () | none => .ok ())
    | .mstream => stream c
    | .mstreama => stream c
    | _ => .ok ()
  if !isTask then words r.cmd
  else match r.phase with
    | 0 => words { r.cmd.taskLoad with feed := r.cmd.feed }
    | 2 => if r.cmd.row.isNone then .ok () else words { r.cmd.taskStream with row := r.cmd.row, feed := r.cmd.feed }
    | _ => .ok ()
where
  stream (c : Cmd) : Fed Unit :=
    match c.fa, MFmt.ofCode (s.matAt c.core).active.fmt with
    | some fa, some fb => (c.streamWords fa (ktOf (matrixRows c.core) fa fb) fa.cls (c.row.getD 0)).bind fun _ => .ok ()
    | _, _ => .ok ()

end Sys2Proof.Machine
end

