-- ==== Sys2Proof/Machine/Copy.lean ====
section
/-! DEFINITION. The copy engine: arrival, start, line writes and completion of its commands, culverts and the page handover, copy tasks, faults
(spec/09_copy_engine.md R274 to R299). -/

namespace Sys2Proof.Machine

/-! ### Fields (Tables 9-2, 9-3, 9-4) -/

def Cmd.src (c : Cmd) : Nat := c.lw 47 0
def Cmd.dst (c : Cmd) : Nat := c.lw 111 64
def Cmd.len (c : Cmd) : Nat := c.rw 31 8
def Cmd.rows (c : Cmd) : Nat := c.rw 47 32
def Cmd.xarg (c : Cmd) : Nat := c.rw 127 64
def Cmd.sf (c : Cmd) : Nat := bits c.xarg 3 0
def Cmd.df (c : Cmd) : Nat := bits c.xarg 7 4
def Cmd.dw (c : Cmd) (i hi lo : Nat) : Nat := bits (c.desc.getD i 0#64).toNat hi lo

/-- Forms that use NROW. -/
def CmdKind.useRows : CmdKind → Bool
  | .cpy2 => true | .gath => true | .scat => true | _ => false

/-- Forms whose operand is the address of a descriptor or record. -/
def CmdKind.isDesc : CmdKind → Bool
  | .culv => true | .pghand => true | .ctask => true | _ => false

/-- Culvert transfers. -/
def CmdKind.isCulvert : CmdKind → Bool
  | .culv => true | .pghand => true | _ => false

/-- An address moved by a signed offset, mod 2^64. -/
def moved (a : Nat) (d : Int) : Nat := (((a : Int) + d) % (2 ^ 64 : Int)).toNat

/-- The field rules of Tables 9-2 and 9-3, and of R288 and R295 for the operand of a descriptor or record (0x50). -/
def Cmd.copyFields (c : Cmd) : Bool :=
  if c.kind.isDesc then c.lw 127 48 == 0 && c.rw 127 6 == 0 && c.src % 64 == 0
  else
    c.lw 63 48 == 0 && c.lw 127 112 == 0 && c.rw 7 6 == 0 && c.rw 63 48 == 0 && c.src % 8 == 0 && c.dst % 8 == 0 &&
      (c.kind.useRows || c.rows == 0) && (c.kind == .cpycv || c.len % 8 == 0) && match c.kind with
      | .cpy1 => c.xarg == 0
      | .cpy2 => bits c.xarg 2 0 == 0 && bits c.xarg 34 32 == 0
      | .gath => bits c.xarg 63 48 == 0 && c.xarg % 4 == 0 && decide (8 ≤ c.len) && decide (c.len ≤ 4096)
      | .scat => bits c.xarg 63 48 == 0 && c.xarg % 4 == 0 && decide (8 ≤ c.len) && decide (c.len ≤ 4096)
      | .fill => c.src == 0
      | .cpycv => bits c.xarg 31 25 == 0 && bits c.xarg 32 32 == 0
      | .cpymc => bits c.xarg 63 16 == 0 && decide (c.dst < 2 ^ 22)
      | _ => false

/-- Formats narrow_scaled and widen_scaled convert (R281). -/
def narrowFmt (f : Nat) : Bool := f == 3 || f == 4 || (decide (6 ≤ f) && decide (f ≤ 11))

/-- A pair of formats CPYCV converts. -/
def cvPair (sf df : Nat) : Bool := sf != df && ((decide (sf < 3) && (decide (df < 3) || narrowFmt df)) || (narrowFmt sf && decide (df < 3)))

/-- Whether the element count fits whole bytes of both formats. -/
def cvLen (n : Nat) (sf df : MFmt) : Bool :=
  n * sf.width % 8 == 0 && n * df.width % 8 == 0 && ((sf.width != 6 && df.width != 6) || n % 4 == 0)

/-- The field rules of a culvert descriptor (Table 9-4). -/
def Cmd.culvFields (c : Cmd) : Bool :=
  let sp := c.dw 1 47 46
  c.dw 0 63 48 == 0 && c.dw 0 2 0 == 0 && c.dw 1 2 0 == 0 && (sp == 2 || c.dw 1 63 48 == 0) && c.dw 2 63 32 == 0 && c.dw 3 63 48 == 0 &&
    c.dw 3 2 0 == 0 && c.dw 5 63 48 == 0 && c.dw 7 63 0 == 0 && (c.dw 3 47 0 == 0 || c.dw 3 47 46 == sp) &&
    if c.kind = .pghand then
      c.dw 2 5 0 == 0 && decide (64 ≤ c.dw 2 31 0) && decide (c.dw 2 31 0 ≤ 0x100000) && c.dw 3 47 0 != 0 && c.dw 5 2 0 == 0
    else c.dw 2 2 0 == 0 && decide (c.dw 2 31 0 ≤ 0x1000000) && c.dw 5 47 0 == 0 && c.dw 6 63 0 == 0

def Cmd.culvSrc (c : Cmd) : Nat := c.dw 0 47 0
def Cmd.culvDst (c : Cmd) : Nat := c.dw 1 47 0
def Cmd.culvPeer (c : Cmd) : Nat := c.dw 1 63 48
def Cmd.culvLen (c : Cmd) : Nat := c.dw 2 31 0
def Cmd.culvFlag (c : Cmd) : Nat := c.dw 3 47 0

/-- The end of the memory of a site (R289). -/
def siteMemEnd (n : Nat) : Nat :=
  match siteKind n with
  | .prompt => 15 * 2 ^ 22 + 2 ^ 21
  | .token => 16 * 2 ^ 22
  | .memory => 0x18000000
  | _ => 0

/-- Whether a culvert may aim at a range of n bytes, an empty one too: at a site that holds memory, within it, and reachable; a peer module is reached
through the site of its port (R289, R453, R456). -/
def State.culvReach (s : State) (c : Cmd) (pa n : Nat) : Bool :=
  let src := coreSite c.core
  let within := siteMemEnd (paSite pa) != 0 && decide (paOff pa + n ≤ siteMemEnd (paSite pa))
  match paSpace pa with
  | 0 => within && s.reachable src (paSite pa)
  | 1 => siteKind (paSite pa) == .hostLink && decide (paOff pa + n ≤ 2 ^ 37) && s.reachable src (paSite pa)
  | 2 => within && match s.peerPort (coreBasin c.core) c.culvPeer with
    | some p => s.reachable src (portSite p)
    | none => false
  | _ => false

/-! ### Destination lines -/

def Cmd.dpitch (c : Cmd) : Int := sext (bits c.xarg 63 32) 32
def Cmd.spitch (c : Cmd) : Int := sext (bits c.xarg 31 0) 32

/-- Bytes of a CPYCV destination. -/
def Cmd.cvBytes (c : Cmd) : Nat := match MFmt.ofCode c.df with | some f => c.len * f.width / 8 | none => 0

/-- The rows of a command: rows, elements, or target cores, in the order in which they are written. -/
def Cmd.copyRows (c : Cmd) : List Nat :=
  if c.kind.useRows then List.range c.rows
  else if c.kind = .cpymc then (List.range 16).filter fun k => bit c.xarg k
  else [0]

/-- Where row i is written: its address and its bytes (R278, R279, R281, R282). A multicast and a culvert name physical addresses. -/
def Cmd.rowSpan (c : Cmd) (i : Nat) : Nat × Nat :=
  match c.kind with
  | .cpycv => (c.dst, c.cvBytes)
  | .gath => (moved c.dst (i * c.len : Nat), c.len)
  | .cpy2 => (moved c.dst ((i : Int) * c.dpitch), c.len)
  | .scat => (moved c.dst (c.idx.getD i 0 * c.len : Nat), c.len)
  | .cpymc => (slicePa (coreOf (coreSite c.core) i) + c.dst, c.len)
  | .culv => (c.culvDst, c.culvLen)
  | .pghand => (c.culvDst, c.culvLen)
  | _ => (c.dst, c.len)

/-- Where a home on the wafer stands towards a culvert or multicast write (R202 to R204, R292). -/
def State.waferRefuse (s : State) (pa : Nat) : Option Nat :=
  let b := basinOf (paSite pa)
  match s.place b pa with
  | .refused e => some e
  | .config _ _ => some 0x31
  | _ => if s.inSump b pa then some 0x3B else none

/-- A line of a multicast or a culvert, physical. One that leaves the module has no home in the part; a multicast's runs past its slice with the cause 0x31. -/
def State.aimPhysical (s : State) (c : Cmd) (lw : LineWrite) : LineWrite :=
  if c.kind.isCulvert && paSpace lw.va ≠ 0 then lw
  else
    let past := c.kind = .cpymc && decide (sliceBytes (coreOf (coreSite c.core) lw.row) ≤ lw.va - slicePa (coreOf (coreSite c.core) lw.row))
    let pa := s.redirect lw.va
    { lw with line := lineOf pa, bad := if past then some 0x31 else s.waferRefuse pa }

/-- The lines a command writes, row by row, in the order in which their data arrives, with where they lead; a multicast's lines go target by target for each line of
its source. -/
def State.copyLines (s : State) (c : Cmd) (fe : Option Bool) : List LineWrite × State :=
  let ls := c.copyRows.map fun i => rowPieces (c.rowSpan i).1 (c.rowSpan i).2 0 i fe
  match c.kind with
  | .cpymc => (((List.range ((ls.headD []).length)).flatMap fun n => ls.filterMap fun l => l[n]?).map (s.aimPhysical c), s)
  | .ctask => ([], s)
  | k => if k.isCulvert then (ls.flatten.map (s.aimPhysical c), s) else s.aimLines c.sp ls.flatten

/-- Whether a line of a culvert leaves the module. -/
def Cmd.offWafer (c : Cmd) : Bool := c.kind.isCulvert && paSpace c.culvDst ≠ 0

/-- An ownership request for a line of a peer module, on the culvert channel ahead of the data (R283). -/
def State.askPeer (s : State) (c : Cmd) (va : Nat) : State :=
  match s.peerPort (coreBasin c.core) c.culvPeer with
  | none => s
  | some p =>
    (s.peerSend p
      { id := s.nextId, pmod := c.culvPeer, vc := 3, core := c.core, cmd := c.id, asks := true,
        flits := [flitHeader c.core (coreOf (paSite va) (bits va 25 22)) 3 1 0 :: Config.peerOwn va] }).bump

/-- Ask for the lines of a command in ascending address order, which for a multicast is target by target; none for host memory (R131, R283). -/
def State.askCopy (s : State) (c : Cmd) : State :=
  let r := s.copyLines c none
  let ls := r.1.mergeSort fun a b => decide (a.va ≤ b.va)
  if !c.offWafer then r.2.askLines c ls
  else if paSpace c.culvDst = 2 then ls.foldl (fun s lw => s.askPeer c lw.va) r.2
  else r.2

/-- Ownership requests made as the command is issued: not by the forms that read an index list, descriptor or record first, and not
for a command whose fields are out of rule. -/
def State.askCopyAtCommit (s : State) (c : Cmd) : State :=
  if c.kind = .scat || c.kind.isDesc || !c.copyFields then s
  else if c.kind = .cpycv && !cvPair c.sf c.df then s
  else s.askCopy c

/-! ### Data -/

/-- Words of a row or an element. -/
def Cmd.rowWords (c : Cmd) : Nat := c.len / 8

/-- CPYCV reads its source in groups of 32 elements, each behind its scale where scales are read: the bytes of a group, and the reads it takes. -/
def Cmd.cvGroup (c : Cmd) : Nat := match MFmt.ofCode c.sf with | some f => 4 * f.width | none => 8
def Cmd.cvScales (c : Cmd) : Bool := bit c.xarg 24
def Cmd.cvReads (c : Cmd) : Nat := (c.cvGroup + 7) / 8 + c.cvScales.toNat
def Cmd.cvSrcBytes (c : Cmd) : Nat := match MFmt.ofCode c.sf with | some f => c.len * f.width / 8 | none => 0

/-- How many source words a command reads. -/
def Cmd.readCount (c : Cmd) : Nat :=
  match c.kind with
  | .fill => 0
  | .gath => c.rows * (c.rowWords + 1)
  | .cpy2 => c.rows * c.rowWords
  | .scat => c.rows * c.rowWords
  | .cpycv =>
    let g := c.cvSrcBytes / c.cvGroup
    let left := c.cvSrcBytes % c.cvGroup
    g * c.cvReads + if left = 0 then 0 else (left + 7) / 8 + c.cvScales.toNat
  | .culv => c.culvLen / 8
  | .pghand => c.culvLen / 8
  | _ => c.rowWords

/-- The n-th source word of a command, in the order of R278 and R279: its address and its bytes. The words of an element of GATH follow its index. -/
def Cmd.readAt (c : Cmd) (n : Nat) : Nat × Nat :=
  match c.kind with
  | .cpy2 => (moved c.src ((n / c.rowWords : Nat) * c.spitch + (8 * (n % c.rowWords) : Nat)), 8)
  | .gath =>
    let i := n / (c.rowWords + 1)
    let k := n % (c.rowWords + 1)
    if k = 0 then (moved (c.xarg % 2 ^ 48) (4 * i : Nat), 4) else (moved c.src (c.feed.getD (n - k) 0 * c.len + 8 * (k - 1) : Nat), 8)
  | .cpycv =>
    let g := n / c.cvReads
    let k := n % c.cvReads
    if c.cvScales && k = 0 then (moved c.src (sext (bits c.xarg 63 32) 32 + (2 * g : Nat)), 2)
    else
      let off := c.cvGroup * g + 8 * (k - c.cvScales.toNat)
      (c.src + off, min 8 (min (c.cvGroup * (g + 1)) c.cvSrcBytes - off))
  | .culv => (c.culvSrc + 8 * n, 8)
  | .pghand => (c.culvSrc + 8 * n, 8)
  | _ => (c.src + 8 * n, 8)

/-- The next source word of a command. -/
def Cmd.nextRead (c : Cmd) : Fed Unit :=
  if c.feed.length < c.readCount then .need (c.readAt c.feed.length).1 (c.readAt c.feed.length).2 0 else .ok ()

/-- The place among the reads of the word at byte `off` of a row. -/
def Cmd.wordIx (c : Cmd) (row off : Nat) : Nat :=
  match c.kind with
  | .cpy2 => row * c.rowWords + off / 8
  | .scat => row * c.rowWords + off / 8
  | .gath => row * (c.rowWords + 1) + 1 + off / 8
  | _ => off / 8

/-- The elements of CPYCV with a byte in a line: from one to before another. -/
def Cmd.cvElemsOf (c : Cmd) (df : MFmt) (lw : LineWrite) : Nat × Nat :=
  let lo := max lw.va c.dst - c.dst
  let hi := min (lw.va + 64 - c.dst) c.cvBytes
  (8 * lo / df.width, min c.len ((8 * hi + df.width - 1) / df.width))

/-- How many source words a line needs before its data has arrived. -/
def Cmd.needs (c : Cmd) (lw : LineWrite) : Nat :=
  match c.kind with
  | .fill => 0
  | .cpycv => match MFmt.ofCode c.df with
    | some df => min c.readCount (((c.cvElemsOf df lw).2 + 31) / 32 * c.cvReads)
    | none => 0
  | _ =>
    let sp := c.rowSpan lw.row
    c.wordIx lw.row (min (lw.va + 56 - sp.1) (sp.2 - 8)) + 1

/-- One converted element (R281). -/
def cvElem (x s : Nat) (sf df : MFmt) (c : Cmd) : Nat × Flags :=
  if sf.code < 3 && df.code < 3 then ieeeRound (fmtValue x sf false) df c.rm
  else if sf.code < 3 then narrowScaled (fmtValue x sf false) s df c.rm c.satBit c.nanmBit
  else widenScaled x sf s df c.rm c.nanmBit

/-- Element i of CPYCV out of the words read: its code and its scale. -/
def Cmd.cvSource (c : Cmd) (sf : MFmt) (i : Nat) : Nat × Nat :=
  let base := i / 32 * c.cvReads
  let ws := (List.range ((c.cvGroup + 7) / 8)).map fun k => c.feed.getD (base + c.cvScales.toNat + k) 0
  (packedElem (packElems 64 ws) sf.width (i % 32), if c.cvScales then c.feed.getD base 0 else bits c.xarg 23 8)

/-- The data of a line out of the words read, byte k of the line at bit 8k, and the flags of a conversion (R278 to R282). -/
def Cmd.lineData (c : Cmd) (lw : LineWrite) : Nat × Flags :=
  match c.kind with
  | .cpycv => match MFmt.ofCode c.sf, MFmt.ofCode c.df with
    | some sf, some df =>
      let e := c.cvElemsOf df lw
      let ys := (List.range (e.2 - e.1)).map fun k => let x := c.cvSource sf (e.1 + k); cvElem x.1 x.2 sf df c
      let run := packElems df.width (ys.map Prod.fst)
      let lo := max lw.va c.dst
      (run / 2 ^ (8 * (lo - c.dst) - e.1 * df.width) * 2 ^ (8 * (lo - lw.va)) % 2 ^ 512, ys.foldl (fun f y => f ||| y.2) 0#6)
    | _, _ => (0, 0#6)
  | k =>
    let sp := c.rowSpan lw.row
    ((List.range 8).foldl (fun d n =>
      let a := lw.va + 8 * n
      if a < sp.1 || sp.1 + sp.2 ≤ a then d
      else d + (if k = .fill then c.xarg else c.feed.getD (c.wordIx lw.row (a - sp.1)) 0) * 2 ^ (64 * n)) 0, 0#6)

/-- The full/empty rule of a variant (R274). -/
def Cmd.fe (c : Cmd) : Option Bool := if c.v = 1 then some true else if c.v = 2 then some false else none

/-! ### Faults (R298, R299) -/

/-- What a command has yet to send off the wafer is not sent: writes that wait in a port, and those that a host has not completed (R292). -/
def State.dropUnsent (s : State) (c : Cmd) : State :=
  let mine := fun (m : PeerMsg) => decide (m.vc = 3) && decide (m.cmd = c.id) && !m.begun
  { s with
    hostWrites := s.hostWrites.filter fun h => decide (h.core ≠ c.core ∨ h.cmd ≠ c.id)
    links := s.links.map fun e => (e.1, { e.2 with waiting := e.2.waiting.filter fun m => !mine m })
    peerOut := s.peerOut.filter fun m => !(mine m && s.links.any fun e => e.2.waiting.any fun w => decide (w.id = m.id)) }

/-- A copy fault: the command stops, its lines are released, its tag set, the record written, and the fault reported; the engine goes on. -/
def State.copyFault (s : State) (r : CopyRun) (cause sub va stage : Nat) (flagq : Bool) : State :=
  let c := r.cmd
  let m := s.copyAt c.core
  let s := s.setCopy c.core
    { m with
      active := m.active.filter fun e => decide (e.2.cmd.id ≠ c.id)
      cause := cause, faddr := va % 2 ^ 48
      fthread := coreSite c.core + coreNum c.core * 2 ^ 9 + c.slot % 8 * 2 ^ 13
      taskf := r.task || decide (8 ≤ c.slot), ftag := c.faultTag, sub := sub, stage := stage, flagq := flagq, bdone := r.bdone }
  (((s.dropUnsent c).releaseLines c.id).cmdDone c).reportFault c cause va sub

/-! ### Arrival (R276, R283) -/

/-- The command with the list, descriptor or record read (R283). -/
def Cmd.first (c : Cmd) : Fed Cmd :=
  let words := fun (a n : Nat) => fedBytes 0 a n c.feed
  if c.kind = .scat then (words (c.xarg % 2 ^ 48) (4 * c.rows)).bind fun v =>
    .ok { c with idx := (List.range c.rows).map fun i => bits v.1 (32 * i + 31) (32 * i), feed := [] }
  else (words c.src 64).bind fun v => .ok { c with desc := lineWords64 v.1, feed := [] }

/-- Whether the fields of a command let it read anything. -/
def State.copyReads (s : State) (c : Cmd) : Bool := s.tagOk c && c.copyFields && !(c.kind = .scat && c.rows = 0)

/-- Whether a culvert descriptor keeps its rules (R288, R289). -/
def State.culvertOk (s : State) (c : Cmd) : Bool :=
  c.culvFields && s.culvReach c c.culvDst c.culvLen && (c.culvFlag == 0 || s.culvReach c c.culvFlag 8)

/-! ### Copy tasks (R294 to R296) -/

/-- The form a record carries. -/
def carried (fn : Nat) : Option CmdKind :=
  match fn with
  | 0 => some .cpy1 | 1 => some .cpy2 | 2 => some .gath | 3 => some .scat | 4 => some .fill | 5 => some .cpycv | 6 => some .cpymc
  | 7 => some .culv | 8 => some .pghand | _ => none

/-- The command a record's words carry, under a tag. -/
def Cmd.unpack (c : Cmd) (tag : Nat) : Option Cmd :=
  match carried (c.dw 5 5 0) with
  | none => none
  | some k =>
    let r := c.dw 3 63 0 + c.dw 4 63 0 * 2 ^ 64
    some { c with
      kind := k, v := c.dw 5 9 6, l := BitVec.ofNat 128 (c.dw 1 63 0 + c.dw 2 63 0 * 2 ^ 64)
      r := BitVec.ofNat 128 (r / 64 * 64 + tag), fpc := w64 (c.dw 5 26 25 + c.dw 5 27 27 * 4), nanm := w64 (c.dw 5 24 24), desc := [] }

/-- Whether the reserved bits of a copy task record are zero and the addresses of the form it carries aligned (Table 9-6a, R36). -/
def copyFormed (ws : List W64) : Bool :=
  let w := fun (i hi lo : Nat) => bits (ws.getD i 0#64).toNat hi lo
  w 5 63 28 == 0 && w 6 63 0 == 0 && w 7 63 0 == 0 && match carried (w 5 5 0) with
    | none => true
    | some k => (k.isDesc || (w 1 63 48 == 0 && w 2 63 48 == 0 && w 3 7 6 == 0 && w 3 63 48 == 0)) &&
      if k.isDesc then w 1 47 0 % 64 == 0
      else w 1 47 0 % 8 == 0 && w 2 47 0 % 8 == 0 && ((k != .gath && k != .scat) || w 4 47 0 % 4 == 0)

/-- Whether a record keeps the rules of Tables 1-5 and 9-6a, with the fields of the command it carries; q is the fold share of tags (R268, R294; log entry
83). -/
def Cmd.recordOk (c : Cmd) (q tag : Nat) : Bool :=
  let pred := fun (used t : Nat) => used == 0 || (t != tag && decide (t < q))
  taskWord (c.desc.getD 0 0#64) 3 && copyFormed c.desc &&
    pred (c.dw 5 16 16) (c.dw 5 15 10) && pred (c.dw 5 23 23) (c.dw 5 22 17) &&
    match c.unpack tag with
    | none => false
    | some d => d.copyFields && decide (d.v ≤ (if d.kind = .fill then 2 else 1))

def State.copyTaskReady (s : State) (c : Cmd) : Bool :=
  s.predsSet c (if c.dw 5 16 16 = 1 then some (c.dw 5 15 10) else none) (if c.dw 5 23 23 = 1 then some (c.dw 5 22 17) else none)

/-! ### Arrival (R276, R283) -/

/-- The first command under way reaches the intake; one that has read first asks for its lines then. -/
def State.copyArrived (s : State) (c : Cmd) : State :=
  let m := s.copyAt c.core
  let s := (s.setCopy c.core { m with intake := m.intake.map fun x => if x.id = c.id then { c with arrived := true } else x }).traceCmd c
  if !c.kind.readsFirst || !s.copyReads c || (c.kind.isCulvert && !s.culvertOk c) then s else s.askCopy c

/-- A command under way whose first read fails, or that has read a bad record. -/
def State.copyUnread (s : State) (c : Cmd) (cause sub va : Nat) : State :=
  let m := s.copyAt c.core
  ((s.setCopy c.core { m with intake := m.intake.filter fun x => decide (x.id ≠ c.id) }).traceCmd c).copyFault { cmd := c } cause sub va 0 false

/-- COPY_INTAKE_ARRIVAL: the first command under way reaches the intake once its core no longer holds it (R121); one that must read first does so word by word once its thread's earlier
accesses have performed. A record out of rule faults when it is read (R294). -/
def State.copyArrive (s : State) (core : Nat) : State :=
  match arriveFirst (s.copyAt core).intake with
  | none => s
  | some (c, _) =>
    if s.commandHeld core c.slot c.seq c.lsid then s
    else if !c.kind.readsFirst || !s.copyReads c then s.copyArrived c
    else if !s.threadDone c then s
    else match s.feed c c.first with
      | (.wait, _) => s
      | (.more c, s) =>
        let m := s.copyAt core
        s.setCopy core { m with intake := m.intake.map fun x => if x.id = c.id then { c with arrived := false } else x }
      | (.refused e a _, s) => s.copyUnread c 0x52 e a
      | (.bad e a _, s) => s.copyUnread c e 0 a
      | (.ok d, s) =>
        if d.kind = .ctask && !d.recordOk ((s.coreAt core).share 64) (d.rw 5 0) then s.copyUnread d 0x5A 0 d.src else s.copyArrived d

def execCopyIntakeArrival (c : Nat) (s : State) : Out := .next (s.copyArrive c)

/-! ### Start (R277 to R285, R289) -/

/-- The causes of a start, in order: fields, formats, overlap, multicast, culvert, with the address reported. -/
def State.copyCheck (s : State) (c : Cmd) : Option (Nat × Nat) :=
  if !s.tagOk c || !c.copyFields then some (0x50, 0)
  else
    let hits := fun (sl dl : Nat) =>
      let k : Int := if c.kind = .cpy2 then c.rows - 1 else 0
      let s0 := moved c.src (k * c.spitch)
      let d0 := moved c.dst (k * c.dpitch)
      let hit := decide (min c.src s0 < max c.dst d0 + dl) && decide (min c.dst d0 < max c.src s0 + sl)
      if hit then some (0x51, 0) else none
    match c.kind with
    | .cpycv =>
      if !cvPair c.sf c.df then some (0x53, 0)
      else match MFmt.ofCode c.sf, MFmt.ofCode c.df with
        | some sf, some df =>
          if !cvLen c.len sf df then some (0x50, 0)
          else if c.len = 0 then none
          else
            let sl := c.len * sf.width / 8
            let dl := c.cvBytes
            if c.src < c.dst + dl && c.dst < c.src + sl then some (0x51, 0) else none
        | _, _ => some (0x53, 0)
    | .cpy1 => if c.len = 0 then none else if c.src < c.dst + c.len && c.dst < c.src + c.len then some (0x51, 0) else none
    | .cpy2 => if c.len = 0 || c.rows = 0 then none else hits c.len c.len
    | .cpymc =>
      let ks := (List.range 16).filter fun k => bit c.xarg k
      if ks.isEmpty || ks.any (fun k => !s.coreLive (coreOf (coreSite c.core) k)) then some (0x55, 0) else none
    | .culv => if s.culvertOk c then none else some (0x50, c.culvDst)
    | .pghand => if s.culvertOk c then none else some (0x50, c.culvDst)
    | _ => none

/-- A command that performs no access (R277). -/
def Cmd.copyZero (c : Cmd) : Bool :=
  if c.kind.isCulvert then c.culvLen == 0 else c.len == 0 || (c.kind.useRows && c.rows == 0)

/-- The lowest free active entry. -/
def CopyEng.freeEntry (m : CopyEng) : Option Nat := (List.range 4).find? fun k => (mget? m.active k).isNone

/-- A command starts in an active entry: it faults, ends at once, or has its lines planned, with those not yet asked for asked for now. -/
def State.copyBegin (s : State) (c : Cmd) (task : Bool) (k : Nat) : State :=
  let m := s.copyAt c.core
  let s := s.setCopy c.core { m with active := mdel m.active k }
  let r : CopyRun := { cmd := c, task := task }
  match s.copyCheck c with
  | some e => s.copyFault r e.1 0 e.2 0 false
  | none =>
    if c.copyZero then s.cmdDone c
    else
      let q := s.copyLines c c.fe
      let s := if task then s.askCopy c else if c.offWafer then q.2 else q.2.askLines c (q.1.mergeSort fun a b => decide (a.va ≤ b.va))
      let m := s.copyAt c.core
      s.setCopy c.core { m with active := mput m.active k { r with todo := q.1 } }

/-- A CTASK at the head of the intake enters the task queue, or faults (R295). -/
def State.copyQueue (s : State) (c : Cmd) : State :=
  let m := s.copyAt c.core
  let out := s.setCopy c.core { m with intake := m.intake.tail }
  let r : CopyRun := { cmd := c }
  if !s.tagOk c || !c.copyFields then out.copyFault r 0x50 0 0 0 false
  else if c.dw 5 24 24 ≠ c.nanm.toNat % 2 then out.copyFault r 0x54 0 c.src 0 false
  else out.setCopy c.core { (out.copyAt c.core) with tasks := m.tasks ++ [c] }

/-- A ready task starts in an active entry: its issue is now, so it first reads its index list or descriptor there (stage 4), and asks for its lines
then (R131, R283). -/
def State.copyStartTask (s : State) (t : Cmd) (k : Nat) : State :=
  match t.unpack (t.rw 5 0) with
  | none => s
  | some c =>
    let c := s.taskOwned { c with id := s.nextId, feed := [] }
    let m := s.copyAt c.core
    let s := (s.setCopy c.core { m with tasks := m.tasks.erase t }).bump
    if c.kind.readsFirst && s.copyReads c then
      let m := s.copyAt c.core
      s.setCopy c.core { m with active := mput m.active k { cmd := c, task := true, stage := 4 } }
    else s.copyBegin c true k

/-- The command at the head of the intake that can go on: one that has arrived, whose thread's earlier accesses have performed, and for CTASK while the task
queue has room (R276, R295). -/
def State.copyHead (s : State) (core : Nat) : Option Cmd :=
  match (s.copyAt core).intake with
  | [] => none
  | c :: _ => if c.arrived && s.threadDone c && !(c.kind = .ctask && 16 ≤ (s.copyAt core).tasks.length) then some c else none

/-- COPY_COMMAND_START: the intake head or a ready task starts in a free entry; where both could, they alternate (R285). -/
def State.copyStart (s : State) (core : Nat) : State :=
  let m := s.copyAt core
  let direct := fun (c : Cmd) (k : Nat) => (s.setCopy core { m with intake := m.intake.tail }).copyBegin c false k
  match s.copyHead core, m.freeEntry, m.tasks.find? s.copyTaskReady with
  | none, some k, some t => s.copyStartTask t k
  | some c, some k, some t =>
    if c.kind = .ctask then s.copyQueue c
    else if m.taskTurn then (s.setCopy core { m with taskTurn := false }).copyStartTask t k
    else (s.setCopy core { m with intake := m.intake.tail, taskTurn := true }).copyBegin c false k
  | some c, some k, none => if c.kind = .ctask then s.copyQueue c else direct c k
  | some c, none, _ => if c.kind = .ctask then s.copyQueue c else s
  | none, _, _ => s

def execCopyCommandStart (c : Nat) (s : State) : Out := .next (s.copyStart c)

/-! ### Lines (R286, R289 to R292) -/

/-- Bytes a mask covers. -/
def maskCount (mask : Nat) : Nat := ((List.range 64).filter fun k => bit mask k).length

/-- Put a running command back. -/
def State.putRun (s : State) (k : Nat) (r : CopyRun) : State :=
  let m := s.copyAt r.cmd.core
  s.setCopy r.cmd.core { m with active := mput m.active k r }

/-- The flags of a conversion (R297). -/
def State.copyFlags (s : State) (c : Cmd) (f : Flags) : State :=
  if f = 0#6 then s
  else
    let m := s.copyAt c.core
    let i := (s.coreAt c.core).vIndex c.grp
    s.setCopy c.core { m with flg := mput m.flg i (mget m.flg i 0#6 ||| f) }

/-- One write leaves the module, data or the flag; its acknowledgement is outstanding from now on. -/
def State.sendLine (s : State) (r : CopyRun) (lw : LineWrite) (flag : Bool) : CopyRun × State :=
  let c := r.cmd
  let r := { r with out := r.out ++ [⟨s.nextId, lw.va, s.time, if flag then 0 else maskCount lw.mask⟩] }
  if paSpace lw.va = 1 then (r, s.hostSend lw.va c.core c.id flag lw.data lw.mask lw.fe)
  else match s.peerPort (coreBasin c.core) c.culvPeer with
    | none => (r, s.bump)
    | some p =>
      let rule := match lw.fe with | none => 0 | some true => 1 | some false => 2
      (r, (s.peerSend p
        { id := s.nextId, pmod := c.culvPeer, vc := 3, core := c.core, cmd := c.id, flag := flag,
          flits := [flitHeader c.core (coreOf (paSite lw.va) (bits lw.va 25 22)) 3 1 0 :: Config.peerCulvert lw.va lw.data lw.mask rule flag] }).bump)

/-- What to do with a line that cannot be written: a multicast goes on with its other targets (R282), a culvert fails (R292), any other
command faults. -/
def State.badLine (s : State) (k : Nat) (r : CopyRun) (lw : LineWrite) (cause va : Nat) : State :=
  if r.cmd.kind = .cpymc then s.putRun k { r with todo := r.todo.filter (· ≠ lw), bad := some (r.bad.getD (cause, va)) }
  else if r.cmd.kind.isCulvert then s.copyFault r 0x56 cause va 0 false
  else s.copyFault r 0x52 cause va 0 false

/-- The router position to which a write that leaves the module travels. -/
def Cmd.leavesAt (c : Cmd) (s : State) (va : Nat) : Nat := if paSpace va = 2 then s.peerPos (coreBasin c.core) c.culvPeer else homePos va

/-- Whether a write that leaves the module finds no route: its peer has no port, or the site of the port or host is unreachable (R332). -/
def State.leaveCut (s : State) (c : Cmd) (va : Nat) : Bool :=
  let at_ := fun (n : Nat) => !s.reachable (coreSite c.core) n
  if paSpace va ≠ 2 then at_ (paSite va)
  else match s.peerPort (coreBasin c.core) c.culvPeer with
    | some p => at_ (portSite p)
    | none => true

/-- A write of a culvert at an address that is under way. -/
def CopyRun.sent (r : CopyRun) (va : Nat) : Option Sent := r.out.find? fun w => decide (w.va = va)

/-- Whether a write under way can come to its home. -/
def State.comes (s : State) (w : Sent) : Bool := match s.flightOf w.id with | some f => !s.wayHeld f | none => false

/-- Whether a line of a culvert on the wafer can be dealt with: it is granted and can be sent, or it has been sent and can perform at its home. -/
def State.culvReady (s : State) (r : CopyRun) (lw : LineWrite) : Bool :=
  match r.sent lw.va with
  | none => (s.lineOwner r.cmd.id lw).isSome
  | some w => s.comes w && !(s.freePieces lw).isEmpty

/-- Whether a line of a list has words that an earlier one of it has yet to write: of two rows at one word the later stands (R278 to R280). -/
def behind (ls : List LineWrite) (lw : LineWrite) : Bool :=
  lw.bad.isNone && (ls.takeWhile (· ≠ lw)).any fun x => x.bad.isNone && decide (x.line = lw.line) && decide (Nat.land x.mask lw.mask ≠ 0)

/-- The first line, in the order in which the data arrived, that can be dealt with: refused, off the wafer, or granted (R131, R286; log entry 84). -/
def State.nextLine (s : State) (r : CopyRun) : Option LineWrite :=
  let c := r.cmd
  r.todo.find? fun lw => decide (c.needs lw ≤ c.feed.length) && (c.kind.isCulvert || !behind r.todo lw) &&
    (lw.bad.isSome || (c.offWafer && !s.sendHeld .culvert c.core (c.leavesAt s lw.va)) || if c.kind.isCulvert && !c.offWafer then s.culvReady r lw else !c.offWafer && s.lineReady c.id lw)

/-- The next source word of entry k is read. -/
def State.copyRead (s : State) (k : Nat) (r : CopyRun) : State :=
  match s.feed r.cmd r.cmd.nextRead with
  | (.more c, s) => s.putRun k { r with cmd := c }
  | (.refused e a _, s) => s.copyFault r 0x52 e a 0 false
  | (_, s) => s

/-- Source bytes that the writing of some bytes of a line completes: those of a multicast count when the last of its targets has them (R299, log entry 95). -/
def CopyRun.newBytes (r : CopyRun) (lw : LineWrite) (mask : Nat) : Nat :=
  let left := if r.cmd.kind = .cpymc then
      (r.todo.filter fun x => decide (x.row ≠ lw.row) && decide (x.va % 2 ^ 22 = lw.va % 2 ^ 22)).foldl (fun m x => Nat.lor m x.mask) 0
    else 0
  maskCount (Nat.xor mask (Nat.land mask left))

/-- A line of entry k whose data has arrived is dealt with: 16 bytes of it are written, or it leaves the module whole. A culvert's is sent first. -/
def State.copyWrite (s : State) (k : Nat) (r : CopyRun) (lw : LineWrite) : State :=
  let c := r.cmd
  let d := c.lineData lw
  let full := { lw with data := d.1 }
  let rest := r.todo.filter (· ≠ lw)
  match lw.bad with
  | some e => s.badLine k r lw e (lw.va + firstByte lw.mask)
  | none =>
    if c.offWafer && s.leaveCut c lw.va then s.copyFault r 0x52 0x31 lw.va 0 false
    else if c.offWafer then
      let q := s.sendLine { r with todo := rest } full false
      q.2.putRun k q.1
    else if c.kind.isCulvert && (r.sent lw.va).isNone then s.bump.putRun k { r with out := r.out ++ [⟨s.nextId, lw.va, s.time, 0⟩] }
    else
      let s := s.copyFlags c d.2
      match s.writePiece c.id full (writesAgain lw.line rest) with
      | (.error e, s) => s.badLine k r lw e.1 e.2
      | (.ok l, s) =>
        let ls := if l.mask = 0 then rest else r.todo.map fun x => if x = lw then { lw with mask := l.mask } else x
        s.putRun k { r with
          todo := ls, bdone := r.bdone + r.newBytes lw (Nat.xor lw.mask l.mask), out := if l.mask = 0 then r.out.filter fun w => decide (w.va ≠ lw.va) else r.out }

/-- A task in stage 4 reads on, and starts in earnest when it has read. -/
def State.copyFirst (s : State) (k : Nat) (r : CopyRun) : State :=
  match s.feed r.cmd r.cmd.first with
  | (.wait, _) => s
  | (.more c, s) => s.putRun k { r with cmd := c }
  | (.refused e a _, s) => s.copyFault r 0x52 e a 0 false
  | (.bad e a _, s) => s.copyFault r e 0 a 0 false
  | (.ok c, s) => s.copyBegin c true k

/-- COPY_LINE_WRITE: entry k reads its next source word, or writes to the first line that it can, whichever comes first. -/
def State.copyLineWrite (s : State) (core k : Nat) : State :=
  match mget? (s.copyAt core).active k with
  | none => s
  | some r =>
    if r.stage = 4 then s.copyFirst k r
    else if r.stage ≠ 0 then s
    else match s.nextLine r with
      | none => s.copyRead k r
      | some lw =>
        let q := s.choose 2
        if q.1 = 0 || r.cmd.readCount ≤ r.cmd.feed.length then q.2.copyWrite k r lw else q.2.copyRead k r

def execCopyLineWrite (c k : Nat) (s : State) : Out := .next (s.copyLineWrite c k)

/-! ### Flags, releases and completion (R134, R139, R140, R290, R291) -/

/-- POST of a word by an engine at its home on the wafer: it waits for owners and reservations; a home may refuse it. -/
def State.enginePost (s : State) (pa : Nat) (v : W64) : Option (Except Nat State) :=
  match s.waferRefuse pa with
  | some e => some (.error e)
  | none =>
    if s.retiredHome pa then some (.error 0x3A)
    else if (s.owned.any fun o => decide (o.line = lineOf pa)) || s.resv.any fun e => decide (e.1 = wordOf pa) then none
    else some (.ok (((((s.correct [wordOf pa]).heal [wordOf pa]).putMem pa v.toNat 0 8).putFull (wordOf pa) true).retestAll [wordOf pa]))

/-- A culvert's POST at a home on the wafer: it is sent, and from then on waits there, performs, or is refused. -/
def State.culvPost (s : State) (k : Nat) (r : CopyRun) (stage pa va : Nat) (v : W64) (cause : Nat) : State :=
  match r.out with
  | [] => s.bump.putRun k { r with stage := stage, out := [⟨s.nextId, va, s.time, 0⟩] }
  | w :: _ =>
    if stage = 1 && !s.comes w then s
    else match s.enginePost pa v with
      | none => s
      | some (.error e) => s.copyFault r cause e va stage false
      | some (.ok s) => s.putRun k { r with out := [] }

/-- CULVERT_DATA_ACK: the last data write is acknowledged, and the flag is sent; once sent to a home on the wafer it performs there. -/
def State.culvertDataAck (s : State) (core k : Nat) : State :=
  match mget? (s.copyAt core).active k with
  | none => s
  | some r =>
    let c := r.cmd
    let onWafer := decide (paSpace c.culvFlag = 0)
    let leaves := s.sendHeld .culvert c.core (c.leavesAt s c.culvFlag)
    let first := r.stage = 0 && r.todo.isEmpty && c.readCount ≤ c.feed.length && r.out.isEmpty
    let again := r.stage = 1 && c.culvFlag ≠ 0 && onWafer && !r.out.isEmpty
    if !c.kind.isCulvert || !(first || again) then s
    else if c.culvFlag = 0 then s.putRun k { r with stage := 3 }
    else if !onWafer && s.leaveCut c c.culvFlag then s.copyFault r 0x52 0x31 c.culvFlag 1 false
    else if !onWafer && leaves then s
    else if onWafer then s.culvPost k r 1 (s.redirect c.culvFlag) c.culvFlag (c.desc.getD 4 0#64) 0x56
    else
      let off := c.culvFlag % 64
      let q := s.sendLine { r with stage := 1 }
        { va := c.culvFlag - off, line := 0, data := (c.desc.getD 4 0#64).toNat * 2 ^ (8 * off), mask := 255 * 2 ^ off, fe := some true } true
      q.2.putRun k q.1

def execCulvertDataAck (c k : Nat) (s : State) : Out := .next (s.culvertDataAck c k)

/-- PGHAND_FLAG_ACK: the flag is acknowledged, and RELEASE sends the POST of SRELV to SREL; once sent it performs there. -/
def State.pghandFlagAck (s : State) (core k : Nat) : State :=
  match mget? (s.copyAt core).active k with
  | none => s
  | some r =>
    let c := r.cmd
    let va := c.dw 5 47 0
    if c.kind ≠ .pghand || !((r.stage = 1 && r.out.isEmpty) || (r.stage = 2 && !r.out.isEmpty)) then s
    else match s.engineXl c.sp va .write with
      | (.error e, s) => s.copyFault r 0x52 e va 2 false
      | (.ok pa, s) => s.culvPost k r 2 pa va (c.desc.getD 6 0#64) 0x52

def execPghandFlagAck (c k : Nat) (s : State) : Out := .next (s.pghandFlagAck c k)

/-- COPY_COMMAND_COMPLETE: every write has performed, the destination flag and the release included, and the tag is set (R134). -/
def State.copyComplete (s : State) (core k : Nat) : State :=
  match mget? (s.copyAt core).active k with
  | none => s
  | some r =>
    let c := r.cmd
    let ended := r.out.isEmpty && if c.kind = .pghand then r.stage == 2 else if c.kind = .culv then r.stage == 3 || r.stage == 1
      else r.stage == 0 && r.todo.isEmpty && decide (c.readCount ≤ c.feed.length)
    if !ended then s
    else match r.bad with
      | some e => s.copyFault r 0x52 e.1 e.2 0 false
      | none =>
        let m := s.copyAt core
        (s.setCopy core { m with active := mdel m.active k }).cmdDone c

def execCopyCommandComplete (c k : Nat) (s : State) : Out := .next (s.copyComplete c k)

/-- Whether the flag of a culvert has been sent: it does not wait in a port (R460). -/
def State.flagGone (s : State) (w : Sent) : Bool := !s.links.any fun e => e.2.waiting.any fun m => decide (m.id = w.id) && !m.begun

/-- CULVERT_LIMIT_EXPIRY: an acknowledgement has been outstanding for longer than CLIM (R292). -/
def State.culvertExpiry (s : State) (core k : Nat) : State :=
  let m := s.copyAt core
  match mget? m.active k with
  | none => s
  | some r =>
    match r.out.find? fun w => decide (w.sentAt + m.clim * 1000 < s.time) with
    | some w => s.copyFault r 0x57 0 w.va r.stage (r.stage == 1 && s.flagGone w)
    | none => s

def execCulvertLimitExpiry (c k : Nat) (s : State) : Out := .next (s.culvertExpiry c k)

/-- An acknowledgement of a write that left the module reaches its command, which counts its bytes. -/
def CopyRun.acked (r : CopyRun) (msg : Nat) : CopyRun :=
  { r with out := r.out.filter fun x => decide (x.id ≠ msg), bdone := r.bdone + ((r.out.filter fun x => decide (x.id = msg)).map Sent.bytes).sum }
def State.culvertAcked (s : State) (core cmd msg : Nat) : State :=
  let m := s.copyAt core
  s.setCopy core { m with active := m.active.map fun e => if e.2.cmd.id = cmd then (e.1, e.2.acked msg) else e }

/-- COPY_FCLR: the flags of every virtual core are cleared. -/
def State.copyFclr (s : State) (core : Nat) : State := s.setCopy core { (s.copyAt core) with flg := [] }

def execCopyFclr (c : Nat) (s : State) : Out := .next (s.copyFclr c)

/-- A ditch copy task taken into the queue of a core (R296). The answer says whether the record was taken. -/
def State.copyTake (s : State) (core : Nat) (ws : List W64) (c : Cmd) : Bool × State :=
  let m := s.copyAt core
  let c := { c with desc := ws }
  let tag := c.dw 3 5 0
  if (s.coreAt core).foldK ≥ 2 || 16 ≤ m.tasks.length then (false, s)
  else if !c.recordOk 64 tag then (true, s.copyFault { cmd := { c with tag := 64, r := BitVec.ofNat 128 tag }, task := true } 0x5A 0 0 0 false)
  else if !s.tagRoom core [tag] then (false, s)
  else
    let c := { c with tag := tag, r := BitVec.ofNat 128 tag, ditch := true }
    (true, (s.setCopy core { m with tasks := m.tasks ++ [c] }).tagUp core tag)

end Sys2Proof.Machine
end

