-- ==== Sys2Proof/Machine/Hyper.lean ====
section
/-! DEFINITION. The hypervector engine: its commands, their effects, fills, faults and saved accumulators
(spec/10_hypervector_engine.md R303 to R323). -/

namespace Sys2Proof.Machine

/-- A vector of the engine. -/
abbrev Hv := BitVec 8192

/-! ### Fields (Tables 10-2, 10-3) -/

def Cmd.hCount (c : Cmd) : Nat := c.lw 95 64
def Cmd.hStride (c : Cmd) : Nat := if c.lw 127 96 = 0 then 1024 else c.lw 127 96
def Cmd.ha (c : Cmd) : Nat := c.rw 10 8
def Cmd.hb (c : Cmd) : Nat := c.rw 14 12
def Cmd.hd (c : Cmd) : Nat := c.rw 18 16
def Cmd.ba (c : Cmd) : Nat := c.rw 20 20
def Cmd.hk (c : Cmd) : Nat := c.rw 36 24
def Cmd.wt (c : Cmd) : Int := sext (c.rw 47 40) 8
def Cmd.hLimit (c : Cmd) : Nat := c.rw 61 48
def Cmd.tie (c : Cmd) : Nat := bits c.hvc.toNat 1 0
def Cmd.cmax (c : Cmd) : Int :=
  match bits c.hvc.toNat 3 2 with
  | 0 => 7 | 1 => 127 | 2 => 2047 | _ => 32767

/-- The fields a form uses: ADDR, COUNT and STRIDE, HA, HB, HD, BA, K, WT, LIMIT. -/
structure HvUse where
  addr : Bool := false
  table : Bool := false
  a : Bool := false
  b : Bool := false
  d : Bool := false
  acc : Bool := false
  k : Bool := false
  wt : Bool := false
  limit : Bool := false

/-- Table 10-2. -/
def Cmd.hvUse (c : Cmd) : HvUse :=
  let m : Bool := c.v == 1
  match c.kind with
  | .hbind => { a := true, d := true, b := !m, addr := m }
  | .hbund => { acc := true, wt := true, a := !m, addr := m }
  | .hperm => { a := true, d := true, k := true }
  | .hthr => { acc := true, d := true, b := c.tie == 3 }
  | .hld => { addr := true, d := true }
  | .hst => { addr := true, a := true }
  | .hclr => { d := !m, acc := m }
  | .hphase => { acc := true, k := true }
  | .hbndld => { addr := true, acc := true }
  | .hbndst => { addr := true, acc := true }
  | .hmove => { a := true, d := true }
  | .hdist => { a := true, b := !m, addr := m }
  | .hnear => { addr := true, table := true, a := true }
  | .hneark => { addr := true, table := true, a := true, limit := true }
  | .hpopc => { a := !m }
  | _ => {}

/-- The rules of R309; qh is the number of vector registers the issuer may name (R320). -/
def Cmd.hvFields (c : Cmd) (qh : Nat) : Bool :=
  let u := c.hvUse
  let reserved := c.lw 63 48 == 0 && c.rw 7 6 == 0 && c.rw 11 11 == 0 && c.rw 15 15 == 0 && c.rw 19 19 == 0 && c.rw 23 21 == 0 &&
    c.rw 39 37 == 0 && c.rw 127 62 == 0
  let addr := if u.addr then c.addr % 64 == 0 else c.addr == 0
  let table := if u.table then decide (1 ≤ c.hCount) && decide (c.hCount ≤ 1048576) && c.hStride % 64 == 0 && decide (1024 ≤ c.hStride) &&
      decide (c.hStride ≤ 0x100000) else c.lw 127 64 == 0
  let reg := fun (used : Bool) (n : Nat) => if used then decide (n < qh) else n == 0
  let k := if u.k then c.kind != .hphase || decide (c.hk < 2) else c.hk == 0
  let wt := if u.wt then c.wt != -128 else c.rw 47 40 == 0
  let limit := if u.limit then decide (c.hLimit ≤ 8192) else c.hLimit == 0
  reserved && addr && table && reg u.a c.ha && reg u.b c.hb && reg u.d c.hd && (u.acc || c.ba == 0) && k && wt && limit

/-! ### State of the engine -/

/-- QH of a core (Table 10-1). -/
def Core.qh (k : Core) : Nat := k.share 8

/-- Physical register of a group's register n (R320). -/
def State.hvReg (s : State) (c : Cmd) (n : Nat) : Nat := (s.coreAt c.core).vIndex c.grp * (s.coreAt c.core).qh + n

def State.hvGet (s : State) (c : Cmd) (n : Nat) : Hv := mget (s.hvAt c.core).h (s.hvReg c n) 0#8192
def State.hvPut (s : State) (c : Cmd) (n : Nat) (v : Hv) : State :=
  let m := s.hvAt c.core
  s.setHv c.core { m with h := mset 0#8192 m.h (s.hvReg c n) v }

def HvEng.acc (m : HvEng) (b : Nat) : HvAcc := if b = 0 then m.a0 else m.a1
def HvEng.setAcc (m : HvEng) (b : Nat) (a : HvAcc) : HvEng := if b = 0 then { m with a0 := a } else { m with a1 := a }

/-- Counters in their one form: the empty list where all are zero. -/
def normCnt (l : List Int) : List Int := if l.all (· == 0) then [] else l

/-- All 8,192 counters. -/
def HvAcc.counters (a : HvAcc) : List Int := if a.cnt.isEmpty then List.replicate 8192 0 else a.cnt

/-- One addition rule for every change of a counter: the clamped value, and whether it was clamped (R304). -/
def clampCnt (cmax x : Int) : Int × Bool := (clampInt (-cmax) cmax x, clampInt (-cmax) cmax x != x)

/-- HBUND (R312). -/
def HvAcc.bundle (a : HvAcc) (v : Hv) (wt cmax : Int) : HvAcc :=
  if wt = 0 then a
  else
    let r := a.counters.zipIdx.map fun p => clampCnt cmax (p.1 + if v.getLsbD p.2 then wt else -wt)
    { a with cnt := normCnt (r.map Prod.fst), sat := a.sat || r.any Prod.snd }

/-- A vector from its bits, lowest first. -/
def hvOfBits (l : List Bool) : Hv := BitVec.ofNat 8192 (l.foldr (fun b n => b.toNat + 2 * n) 0)

/-- The threshold of an accumulator (R312). -/
def HvAcc.threshold (a : HvAcc) (tie : Nat) (tv : Hv) : Hv :=
  hvOfBits (a.counters.zipIdx.map fun p =>
    if 0 < p.1 then true
    else if p.1 < 0 then false
    else match tie with
      | 0 => false
      | 1 => true
      | 2 => a.ph != (p.2 % 2 == 1)
      | _ => tv.getLsbD p.2)

/-- A counter image as a number: counter i as halfword i. -/
def HvAcc.image (a : HvAcc) : Nat := if a.cnt.isEmpty then 0 else packElems 16 (a.cnt.map (intCode 16))

/-- Counters read from an image, each clamped; whether one was. -/
def cntOfImage (v : Nat) (cmax : Int) : List Int × Bool :=
  let r := (List.range 8192).map fun i => clampCnt cmax (sext (bits v (16 * i + 15) (16 * i)) 16)
  (normCnt (r.map Prod.fst), r.any Prod.snd)

/-- Counters read from a saved image, as they stand. -/
def cntSaved (v : Nat) : List Int := normCnt ((List.range 8192).map fun i => sext (bits v (16 * i + 15) (16 * i)) 16)

/-- Population count of a vector. -/
def hvPop (v : Hv) : Nat := ((List.range 8192).filter fun i => v.getLsbD i).length

/-- Offset of the hypervector area in a save area (spec/14_ditch_rider.md, the engine save area). -/
def hvSaveOff : Nat := 0x30000

/-- Table 10-1, as a group reads it. On a folded core the flags of another user's accumulators lie in the reader's save area. -/
def State.hvStatus (s : State) (core : Nat) (g : Group) : Nat :=
  let m := s.hvAt core
  let k := s.coreAt core
  let here := decide (k.foldK < 2) || m.user == some g
  let fl := if here then m.a0.sat.toNat + m.a1.sat.toNat * 2 + m.a0.ph.toNat * 4 + m.a1.ph.toNat * 8
    else match s.saveArea g, m.parked.contains g with
      | some a, true => bits (s.mem.read (a + hvSaveOff) 8) 9 6
      | _, _ => 0
  (m.intake.filter Cmd.arrived).length + m.run.isSome.toNat + m.run.isSome.toNat * 2 ^ 5 + fl * 2 ^ 6 + m.cause * 2 ^ 16 + k.foldK * 2 ^ 24 + k.qh * 2 ^ 27

/-- Both accumulators at their places in a save area, with their flags in the status word. -/
def putAccs (m : Memory) (a : Nat) (e : HvEng) : Memory :=
  let st := m.read a 8
  let fl := e.a0.sat.toNat + e.a1.sat.toNat * 2 + e.a0.ph.toNat * 4 + e.a1.ph.toNat * 8
  ((m.write a (setBits st 9 6 fl) 0 8).write (a + 0x4000) e.a0.image 0 16384).write (a + 0x8000) e.a1.image 0 16384

/-- The accumulators read back from a save area. -/
def getAccs (m : Memory) (a : Nat) (e : HvEng) : HvEng :=
  let st := m.read a 8
  { e with
    a0 := { cnt := cntSaved (m.read (a + 0x4000) 16384), sat := bit st 6, ph := bit st 8 }
    a1 := { cnt := cntSaved (m.read (a + 0x8000) 16384), sat := bit st 7, ph := bit st 9 } }

/-- The accumulators change user on a folded core (R320): they go to the last user's save area, and the new user's are read, or are clear where it has none. None
while no area is to be had for them. -/
def State.swapAccs (s : State) (core : Nat) (g : Group) : Option State :=
  let e := s.hvAt core
  if (s.coreAt core).foldK < 2 || e.user = some g then some s
  else
    let saved : Option State := match e.user with
      | none => some s
      | some u => (s.takeArea (coreBasin core) u).map fun x => x.2.areaWrite (x.1 + hvSaveOff) 0xC000 fun mem => putAccs mem (x.1 + hvSaveOff) e
    let parked := e.parked.filter (fun x => !(x == g)) ++ e.user.toList
    saved.map fun s => match s.saveArea g, e.parked.contains g with
      | some a, true => s.setHv core { getAccs s.mem (a + hvSaveOff) e with user := some g, parked := parked }
      | _, _ => s.setHv core { e with a0 := {}, a1 := {}, user := some g, parked := parked }

/-! ### Faults (R322) -/

/-- A hypervector fault: the command stops and changes no engine state, its lines are released, its tag set, and the fault reported. -/
def State.hvFault (s : State) (c : Cmd) (cause sub va entry : Nat) : State :=
  let m := s.hvAt c.core
  let s := s.setHv c.core
    { m with
      run := none, cause := cause, faddr := va % 2 ^ 48
      fthread := coreSite c.core + coreNum c.core * 2 ^ 9 + c.slot % 8 * 2 ^ 13
      ftag := c.faultTag, sub := sub, entry := entry }
  ((s.releaseLines c.id).cmdDone c).reportFault c cause va sub

/-! ### Arrival and start (R310, R312) -/

/-- Lines a store form writes, without data. -/
def Cmd.hvSpan (c : Cmd) : List LineWrite :=
  match c.kind with
  | .hst => rowPieces c.addr 1024 0 0 none
  | .hbndst => rowPieces c.addr 16384 0 0 none
  | _ => []

/-- Ownership requests of HST and HBNDST at commit (R315). -/
def State.askHv (s : State) (c : Cmd) : State :=
  if c.hvFields (s.coreAt c.core).qh then
    let r := s.aimLines c.sp c.hvSpan
    r.2.askLines c r.1
  else s

/-- HV_INTAKE_ARRIVAL: the first command under way reaches the intake, behind what an earlier copy command of its thread reads first (R283). -/
def State.hvArrive (s : State) (core : Nat) : State :=
  let m := s.hvAt core
  match arriveFirst m.intake with
  | none => s
  | some (c, l) => if s.commandHeld core c.slot c.seq c.lsid || s.listUnread core c.slot c.id then s else (s.setHv core { m with intake := l }).traceCmd c

def execHvIntakeArrival (c : Nat) (s : State) : Out := .next (s.hvArrive c)

/-- HV_COMMAND_START: the next command starts when none runs and its thread's earlier accesses have performed. Its fields are checked before anything
changes (R309); the accumulators change hands with its start. -/
def State.hvStart (s : State) (core : Nat) : State :=
  let m := s.hvAt core
  match m.intake with
  | [] => s
  | c :: rest =>
    if !c.arrived || m.run.isSome || !s.threadDone c then s
    else if !s.tagOk c || !c.hvFields (s.coreAt core).qh then (s.setHv core { m with intake := rest }).hvFault c 0x60 0 0 0
    else match s.swapAccs core c.grp with
      | none => s
      | some s => s.setHv core { (s.hvAt core) with intake := rest, run := some { cmd := c } }

def execHvCommandStart (c : Nat) (s : State) : Out := .next (s.hvStart c)

/-! ### Effects (R312 to R314) -/

/-- The second operand V of a command: register n, or for a .m variant the vector at ADDR. -/
def State.hvOperand (s : State) (c : Cmd) (n : Nat) : Fed Hv :=
  if c.v = 1 then (fedBytes 0 c.addr 1024 c.feed).bind fun v => .ok (BitVec.ofNat 8192 v.1) else .ok (s.hvGet c n)

/-- An entry of a table compared (R314): the least distance so far, its first index, how many share it. -/
def Running.compare (r : Running) (d : Nat) : Running :=
  let r := if d < r.dist then { r with dist := d, index := r.entry, neq := 1 } else if d = r.dist then { r with neq := r.neq + 1 } else r
  { r with entry := r.entry + 1, cmd := { r.cmd with feed := [] } }

/-- What a command works on, out of the words it has read; a search works on the entry it reads. -/
inductive HvWork where
  | vec (v : Hv)
  | image (n : Nat)
  | none

def State.hvWork (s : State) (r : Running) : Fed HvWork :=
  let c := r.cmd
  let vec := fun (x : Fed Hv) => x.bind fun v => .ok (.vec v)
  let at_ := fun (va n : Nat) => fedBytes 0 va n c.feed
  match c.kind with
  | .hbind => vec (s.hvOperand c c.hb)
  | .hbund => vec (s.hvOperand c c.ha)
  | .hdist => vec (s.hvOperand c c.hb)
  | .hld => (at_ c.addr 1024).bind fun v => .ok (.vec (BitVec.ofNat 8192 v.1))
  | .hbndld => (at_ c.addr 16384).bind fun v => .ok (.image v.1)
  | .hnear => (at_ (c.addr + r.entry * c.hStride) 1024).bind fun v => .ok (.vec (BitVec.ofNat 8192 v.1))
  | .hneark => (at_ (c.addr + r.entry * c.hStride) 1024).bind fun v => .ok (.vec (BitVec.ofNat 8192 v.1))
  | _ => .ok .none

/-- Table 10-4. -/
def fillValue (index dist neq : Nat) : W128 := BitVec.ofNat 128 (index % 2 ^ 32 + dist * 2 ^ 32 + min neq 65535 * 2 ^ 48)

/-- A command that changes engine state or only computes is complete: its result is applied and its tag set. -/
def State.hvEnd (s : State) (c : Cmd) (f : HvEng → HvEng) : State :=
  let m := s.hvAt c.core
  (s.setHv c.core { f m with run := none }).cmdDone c

/-- Put the running command back. -/
def State.putHv (s : State) (r : Running) : State := s.setHv r.cmd.core { (s.hvAt r.cmd.core) with run := some r }

/-- A fill is on its way to its register, with its tag (R317): the command is complete when it is written there (phase 1). Of a replayed form the value
goes to the replay port (R468). -/
def State.hvFill (s : State) (r : Running) (v : W128) : State :=
  let c := r.cmd
  if c.rp then
    (s.modCore c.core fun k => { k with replay := { k.replay with fillv := v.setWidth 64, fvalid := true } }).hvEnd c id
  else
    let slot := (s.threadSlot c).getD c.slot
    let s := s.putHv { r with phase := 1 }
    { s with fills := s.fills ++ [{ id := s.nextId, core := c.core, slot := slot, reg := c.reg, val := v, tag := c.tag, hv := true }], nextId := s.nextId + 1 }

/-- The lines of HST and HBNDST are planned with their data; then 16 bytes an event are written to the first line that is granted (R131). -/
def State.hvStore (s : State) (r : Running) (n v : Nat) : State :=
  let c := r.cmd
  if !r.planned then
    let q := s.aimLines c.sp (rowPieces c.addr n v 0 none)
    (q.2.askLines c q.1).putHv { r with todo := q.1, planned := true }
  else if r.todo.isEmpty then s.hvEnd c id
  else match r.todo.find? fun lw => lw.bad.isSome || s.lineReady c.id lw with
    | none => s
    | some lw =>
      let rest := r.todo.filter (· ≠ lw)
      match lw.bad with
      | some e => s.hvFault c 0x61 e (lw.va + firstByte lw.mask) 0
      | none => match s.writePiece c.id lw (writesAgain lw.line rest) with
        | (.error e, s) => s.hvFault c 0x61 e.1 e.2 0
        | (.ok l, s) => s.putHv { r with todo := if l.mask = 0 then rest else r.todo.map fun x => if x = lw then l else x }

/-- The effect of a command whose words are read, at one instant (R312 to R314). -/
def State.hvApply (s : State) (r : Running) (w : HvWork) : State :=
  let c := r.cmd
  let acc := (s.hvAt c.core).acc c.ba
  let v := match w with | .vec v => v | _ => 0#8192
  match c.kind with
  | .hbind => (s.hvPut c c.hd (s.hvGet c c.ha ^^^ v)).hvEnd c id
  | .hbund => s.hvEnd c fun m => m.setAcc c.ba ((m.acc c.ba).bundle v c.wt c.cmax)
  | .hperm => (s.hvPut c c.hd ((s.hvGet c c.ha).rotateLeft c.hk)).hvEnd c id
  | .hthr =>
    let v := acc.threshold c.tie (s.hvGet c c.hb)
    let acc := { acc with ph := if c.tie = 2 then !acc.ph else acc.ph }
    let acc := if c.v = 1 then { acc with cnt := [], sat := false } else acc
    (s.hvPut c c.hd v).hvEnd c fun m => m.setAcc c.ba acc
  | .hld => (s.hvPut c c.hd v).hvEnd c id
  | .hst => s.hvStore r 1024 (s.hvGet c c.ha).toNat
  | .hclr =>
    if c.v = 1 then s.hvEnd c fun m => m.setAcc c.ba { acc with cnt := [], sat := false }
    else (s.hvPut c c.hd 0#8192).hvEnd c id
  | .hphase => s.hvEnd c fun m => m.setAcc c.ba { acc with ph := bit c.hk 0 }
  | .hbndld =>
    let q := cntOfImage (match w with | .image n => n | _ => 0) c.cmax
    s.hvEnd c fun m => m.setAcc c.ba { acc with cnt := q.1, sat := q.2 }
  | .hbndst => s.hvStore r 16384 acc.image
  | .hmove => (s.hvPut c c.hd (if c.v = 1 then ~~~(s.hvGet c c.ha) else s.hvGet c c.ha)).hvEnd c id
  | .hdist => s.hvFill r (fillValue 0 (hvPop (s.hvGet c c.ha ^^^ v)) 0)
  | .hpopc =>
    if c.v = 1 then s.hvFill r (BitVec.ofNat 128 (s.hvStatus c.core c.grp)) else s.hvFill r (fillValue 0 (hvPop (s.hvGet c c.ha)) 0)
  | _ =>
    let r := r.compare (hvPop (s.hvGet c c.ha ^^^ v))
    if r.entry < c.hCount then s.putHv r
    else
      let hit := c.kind != .hneark || decide (r.dist ≤ c.hLimit)
      s.hvFill r (fillValue (if hit then r.index else 0xFFFFFFFF) r.dist r.neq)

/-- HV_COMMAND_COMPLETE: the running command reads a word, compares an entry, writes, or applies its result when it is at its end. -/
def State.hvComplete (s : State) (core : Nat) : State :=
  match (s.hvAt core).run with
  | none => s
  | some r =>
    if r.phase = 1 then s
    else match s.feed r.cmd (s.hvWork r) with
      | (.wait, s) => s
      | (.more c, s) => s.putHv { r with cmd := c }
      | (.refused e a _, s) => s.hvFault r.cmd 0x61 e a r.entry
      | (.bad e a _, s) => s.hvFault r.cmd e 0 a r.entry
      | (.ok w, s) => s.hvApply r w

def execHvCommandComplete (c : Nat) (s : State) : Out := .next (s.hvComplete c)

/-! ### The commit of a command form -/

/-- An engine command leaves its core (R43, R129, R131, R150): the values sampled as its block began go with it, its tag is counted, a
fill form's register is marked empty, and the lines it is known to write are asked for, halted engine or not (log entry 81). -/
def State.issueCmd (s : State) (core slot : Nat) (sl : Slot) (r : Run) (op : Op) (k : CmdKind) : State :=
  let g := sl.group
  let c : Cmd :=
    { id := s.nextId, kind := k, v := op.v, core := core, slot := slot, seq := r.seq, lsid := op.lsid, l := op.l, r := op.r,
      fpc := r.fpc, nanm := r.nanm, mfmt := sl.ctl.mfmt, msca := sl.ctl.msca, mscb := sl.ctl.mscb, hvc := sl.ctl.hvc,
      sp := sl.space core slot, grp := g, wid := sl.ctl.wid, tag := s.physTag core g (bits op.r.toNat 5 0), reg := op.reg,
      iw := r.words.getD op.ix 0 }
  let s := (s.bump.tagUp core c.tag).pushIntake c
  let s := if k.isFill then s.modSlot core slot fun sl => sl.markEmpty op.reg else s
  match k with
  | .mdrain => s.askDrain c
  | .mdrainn => s.askDrain c
  | .hst => s.askHv c
  | .hbndst => s.askHv c
  | k => if k.engine = .copy then s.askCopyAtCommit c else s

end Sys2Proof.Machine
end

