-- ==== Sys2Proof/Machine/Records.lean ====
section
/-! DEFINITION. The shared records: launch headers, continuation records, core maps, the live-core ring and context images
(spec/01_organisation.md R22 to R40; spec/14_ditch_rider.md R418, R428; spec/05_block_engine.md R168). -/

namespace Sys2Proof.Machine

/-! ### Records that are to be placed (R36) -/

/-- Whether a record that is to be placed breaks R36. -/
def recBad (r : List W64) : Bool :=
  let k := recKind r
  !(decide (1 ≤ k) && decide (k ≤ 3)) || decide (1 < recState r) || wordBits r 0 31 25 ≠ 0 ||
    (recRadius r ≠ 0 && recPlace r ≠ 1) ||
    (decide (k = 1) && (wordBits r 2 3 0 ≠ 0 || wordBits r 2 63 48 ≠ 0 || wordBits r 6 10 0 ≠ 0 || wordBits r 6 63 48 ≠ 0 ||
      wordBits r 7 6 0 ≠ 0 || wordBits r 7 63 48 ≠ 0)) || (decide (k = 2) && !taskFormed r) || (decide (k = 3) && !copyFormed r)

/-! ### The live-core ring (R22 to R29) -/

/-- The bank of a basin's ring under a generation: halfword 0 is the count. -/
def Basin.ringOf (v : Basin) (gen : Nat) : List Nat := if gen % 2 = 0 then v.bank0 else v.bank1

/-- The core of a logical core ID under a generation. -/
def State.logicalCoreIn (s : State) (b gen id : Nat) : Option Nat :=
  let l := (s.basinAt b).ringOf gen
  if id < l.headD 0 then some (physCore b (l.getD (id + 1) 0 % 2048)) else none

/-- The logical core ID of a core under a generation, if it is live there. -/
def State.logicalIdIn (s : State) (gen core : Nat) : Option Nat :=
  let l := (s.basinAt (coreBasin core)).ringOf gen
  (List.range (l.headD 0)).find? fun i => l.getD (i + 1) 0 % 2048 == physIndex core

/-- The same under the generation in force. -/
def State.logicalCore (s : State) (b id : Nat) : Option Nat := s.logicalCoreIn b (s.basinAt b).gen id
def State.logicalId (s : State) (core : Nat) : Option Nat := s.logicalIdIn (s.basinAt (coreBasin core)).gen core

/-- The live core on which a key hash is placed under a generation (R24). -/
def State.keyedCore (s : State) (b gen h : Nat) : Option Nat :=
  let l := (s.basinAt b).ringOf gen
  let ks := (l.drop 1).take (l.headD 0)
  match ks.find? fun k => decide (h ≤ ringPoint b (k % 2048)) with
  | some k => some (physCore b (k % 2048))
  | none => ks.head?.map fun k => physCore b (k % 2048)

/-! ### Accesses of the sluice (R39) -/

/-- The address space of a ditch, as the unit at a core's chiplet uses it. -/
def unitSpace (core asn root : Nat) : Space := ⟨core, false, asn, root, 0⟩

/-- Where a virtual address of a ditch's address space leads, or the slice cause that refuses it. -/
def State.unitXl (s : State) (core asn root va : Nat) (need : Need) : Except Nat Nat × State :=
  if inWindow va then (.error 0x33, s)
  else s.engineXl (unitSpace core asn root) va need

/-- The address of a core map entry (R30). -/
def cmapVa (h : List W64) (v p : Nat) : Nat := hdrCmap h + 4 * (2 * v + p)

/-- A core map entry in a bank; an uncorrectable word is counted at its home. -/
def State.cmapRead (s : State) (core asn root : Nat) (h : List W64) (v p : Nat) : Option Nat × State :=
  match s.unitXl core asn root (cmapVa h v p) .read with
  | (.error _, s) => (none, s)
  | (.ok pa, s) => match s.firstPoisoned [wordOf pa] with
    | some w => (none, s.countUe (8 * w))
    | none => (some (s.mem.read pa 4), s.correct [wordOf pa])

/-- Write a core map entry; the answer is false where the access is refused. -/
def State.cmapWrite (s : State) (core asn root : Nat) (h : List W64) (v p e : Nat) : Bool × State :=
  match s.unitXl core asn root (cmapVa h v p) .write with
  | (.error _, s) => (false, s)
  | (.ok pa, s) =>
    if (s.firstPoisoned [wordOf pa]).isSome then (false, s.countUe (8 * wordOf pa))
    else (true, ((s.correct [wordOf pa]).putMem pa e 0 4).retestAll [wordOf pa])

/-- A core map entry that binds a group to a logical core (R30). -/
def cmapEntry (id : Nat) : Nat := id % 2 ^ 16 + 2 ^ 31

/-! ### Context images (Tables 14-4, 14-5) -/

/-- The slot state word. -/
def Slot.stateWord (sl : Slot) : W64 :=
  w64 (sl.stop.toNat + sl.frz.toNat * 2 + sl.rty.toNat * 4 + sl.evp.toNat * 8 + sl.tailBit.toNat * 16 + sl.cause.toNat * 2 ^ 8 +
    sl.index.toNat * 2 ^ 16)

/-- The fourteen registers of words 130 to 143, in order. -/
def Ctl.image (x : Ctl) : List W64 :=
  [x.fpc, x.fpf, x.nanm, x.mfmt, x.msca, x.mscb, x.seg, x.wlim, x.hvc, x.wid, x.vcore, x.imga, x.root, x.asn]

/-- The registers with word 130 + i of the image set. -/
def Ctl.setImage (x : Ctl) (i : Nat) (v : W64) : Ctl :=
  match i with
  | 6 => { x with seg := v &&& 0x3F003F0000#64 }
  | 7 => { x with wlim := v &&& 0x3FFFFFFF#64 }
  | 8 => { x with hvc := v &&& 0xF#64 }
  | 9 => { x with wid := v }
  | 10 => { x with vcore := v &&& 0xFFFFFFFF#64 }
  | 11 => x
  | 12 => { x with root := v &&& 0xFFFFFFFFFFFF#64 }
  | 13 => { x with asn := v &&& 0xFFFF#64 }
  | n => if n < 6 then x.write false n v else x

/-- Word w of a slot's context image with its full/empty bit; of a register line not present, the image in memory has it. -/
def State.imageWord (s : State) (core slot w : Nat) : W64 × Bool :=
  let sl := s.slotAt core slot
  if w < 128 then
    if sl.present.getLsbD (w / 8) then
      let v := (sl.reg (w / 2)).toNat
      if w % 2 = 0 then (w64 v, sl.isFull (w / 2)) else (w64 (v / 2 ^ 64), true)
    else
      let a := s.redirect (sl.ctl.imga.toNat + 8 * w)
      (w64 (s.mem.read a 8), s.mem.full (wordOf a))
  else if w = 128 then (sl.pc, true)
  else if w = 129 then (sl.stateWord, true)
  else if w < 144 then (sl.ctl.image.getD (w - 130) 0#64, true)
  else if w < 152 then (sl.route.getD (w - 144) 0#64, true)
  else if w < 160 then (sl.record.getD (w - 152) 0#64, true)
  else if w < 168 then (sl.lastPkt.getD (w - 160) 0#64, true)
  else if w = 168 then (sl.barWait, true)
  else if w = 169 then (sl.ctl.fseg, true)
  else if w = 170 then (sl.ctl.esave, true)
  else (0#64, true)

/-- A slot with word w of its image written (R423): words 129 and 141 are not, a write of word 128 clears TAIL and ends the
lookup of what stood there. The lines written are present. -/
def Slot.setImageWord (sl : Slot) (w : Nat) (v : W64) (full : Bool) : Slot :=
  if w < 128 then
    let old := (sl.reg (w / 2)).toNat
    let sl' := sl.setReg (w / 2) (BitVec.ofNat 128 (if w % 2 = 0 then old / 2 ^ 64 * 2 ^ 64 + v.toNat else old % 2 ^ 64 + v.toNat * 2 ^ 64))
    if w % 2 = 1 then { sl' with full := sl.full } else if full then sl' else sl'.markEmpty (w / 2)
  else if w = 128 then { sl with pc := v &&& 0xFFFFFFFFFFFF#64, tailBit := false, look := none }
  else if w = 129 then sl
  else if w < 144 then { sl with ctl := sl.ctl.setImage (w - 130) v }
  else if w < 152 then { sl with route := lset sl.route (w - 144) v }
  else if w < 160 then { sl with record := lset sl.record (w - 152) v }
  else if w < 168 then { sl with lastPkt := lset sl.lastPkt (w - 160) v }
  else if w = 168 then { sl with barWait := v }
  else if w = 169 then { sl with ctl := { sl.ctl with fseg := v &&& 0x3F003F0000#64 } }
  else if w = 170 then { sl with ctl := { sl.ctl with esave := v &&& 0xFFFFFFFFFFFF#64 } }
  else sl

/-- Write a slot's image to memory: the register lines that are present, and every other word (R147, R398); those who wait there are re-tested, single-bit errors
counted, and a retired home refuses it (R128, R216, R231). -/
def State.saveImage (s : State) (core slot : Nat) : State :=
  let sl := s.slotAt core slot
  let img := sl.ctl.imga.toNat
  let ws := (List.range 256).filter fun w => decide (128 ≤ w) || sl.present.getLsbD (w / 8)
  let names := ws.map fun w => wordOf (s.redirect (img + 8 * w))
  if s.retiredHome img then s
  else
    (ws.foldl (fun s w =>
      let x := s.imageWord core slot w
      let a := s.redirect (img + 8 * w)
      { s with mem := ((s.mem.write a x.1.toNat 0 8).setErr (wordOf a) none).setFull (wordOf a) x.2 }) (s.correct names)).retestAll names

/-- The slot state that an image in memory holds (R397, R428); its register lines are loaded when they are first accessed. -/
def State.loadImage (s : State) (img : Nat) : Slot :=
  let w := fun (k : Nat) => w64 (s.mem.read (s.redirect (img + 8 * k)) 8)
  let st := (w 129).toNat
  let ctl := (List.range 14).foldl (fun (x : Ctl) i => x.setImage i (w (130 + i))) {}
  { busy := true, present := 0#16, pc := w 128 &&& 0xFFFFFFFFFFFF#64,
    ctl := { ctl with imga := w64 img, fseg := w 169 &&& 0x3F003F0000#64, esave := w 170 &&& 0xFFFFFFFFFFFF#64 },
    stop := bit st 0, frz := bit st 1, rty := bit st 2, evp := bit st 3, tailBit := bit st 4,
    cause := BitVec.ofNat 8 (bits st 15 8), index := BitVec.ofNat 7 (bits st 22 16),
    route := (List.range 8).map fun k => w (144 + k), record := (List.range 8).map fun k => w (152 + k),
    lastPkt := (List.range 8).map fun k => w (160 + k), barWait := w 168 }

/-- The slot of a new continuation (R34, R168, R428). -/
def newSlot (r : List W64) (img vc asn root : Nat) : Slot :=
  let g := fun (sl : Slot) (n i : Nat) => sl.setReg n ((r.getD i 0#64).setWidth 128)
  let sl : Slot :=
    { busy := true, pc := r.getD 2 0#64, record := r
      ctl := { wid := r.getD 1 0#64, vcore := w64 vc, imga := w64 img, root := w64 root, asn := w64 asn } }
  g (g (g (g sl 0 1) 1 3) 2 4) 3 5

end Sys2Proof.Machine
end

