-- ==== Sys2Proof/Machine/Queue.lean ====
section
/-! DEFINITION. The queue forms, receive queues, messages under way, the network-select table and the sump
(spec/11_flumes.md R325 to R348; spec/14_ditch_rider.md R430, R435). -/

namespace Sys2Proof.Machine

/-! ### Addresses of bodies and buffers -/

/-- The physical address that an address named by a queue or sluice form means, or its slice cause (Table 7-11). What it names may take several lines, which a
migration moves one by one: each access to it is sent on by itself. -/
def State.formXl (s : State) (core slot va : Nat) (need : Need) : Except Nat Nat × State :=
  let sp := (s.slotAt core slot).space core slot
  match s.xlate sp va need with
  | (.ok pa _ _ _ _, s) =>
    let at_ := s.redirect pa
    (match s.place (coreBasin core) at_ with
      | .config _ _ => .error 0x31
      | _ => match s.checkMem sp false at_ with
        | some c => .error c
        | none => .ok pa, s)
  | (.miss, s) => (.error 0x34, s)
  | (.bad c _, s) => (.error c, s)

/-- An access wider than 16 bytes is made of accesses of aligned 16 bytes (R114): the bytes of the next of them. -/
def pieceSize (va left : Nat) : Nat := min left (16 - va % 16)

/-- The physical address of the byte `done` of an access whose first page is translated; a byte past that page is translated now. -/
def State.pieceAt (s : State) (core slot va pa done : Nat) (need : Need) : Except Nat Nat × State :=
  if done < 0x10000 - va % 0x10000 then (.ok (pa + done), s) else s.formXl core slot (va + done) need

/-- Whether a line of a piece is owned, or a word of it reserved (R132, R154). -/
def State.pieceHeld (s : State) (p : Nat × Nat) : Bool :=
  (s.owned.any fun o => (s.linesAt p.1 p.2).contains o.line) || s.resv.any fun e => (s.wordsAt p.1 p.2).contains e.1

/-- The cause with which the home of a piece refuses it: a retired home, or a poisoned word that is read. -/
def State.pieceRefused (s : State) (read : Bool) (p : Nat × Nat) : Option Nat :=
  if s.retiredHome p.1 then some 0x3A else if read && (s.firstPoisoned (s.wordsAt p.1 p.2)).isSome then some 0x39 else none

/-! ### Destinations (R340, Table 11-7) -/

/-- A resolved destination: the core, and the module if it is a peer. -/
structure Dest where
  core : Nat
  peer : Option Nat := none
  deriving DecidableEq, Repr

/-- The field rules of a destination word; `vec` is QSENDV. -/
def destFields (d : Nat) (vec : Bool) : Bool :=
  let len := bits d 73 64
  bits d 31 19 == 0 && bits d 127 74 == 0 && !(bit d 16 && bit d 17) &&
    (if bit d 16 then true else if bit d 17 then bits d 63 48 == 0 else bits d 63 32 == 0) &&
    (if vec then decide (8 ≤ len) && decide (len ≤ 512) && len % 8 == 0 else len == 0)

/-- A virtual core in the route cache (R430). -/
def Slot.routeHit (sl : Slot) (core v : Nat) : Option Nat :=
  match sl.route.find? fun w => w.getLsbD 0 && bits w.toNat 31 16 == v with
  | some w =>
    let gx := (gridX core : Int) + sext (bits w.toNat 38 32) 7
    let gy := (gridY core : Int) + sext (bits w.toNat 46 40) 7
    some (gridCore (coreBasin core) gx.toNat gy.toNat)
  | none => none

/-- A resolved member of the thread's own gang, whose number an entry can hold, is kept in its route cache: in the first entry that is not valid, else behind the seven
entries kept last (log entry 20). -/
def Slot.routeAdd (sl : Slot) (core v dst : Nat) : Slot :=
  if 2 ^ 16 ≤ v then sl else
  let d := fun (a b : Nat) => (((a : Int) - b) % 128).toNat
  let e := w64 (1 + v % 2 ^ 16 * 2 ^ 16 + d (gridX dst) (gridX core) * 2 ^ 32 + d (gridY dst) (gridY core) * 2 ^ 40)
  match sl.route.findIdx? fun w => !w.getLsbD 0 with
  | some i => { sl with route := lset sl.route i e }
  | none => { sl with route := sl.route.drop 1 ++ [e] }

/-- A virtual core number of the sender's launch as a core (R340); none where it cannot be resolved. -/
def State.resolveVirt (s : State) (core slot v : Nat) : Option Nat × State :=
  let sl := s.slotAt core slot
  let b := coreBasin core
  match sl.routeHit core v with
  | some k => (some k, s)
  | none => match s.launchOf b sl.group.hdr with
    | none => (none, s)
    | some l =>
      let h := l.words
      if hdrGroups h ≤ v then (none, s)
      else match s.formXl core slot (cmapVa h v ((s.coreAt core).gen % 2)) .read with
        | (.error _, s) => (none, s)
        | (.ok pa, s) =>
          let pa := s.redirect pa
          match s.firstPoisoned [wordOf pa] with
          | some w => (none, s.countUe (8 * w))
          | none =>
            let e := s.mem.read pa 4
            if !bit e 31 then (none, s)
            else match s.logicalCoreIn b (s.coreAt core).gen (bits e 15 0) with
              | none => (none, s)
              | some k =>
                let kin := hdrPlace h == 0 && hdrKlev h != 0 && v / hdrGang h == sl.group.vc / hdrGang h
                (some k, if kin then s.modSlot core slot fun sl => sl.routeAdd core v k else s)

/-- The checks of R340 in their order: the destination, or the cause. -/
def State.resolveDest (s : State) (core slot d : Nat) (vec : Bool) : Except Nat Dest × State :=
  if !destFields d vec then (.error 0x70, s)
  else if bit d 17 then
    (match s.peerPort (coreBasin core) (bits d 47 32) with
      | some port =>
        if s.reachable (coreSite core) (portSite port) then .ok ⟨coreOf (bits d 8 0) (bits d 12 9), some (bits d 47 32)⟩ else .error 0x71
      | none => .error 0x71, s)
  else
    let (k, s) := if bit d 16 then s.resolveVirt core slot (bits d 63 32) else (some (coreOf (bits d 8 0) (bits d 12 9)), s)
    match k with
    | none => (.error 0x75, s)
    | some k =>
      let lost := !s.reachable (coreSite core) (coreSite k) || !isCompute (coreSite k) ||
        (coreBasin k == coreBasin core && !s.coreLive k)
      (if lost then .error 0x71 else .ok ⟨k, none⟩, s)

/-! ### Sends (R341) -/

/-- The operation a send leaves for commit: `v` is the destination core, `reg` one more than the peer module or 0, `size` the body's length. -/
def State.sendOp (s : State) (c : Ctx) (k : OpKind) (n : BitVec 4) (d : Dest) (len va pa : Nat) : State :=
  (s.addOp c.core c.slot
    { kind := k, ix := c.ix, lsid := n.toNat, l := c.l.data, r := c.r.data, v := d.core, va := va, pa := pa, size := len
      reg := match d.peer with | some m => m + 1 | none => 0 }).setSt c.core c.slot c.ix .ready

/-- QSEND and QSENDV when they fire. -/
def State.sendFire (s : State) (vec : Bool) (n : BitVec 4) (c : Ctx) : State :=
  let d := c.r.data.toNat
  let l := c.l.data.toNat
  let bad := fun (s : State) (cause : Nat) => s.raise c.core c.slot cause c.ix false 0 (bits d 63 0)
  if c.l.mask ≠ 0#16 || c.r.mask ≠ 0#16 then s.setSt c.core c.slot c.ix .null
  else if vec && (bits l 63 48 ≠ 0 || bits l 2 0 ≠ 0) then bad s 0x70
  else match s.resolveDest c.core c.slot d vec with
    | (.error e, s) => bad s e
    | (.ok q, s) =>
      if !vec then s.sendOp c .qsend n q 0 0 0
      else match s.formXl c.core c.slot (bits l 47 0) .read with
        | (.error e, s) => s.raise c.core c.slot e c.ix (replayable e) (bits l 47 0) 0
        | (.ok pa, s) => s.sendOp c .qsendv n q (bits d 73 64) (bits l 47 0) pa

def execQsend (p : Pred) (n : BitVec 4) (s : State) : Out :=
  firing p needLR (fun c => s.setSt c.core c.slot c.ix .null) (fun c => s.sendFire false n c) s

def execQsendv (p : Pred) (n : BitVec 4) (s : State) : Out :=
  firing p needLR (fun c => s.setSt c.core c.slot c.ix .null) (fun c => s.sendFire true n c) s

/-- A send leaves its core at commit: a QSENDV reads its body first, and its head is l[127:64] with LEN above it. -/
def State.issueMsg (s : State) (core slot : Nat) (sl : Slot) (r : Run) (op : Op) (vec : Bool) : State :=
  let d := op.r.toNat
  let head := if vec then BitVec.ofNat 128 (op.l.toNat / 2 ^ 64 + op.size * 2 ^ 64) else op.l
  let m : QMsg :=
    { id := s.nextId, core := core, slot := slot, seq := r.seq, lsid := op.lsid, ix := op.ix, wid := sl.ctl.wid, vc := sl.ctl.vcore,
      dest := op.v, qn := bits d 15 13, peer := if op.reg = 0 then none else some (op.reg - 1), nanm := r.nanm.getLsbD 0,
      typed := bit d 18, vec := vec, peerf := op.reg ≠ 0, smod := if op.reg = 0 then 0 else s.mymod, info := w64 (bits d 63 0),
      head := head, len := op.size, bodyPa := op.pa, bodyVa := op.va, st := if vec then .reading else .sent, since := s.time }
  { s.bump with qmsgs := s.qmsgs ++ [m] }

def State.modMsg (s : State) (i : Nat) (f : QMsg → QMsg) : State :=
  { s with qmsgs := s.qmsgs.map fun m => if m.id = i then f m else m }
def State.dropMsg (s : State) (i : Nat) : State := { s with qmsgs := s.qmsgs.filter fun m => decide (m.id ≠ i) }

/-- Whether an access of the core, or of the thread, to a word of a piece left before a place of the core's order and has not performed: a read of a body performs
behind a write of the core and behind the thread's own accesses (R116, R341, Table 4-1). -/
def State.readBehind (s : State) (core slot ord : Nat) (p : Nat × Nat) : Bool :=
  s.reqs.any fun a => a.left && decide (a.core = core) && decide (a.ord < ord) && (a.kind.writes || decide (a.slot = slot)) &&
    a.words.any (s.wordsAt p.1 p.2).contains

/-- The next 16 bytes of the body of a QSENDV are read (R114, R341); with the last of them the message is sent. A failure sends nothing and follows R226 with 0x76 and
the slice cause in SUB. -/
def State.readBody (s : State) (m : QMsg) : State :=
  let done := 8 * m.body.length
  if !(m.st == .reading) || s.acquirePending m.core m.slot m.seq m.lsid then s
  else
    let fail := fun (s : State) (c : Nat) => (s.dropMsg m.id).failAfter m.core m.slot 0x76 m.ix m.bodyVa c
    match s.pieceAt m.core m.slot m.bodyVa m.bodyPa done .read with
    | (.error c, s) => fail s c
    | (.ok pa, s) =>
      let p := (pa, pieceSize (m.bodyVa + done) (m.len - done))
      if s.pieceHeld p || s.readBehind m.core m.slot m.id p || s.engineHeld m.core pa then s
      else match s.pieceRefused true p with
        | some c => fail (if c = 0x39 then s.countUe (8 * ((s.firstPoisoned (s.wordsAt p.1 p.2)).getD 0)) else s) c
        | none =>
          let ws := m.body ++ s.memWords pa (p.2 / 8)
          (s.correct (s.wordsAt p.1 p.2)).modMsg m.id fun m =>
            if 8 * ws.length < m.len then { m with body := ws } else { m with body := ws, st := .sent, since := s.time }

/-! ### Rings (R337, R338) -/

/-- The header words of a message (Table 11-5). -/
def QMsg.header (m : QMsg) : List W64 :=
  let a := m.sender.getD (m.core, m.slot)
  [w64 (coreSite a.1 + coreNum a.1 * 2 ^ 9 + a.2 % 8 * 2 ^ 13 + m.nanm.toNat * 2 ^ 16 + m.typed.toNat * 2 ^ 17 +
      m.vec.toNat * 2 ^ 18 + m.peerf.toNat * 2 ^ 19 + m.qn * 2 ^ 20 + m.len * 2 ^ 32),
    w64 (m.vc.toNat % 2 ^ 32 + m.smod * 2 ^ 32)]

/-- Line 0 of a message, and its body as whole lines. -/
def QMsg.line0 (m : QMsg) : List W64 := m.header ++ [m.head.setWidth 64, w64 (m.head.toNat / 2 ^ 64)] ++ List.replicate 4 0#64
def QMsg.lines (m : QMsg) : Nat := 1 + (m.len + 63) / 64
def QMsg.words (m : QMsg) : List W64 := m.line0 ++ (List.range (8 * (m.lines - 1))).map fun k => m.body.getD k 0#64

def State.queueAt (s : State) (core q : Nat) : RecvQ := (s.coreAt core).queues.getD q {}
def State.modQueue (s : State) (core q : Nat) (f : RecvQ → RecvQ) : State :=
  s.modCore core fun k => { k with queues := lset k.queues q (f (k.queues.getD q {})) }

def RecvQ.used (v : RecvQ) : Nat := if v.count = 0 then 0 else if v.head < v.tail then v.tail - v.head else v.tail + v.size - v.head
def RecvQ.room (v : RecvQ) : Nat := v.size - v.used

/-- The physical address of line i of a ring, counted from line `at_`. -/
def ringLine (core : Nat) (v : RecvQ) (at_ i : Nat) : Nat := slicePa core + 64 * (v.base + (at_ + i) % max 1 v.size)

/-- Write lines of eight words at the tail of a ring. -/
def State.ringPut (s : State) (core q : Nat) (ws : List W64) (n : Nat) : State :=
  let v := s.queueAt core q
  let s := (List.range n).foldl (fun s i => s.unitWrite (ringLine core v v.tail i) ((ws.drop (8 * i)).take 8)) s
  s.modQueue core q fun v => { v with tail := (v.tail + n) % max 1 v.size, count := v.count + 1 }

/-- Word k of the head message. -/
def State.ringWord (s : State) (core q k : Nat) : W64 :=
  let v := s.queueAt core q
  w64 (s.mem.read (ringLine core v v.head (k / 8) + 8 * (k % 8)) 8)

/-- LEN of the head message. -/
def State.headLen (s : State) (core q : Nat) : Nat := bits (s.ringWord core q 0).toNat 41 32

/-- Remove the head message. -/
def State.ringDrop (s : State) (core q : Nat) : State :=
  let n := 1 + (s.headLen core q + 63) / 64
  s.modQueue core q fun v => { v with head := (v.head + n) % max 1 v.size, count := v.count - 1 }

/-! ### Arrival (R342, R138, R333, R435) -/

/-- Whether a message has left its core: its thread's accesses have performed towards its scope, and no earlier message of it is still read (R341, R347). -/
def State.msgSent (s : State) (m : QMsg) : Bool :=
  let far : Bool := m.peer.isSome || coreBasin m.dest ≠ coreBasin m.core
  s.earlierDone m.core m.slot m.seq m.lsid && (!far || s.messagesDone m.core m.slot m.seq m.lsid) &&
    !(s.qmsgs.any fun a => decide (a.id < m.id) && decide (a.core = m.core) && decide (a.slot = m.slot) && decide (a.st = .reading))

/-- On its way, or held at its end. -/
def QMsg.underWay (m : QMsg) : Bool := match m.st with | .sent => true | .held => true | _ => false

/-- Whether a message travels on the same flume to the same interface as another: where that one is held, the input takes no other (R342). -/
def State.sameInput (s : State) (a m : QMsg) : Bool :=
  decide (a.dest = m.dest) && a.peer.isNone && m.peer.isNone && decide ((s.path (s.msgFlight a)).1 = (s.path (s.msgFlight m)).1)

/-- Whether a message may arrive now: it has left its core, no earlier message of its source is before it, its input is free, and nothing holds it on its
way (R138, R330, R333, R334, R342). -/
def State.msgReady (s : State) (m : QMsg) : Bool :=
  s.msgSent m &&
    !(s.qmsgs.any fun a => a.underWay && decide (a.id ≠ m.id) &&
      ((decide (a.id < m.id) && decide (a.core = m.core) && decide (a.dest = m.dest) && decide (a.peer = m.peer)) ||
        (decide (a.st = .held) && s.sameInput a m))) &&
    (decide (m.st = .held) || !s.wayHeld (s.msgFlight m))

/-- Whether a committed send of a core keeps its request-queue entry: it cannot leave, for what holds its route or its input (R341). -/
def State.sendStuck (s : State) (m : QMsg) : Bool :=
  decide (m.st = .sent) && decide (m.slot < 8) && !s.inSumpOf m.id &&
    (!s.msgSent m || s.wayHeld (s.msgFlight m) || s.qmsgs.any fun a => decide (a.st = .held) && decide (a.id ≠ m.id) && s.sameInput a m)

/-- An arriving message of a traced queue leaves an entry (R466). -/
def State.traceMsg (s : State) (core q : Nat) (m : QMsg) : State :=
  (s.tracers (coreBasin core) fun t => decide (t.src = 4) && decide (t.site = coreSite core) && decide (t.core = coreNum core) &&
      decide (t.snum % 8 = q)).foldl (fun s n => let a := m.sender.getD (m.core, m.slot); s.traceEvent (coreBasin core) n 3 a.1 a.2 m.line0) s

/-- A failure of a message reported to its sender; a thread that has retired only has its packet sent, and one of a peer module
is answered. -/
def State.msgFail (s : State) (m : QMsg) (cause : Nat) : State :=
  if 8 ≤ m.slot then s.peerAnswer (2 * linkSites.findIdx (· == coreSite m.core) + (m.slot - 8)) ((m.sender.map Prod.fst).getD 0) m.dest m.id cause
  else
  let sl := s.slotAt m.core m.slot
  if sl.busy && sl.ctl.wid = m.wid && sl.ctl.vcore = m.vc then s.failAfter m.core m.slot cause m.ix 0 m.info.toNat
  else s.sendPkt (coreSite m.core) m.core m.slot
    (packetWords 0x41 (coreSite m.core) (coreNum m.core) m.slot cause m.ix true false false 0 0 m.wid m.info.toNat s.time
      (s.coreAt m.core).lcid m.vc.toNat)

/-- A message whose way ends at a scale-up port leaves through it, or is undeliverable (R332). -/
def State.msgAway (s : State) (m : QMsg) (pmod : Nat) : State :=
  match s.peerPort (coreBasin m.core) pmod with
  | none => (s.dropMsg m.id).msgFail m 0x71
  | some port =>
    if !s.reachable (coreSite m.core) (portSite port) then (s.dropMsg m.id).msgFail m 0x71 else
    let ws := m.words
    let fl := (List.range m.lines).map fun i => flitHeader m.core m.dest 2 m.lines i :: (ws.drop (8 * i)).take 8
    (s.modMsg m.id fun m => { m with st := .away }).peerSend port { id := m.id, pmod := pmod, vc := 2, core := m.core, cmd := m.id, flits := fl }

/-- A message comes to its end: the answer goes back from now on. -/
def State.msgEnds (s : State) (i : Nat) (st : MsgSt) : State := s.modMsg i fun m => { m with st := st, since := s.time }

/-- QUEUE_MESSAGE_ARRIVAL: the last line of a message is written into the ring, or the message is held, sent on to a migration's target, or
refused. One whose acknowledgement would find no route back is refused on its way (R332; log entry 79). -/
def State.msgArrive (s : State) (i : Nat) : State :=
  match s.qmsgs.find? (·.id == i) with
  | none => s
  | some m =>
    if !(m.st == .sent || m.st == .held) || !s.msgReady m then s
    else match m.peer with
      | some p => if m.peerf && m.smod = s.mymod && m.st == .sent then s.msgAway m p else s
      | none =>
        let k := s.coreAt m.dest
        if m.qn < 7 && (k.phase = 3 || k.phase = 4) then s
        else if !s.reachable (coreSite m.dest) (coreSite m.core) then (s.dropMsg i).msgFail m 0x71
        else
          let dst := if m.qn < 7 && k.rdir then k.target else m.dest
          let q := s.queueAt dst m.qn
          if !q.en then s.msgEnds i .refused
          else if q.room < m.lines then
            if m.qn = 7 && dst = s.riderCore (coreSite dst) then (s.modQueue dst 7 fun v => { v with nfull := min (v.nfull + 1) (2 ^ 32 - 1) }).msgEnds i .delivered
            else if m.st == .held then s
            else (s.modQueue dst m.qn fun v => { v with nfull := min (v.nfull + 1) (2 ^ 32 - 1) }).modMsg i fun m => { m with st := .held }
          else ((s.ringPut dst m.qn m.words m.lines).traceMsg dst m.qn m).msgEnds i .delivered

def execQueueMessageArrival (i : Nat) (s : State) : Out := .next (s.msgArrive i)

/-- QUEUE_REFUSAL: the refusal of a disabled queue reaches the sender, with cause 0x74, unless it is held on its way back (R330, R333). -/
def State.msgRefused (s : State) (i : Nat) : State :=
  match s.qmsgs.find? fun m => m.id == i && m.st == .refused with
  | none => s
  | some m => if s.wayHeld (s.msgFlight m) then s else (s.dropMsg i).msgFail m 0x74

def execQueueRefusal (i : Nat) (s : State) : Out := .next (s.msgRefused i)

/-- Whether the peer has answered a message. -/
def State.peerAcked (s : State) (i : Nat) : Bool := !s.peerOut.any fun p => decide (p.id = i)

/-- DELIVERY_ACK: the acknowledgement of a delivered message reaches its sender, unless it is held on its way back (R330, R333, R347). -/
def State.msgAck (s : State) (i : Nat) : State :=
  match s.qmsgs.find? (·.id == i) with
  | none => s
  | some m =>
    if m.st == .delivered then
      if s.wayHeld (s.msgFlight m) then s else (if 8 ≤ m.slot then (s.dropMsg i).msgFail m 0 else s.dropMsg i)
    else if m.st == .away && s.peerAcked i then s.dropMsg i else s

def execDeliveryAck (i : Nat) (s : State) : Out := .next (s.msgAck i)

/-- Lines of a command that lead to a line which cannot be reached. -/
def spoil (line : Nat) (ls : List LineWrite) : List LineWrite := ls.map fun l => if l.line = line then { l with bad := some 0x31 } else l

/-- An ownership request of an engine comes back: the line of its command has the cause 0x31 (R332). -/
def State.lineReturned (s : State) (o : OwnReq) : State :=
  let mark := fun (r : Option Running) => r.map fun r => if r.cmd.id = o.cmd then { r with todo := spoil o.line r.todo } else r
  let s := { s with ownReqs := s.ownReqs.filter fun x => decide (x.id ≠ o.id) }
  let m := s.matAt o.core
  let c := s.copyAt o.core
  let h := s.hvAt o.core
  ((s.setMat o.core { m with load := mark m.load, stream := mark m.stream, task := mark m.task }).setCopy o.core
    { c with active := c.active.map fun e => if e.2.cmd.id = o.cmd then (e.1, { e.2 with todo := spoil o.line e.2.todo }) else e }).setHv o.core
    { h with run := mark h.run }

/-- Whether a read of a command leaves its core's own slice. -/
def State.readLeaves (s : State) (c : Cmd) (va : Nat) : Bool :=
  match (s.engineXl c.sp va .read).1 with
  | .ok pa => decide (homeOf pa ≠ homeOf (slicePa c.core))
  | .error _ => false

/-- The next source read of the engine command i comes back: its memory fault with SUB 0x31 (R332). -/
def State.readReturned (s : State) (i : Nat) : State :=
  let at_ := fun (c : Cmd) (x : Fed Unit) (f : Nat → Nat → State) => match x with
    | .need va _ row => if s.readLeaves c va then f va row else s
    | _ => s
  match s.mats.findSome? fun e => (((e.2.load.toList ++ e.2.stream.toList).map fun r => (r, false)) ++ e.2.task.toList.map fun r => (r, true)).find? fun r =>
      decide (r.1.cmd.id = i) with
  | some (r, t) => at_ r.cmd (s.matReads r t) fun va row => s.matFault r t 0x46 0x31 va row
  | none => match s.copies.findSome? fun e => (e.2.active.find? fun a => decide (a.2.cmd.id = i)).map Prod.snd with
    | some r => at_ r.cmd r.cmd.nextRead fun va _ => s.copyFault r 0x52 0x31 va 0 false
    | none => match s.hvs.findSome? fun e => e.2.run.filter fun r => decide (r.cmd.id = i) with
      | some r => at_ r.cmd ((s.hvWork r).bind fun _ => .ok ()) fun va _ => s.hvFault r.cmd 0x61 0x31 va r.entry
      | none => s

/-- UNDELIVERABLE_RETURN: a message that met a dead link comes back (R332): a send follows R226 with 0x71, an access takes the address fault 0x31, and an engine
access its engine's memory fault with SUB 0x31. -/
def State.undeliverable (s : State) (i : Nat) : State :=
  match s.qmsgs.find? fun m => m.id == i && m.st == .sent with
  | some m => if s.msgReady m then (s.dropMsg i).msgFail m 0x71 else s
  | none => match s.reqs.find? fun q => q.id == i && q.st == .sent && !q.kind.isFence with
    | some q => if s.holdsBack q || homeOf q.pa = homeOf (slicePa q.core) then s else s.refuse q 0x31
    | none => match s.ownReqs.find? fun o => o.id == i with
      | some o => if s.requestHeld o || homeOf (64 * o.line) = homeOf (slicePa o.core) then s else s.lineReturned o
      | none => s.readReturned i

def execUndeliverableReturn (i : Nat) (s : State) : Out := .next (s.undeliverable i)

/-! ### Receives (R343, R344) -/

/-- QRECV and QRECVD when they fire: the operand's rules, BUF's translation, and for QRECV the request for a reservation. -/
def State.recvFire (s : State) (reg : Option Nat) (n : BitVec 4) (c : Ctx) : State :=
  let l := c.l.data.toNat
  let buf := bits l 47 0
  let qn := bits l 66 64
  if c.l.mask ≠ 0#16 then s.setSt c.core c.slot c.ix .null
  else if bits l 63 48 ≠ 0 || bits l 127 67 ≠ 0 || buf % 8 ≠ 0 then s.raise c.core c.slot 0x70 c.ix false 0 qn
  else
    let (x, s) := if buf = 0 then (.ok 0, s) else s.formXl c.core c.slot buf .write
    match x with
    | .error e => s.raise c.core c.slot e c.ix (replayable e) buf 0
    | .ok pa =>
      let op : Op :=
        { kind := match reg with | some r => .qrecvd r | none => .qrecv
          ix := c.ix, lsid := n.toNat, l := c.l.data, va := buf, pa := pa, reg := reg.getD 0, req := s.nextId, size := qn }
      let s := s.addOp c.core c.slot op
      match reg with
      | some _ => s.setSt c.core c.slot c.ix .ready
      | none =>
        let q : RecvReq :=
          { id := s.nextId, core := c.core, slot := c.slot, ix := c.ix, seq := c.run.seq, lsid := n.toNat, qn := qn, bufVa := buf, bufPa := pa,
            nanm := c.run.nanm.getLsbD 0, since := s.time }
        ({ s.bump with recvs := s.recvs ++ [q] } : State).setSt c.core c.slot c.ix (.wait s.time)

def execQrecv (p : Pred) (n : BitVec 4) (_t : Option Target) (s : State) : Out :=
  firing p needL (fun c => s.setSt c.core c.slot c.ix .null) (fun c => s.recvFire none n c) s

def execQrecvd (p : Pred) (n : BitVec 4) (r : BitVec 6) (s : State) : Out :=
  firing p needL (fun c => s.setSt c.core c.slot c.ix .null) (fun c => s.recvFire (some r.toNat) n c) s

/-- A receive leaves its core at commit: a QRECV with its reservation, a QRECVD as a new request that has marked its register. -/
def State.issueRecv (s : State) (core slot : Nat) (r : Run) (op : Op) : State :=
  match op.kind with
  | .qrecvd reg =>
    let q : RecvReq :=
      { id := s.nextId, core := core, slot := slot, ix := op.ix, seq := r.seq, lsid := op.lsid, qn := op.size, bufVa := op.va, bufPa := op.pa,
        nanm := r.nanm.getLsbD 0, deferred := some reg, left := true, since := s.time, ord := s.nextId }
    ({ s.bump with recvs := s.recvs ++ [q] } : State).modSlot core slot fun sl => sl.markEmpty reg
  | _ => { s.bump with recvs := s.recvs.map fun q => if q.id = op.req then { q with left := true, ord := s.nextId } else q }

/-- Whether a receive is still held in its core: behind an earlier acquire or tag wait. -/
def State.recvHeld (s : State) (q : RecvReq) : Bool :=
  if q.left then s.acquirePending q.core q.slot q.seq q.lsid ||
    s.reqs.any fun a => a.left && a.kind.acquires && decide (a.core = q.core) && decide (a.slot = q.slot) && earlier a.seq a.lsid q.seq q.lsid
  else match s.runAt q.core q.slot with
    | some r => r.heldByWait (s.cyc q.core) q.lsid
    | none => false

/-- QUEUE_RESERVATION_GRANT: the oldest request of a queue is granted its head message, or fails its NANM check. -/
def State.recvGrant (s : State) (core q : Nat) : State :=
  let mine := s.recvs.filter fun r => decide (r.core = core) && decide (r.qn = q) && r.taken.isNone
  if (mine.any fun r => r.granted) || (s.queueAt core q).count = 0 then s
  else match mine.find? fun r => !s.recvHeld r with
    | none => s
    | some r =>
      let h := (s.ringWord core q 0).toNat
      if bit h 17 && bit h 16 != r.nanm then
        match r.deferred with
        | none => s.raise core r.slot 0x73 r.ix false 0 q
        | some _ => ({ s with recvs := s.recvs.filter fun x => decide (x.id ≠ r.id) } : State).failAfter core r.slot 0x73 r.ix 0 q
      else
        let s := { s with recvs := s.recvs.map fun x => if x.id = r.id then { x with granted := true } else x }
        if r.left then s else s.setSt core r.slot r.ix .ready

def execQueueReservationGrant (c q : Nat) (s : State) : Out := .next (s.recvGrant c q)

/-- Whether a write that a committed form of a thread makes to a piece still follows what has not performed: the thread's earlier reads, acquires and fences, and
the writes of the core to the same home that left before it (Table 4-1, R121). -/
def State.writeBehind (s : State) (core slot seq lsid ord : Nat) (p : Nat × Nat) : Bool :=
  s.reqs.any fun a => a.left && decide (a.core = core) &&
    ((decide (a.slot = slot) && earlier a.seq a.lsid seq lsid &&
        (a.kind.reads || a.kind.acquires || a.kind.isFence || a.words.any (s.wordsAt p.1 p.2).contains)) ||
      (decide (a.ord < ord) && a.kind.writes && decide (homeOf a.pa = homeOf (s.redirect p.1))))

/-- A receive ends: its head becomes the token or the fill, or its body could not be written (R343, R344). -/
def State.recvDone (s : State) (r : RecvReq) (head : W128) (ok : Bool) : State :=
  let s := { s with recvs := s.recvs.filter fun x => decide (x.id ≠ r.id) }
  let result := fun (s : State) (v : Option W128) =>
    { s.bump with results := s.results ++ [{ id := s.nextId, core := r.core, slot := r.slot, seq := r.seq, ix := r.ix, val := v }] }
  match ok, r.deferred with
  | true, some g => { s.bump with fills := s.fills ++ [{ id := s.nextId, core := r.core, slot := r.slot, reg := g, val := head }] }
  | true, none => result s (some head)
  | false, some _ => s.failAfter r.core r.slot 0x77 r.ix r.bufVa 0
  | false, none => result (s.failAfter r.core r.slot 0x77 r.ix r.bufVa 0) none

/-- The next 16 bytes of a received body are written at BUF, and siblings that have loaded a word written replay (R114, R156, R343); with the last of them the
receive ends. -/
def State.recvWrite (s : State) (r : RecvReq) (head : W128) : State :=
  if r.body.isEmpty then s.recvDone r head true
  else match s.pieceAt r.core r.slot r.bufVa r.bufPa r.put .write with
    | (.error _, s) => s.recvDone r head false
    | (.ok pa, s) =>
      let p := (pa, pieceSize (r.bufVa + r.put) (8 * r.body.length))
      if s.pieceHeld p || s.engineHeld r.core pa || s.writeBehind r.core r.slot r.seq r.lsid r.ord p then s
      else if (s.pieceRefused false p).isSome then s.recvDone r head false
      else
        let r' := { r with body := r.body.drop (p.2 / 8), put := r.put + p.2 }
        let s := (s.unitWrite pa (r.body.take (p.2 / 8))).replaySiblings r.core r.slot (s.wordsAt p.1 p.2)
        if r'.body.isEmpty then s.recvDone r' head true
        else { s with recvs := s.recvs.map fun x => if x.id = r.id then r' else x }

/-- A committed receive performs in its LSID place (R343, R344): it takes its message out of the queue, writes the body at BUF, 16 bytes at a time, and delivers
the head once those writes have performed. A body that cannot be written still removes the message. -/
def State.recvTake (s : State) (r : RecvReq) : State :=
  match r.taken with
  | some head => s.recvWrite r head
  | none =>
    if !r.left || !r.granted || s.recvHeld r then s
    else
      let head := BitVec.ofNat 128 ((s.ringWord r.core r.qn 2).toNat + (s.ringWord r.core r.qn 3).toNat * 2 ^ 64)
      let body := if r.bufVa = 0 then [] else (List.range (s.headLen r.core r.qn / 8)).map fun k => s.ringWord r.core r.qn (8 + k)
      let r' := { r with taken := some head, body := body, granted := false }
      let s := ({ s with recvs := s.recvs.map fun x => if x.id = r.id then r' else x } : State).ringDrop r.core r.qn
      s.recvWrite r' head

/-! ### QPOLL and QSTAT (R345, R346) -/

def State.pollFire (s : State) (t : Option Target) (c : Ctx) : State :=
  let l := c.l.data.toNat
  if c.l.mask ≠ 0#16 then s.fireToken c t none 6 nullToken 0#6
  else if l / 8 ≠ 0 then s.raise c.core c.slot 0x70 c.ix false 0 (bits l 2 0)
  else
    let q := bits l 2 0
    let v := s.queueAt c.core q
    let w := if v.count = 0 then 0#64 else s.ringWord c.core q 0
    s.fireToken c t none 6 { data := BitVec.ofNat 128 (v.count % 2 ^ 16 + v.room % 2 ^ 16 * 2 ^ 16 + v.en.toNat * 2 ^ 32 + w.toNat * 2 ^ 64) } 0#6

def execQpoll (p : Pred) (_n : BitVec 4) (t : Option Target) (s : State) : Out :=
  firing p needL (fun c => s.fireToken c t none 6 nullToken 0#6) (fun c => s.pollFire t c) s

/-- Flits in the sump of a site (R334). -/
def State.sumpFlits (s : State) (n : Nat) : Nat := (s.siteAt n).sump.foldl (fun k x => k + match s.flightOf x.1 with | some f => f.flits | none => 0) 0

/-- The hops of a route and whether it crosses a seam (R325, R331). -/
def State.routeInfo (s : State) (src dst : Nat) : Nat × Bool :=
  let ls := linksOf (s.path { id := s.nextId, chan := .command, key := s.nextId, src := src, dst := dst }).2
  (ls.length, ls.any fun l => decide (basinOf (meshSite l.1) ≠ basinOf (meshSite l.2)))

/-- QSTAT's token for a destination, or for one that cannot be reached. A peer's route is the route to its port. -/
def State.qstatToken (s : State) (src : Nat) (d : Option Nat) : Token :=
  let n := coreSite src
  let f := s.sumpFlits n
  let sump := (if f = 0 then 0 else 1) * 2 ^ 33 + f * 2 ^ 34
  match d with
  | none => { data := BitVec.ofNat 128 (3 + sump) }
  | some k =>
    let r := s.routeInfo src k
    { data := BitVec.ofNat 128 (s.nstEntry n (coreSite k) + (s.routeHeld n (coreSite k) s.nextId).toNat * 4 + r.1 * 2 ^ 16 + r.2.toNat * 2 ^ 32 + sump) }

def State.qstatFire (s : State) (t : Option Target) (c : Ctx) : State :=
  let d := c.l.data.toNat
  if c.l.mask ≠ 0#16 then s.fireToken c t none 6 nullToken 0#6
  else
    match s.resolveDest c.core c.slot d false with
    | (.error e, s) => if e = 0x70 then s.raise c.core c.slot 0x70 c.ix false 0 (bits d 63 0) else s.fireToken c t none 6 (s.qstatToken c.core none) 0#6
    | (.ok q, s) =>
      let k := match q.peer with | some m => coreOf (portSite ((s.peerPort (coreBasin c.core) m).getD 0)) 0 | none => q.core
      s.fireToken c t none 6 (s.qstatToken c.core (some k)) 0#6

def execQstat (p : Pred) (_n : BitVec 4) (t : Option Target) (s : State) : Out :=
  firing p needL (fun c => s.fireToken c t none 6 nullToken 0#6) (fun c => s.qstatFire t c) s

/-! ### The sump (R334, R335) -/

/-- Flit places, of nine words each, that the sump of an S, H or G site has lost to words found bad at bring-up (R443). -/
def State.sumpLost (s : State) (n : Nat) : Nat := (((mget s.part.badPlaces n []).map (· / 9)).eraseDups).length

/-- Whether a message is on its way: it has left its core, and has neither arrived nor gone into a sump. -/
def State.travels (s : State) (i : Nat) : Bool :=
  !s.inSumpOf i &&
    match s.qmsgs.find? (·.id == i) with
    | some m => (decide (m.st = .sent) && s.msgSent m) || decide (m.st = .delivered) || decide (m.st = .refused)
    | none => match s.reqs.find? (·.id == i) with
      | some q => !q.kind.isFence && decide (homeOf q.pa ≠ homeOf (slicePa q.core)) &&
          (decide (q.st = .sent) || (q.left && decide (q.st = .reserved))) && !s.holdsBack q
      | none => match s.ownReqs.find? (·.id == i) with
        | some o => decide (homeOf (64 * o.line) ≠ homeOf (slicePa o.core)) && !s.requestHeld o
        | none => (s.flightOf i).isSome

/-- The address at which the sump of a P, T or M site begins (R204). -/
def State.sumpPa (s : State) (n : Nat) : Option Nat :=
  match siteKind n with
  | .memory => some (n * 2 ^ 37 + 0x18000000 - 0x20000)
  | _ => if isCompute n then let k := s.riderCore n; some (slicePa k + sliceBytes k - 0x20000) else none

/-- The eight words of payload of flit j of a message: the lines of a queue message (R338), the words of a packet (R416), or what the spec does not lay out. -/
def State.flitPayload (s : State) (f : Flight) (j : Nat) : List W64 :=
  match s.qmsgs.find? (·.id == f.id), s.pkts.find? (·.id == f.id) with
  | some m, _ => if f.chan = .command then (m.words.drop (8 * j)).take 8 else (List.range 8).map (Config.flitWord f.chan.num f.id j)
  | none, some p => p.words
  | none, none => (List.range 8).map (Config.flitWord f.chan.num f.id j)

/-- The nine words of flit j of a message in the sump of site n. -/
def State.sumpFlit (s : State) (n i j : Nat) : List W64 :=
  match s.flightOf i with
  | none => []
  | some f => (flitHeader f.src f.dst f.chan.num f.flits j (s.wayAhead f n) ||| 0x40000000000000#64) :: s.flitPayload f j

/-- The flit place that the next message takes in a sump: behind the last, which go round (log entry 85). -/
def State.sumpNext (s : State) (n : Nat) : Nat :=
  match (s.siteAt n).sump.getLast? with
  | some x => (x.2 + match s.flightOf x.1 with | some f => f.flits | none => 0) % 1820
  | none => 0

/-- The nine words of a flit are written at a flit place of the sump of a site: in its memory, or the sump memory of an S, H or G chiplet (R334). -/
def State.sumpPut (s : State) (n place : Nat) (ws : List W64) : State :=
  match s.sumpPa n with
  | some a => s.unitWrite (a + 72 * place) ws
  | none => s.modSite n fun v => { v with sumpw := (List.range 9).foldl (fun m k => mset 0#64 m (9 * place + k) (ws.getD k 0#64)) v.sumpw }

/-- A message goes into the sump of a site: its flits are written there. -/
def State.intoSump (s : State) (n : Nat) (f : Flight) : State :=
  let at_ := s.sumpNext n
  let s := (List.range f.flits).foldl (fun (s : State) j => s.sumpPut n ((at_ + j) % 1820) (s.sumpFlit n f.id j)) s
  s.modSite n fun v => { v with sump := v.sump ++ [(f.id, at_)] }

/-- The time within an interval that lies in the windows of relocks begun at some TIMEs, given in ascending order; what is counted before `from_` is not counted
again. -/
def relockTime (from_ till : Nat) : List Nat → Nat
  | [] => 0
  | t :: ts =>
    let a := max from_ t
    let b := min till (t + 1500)
    (b - a) + relockTime (max from_ b) till ts

/-- How long a message has been under way without moving: relocks of the seams of its route do not count (R330, R334; log entry 85). -/
def State.stalled (s : State) (f : Flight) : Nat :=
  let seams := (linksOf (s.path f).2).flatMap fun l =>
    let a := basinOf (meshSite l.1)
    let b := basinOf (meshSite l.2)
    if a = b then [] else [a, b]
  let starts := (seams.flatMap fun b => (s.basinAt b).relocks).foldl sins []
  (s.time - f.since) - relockTime f.since s.time starts

/-- SUMP_SPILL: a link controller of site n whose channel has stood still for 20 µs spills message i, or one that comes behind what it has spilled; the
messages of one source to one destination in their order. A full sump takes nothing (R334, R335). -/
def State.sumpSpill (s : State) (n i : Nat) : State :=
  match s.flightOf i with
  | none => s
  | some f =>
    let passes := (linksOf (s.path f).2).any fun l => decide (meshSite l.1 = n)
    let before := fun (g : Flight) => decide (g.chan = f.chan) && decide (g.src = f.src) && decide (g.dst = f.dst) &&
      (decide (g.ord < f.ord) || (decide (g.ord = f.ord) && decide (g.id < f.id))) && s.travels g.id
    if !siteExists n || !s.travels i || !passes || !(decide (20000 ≤ s.stalled f) || s.spillsAt n f) || s.flights.any before ||
        1820 < s.sumpFlits n + f.flits + s.sumpLost n then s
    else s.intoSump n f

def execSumpSpill (n i : Nat) (s : State) : Out := .next (s.sumpSpill n i)

/-- SUMP_DRAIN: the oldest message in the sump goes on its way. -/
def State.sumpDrain (s : State) (n : Nat) : State := s.modSite n fun v => { v with sump := v.sump.drop 1 }

def execSumpDrain (n : Nat) (s : State) : Out := .next (s.sumpDrain n)

/-! ### The network-select table (R331, R333) -/

/-- Whether mesh coordinates lie in a corner site. -/
def inCorner (x y : Nat) : Bool := decide (x < 88) && decide (y < 88) && siteKind (siteAtXY (x / 4) (y / 4)) == .corner

/-- The keys of the messages on their way from a site to another, which the markers of a change follow. -/
def State.sentTo (s : State) (n dst : Nat) : List Nat :=
  let held := fun (i : Nat) => s.qmsgs.any fun m => decide (m.id = i) && decide (m.st = .held)
  (s.flights.filter fun f => decide (coreSite f.src = n) && decide (coreSite f.dst = dst) && (s.travels f.id || s.inSumpOf f.id || held f.id)).map Flight.key

/-- One entry changes: the old route's markers go out; a change whose predecessor still awaits markers waits. -/
def State.nstChange (s : State) (n dst e : Nat) : State :=
  let v := s.siteAt n
  if !siteExists dst || mget v.nst dst 3 = e && !(v.nstWait.any fun w => w.1 == dst) then s
  else if v.marks.any fun m => m.dst == dst then s.setSite n { v with nstWait := v.nstWait.filter (·.1 ≠ dst) ++ [(dst, e)] }
  else s.setSite n { v with nst := mset 3 v.nst dst e, marks := v.marks ++ [⟨dst, s.sentTo n dst, mget v.nst dst 3, v.wx, v.wy⟩] }

/-- DETOUR changes: markers go out along the old route of every entry 10; the change waits while one of them still awaits markers (R333). -/
def State.wayChange (s : State) (n x y : Nat) : State :=
  let v := s.siteAt n
  let via := (v.nst.filter fun e => e.2 == 2).map Prod.fst
  if v.wx = x && v.wy = y then s.setSite n { v with wayWait := none }
  else if v.marks.any fun m => via.contains m.dst then s.setSite n { v with wayWait := some (x, y) }
  else s.setSite n { v with wx := x, wy := y, wayWait := none, marks := v.marks ++ via.map fun d => ⟨d, s.sentTo n d, 2, v.wx, v.wy⟩ }

/-- NST_WRITE: a write of word k of the network-select body of a site. -/
def State.nstWrite (s : State) (n k : Nat) (v : W64) : State :=
  if !siteExists n then s
  else if k = 0 then (if inCorner (bits v.toNat 6 0) (bits v.toNat 14 8) then s else s.wayChange n (bits v.toNat 6 0) (bits v.toNat 14 8))
  else if 16 < k then s
  else (List.range 32).foldl (fun s j => s.nstChange n (32 * (k - 1) + j) (bits v.toNat (2 * j + 1) (2 * j))) s

def execNstWrite (n k : Nat) (v : W64) (s : State) : Out := s.taken (s.answers n) (s.nstWrite n k v)

/-- MARKER_ACK: the last marker of the oldest changed entry all of whose messages have arrived is acknowledged, and a change that waited for it goes
out. -/
def State.markerAck (s : State) (n : Nat) : State :=
  let v := s.siteAt n
  match v.marks.find? fun m => !(s.sentTo n m.dst).any m.keys.contains with
  | none => s
  | some m =>
    let s := s.setSite n { v with marks := v.marks.filter (·.dst ≠ m.dst), nstWait := v.nstWait.filter (·.1 ≠ m.dst) }
    let s := match v.nstWait.find? (·.1 == m.dst) with
      | some w => s.nstChange n w.1 w.2
      | none => s
    match (s.siteAt n).wayWait with
    | some w => s.wayChange n w.1 w.2
    | none => s

def execMarkerAck (n : Nat) (s : State) : Out := .next (s.markerAck n)

/-! ### Descriptor writes (R337) -/

/-- QUEUE_EN_WRITE: a write of W0 of a descriptor. -/
def State.queueEnWrite (s : State) (core q : Nat) (v : W64) : State :=
  if 8 ≤ q then s
  else s.modQueue core q fun d =>
    let d := if d.en then d else { d with base := bits v.toNat 21 6, size := bits v.toNat 46 32 }
    let ok := decide (16 ≤ d.size) && decide (d.size ≤ 16384) && decide (64 * (d.base + d.size) ≤ sliceBytes core)
    { d with en := v.getLsbD 0 && (d.en || ok) }

def execQueueEnWrite (c q : Nat) (v : W64) (s : State) : Out := s.taken (s.answers (coreSite c)) (s.queueEnWrite c q v)

/-- End the reservation of a queue: the block that holds it replays; a committed receive waits for its next message (R337, R156). -/
def State.endReservation (s : State) (core q : Nat) : State :=
  match s.recvs.find? fun r => decide (r.core = core) && decide (r.qn = q) && r.granted with
  | none => s
  | some r =>
    if r.left then { s with recvs := s.recvs.map fun x => if x.id = r.id then { x with granted := false } else x }
    else s.replay core r.slot

/-- QUEUE_DISC: the head message is removed unread. -/
def State.queueDisc (s : State) (core q : Nat) : State :=
  if 8 ≤ q then s
  else
    let s := s.endReservation core q
    if (s.queueAt core q).count = 0 then s else s.ringDrop core q

def execQueueDisc (c q : Nat) (s : State) : Out := s.taken (s.answers (coreSite c)) (s.queueDisc c q)

/-- The sessions of a basin that trace a ditch or queue that is emptied owe a reset marker (R467). -/
def State.traceReset (s : State) (b : Nat) (p : TraceSession → Bool) : State :=
  (s.tracers b p).foldl (fun s n =>
    (s.modBasin b fun v => { v with traces := mput v.traces n { mget v.traces n {} with owed := (mget v.traces n {}).owed ++ [.reset s.time] } }).traceOwed b n) s

/-- QUEUE_RESET: the queue is emptied. -/
def State.queueReset (s : State) (core q : Nat) : State :=
  if 8 ≤ q then s
  else ((s.endReservation core q).modQueue core q fun d => { d with head := 0, tail := 0, count := 0 }).traceReset (coreBasin core)
    fun t => decide (t.src = 4) && decide (t.site = coreSite core) && decide (t.core = coreNum core) && decide (t.snum % 8 = q)

def execQueueReset (c q : Nat) (s : State) : Out := s.taken (s.answers (coreSite c)) (s.queueReset c q)

end Sys2Proof.Machine
end

