-- ==== Sys2Proof/Machine/Weir.lean ====
section
/-! DEFINITION. The weir: its forms, barrier cells, frequency steps, waits and gating (spec/12_weir.md R351 to R377). -/

namespace Sys2Proof.Machine

/-! ### Cells (R358 to R363) -/

def State.cellAt (s : State) (b n : Nat) : Cell := mget (s.basinAt b).cells n {}
def State.modCell (s : State) (b n : Nat) (f : Cell → Cell) : State :=
  s.modBasin b fun v => { v with cells := mput v.cells n (f (mget v.cells n {})) }

/-- The releases that the weir units know at a TIME. Waiters act on the TIME of their clk (R361). -/
def Cell.known (c : Cell) (time : Nat) : List Release := c.rels.filter fun r => decide (r.rtime ≤ time)

/-- RGEN: the generations released (R359). -/
def Cell.rgen (c : Cell) (time : Nat) : Nat := match (c.known time).head? with | some r => (r.gen + 1) % 65536 | none => 0

/-- RGEN with every release announced counted: the oldest generation that is not yet released. -/
def Cell.nextRel (c : Cell) : Nat := match c.rels.head? with | some r => (r.gen + 1) % 65536 | none => 0

/-- The first beat start at or after a TIME. -/
def beatStart (time : Nat) : Nat := (time + 63) / 64 * 64

/-- TIME of the next edge of a basin in units of 1/m ns: epoch + 10 (edges + 1) / m (R354). -/
def Basin.edgeNum (v : Basin) : Nat := v.epoch * v.m + 10 * (v.edges + 1)

/-- Whether a TIME lies at or before the next edge. -/
def Basin.beforeEdge (v : Basin) (t : Nat) : Bool := decide (t * v.m ≤ v.edgeNum)

/-- Whether no clk of any basin has begun after a TIME. -/
def State.notPast (s : State) (t : Nat) : Bool :=
  (List.range 4).all fun i => let v := s.basinAt i; !v.on || decide (v.epoch * v.m + 10 * v.edges ≤ t * v.m)

/-- Whether every clk that begins before a TIME has begun. -/
def State.upTo (s : State) (t : Nat) : Bool := (List.range 4).all fun i => !(s.basinAt i).on || (s.basinAt i).beforeEdge t

/-- Whether phase 0 is over in every basin of a part with power: its TIME does not pass its end before (R440). -/
def State.phase0Over (s : State) : Bool :=
  !s.powered || (List.range 4).all fun b => decide ((s.basinAt b).phase ≠ 0) || decide ((s.basinAt b).tstart ≠ 0)

/-- The first beat start that is not past (R360). -/
def State.nextBeat (s : State) : Nat := if s.notPast (beatStart s.time) then beatStart s.time else beatStart (s.time + 1)

/-- A generation is released in a basin. A module generation that the basin's own abort has ended already is not released again (R362, log entry 90). -/
def State.releaseCell (s : State) (b n : Nat) (r : Release) : State :=
  s.modCell b n fun c => if c.rels ≠ [] ∧ 32768 ≤ (r.gen + 65536 - c.nextRel) % 65536 then c else { c with rels := r :: c.rels }

/-- The root of a module cell: its part in the lowest basin of BMASK. -/
def Cell.root (c : Cell) : Option Nat := (List.range 4).find? fun i => bit c.bmask i

/-- The token of a release (Table 12-5). -/
def Release.token (r : Release) : Token :=
  { data := BitVec.ofNat 128 (r.gen % 65536 + r.abort.toNat * 2 ^ 16 + r.late.toNat * 2 ^ 17 + r.rtime * 2 ^ 64) }

/-- The WWAITs of a block that wait, with their cells and generations. -/
def Run.waitingWwaits (r : Run) : List (Nat × Nat × Nat) :=
  (List.range r.words.length).filterMap fun i => match (r.inst i).st, r.instr i with
    | .wait _, some (.wwait ..) =>
      let l := ((r.inst i).l.getD {}).data.toNat
      some (i, bits l 5 0, bits l 31 16)
    | _, _ => none

/-- The generation of a cell that a barrier wait word waits for. -/
def barGen (n : Nat) (w : W64) : List Nat := if bits w.toNat 5 0 = n ∧ w.getLsbD 6 then [bits w.toNat 31 16] else []

/-- The generations of a cell that threads of its basin wait for: WBARs and WWAITs in slots, and WBARs of saved threads. -/
def State.waitedGens (s : State) (b n : Nat) : List Nat :=
  let ofRun := fun (r : Run) => (r.bars.flatMap fun w => barGen n w.2) ++ (r.waitingWwaits.filter fun w => decide (w.2.1 = n)).map fun w => w.2.2
  ((s.slots.filter fun e => e.2.busy && decide (coreBasin (e.1 / 8) = b)).flatMap fun e => barGen n e.2.barWait ++ (e.2.run.toList.flatMap ofRun)) ++
    (s.asleep.filter fun e => decide (coreBasin (homePos (s.redirect e.1)) = b)).flatMap fun e =>
      barGen n (w64 (s.mem.read (s.redirect (e.1 + 8 * 168)) 8)) ++ ofRun e.2

/-- Clearing EN ends the current generation as an abort where arrivals are counted or threads wait for a generation that is not released: with it end the
generations that a part of a module cell has completed and that are not released (R362, R363; log entry 90). -/
def State.cellAbort (s : State) (b n : Nat) : State :=
  let c := s.cellAt b n
  let open_ := (c.gen + 65536 - c.nextRel) % 65536
  if c.count = 0 && !((s.waitedGens b n).any fun g => decide ((g + 65536 - c.nextRel) % 65536 ≤ open_)) then s
  else
    let gens := if c.mod then (List.range (open_ + 1)).map fun i => (c.nextRel + i) % 65536 else [c.gen]
    gens.foldl (fun s g => s.releaseCell b n { gen := g, rtime := beatStart (s.time + 1), abort := true })
      (s.modCell b n fun c => { c with count := 0, gen := (c.gen + 1) % 65536 })

/-- BARRIER_CELL_WRITE (R358, R362): a write of word k of the cells of a basin, word k mod 4 of cell k div 4. While EN is 1 only W0 with EN 0
acts, and it clears EN alone. -/
def State.cellWrite (s : State) (b k : Nat) (v : W64) : State :=
  let n := k / 4
  if 64 ≤ n || 4 ≤ b then s
  else
    let c := s.cellAt b n
    if c.en then
      if k % 4 = 0 && !v.getLsbD 0 then (s.modCell b n fun c => { c with en := false }).cellAbort b n else s
    else match k % 4 with
      | 0 =>
        let x := v.toNat
        s.modCell b n fun c =>
          { c with
            en := bit x 0 && bits x 23 8 ≠ 0
            mod := if n < 48 && bit x 1 then c.mod else bit x 1
            bmask := bits x 5 2
            boost := bit x 6
            expect := bits x 23 8 }
      | 2 => if v.getLsbD 1 then s.modCell b n fun c => { c with err := false } else s
      | _ => s

def execBarrierCellWrite (b k : Nat) (v : W64) (s : State) : Out := s.taken (s.basinAnswers b) (s.cellWrite b k v)

/-- The words of a cell (Table 12-3). -/
def State.cellRead (s : State) (b k : Nat) : W64 :=
  let c := s.cellAt b (k / 4)
  let last := (c.known s.time).head?
  match k % 4 with
  | 0 => w64 (c.en.toNat + c.mod.toNat * 2 + c.bmask * 4 + c.boost.toNat * 2 ^ 6 + c.expect * 2 ^ 8 + c.gen * 2 ^ 32 + c.count * 2 ^ 48)
  | 1 => w64 ((last.map Release.rtime).getD 0)
  | 2 => w64 (((last.map Release.late).getD false).toNat + c.err.toNat * 2)
  | _ => if c.mod && c.root = some b then w64 c.mgen else 0#64

/-! ### Frequency steps (R354 to R357, R365, R462) -/

/-- First multiple of 1,024 at or after a TIME. -/
def syncCount (t : Nat) : Nat := (t + 1023) / 1024 * 1024

/-- A pending step whose Ts is the Tw of a width change of a site of its basin moves on, until it meets none (R459). -/
def State.shiftBy (s : State) (b : Nat) : Nat → State
  | 0 => s
  | fuel + 1 =>
    let v := s.basinAt b
    if v.stepPend && (s.links.any fun e => decide (basinOf (portSite e.1) = b) && e.2.tw == some v.pts) then
      State.shiftBy (s.setBasin b { v with pts := v.pts + 1024, moved := true }) b fuel
    else s
def State.shiftStep (s : State) (b : Nat) : State := s.shiftBy b (s.links.length + 1)

/-- A step request on its way to the headgate of a basin. -/
def State.askStep (s : State) (src b m ts : Nat) (kind : StepKind) : State :=
  { s.bump with stepReqs := s.stepReqs ++ [⟨s.nextId, b, m, ts, kind, src, s.time⟩] }

/-- A boost, or the return from one. -/
def StepKind.isBoost : StepKind → Bool
  | .boost _ _ _ => true | .back => true | _ => false

/-- The boost a step request asks for, by the generation of the root's cell. -/
def StepKind.boostOf : StepKind → Option (Nat × Nat × Nat)
  | .boost root cell gen => some (root, cell, gen) | _ => none

/-- A refused request is counted; one of the arbiter's lets it decide again 64 µs later. -/
def State.stepRefused (s : State) (r : StepReq) : State :=
  let s := s.modBasin r.basin fun v => { v with nref := min (v.nref + 1) (2 ^ 32 - 1) }
  if r.kind = .power then { s with pbusy := none, pdue := s.time + 64000 } else s

/-- A boost of a basin, pending or asked for, and its return are cancelled (R365). -/
def State.cancelBoost (s : State) (b : Nat) : State :=
  { s.modBasin b fun v => { v with boost := none, back := false, stepPend := v.stepPend && !v.pboost, pboost := false } with
    stepReqs := s.stepReqs.filter fun x => decide (x.basin ≠ b) || !x.kind.isBoost }

/-- STEP_REQUEST: the headgate decides a request as it arrives (R356), unless something holds it on its way (R355). A request of a thread or the host cancels a boost
and its return; one that replaces the arbiter's pending step ends the arbiter's wait as a refusal does. A basin whose clock does not run yet takes none (log
entry 90). -/
def State.stepRequest (s : State) (i : Nat) : State :=
  match s.stepReqs.find? (·.id == i) with
  | none => s
  | some r =>
    if s.wayHeld r.flight then s
    else
    let s := { s with stepReqs := s.stepReqs.filter fun x => decide (x.id ≠ i) }
    if !(s.basinAt r.basin).on then s
    else if r.m < 8 || 20 < r.m then s.stepRefused r
    else
      let near := (s.basinAt r.basin).stepPend && decide ((s.basinAt r.basin).pts < s.time + 2048)
      let s := if r.kind = .ask then s.cancelBoost r.basin else s
      let v := s.basinAt r.basin
      if near then s.stepRefused r
      else
        let s := if v.stepPend && s.pbusy = some r.basin && !(s.stepReqs.any fun x => decide (x.kind = .power)) then
            { s with pbusy := none, pdue := s.time + 64000 }
          else s
        let s := if r.kind = .power then { s with pbusy := some r.basin } else s
        let early := r.ts = 0 || r.ts % 1024 ≠ 0 || r.ts < s.time + 4096
        (s.setBasin r.basin
          { v with
            pm := min r.m v.bmax
            clamp := decide (v.bmax < r.m)
            pts := if early then syncCount (max r.ts (s.time + 4096)) else r.ts
            moved := early
            stepPend := true
            back := v.back && r.kind.isBoost
            boost := if r.kind.isBoost then r.kind.boostOf else v.boost
            pboost := r.kind.isBoost }).shiftStep r.basin

def execStepRequest (i : Nat) (s : State) : Out := .next (s.stepRequest i)

/-- CLOCK_STS_WRITE: STS is written, and SREQ and STS go out as one request (Table 12-2). Any basin of the module may be named. -/
def State.stsWrite (s : State) (b : Nat) (v : W64) : State :=
  let s := s.modBasin b fun x => { x with sts := v }
  let q := (s.basinAt b).sreq.toNat
  s.askStep (gatePos b) (bits q 1 0) (bits q 12 8) v.toNat .ask

def execClockStsWrite (b : Nat) (v : W64) (s : State) : Out := s.taken (s.basinAnswers b) (s.stsWrite b v)

/-- INC (Table 12-1). -/
def ncycInc (m : Nat) : Nat := (2 * 1114112 + m) / (2 * m)

/-- RELOCK_END: the seam FIFOs of a basin resume 1,500 ns after its step (R355). -/
def State.relockEnd (s : State) (b : Nat) : State :=
  let v := s.basinAt b
  if v.relock && v.lts + 1500 ≤ s.time then s.setBasin b { v with relock := false } else s

def execRelockEnd (b : Nat) (s : State) : Out := .next (s.relockEnd b)

/-- RELOCK: a seam FIFO of the basin relocks, after a step of the basin or of one that shares a seam with it (R355, Table 12-2). -/
def State.relocking (s : State) (b : Nat) : Bool := [b, b ^^^ 1, b ^^^ 2].any fun i => (s.basinAt i).relocking s.time

/-- The words of clock control (Table 12-2). -/
def State.clockRead (s : State) (b k : Nat) : W64 :=
  let v := s.basinAt b
  match k with
  | 0 => w64 (v.m + v.base * 2 ^ 8 + v.bmax * 2 ^ 16 + (s.relocking b).toNat * 2 ^ 24)
  | 1 => w64 ((if v.stepPend then v.pm else 0) + v.stepPend.toNat * 2 ^ 8 + (v.stepPend && v.pboost).toNat * 2 ^ 9 +
      (v.stepPend && v.moved).toNat * 2 ^ 10 + (v.stepPend && v.clamp).toNat * 2 ^ 11)
  | 2 => w64 (if v.stepPend then v.pts else 0)
  | 3 => w64 v.lts
  | 4 => w64 (v.nstep + v.nref * 2 ^ 32)
  | 5 => v.sreq
  | 6 => v.sts
  | _ => 0#64

/-! ### Boost (R365) -/

/-- The generation a basin was boosted for is released at a TIME: a boost whose Ts is then 2,048 ns away is withdrawn, as is one still under way, any other is followed
by its return. -/
def State.boostOver (s : State) (root cell gen rtime : Nat) (b : Nat) : State :=
  let v := s.basinAt b
  let s := { s with stepReqs := s.stepReqs.filter fun x => decide (x.basin ≠ b) || decide (x.kind ≠ .boost root cell gen) }
  if v.boost ≠ some (root, cell, gen) then s
  else if v.stepPend && v.pboost then
    if rtime + 2048 ≤ v.pts then s.setBasin b { v with boost := none, stepPend := false, pboost := false }
    else s.setBasin b { v with boost := none, back := true }
  else
    let s := s.setBasin b { v with boost := none }
    if v.m ≠ v.base then s.askStep (gatePos b) b v.base 0 .back else s

/-- The root of a module cell asks, once for a generation, for a boost of the one basin that has not completed. -/
def State.boostAsk (s : State) (root n : Nat) : State :=
  let c := s.cellAt root n
  match (List.range 4).filter fun i => bit c.bmask i && !c.reported.contains i with
  | [b] =>
    let v := s.basinAt b
    if c.boost && !c.asked && c.reported ≠ [] && v.m < v.bmax && !v.stepPend && s.pavg * 10 + 1500 ≤ s.plim * 100 then
      (s.modCell root n fun c => { c with asked := true }).askStep (gatePos root) b v.bmax 0 (.boost root n c.mgen)
    else s
  | _ => s

/-- The boosts that the roots of a basin's cells have yet to ask for. -/
def State.boostAsks (s : State) (b : Nat) : State := (s.basinAt b).cells.foldl (fun s e => if e.2.boost then s.boostAsk b e.1 else s) s

/-! ### Arrivals (R359, R360, R363, R368) -/

/-- Whether an arrival may leave its core: the thread's accesses have performed towards the scope of its cell. -/
def State.arrivalReady (s : State) (a : Arrival) : Bool :=
  s.earlierDone a.core a.slot a.seq a.lsid &&
    (!(s.cellAt (coreBasin a.core) a.cell).mod || s.messagesDone a.core a.slot a.seq a.lsid)

/-- An arrival leaves its core at commit, or waits there for the thread's earlier accesses. -/
def State.issueArrival (s : State) (core slot : Nat) (r : Run) (op : Op) (wbar : Bool) : State :=
  let a : Arrival := { id := s.nextId, core := core, slot := slot, seq := r.seq, lsid := op.lsid, ix := op.ix, cell := op.v, wbar := wbar }
  let a := { a with beat := if s.arrivalReady a then some (s.time / 64) else none }
  { s.bump with arrivals := s.arrivals ++ [a] }

/-- A core is ungated by a wake of one of its slots, a placement, a fill, or a command (R364). -/
def State.ungate (s : State) (core : Nat) : State := s.modCore core fun k => { k with gated := false, idleClk := 0 }

/-- A WBAR whose arrival is counted waits for the release of its generation: in the slot's barrier wait word, or beside it where another WBAR of the
block waits already. -/
def State.awaitRelease (s : State) (core slot ix : Nat) (w : W64) : State :=
  if (s.slotAt core slot).barWait.getLsbD 6 then s.modRun core slot fun r => { r with bars := r.bars ++ [(ix, w)] }
  else s.modSlot core slot fun sl => { sl with barWait := w }

/-- Whether a WBAR of the block that a slot loaded as number `seq` still waits in the tail: its thread has not frozen meanwhile (R368). -/
def State.barWaits (s : State) (core slot seq ix : Nat) : Bool :=
  match s.runAt core slot with
  | some r => r.tail && decide (r.seq = seq) && match (r.inst ix).st with | .wait _ => true | _ => false
  | none => false

/-- The generation a basin part completes (R359): a basin cell releases it, a module cell reports it to its root. -/
def State.partComplete (s : State) (b n gen act : Nat) (late : Bool) : State :=
  let c := s.cellAt b n
  if !c.mod then s.releaseCell b n { gen := gen, rtime := act, late := late }
  else { s.bump with reports := s.reports ++ [⟨s.nextId, b, c.root.getD b, n, gen, act, late, s.time⟩] }

/-- BARRIER_ARRIVAL: an arrival leaves its core once it may; and it is counted at the root at the start of the second beat after the one in
which it left, or, held up on its way, at a later beat start (R360). -/
def State.barrierArrival (s : State) (i : Nat) : State :=
  match s.arrivals.find? (·.id == i) with
  | none => s
  | some a => match a.beat with
    | none =>
      if s.arrivalReady a then
        { s with arrivals := s.arrivals.map fun x => if x.id = i then { x with beat := some (s.time / 64) } else x }
      else s
    | some n =>
      let act := max (64 * (n + 2)) s.nextBeat
      if !s.upTo act || a.flight.any s.wayHeld then s
      else
        let late := decide (64 * (n + 2) < act)
        let b := coreBasin a.core
        let c := s.cellAt b a.cell
        let s := { s with arrivals := s.arrivals.filter fun x => decide (x.id ≠ i), time := max s.time act }
        if !c.en then
          let s := if a.wbar && s.barWaits a.core a.slot a.seq a.ix then (s.ungate a.core).giveToken a.core a.slot a.ix nullToken else s
          s.failAfter a.core a.slot 0x82 a.ix 0 0
        else
          let s := if a.wbar && s.barWaits a.core a.slot a.seq a.ix then
              s.awaitRelease a.core a.slot a.ix (w64 (a.cell + 2 ^ 6 + c.gen * 2 ^ 16))
            else s
          if c.count + 1 < c.expect then s.modCell b a.cell fun c => { c with count := c.count + 1 }
          else (s.modCell b a.cell fun c => { c with count := 0, gen := (c.gen + 1) % 65536 }).partComplete b a.cell c.gen act late

def execBarrierArrival (i : Nat) (s : State) : Out := .next (s.barrierArrival i)

/-- MODULE_COMPLETION_REPORT: a completion reaches the module root (R363), unless a relock holds it on its way (R355). The last completion, or one that was held up longer, sets the release time
and whether the release is late (R360). -/
def State.moduleReport (s : State) (i : Nat) : State :=
  match s.reports.find? (·.id == i) with
  | none => s
  | some r =>
    if s.wayHeld r.flight then s else
    let s := { s with reports := s.reports.filter fun x => decide (x.id ≠ i) }
    let c := s.cellAt r.root r.cell
    if !bit c.bmask r.src || r.gen ≠ c.mgen then
      (s.modCell r.root r.cell fun c => { c with err := true }).basinPkt r.root 0x41 0x83 0
    else
      let done := sins c.reported r.src
      let onTime := s.notPast (r.act + 128)
      let at_ := if onTime then r.act + 128 else s.nextBeat
      let late := r.late || !onTime
      let rtime := max c.ract at_
      let late := if c.ract < at_ then late else if at_ < c.ract then c.rlate else late && c.rlate
      let s := s.modCell r.root r.cell fun c => { c with reported := done, ract := rtime, rlate := late }
      let all := (List.range 4).filter fun i => bit c.bmask i
      if all.all done.contains then
        let s := s.modCell r.root r.cell fun c =>
          { c with mgen := (c.mgen + 1) % 65536, reported := [], ract := 0, rlate := false, asked := false }
        all.foldl (fun s b => (s.releaseCell b r.cell { gen := c.mgen, rtime := rtime, late := late }).boostOver r.root r.cell c.mgen rtime b) s
      else s.boostAsk r.root r.cell

def execModuleCompletionReport (i : Nat) (s : State) : Out := .next (s.moduleReport i)

/-! ### The forms (R366 to R374) -/

/-- A weir form whose l operand has a null byte is null; one whose reserved bits are not zero raises 0x80. -/
def State.weirStore (s : State) (k : OpKind) (n : BitVec 4) (cell : Nat) (ok : Bool) (c : Ctx) (nul : Bool) : State :=
  if nul then s.setSt c.core c.slot c.ix .null
  else if !ok then s.raise c.core c.slot 0x80 c.ix false 0 0
  else (s.addOp c.core c.slot
      { kind := k, ix := c.ix, lsid := n.toNat, l := c.l.data, r := c.r.data, v := cell }).setSt c.core c.slot c.ix .ready

/-- WBAR and WARR when they fire: the arrival leaves at commit. -/
def State.barFire (s : State) (k : OpKind) (n : BitVec 4) (c : Ctx) : State :=
  s.weirStore k n (bits c.l.data.toNat 5 0) (c.l.data.toNat / 64 == 0) c (c.l.mask ≠ 0#16)

def execWbar (p : Pred) (n : BitVec 4) (_t : Option Target) (s : State) : Out :=
  firing p needL (fun c => s.setSt c.core c.slot c.ix .null) (fun c => s.barFire .wbar n c) s
def execWarr (p : Pred) (n : BitVec 4) (s : State) : Out :=
  firing p needL (fun c => s.setSt c.core c.slot c.ix .null) (fun c => s.barFire .warr n c) s

/-- WWAIT when it fires: the wait begins. -/
def State.wwaitFire (s : State) (t : Option Target) (c : Ctx) : State :=
  let l := c.l.data.toNat
  if c.l.mask ≠ 0#16 then s.fireToken c t none 2 nullToken 0#6
  else if bits l 15 6 ≠ 0 || bits l 127 32 ≠ 0 then s.raise c.core c.slot 0x80 c.ix false 0 0
  else s.setSt c.core c.slot c.ix (.wait s.time)

def execWwait (p : Pred) (_n : BitVec 4) (t : Option Target) (s : State) : Out :=
  firing p needL (fun c => s.fireToken c t none 2 nullToken 0#6) (fun c => s.wwaitFire t c) s

def execWtime (p : Pred) (_n : BitVec 4) (t : Option Target) (s : State) : Out :=
  firing p needNone (fun c => s.fireToken c t none 2 nullToken 0#6)
    (fun c => s.fireToken c t none 2 { data := BitVec.ofNat 128 (s.tick c.core % 2 ^ 64 + s.cyc c.core % 2 ^ 64 * 2 ^ 64) } 0#6) s

/-- WSLEEP when it fires: the sleep begins. -/
def State.wsleepFire (s : State) (t : Option Target) (c : Ctx) : State :=
  if c.l.mask ≠ 0#16 then s.fireToken c t none 2 nullToken 0#6
  else s.setSt c.core c.slot c.ix (.wait s.time)

def execWsleep (p : Pred) (_n _v : BitVec 4) (t : Option Target) (s : State) : Out :=
  firing p needL (fun c => s.fireToken c t none 2 nullToken 0#6) (fun c => s.wsleepFire t c) s

/-- WSTAT: the cell state, or the clock state of the issuing basin. -/
def State.wstatFire (s : State) (t : Option Target) (c : Ctx) : State :=
  let l := c.l.data.toNat
  let b := coreBasin c.core
  if c.l.mask ≠ 0#16 then s.fireToken c t none 6 nullToken 0#6
  else if bits l 7 6 ≠ 0 || bits l 127 9 ≠ 0 || (bit l 8 && bits l 5 0 ≠ 0) then s.raise c.core c.slot 0x80 c.ix false 0 0
  else
    let v : Nat :=
      if bit l 8 then
        let v := s.basinAt b
        v.m + (if v.stepPend then v.pm else 0) * 2 ^ 8 + v.stepPend.toNat * 2 ^ 13 + (s.relocking b).toNat * 2 ^ 14 + (v.stepPend && v.pboost).toNat * 2 ^ 15 +
          v.bmax * 2 ^ 16 + (if v.stepPend then v.pts else 0) * 2 ^ 64
      else
        let k := s.cellAt b (bits l 5 0)
        let v := s.basinAt b
        let last := (k.known v.tick).head?
        k.rgen v.tick + k.en.toNat * 2 ^ 16 + k.mod.toNat * 2 ^ 17 + ((last.map Release.late).getD false).toNat * 2 ^ 18 +
          ((last.map Release.rtime).getD 0) * 2 ^ 64
    s.fireToken c t none 6 { data := BitVec.ofNat 128 v } 0#6

def execWstat (p : Pred) (_n : BitVec 4) (t : Option Target) (s : State) : Out :=
  firing p needL (fun c => s.fireToken c t none 6 nullToken 0#6) (fun c => s.wstatFire t c) s

/-- WCFG when it fires: the write of W0 is left for commit. -/
def State.wcfgFire (s : State) (n : BitVec 4) (c : Ctx) : State :=
  s.weirStore .wcfg n (bits c.l.data.toNat 5 0) (c.l.data.toNat / 64 == 0 && c.r.data.toNat / 2 ^ 64 == 0) c
    (c.l.mask ≠ 0#16 || c.r.mask ≠ 0#16)

def execWcfg (p : Pred) (n : BitVec 4) (s : State) : Out :=
  firing p needLR (fun c => s.setSt c.core c.slot c.ix .null) (fun c => s.wcfgFire n c) s

/-- WSTEP when it fires: the request is left for commit. -/
def State.wstepFire (s : State) (n : BitVec 4) (c : Ctx) : State :=
  let l := c.l.data.toNat
  let m := bits l 12 8
  s.weirStore .wstep n (bits l 1 0) (bits l 7 2 == 0 && bits l 127 13 == 0 && c.r.data.toNat / 2 ^ 64 == 0 && decide (8 ≤ m) && decide (m ≤ 20)) c
    (c.l.mask ≠ 0#16 || c.r.mask ≠ 0#16)

def execWstep (p : Pred) (n : BitVec 4) (s : State) : Out :=
  firing p needLR (fun c => s.setSt c.core c.slot c.ix .null) (fun c => s.wstepFire n c) s

/-! ### Wakes (R361, R364, R369, R370, R375) -/

/-- The release a WWAIT of generation g waits for, once it is known: an abort at once where the cell is disabled. -/
def State.wwaitRelease (s : State) (b n g : Nat) : Option Release :=
  let c := s.cellAt b n
  let now := (s.basinAt b).tick
  let d := (c.rgen now + 65536 - g) % 65536
  if !c.en then some { gen := g, rtime := now, abort := true }
  else if 1 ≤ d && d ≤ 32768 then some (((c.known now).find? fun r => decide (r.gen = g)).getD { gen := g, rtime := 0 })
  else none

/-- The release a WBAR waiter of a slot waits for, once it is known. -/
def State.wbarRelease (s : State) (b : Nat) (w : W64) : Option Release :=
  if !w.getLsbD 6 then none
  else ((s.cellAt b (bits w.toNat 5 0)).known (s.basinAt b).tick).find? fun r => decide (r.gen = bits w.toNat 31 16)

/-- The WBAR that the slot's barrier wait word is for: the first that waits and whose arrival has been counted, beside those of `bars`. -/
def State.waitingBar (s : State) (core slot : Nat) (r : Run) : Option Nat :=
  (List.range r.words.length).find? fun i => (match (r.inst i).st with | .wait _ => true | _ => false) &&
    (match r.instr i with | some (.wbar ..) => true | _ => false) && !(r.bars.any fun w => decide (w.1 = i)) &&
    !(s.arrivals.any fun a => decide (a.core = core) && decide (a.slot = slot) && decide (a.seq = r.seq) && decide (a.ix = i)) &&
    !(s.results.any fun q => decide (q.core = core) && decide (q.slot = slot) && decide (q.seq = r.seq) && decide (q.ix = i))

/-- Whether the release that a WBAR of a tail waits for is known (R361). -/
def State.barKnown (s : State) (core slot : Nat) (r : Run) (ix : Nat) : Bool :=
  let b := coreBasin core
  (s.waitingBar core slot r == some ix && (s.wbarRelease b (s.slotAt core slot).barWait).isSome) ||
    r.bars.any fun w => decide (w.1 = ix) && (s.wbarRelease b w.2).isSome

/-- Deliver the token of a wait. -/
def State.wake (s : State) (core slot ix : Nat) (t : Option Target) (tok : Token) : State :=
  ((s.ungate core).setSt core slot ix .done).deliver core slot t none 2 tok

/-- WAITER_WAKE: the waits of a slot whose releases are known are woken, and each delivers its token (R361). -/
def State.waiterWake (s : State) (core slot : Nat) : State :=
  match s.runAt core slot with
  | none => s
  | some r =>
    let b := coreBasin core
    let sl := s.slotAt core slot
    let give := fun (s : State) (i : Nat) (q : Release) => s.wake core slot i (s.targetOf core slot i) q.token
    let s := match s.waitingBar core slot r, s.wbarRelease b sl.barWait with
      | some i, some q => give (s.modSlot core slot fun sl => { sl with barWait := 0#64 }) i q
      | _, _ => s
    let s := r.bars.foldl (fun s w => match s.wbarRelease b w.2 with
      | some q => give (s.modRun core slot fun r => { r with bars := r.bars.filter fun x => decide (x.1 ≠ w.1) }) w.1 q
      | none => s) s
    r.waitingWwaits.foldl (fun s w => match s.wwaitRelease b w.2.1 w.2.2 with
      | some q => s.wake core slot w.1 (s.targetOf core slot w.1) q.token
      | none => s) s

def execWaiterWake (c sl : Nat) (s : State) : Out := .next (s.waiterWake c sl)

/-- SLEEP_DEADLINE: a WSLEEP delivers in a clk in which its deadline or WLIM is reached. -/
def State.sleepDeadline (s : State) (core slot ix : Nat) : State :=
  match s.runAt core slot with
  | none => s
  | some r => match (r.inst ix).st, r.instr ix with
    | .wait since, some (.wsleep _ _ v t) =>
      let d := (((r.inst ix).l.getD {}).lo).toNat
      let now := if v = 1#4 then s.cyc core else s.tick core
      if d ≤ now || since + (s.slotAt core slot).ctl.wlim.toNat ≤ s.tick core then
        s.wake core slot ix t
          { data := BitVec.ofNat 128 (s.tick core % 2 ^ 64 + (s.basinAt (coreBasin core)).ncyc / 2 ^ 16 % 2 ^ 64 * 2 ^ 64) }
      else s
    | _, _ => s

def execSleepDeadline (c sl ix : Nat) (s : State) : Out := .next (s.sleepDeadline c sl ix)

/-- Whether every engine of a core is idle, with empty intakes and queues. -/
def State.enginesIdle (s : State) (core : Nat) : Bool :=
  let m := s.matAt core
  let c := s.copyAt core
  let h := s.hvAt core
  m.intake.isEmpty && m.tasks.isEmpty && m.load.isNone && m.stream.isNone && m.task.isNone && c.intake.isEmpty && c.tasks.isEmpty &&
    c.active.isEmpty && h.intake.isEmpty && h.run.isNone

/-- CORE_GATE: a core whose slots have slept for 16 clk, its engines idle, is gated, and the gating is reported to the power arbiter. -/
def State.coreGate (s : State) (core : Nat) : State :=
  if 16 ≤ (s.coreAt core).idleClk && s.enginesIdle core && !(s.coreAt core).gated then
    { s.modCore core fun k => { k with gated := true } with gateReports := (core, s.time) :: s.gateReports }
  else s

def execCoreGate (c : Nat) (s : State) : Out := .next (s.coreGate c)

end Sys2Proof.Machine
end

