-- ==== Sys2Proof/Machine/Save.lean ====
section
/-! DEFINITION. Engine save areas, the ownership of a core's engines, and how they change hands (spec/08_matrix_engine.md R263 to R265;
spec/09_copy_engine.md R268, R269, R300; spec/10_hypervector_engine.md R319, R320; spec/13_sluice.md R393; spec/14_ditch_rider.md R425,
R431). -/

namespace Sys2Proof.Machine

/-! ### Control words of the engines (Tables 8-9, 9-6, 10-7) -/

def State.matCtlWord (s : State) (core k : Nat) : W64 :=
  let m := s.matAt core
  match k with
  | 0 => w64 (m.halt.toNat + m.cause * 2 ^ 8)
  | 1 => w64 m.faddr
  | 2 => w64 (m.fthread + m.taskf.toNat * 2 ^ 16 + m.ftag * 2 ^ 17 + m.sub % 256 * 2 ^ 23 + m.rowf % 128 * 2 ^ 31)
  | _ => 0#64

def State.copyCtlWord (s : State) (core k : Nat) : W64 :=
  let m := s.copyAt core
  match k with
  | 0 => w64 m.clim
  | 1 => w64 m.faddr
  | 2 => w64 (m.fthread + m.taskf.toNat * 2 ^ 16 + m.ftag * 2 ^ 17 + m.sub % 256 * 2 ^ 23 + m.stage * 2 ^ 31 + m.flagq.toNat * 2 ^ 33)
  | 3 => w64 (m.bdone % 2 ^ 32)
  | _ => 0#64

/-- Word 0 is the status as a group reads it. -/
def State.hvCtlWord (s : State) (core k : Nat) (g : Group) : W64 :=
  let m := s.hvAt core
  match k with
  | 0 => w64 (s.hvStatus core g)
  | 1 => w64 m.faddr
  | 2 => w64 (m.fthread + m.ftag * 2 ^ 16 + m.sub % 256 * 2 ^ 22 + m.entry % 2 ^ 20 * 2 ^ 30)
  | _ => 0#64

/-! ### Saved commands -/

/-- The command an instruction word asks of an engine: its kind, variant and fill register. -/
def cmdOf : Instr → Option (CmdKind × Nat × Nat)
  | .mls .. => some (.mls, 0, 0)
  | .mlsc _ _ v => some (.mlsc, v.toNat, 0)
  | .mswap .. => some (.mswap, 0, 0)
  | .mstream .. => some (.mstream, 0, 0)
  | .mstreama .. => some (.mstreama, 0, 0)
  | .mzero _ _ v => some (.mzero, v.toNat, 0)
  | .mdrain .. => some (.mdrain, 0, 0)
  | .mdrainn .. => some (.mdrainn, 0, 0)
  | .mtask .. => some (.mtask, 0, 0)
  | .cpy1 _ _ v => some (.cpy1, v.toNat, 0)
  | .cpy2 _ _ v => some (.cpy2, v.toNat, 0)
  | .gath _ _ v => some (.gath, v.toNat, 0)
  | .scat _ _ v => some (.scat, v.toNat, 0)
  | .fill _ _ v => some (.fill, v.toNat, 0)
  | .cpycv _ _ v => some (.cpycv, v.toNat, 0)
  | .cpymc _ _ v => some (.cpymc, v.toNat, 0)
  | .culv _ _ v => some (.culv, v.toNat, 0)
  | .pghand _ _ v => some (.pghand, v.toNat, 0)
  | .ctask .. => some (.ctask, 0, 0)
  | .hbind _ _ v => some (.hbind, v.toNat, 0)
  | .hbund _ _ v => some (.hbund, v.toNat, 0)
  | .hperm .. => some (.hperm, 0, 0)
  | .hthr _ _ v => some (.hthr, v.toNat, 0)
  | .hld .. => some (.hld, 0, 0)
  | .hst .. => some (.hst, 0, 0)
  | .hclr _ _ v => some (.hclr, v.toNat, 0)
  | .hphase .. => some (.hphase, 0, 0)
  | .hbndld .. => some (.hbndld, 0, 0)
  | .hbndst .. => some (.hbndst, 0, 0)
  | .hmove _ _ v => some (.hmove, v.toNat, 0)
  | .hdist _ _ v r => some (.hdist, v.toNat, r.toNat)
  | .hnear _ _ r => some (.hnear, 0, r.toNat)
  | .hneark _ _ r => some (.hneark, 0, r.toNat)
  | .hpopc _ _ v r => some (.hpopc, v.toNat, r.toNat)
  | _ => none

/-- A command read back from its intake entry (log entry 17); an entry of zeros holds none. One that reads first does so again, and asks for its lines
again (R300). -/
def State.cmdOfEntry (s : State) (core : Nat) (sp : Space) (ws : List W64) : Option Cmd :=
  let w := fun (i : Nat) => (ws.getD i 0#64).toNat
  match decodeWord (bits (w 4) 31 0) with
  | .error _ => none
  | .ok i => match cmdOf i with
    | none => none
    | some (k, v, reg) =>
      let g : Group := ⟨bits (w 7) 47 0, bits (w 4) 59 36⟩
      let mat : Bool := k.engine == .matrix
      some
        { id := s.nextId, kind := k, v := v, core := core, slot := bits (w 4) 35 32
          l := BitVec.ofNat 128 (w 0 + w 1 * 2 ^ 64), r := BitVec.ofNat 128 (w 2 + w 3 * 2 ^ 64)
          fpc := if mat then w64 (bits (w 5) 48 46) else w64 (bits (w 5) 2 0)
          nanm := w64 (bits (w 5) 49 49), mfmt := if mat then w64 (bits (w 5) 45 34) else 0#64
          msca := if mat then w64 (bits (w 5) 16 0) else 0#64, mscb := if mat then w64 (bits (w 5) 33 17) else 0#64
          hvc := if k.engine == .hyper then w64 (w 5) else 0#64
          sp := { sp with asn := bits (w 7) 63 48 }, grp := g, wid := w64 (w 6), tag := s.physTag core g (bits (w 2) 5 0), reg := reg
          arrived := !k.readsFirst, iw := bits (w 4) 31 0 }

/-- A queued task's record with its TAG set: bits [5:0] of word `i`. -/
def Cmd.taskRecord (c : Cmd) (i t : Nat) : List W64 := lset c.desc i (w64 (setBits (c.desc.getD i 0#64).toNat 5 0 t))

/-- The command of a queued task read back from its record. -/
def State.taskOfRecord (s : State) (core : Nat) (sp : Space) (g : Group) (k : CmdKind) (i : Nat) (ws : List W64) : Cmd :=
  let t := bits (ws.getD i 0#64).toNat 5 0
  { id := s.nextId, kind := k, core := core, slot := 8, r := BitVec.ofNat 128 t, sp := sp, grp := g, tag := s.physTag core g t, desc := ws }

/-! ### Writing a save area -/

/-- A part of memory set to zero, its poison cleared. -/
def Memory.zero (m : Memory) (lo n : Nat) : Memory :=
  { m with
    cells := m.cells.filter fun c => !(decide (lo ≤ c.1) && decide (c.1 < lo + n))
    errs := m.errs.filter fun e => !(decide (lo ≤ 8 * e.1) && decide (8 * e.1 < lo + n)) }

/-- A group's share of a core: the first tag, row and vector register, and how many of each. -/
structure Share where
  base : Nat
  rows : Nat
  hbase : Nat
  hregs : Nat
  deriving DecidableEq, Repr

def Core.shareOf (k : Core) (g : Group) : Share :=
  let i := k.vIndex g
  ⟨i * k.share 64, k.share 64, i * k.qh, k.qh⟩

/-- The tag number of a physical tag in a share. -/
def Share.tag (h : Share) (t : Nat) : Nat := (t - h.base) % 64

/-- Entries of 64 bytes from an address. -/
def putEntries (m : Memory) (a : Nat) : List (List W64) → Memory
  | [] => m
  | e :: es => putEntries (putWords m a e) (a + 64) es

/-- Whether a queued command is a group's: it issued it, or it is a ditch task of a core whose engines are the group's (R255). -/
def State.cmdIsOf (s : State) (core : Nat) (g : Group) (c : Cmd) : Bool :=
  c.grp == g && !c.ditch || (c.ditch && (s.coreAt core).owner == some g)

/-- Table 8-10. The planes of a folded core lie there already where another member used them last (R265); those that a halted task has swapped are swapped back, and
NDIR counts every direct command saved (R256, R263). -/
def State.matSave (s : State) (core : Nat) (g : Group) (a : Nat) : State :=
  let k := s.coreAt core
  let h := k.shareOf g
  let m := (s.matAt core).unswap
  let mine := s.cmdIsOf core g
  let here := decide (k.foldK < 2) || m.user == some g
  let plane := if here || !m.parked.contains g then s.mem.zero (a + 8) 0x9FF8 else ((s.mem.zero (a + 0x18) 0x8E8) : Memory)
  let mem := (plane.zero (a + 0xA000) 0x20000).zero a 8
  let mem := putWords mem a [w64 (setBits ((s.setMat core m).matStatusOf core mine) 8 4 (m.intake.filter mine).length)]
  let mem := if here then
      putPlane (putPlane (putWords mem (a + 8) [w64 m.active.record, w64 m.shadow.record]) (a + 0x1000) m.active) (a + 0x5800) m.shadow
    else mem
  let mem := putWords mem (a + 0x18) [s.matCtlWord core 1, s.matCtlWord core 2]
  let mem := putEntries mem (a + 0x100) ((m.tasks.filter mine).map fun c => c.taskRecord 7 (h.tag c.tag))
  let mem := putEntries mem (a + 0x500) ((m.intake.filter mine).map Cmd.entry)
  let mem := m.acc.foldl (fun (mem : Memory) e =>
    if 64 * h.base ≤ e.1 && e.1 < 64 * (h.base + h.rows) then mem.write (a + 0xA000 + 32 * (e.1 - 64 * h.base)) e.2.image 0 32 else mem) mem
  s.areaWrite a 0x2A000 fun _ => mem

/-- The save area of R300. -/
def State.copySave (s : State) (core : Nat) (g : Group) (a : Nat) : State :=
  let k := s.coreAt core
  let h := k.shareOf g
  let m := s.copyAt core
  let mine := s.cmdIsOf core g
  let mem := s.mem.zero a 0x900
  let mem := putWords mem a [w64 (setBits (s.copyStatusOf core (k.vIndex g) mine) 4 0 (m.intake.filter mine).length), s.copyCtlWord core 1, s.copyCtlWord core 2, s.copyCtlWord core 3]
  let mem := m.flg.foldl (fun (mem : Memory) e => mem.write (a + 0x20 + e.1) e.2.toNat 0 1) mem
  let mem := putEntries mem (a + 0x100) ((m.tasks.filter mine).map fun c => c.taskRecord 3 (h.tag c.tag))
  let mem := putEntries mem (a + 0x500) ((m.intake.filter mine).map Cmd.entry)
  s.areaWrite a 0x900 fun _ => mem

/-- Table 10-5. -/
def State.hvSave (s : State) (core : Nat) (g : Group) (a : Nat) : State :=
  let k := s.coreAt core
  let h := k.shareOf g
  let e := s.hvAt core
  let here := decide (k.foldK < 2) || e.user == some g
  let st := s.hvStatus core g
  let mem := (s.mem.zero a 0x3000).zero (a + 0xC000) 0x4000
  let mem := if here || !e.parked.contains g then mem.zero (a + 0x4000) 0x8000 else mem
  let mem := putWords mem a [w64 st, s.hvCtlWord core 1 g, s.hvCtlWord core 2 g]
  let mem := (List.range h.hregs).foldl (fun (mem : Memory) n =>
    mem.write (a + 0x1000 + 1024 * n) (mget e.h (h.hbase + n) 0#8192).toNat 0 1024) mem
  s.areaWrite a 0x10000 fun _ => if here then putAccs mem a e else mem

/-- The whole save area of a group, written from a core whose engines have come to rest. -/
def State.saveEngines (s : State) (core : Nat) (g : Group) (a : Nat) : State :=
  ((s.matSave core g a).copySave core g (a + 0x2C000)).hvSave core g (a + hvSaveOff)

/-- A member that no group is: it stands for a group that has left its fold. -/
def goneGroup : Group := ⟨0, 2 ^ 32⟩

/-- Clear the engine state of a group: of its share on a folded core, of all on any other. Its queued commands are counted no longer by its tags, and own no
lines. -/
def State.clearEngines (s : State) (core : Nat) (g : Group) : State :=
  let k := s.coreAt core
  let h := k.shareOf g
  let m := s.matAt core
  let c := s.copyAt core
  let e := s.hvAt core
  let mine := fun (l : List Cmd) => l.filter (s.cmdIsOf core g)
  let rest := fun (l : List Cmd) => l.filter fun x => !s.cmdIsOf core g x
  let s := (mine m.intake ++ mine m.tasks ++ mine c.intake ++ mine c.tasks).foldl (fun s x => (s.releaseLines x.id).tagDown core x.tag) s
  if k.foldK < 2 then ((s.setMat core {}).setCopy core { (({} : CopyEng)) with clim := c.clim }).setHv core {}
  else
    let s := s.setMat core
      { m with
        intake := rest m.intake, tasks := rest m.tasks
        acc := m.acc.filter fun x => !(decide (64 * h.base ≤ x.1) && decide (x.1 < 64 * (h.base + h.rows)))
        active := if m.user = some g then {} else m.active
        shadow := if m.user = some g then {} else m.shadow
        user := if m.user = some g then none else m.user, parked := m.parked.filter fun x => !(x == g) }
    let s := s.setCopy core { c with intake := rest c.intake, tasks := rest c.tasks, flg := mdel c.flg (k.vIndex g) }
    s.setHv core
      { e with
        h := e.h.filter fun x => !(decide (h.hbase ≤ x.1) && decide (x.1 < h.hbase + h.hregs))
        a0 := if e.user = some g then {} else e.a0
        a1 := if e.user = some g then {} else e.a1
        user := if e.user = some g then none else e.user, parked := e.parked.filter fun x => !(x == g) }

/-! ### Reading a save area back (R264, R269) -/

/-- Entries of 64 bytes from an address. -/
def State.getEntries (s : State) (a n : Nat) : List (List W64) := (List.range n).map fun i => s.memWords (a + 64 * i) 8

/-- A restore fault, reported to the rider of the core's chiplet from that of the home of the group's ditch (R416). The packet's VA is the address of the engine's part of the save area, where the queues that are
not run lie (R269; log entry 17). -/
def State.restoreFault (s : State) (core : Nat) (g : Group) (cause a : Nat) : State :=
  s.sendPkt (coreSite core) (s.ditchRider (coreBasin core) (hdrDitch (s.hdrWords (coreBasin core) g.hdr))) 7
    (packetWords 0x41 (coreSite core) (coreNum core) 0 cause 127 false false true 0 a 0#64 0 s.time (s.coreAt core).lcid 0)

/-- Whether a save area was written by a core of the kind of this one: its matrix status holds the rows (R264, R269). -/
def State.sameKind (s : State) (core area : Nat) : Bool := bits (s.mem.read area 8) 39 32 == matrixRows core

/-- Take commands into a queue with new ids, their tags counted. -/
def State.recount (s : State) (core : Nat) : List Cmd → List Cmd × State
  | [] => ([], s)
  | c :: cs =>
    let c := { c with id := s.nextId }
    let r := State.recount (s.bump.tagUp core c.tag) core cs
    (c :: r.1, r.2)

/-- The matrix engine restored: its planes on a core that is not folded, its rows, its queues. -/
def State.matRestore (s : State) (core : Nat) (g : Group) (sp : Space) (a : Nat) : State :=
  let k := s.coreAt core
  let h := k.shareOf g
  let st := s.mem.read a 8
  if !s.sameKind core a || bits st 42 40 ≠ k.foldK then s.restoreFault core g 0x49 a
  else
    let m := s.matAt core
    let w2 := s.mem.read (a + 0x20) 8
    let els := (List.range (64 * h.rows)).filterMap fun i =>
      let v := s.mem.read (a + 0xA000 + 32 * i) 32
      if v = 0 then none else some (64 * h.base + i, AccEl.ofImage v)
    let m := { m with acc := els.foldl (fun (l : SMap AccEl) (e : Nat × AccEl) => mput l e.1 e.2) m.acc }
    let m := if k.foldK < 2 then
        { m with
          active := getPlane s.mem (s.mem.read (a + 8) 8) (a + 0x1000)
          shadow := getPlane s.mem (s.mem.read (a + 0x10) 8) (a + 0x5800)
          flg := BitVec.ofNat 6 (bits st 21 16), cause := bits st 31 24, faddr := bits (s.mem.read (a + 0x18) 8) 47 0
          fthread := bits w2 15 0, taskf := bit w2 16, ftag := bits w2 22 17, sub := bits w2 30 23, rowf := bits w2 37 31 }
      else { m with parked := m.parked ++ [g] }
    let ts := (s.getEntries (a + 0x100) (bits st 13 9)).map (s.taskOfRecord core sp g .mtask 7)
    let ins := (s.getEntries (a + 0x500) (bits st 8 4)).filterMap (s.cmdOfEntry core sp)
    let (ts, s) := s.recount core ts
    let (ins, s) := s.recount core ins
    s.setMat core { m with tasks := m.tasks ++ ts, intake := m.intake ++ ins }

/-- The copy engine restored. -/
def State.copyRestore (s : State) (core : Nat) (g : Group) (sp : Space) (a : Nat) : State :=
  let k := s.coreAt core
  let st := s.mem.read a 8
  if !s.sameKind core (a - 0x2C000) || bits st 34 32 ≠ k.foldK then s.restoreFault core g 0x5B a
  else
    let m := s.copyAt core
    let w2 := s.mem.read (a + 0x10) 8
    let f := BitVec.ofNat 6 (s.mem.read (a + 0x20 + k.vIndex g) 1)
    let m := { m with flg := mset 0#6 m.flg (k.vIndex g) f }
    let m := if k.foldK < 2 then
        { m with
          cause := bits st 31 24, faddr := bits (s.mem.read (a + 8) 8) 47 0, fthread := bits w2 15 0, taskf := bit w2 16, ftag := bits w2 22 17
          sub := bits w2 30 23, stage := bits w2 32 31, flagq := bit w2 33, bdone := s.mem.read (a + 0x18) 4 }
      else m
    let ts := (s.getEntries (a + 0x100) (bits st 9 5)).map (s.taskOfRecord core sp g .ctask 3)
    let ins := (s.getEntries (a + 0x500) (bits st 4 0)).filterMap (s.cmdOfEntry core sp)
    let (ts, s) := s.recount core ts
    let (ins, s) := s.recount core ins
    s.setCopy core { m with tasks := m.tasks ++ ts, intake := m.intake ++ ins }

/-- The hypervector engine restored: its accumulators on a core that is not folded, its vector registers. -/
def State.hvRestore (s : State) (core : Nat) (g : Group) (a : Nat) : State :=
  let k := s.coreAt core
  let h := k.shareOf g
  let st := s.mem.read a 8
  if !s.sameKind core (a - hvSaveOff) || bits st 26 24 ≠ k.foldK then s.restoreFault core g 0x62 a
  else
    let e := s.hvAt core
    let e := { e with h := (List.range h.hregs).foldl (fun (l : SMap (BitVec 8192)) n =>
      mset 0#8192 l (h.hbase + n) (BitVec.ofNat 8192 (s.mem.read (a + 0x1000 + 1024 * n) 1024))) e.h }
    let w2 := s.mem.read (a + 0x10) 8
    s.setHv core (if k.foldK < 2 then
      { getAccs s.mem a e with
        cause := bits st 23 16, faddr := bits (s.mem.read (a + 8) 8) 47 0, fthread := bits w2 15 0, ftag := bits w2 21 16, sub := bits w2 29 22
        entry := bits w2 49 30 } else { e with parked := e.parked ++ [g] })

def State.restoreEngines (s : State) (core : Nat) (g : Group) (sp : Space) (a : Nat) : State :=
  ((s.matRestore core g sp a).copyRestore core g sp (a + 0x2C000)).hvRestore core g (a + hvSaveOff)

/-! ### Ownership (R393, R425) -/

/-- Whether a user slot of a core holds a continuation of a group. -/
def State.holdsGroup (s : State) (core : Nat) (g : Group) : Bool :=
  (List.range 7).any fun n => let sl := s.slotAt core n; sl.busy && sl.group == g

/-- Whether a core holds a continuation (R388). -/
def State.holdsAny (s : State) (core : Nat) : Bool := (List.range 7).any fun n => (s.slotAt core n).busy

/-- Whether a group owns the engines of a core. -/
def Core.owned (k : Core) : Bool := k.owner.isSome || !k.members.isEmpty

/-- Continuations of a group that have not retired (R38, R386). -/
def State.groupLive (s : State) (b : Nat) (g : Group) : Nat :=
  match s.launchOf b g.hdr with
  | none => 0
  | some l =>
    let d := mget l.groups g.vc (0, 0)
    hdrProduct l.words 0 (hdrGlev l.words) + d.1 - d.2

/-- The area of a group returns to the pool when its last continuation has retired. -/
def State.returnArea (s : State) (b : Nat) (g : Group) : State :=
  match s.saveArea g with
  | none => s
  | some a => { (s.modBasin b fun v => { v with savePool := v.savePool ++ [a] }) with saves := s.saves.filter fun e => !(e.1 == g) }

/-- Whether the engines of a core have completed every command a swap-out waits for (R135, R263, R300): none runs, and none waits but behind a halt, in a
task queue, or in the intake of the copy engine. -/
def State.enginesRest (s : State) (core : Nat) : Bool :=
  let m := s.matAt core
  let c := s.copyAt core
  let h := s.hvAt core
  m.load.isNone && m.stream.isNone && m.task.isNone && (m.intake.isEmpty || m.halt) && c.active.isEmpty &&
    h.intake.isEmpty && h.run.isNone

/-- A group leaves the fold of a core; the fold ends with its last member. -/
def Core.leaveFold (k : Core) (g : Group) : Core :=
  let ms := k.members.map fun x => if x = g then goneGroup else x
  if ms.all fun x => x == goneGroup then { k with members := [], foldK := 0, awaiting := [] }
  else { k with members := ms, awaiting := k.awaiting.filter fun x => !(x == g) }

/-- The engines of a core are given up by a group: cleared where no continuation of it is left, else saved. None where no area is to be had. -/
def State.giveUp (s : State) (core : Nat) (g : Group) : Option State :=
  let b := coreBasin core
  if s.groupLive b g = 0 then some ((s.clearEngines core g).returnArea b g)
  else match s.takeArea b g with
    | none => none
    | some (a, s) => some ((s.saveEngines core g a).clearEngines core g)

/-- Ownership ends for each group of a core that has no continuation left there, once the engines are idle. A member of a fold that has suspended
stays in it, its share in its save area. -/
def State.ownershipEnd (s : State) (core : Nat) : State :=
  let k := s.coreAt core
  let b := coreBasin core
  if k.swap.isSome || k.mig.isSome || !s.enginesIdle core then s
  else if 2 ≤ k.foldK then
    k.members.foldl (fun s g =>
      if g = goneGroup || s.holdsGroup core g || ((s.coreAt core).awaiting.contains g && s.groupLive b g ≠ 0) then s
      else
        let last := decide (s.groupLive b g = 0)
        match s.giveUp core g with
        | none => s
        | some s => (s.modCore core fun k => if last then k.leaveFold g else { k with awaiting := k.awaiting ++ [g] }).modBasin b fun v => { v with passDue := true }) s
  else match k.owner with
    | none => s
    | some g =>
      if s.holdsGroup core g then s
      else match s.giveUp core g with
        | none => s
        | some s => (s.modCore core fun k => { k with owner := none }).modBasin b fun v => { v with passDue := true }

end Sys2Proof.Machine
end

