-- ==== Sys2Proof/Machine/Ditch.lean ====
section
/-! DEFINITION. Ditches: their segments, descriptors, appends and removals, and the pools of a basin's sluice (spec/13_sluice.md R379 to
R382, R403; spec/14_ditch_rider.md R425). -/

namespace Sys2Proof.Machine

def State.ditchAt (s : State) (b d : Nat) : Ditch := mget (s.basinAt b).ditches d {}
def State.modDitch (s : State) (b d : Nat) (f : Ditch → Ditch) : State :=
  s.modBasin b fun v => { v with ditches := mput v.ditches d (f (mget v.ditches d {})) }

/-- HEAD of Table 13-1. -/
def Ditch.head (d : Ditch) : Nat := d.recs.headD d.tail

/-- A report of the sluice that concerns no thread goes to the rider of the ditch's home chiplet (R412). -/
def State.sluicePkt (s : State) (b d cause info : Nat) : State :=
  let n := chipletSite b (s.ditchAt b d).home
  s.sendPkt n (s.riderCore n) 7 (packetWords 0x41 n 0 0 cause 127 false false true 0 0 0#64 info s.time 0 0)

/-- INFO of a sluice cause (Table 14-3). -/
def sluiceInfo (d addr : Nat) : Nat := d + addr % 2 ^ 48 * 2 ^ 8

/-- The generation under which the unit that serves a ditch decides (R26, R27). -/
def State.unitGen (s : State) (b d : Nat) : Nat := (s.siteAt (chipletSite b (s.ditchAt b d).home)).gen

/-- The core by whose chiplet the unit of a ditch makes its accesses. -/
def State.unitCore (s : State) (b d : Nat) : Nat := coreOf (chipletSite b (s.ditchAt b d).home) 0

/-- An access to the core map of a launch is refused: it is reported (R39). -/
def State.cmapRefused (s : State) (b : Nat) (h : List W64) : State := s.sluicePkt b (hdrDitch h) 0x95 (sluiceInfo (hdrDitch h) 0)

/-- An entry of a launch's core map, which lies in the address space of the ditch its header names (R39). -/
def State.cmapGet (s : State) (b : Nat) (h : List W64) (v p : Nat) : Option Nat × State :=
  let q := s.ditchAt b (hdrDitch h)
  match s.cmapRead (s.unitCore b (hdrDitch h)) q.asn q.root h v p with
  | (some e, s) => (some e, s)
  | (none, s) => (none, s.cmapRefused b h)

/-- An entry of a launch's core map is written. -/
def State.cmapSet (s : State) (b : Nat) (h : List W64) (v p e : Nat) : State :=
  let q := s.ditchAt b (hdrDitch h)
  match s.cmapWrite (s.unitCore b (hdrDitch h)) q.asn q.root h v p e with
  | (true, s) => s
  | (false, s) => s.cmapRefused b h

/-- An event has called for a pass (R387). -/
def State.callPass (s : State) (b : Nat) : State := s.modBasin b fun v => { v with passDue := true }

/-! ### Segments (R35, R380) -/

/-- Address of the link place of a segment. -/
def linkPlace (seg : Nat) : Nat := seg + 63 * 64

/-- The segment of a record place. -/
def segOf (a : Nat) : Nat := a / 4096 * 4096

/-- A link record (R35). -/
def linkRecord (next : Nat) : List W64 := [4#64, w64 next, 0#64, 0#64, 0#64, 0#64, 0#64, 0#64]

/-- Return a segment to the head of the free list, linked to the next free one. -/
def State.freeSeg (s : State) (b seg : Nat) : State :=
  let next := (s.basinAt b).free.headD 0
  (s.unitWrite (linkPlace seg) (linkRecord next)).modBasin b fun v => { v with free := seg :: v.free }

/-- Take the first free segment. -/
def State.takeSeg (s : State) (b : Nat) : Option (Nat × State) :=
  match (s.basinAt b).free with
  | [] => none
  | a :: rest => some (a, s.modBasin b fun v => { v with free := rest })

/-- Whether the next append at the tail, or at the head, needs a new segment. -/
def Ditch.tailNeeds (d : Ditch) : Bool := d.segs.isEmpty || d.tail % 4096 == 63 * 64
def Ditch.headNeeds (d : Ditch) : Bool := if d.recs.isEmpty then d.tailNeeds else d.head % 4096 == 0

/-- Kinds of append that may use the reserve (R382). -/
def AppendKind.reserve : AppendKind → Bool
  | .writeback => true
  | .wake => true
  | _ => false

/-- Whether an append may proceed now (R382); one to a disabled ditch waits until it is enabled. -/
def State.appendRoom (s : State) (b d : Nat) (k : AppendKind) : Bool :=
  let v := s.basinAt b
  let q := s.ditchAt b d
  let need := if k = .pushHead then q.headNeeds else q.tailNeeds
  q.en && (!need || (!v.free.isEmpty && (k.reserve || (decide (v.resv < v.free.length) && (q.maxseg = 0 || decide (q.segs.length < q.maxseg))))))

/-- The age of the head gang ends when it is no longer the head (R395, R396). -/
def Ditch.fixAge (q : Ditch) : Ditch :=
  match q.age with
  | some (a, _) => if q.recs.head? = some a then q else { q with age := none, aged := false, held := none }
  | none => q

/-- Write a record at the tail; the free list has a segment where one is needed. -/
def State.putTail (s : State) (b d : Nat) (r : List W64) : State :=
  let q := s.ditchAt b d
  let (a, s) := if q.tailNeeds then
      match s.takeSeg b with
      | none => (q.tail, s)
      | some (f, s) =>
        let s := if q.segs.isEmpty then s else s.unitWrite q.tail (linkRecord f)
        (f, s.modDitch b d fun q => { q with segs := q.segs ++ [f] })
    else (q.tail, s)
  (s.unitWrite a r).modDitch b d fun q => { q with recs := q.recs ++ [a], tail := a + 64 }

/-- Write a record before the head record (R380). -/
def State.putHead (s : State) (b d : Nat) (r : List W64) : State :=
  let q := s.ditchAt b d
  if q.recs.isEmpty then s.putTail b d r
  else if q.head % 4096 ≠ 0 then (s.unitWrite (q.head - 64) r).modDitch b d fun q => { q with recs := (q.head - 64) :: q.recs }.fixAge
  else match s.takeSeg b with
    | none => s
    | some (f, s) =>
      let a := f + 62 * 64
      ((s.unitWrite (linkPlace f) (linkRecord q.head)).unitWrite a r).modDitch b d fun q => { q with recs := a :: q.recs, segs := f :: q.segs }.fixAge

/-- Return the segments that the head has passed. -/
def State.drain (s : State) (b d : Nat) : Nat → State
  | 0 => s
  | fuel + 1 =>
    let q := s.ditchAt b d
    match q.segs with
    | [] => s
    | [_] => s
    | a :: rest =>
      if segOf q.head = a then s else State.drain ((s.modDitch b d fun q => { q with segs := rest }).freeSeg b a) b d fuel

/-- Take records out of a ditch. -/
def State.takeRecs (s : State) (b d : Nat) (as : List Nat) : State :=
  let s := s.modDitch b d fun q =>
    { q with
      recs := q.recs.filter fun a => !as.contains a, hinted := q.hinted.filter fun a => !as.contains a
      pushed := q.pushed.filter fun a => !as.contains a }.fixAge
  s.drain b d (s.ditchAt b d).segs.length

/-! ### Appends (R380, R382, R403) -/

/-- An appended record of a traced ditch leaves an entry (R466). -/
def State.traceAppend (s : State) (a : Append) (r : List W64) : State :=
  (s.tracers a.basin fun t => decide (t.src = 0) && decide (t.snum = a.ditch)).foldl (fun s n => s.traceEvent a.basin n 1 a.core a.slot r) s

/-- Append one record; that a hint has moved it, or a DPUSH appended it, is noted. -/
def State.putRec (s : State) (a : Append) (r : List W64) : State :=
  let s := if a.kind = .pushHead then s.putHead a.basin a.ditch r else s.putTail a.basin a.ditch r
  let s := s.modDitch a.basin a.ditch fun q => match a.kind with
    | .hint => { q with hinted := q.hinted ++ [q.recs.getLastD 0] }
    | .push => { q with pushed := q.pushed ++ [q.recs.getLastD 0] }
    | .pushHead => { q with pushed := q.pushed ++ [q.head] }
    | _ => q
  ((s.traceAppend a r).drain a.basin a.ditch (s.ditchAt a.basin a.ditch).segs.length).callPass a.basin

def State.dropAppend (s : State) (i : Nat) : State := { s with appends := s.appends.filter fun x => decide (x.id ≠ i) }

/-- An append is done; a DITCHW is answered. -/
def State.appendDone (s : State) (a : Append) : State :=
  let s := s.dropAppend a.id
  match s.leats.find? fun e => e.2.jobs.any fun j => j.appendId == some a.id with
  | none => s
  | some e => match e.2.jobs.find? fun j => j.appendId == some a.id with
    | none => s
    | some j => s.leatReply e.1 j.seq (replyFrame 8 j.seq (bits j.frame.w2.toNat 31 0) 0 0 [])

/-- The next record of an append is appended, or it waits behind those that already wait at its ditch. -/
def State.runAppend (s : State) (a : Append) : State :=
  match a.recs with
  | [] => s.appendDone a
  | r :: rest =>
    if s.appendRoom a.basin a.ditch a.kind then
      let s := s.putRec a r
      if rest.isEmpty then s.appendDone a
      else { s with appends := s.appends.map fun x => if x.id = a.id then { a with recs := rest, begun := true } else x }
    else if a.waiting then s
    else { (s.dropAppend a.id) with appends := (s.dropAppend a.id).appends ++ [{ a with waiting := true, since := s.time }] }

/-- A DPUSH that cannot append: R226 with its cause. -/
def State.pushFail (s : State) (a : Append) (cause va info : Nat) : State := (s.dropAppend a.id).failAfter a.core a.slot cause a.ix va info

/-- The record a DPUSH copies, once its thread's earlier accesses have performed; none while it must wait, or where it has failed. -/
def State.pushRecord (s : State) (a : Append) : Option (List W64) × State :=
  let p := (a.pa, 64)
  let info := sluiceInfo a.ditch a.va
  if s.pieceHeld p then (none, s)
  else match s.pieceRefused true p with
    | some c =>
      let s := if c = 0x39 then s.countUe (8 * ((s.firstPoisoned (s.wordsAt a.pa 64)).getD 0)) else s
      (none, s.pushFail a 0x96 a.va (c + a.va % 2 ^ 48 * 2 ^ 8))
    | none =>
      let r := s.memWords a.pa 8
      let s := s.correct (s.wordsAt a.pa 64)
      let q := s.ditchAt a.basin a.ditch
      if recKind r = 4 then (none, s.pushFail a 0x90 0 info)
      else if !q.en then (none, s.pushFail a 0x91 0 info)
      else if !a.sv && a.asn ≠ q.asn then (none, s.pushFail a 0x93 0 info)
      else (some (recSet r 23 16 a.ditch), s)

/-- Whether HOLD keeps an append back: that of a launch, but for a gang of which a record has been appended (R381, R384; log entry 91). -/
def State.appendOnHold (s : State) (a : Append) : Bool := decide (a.kind = .launch) && !a.begun && (s.basinAt a.basin).hold

/-- Whether an append stands behind another that goes first: a launch accepted before, or one of several records that stand next to one another, as those of
a gang, of a group or of a DITCHW do; or is kept back by HOLD. -/
def State.appendBehind (s : State) (a : Append) : Bool :=
  s.appendOnHold a || s.appends.any fun x => decide (x.basin = a.basin) && decide (x.ditch = a.ditch) && decide (x.id ≠ a.id) &&
    ((a.kind = .launch && x.kind = .launch && decide (x.id < a.id)) || x.begun)

/-- DITCH_APPEND: the unit at the home of a ditch appends the next record of an append. -/
def State.ditchAppend (s : State) (i : Nat) : State :=
  match s.appends.find? fun a => a.id == i && !a.waiting with
  | none => s
  | some a =>
    let push := a.kind = .push ∨ a.kind = .pushHead
    if s.appendBehind a || ((decide push || a.kind == .spawn) && !s.earlierDone a.core a.slot a.seq a.lsid) then s
    else
      let (r, s) := if push then s.pushRecord a else (none, s)
      if decide push && r.isNone then s
      else
        let a := match r with | some r => { a with recs := [r] } | none => a
        if s.appends.any fun x => x.waiting && decide (x.basin = a.basin) && decide (x.ditch = a.ditch) then
          { (s.dropAppend i) with appends := (s.dropAppend i).appends ++ [{ a with waiting := true, since := s.time }] }
        else s.runAppend a

def execDitchAppend (i : Nat) (s : State) : Out := .next (s.ditchAppend i)

/-- APPEND_WAIT_RESUME: the oldest append that waits at a ditch, and that HOLD does not keep back, tries again. -/
def State.appendResume (s : State) (b d : Nat) : State :=
  match s.appends.find? fun a => a.waiting && decide (a.basin = b) && decide (a.ditch = d) && !s.appendOnHold a with
  | none => s
  | some a => s.runAppend a

def execAppendWaitResume (b d : Nat) (s : State) : Out := .next (s.appendResume b d)

/-! ### Descriptors (Table 13-1) -/

/-- DITCH_RST: every record of a disabled ditch is discarded; one empty segment is kept. -/
def State.ditchRst (s : State) (b d : Nat) : State :=
  let q := s.ditchAt b d
  if q.en || 256 ≤ d || 4 ≤ b then s
  else
    let keep := q.segs.head?
    let s := s.modDitch b d fun q => { q with recs := [], hinted := [], pushed := [], segs := keep.toList, tail := keep.getD 0, age := none, aged := false, held := none }
    (q.segs.drop 1).foldl (fun s a => s.freeSeg b a)
      (s.traceReset b fun t => decide (t.src = 0) && decide (t.snum = d))

def execDitchRst (b d : Nat) (s : State) : Out := .next (s.ditchRst b d)

/-- A write of W0: while EN is 1 only EN, WIN and WEIGHT are written; EN is not set without a home in the basin and a segment. -/
def State.ditchEn (s : State) (b d : Nat) (v : Nat) : State :=
  let q := s.ditchAt b d
  let s := s.modDitch b d fun q =>
    let q := { q with win := bits v 7 4, weight := bits v 15 8 }
    if q.en then q else { q with mode := bit v 1, share := bit v 2, asn := bits v 31 16, home := bits v 38 32 }
  if !bit v 0 then s.modDitch b d fun q => { q with en := false, age := none, aged := false, held := none }
  else if q.en then s
  else if chipletsOf b ≤ bits v 38 32 then s
  else if !q.segs.isEmpty then s.modDitch b d fun q => { q with en := true }
  else match s.takeSeg b with
    | none => s
    | some (a, s) => s.modDitch b d fun q => { q with en := true, segs := [a], tail := a }

/-- DITCH_DESCRIPTOR_WRITE: a write of word k of a descriptor. -/
def State.ditchWrite (s : State) (b d k : Nat) (v : W64) : State :=
  let n := v.toNat
  if 256 ≤ d || 4 ≤ b then s
  else match k with
    | 0 => s.ditchEn b d n
    | 1 => s.modDitch b d fun q => if q.en then q else { q with root := bits n 47 0 }
    | 4 => s.modDitch b d fun q => { q with maxseg := bits n 63 48 }
    | 5 => s.modDitch b d fun q => { q with agelim := max 1000 (min (bits n 29 0) 1000000000) }
    | 7 => if bit n 0 then s.ditchRst b d else s
    | _ => s

def execDitchDescriptorWrite (b d k : Nat) (v : W64) (s : State) : Out := s.taken (s.basinAnswers b) (s.ditchWrite b d k v)

/-- The words of a descriptor. -/
def State.ditchRead (s : State) (b d k : Nat) : W64 :=
  let q := s.ditchAt b d
  match k with
  | 0 => w64 (q.en.toNat + q.mode.toNat * 2 + q.share.toNat * 4 + q.win * 2 ^ 4 + q.weight * 2 ^ 8 + q.asn * 2 ^ 16 + q.home * 2 ^ 32)
  | 1 => w64 q.root
  | 2 => w64 q.head
  | 3 => w64 q.tail
  | 4 => w64 (q.recs.length % 2 ^ 32 + q.segs.length % 2 ^ 16 * 2 ^ 32 + q.maxseg * 2 ^ 48)
  | 5 => w64 q.agelim
  | 6 => w64 (q.deficit + q.aged.toNat * 2 ^ 32)
  | _ => 0#64

/-! ### Pools (Tables 13-2, 14-6) -/

/-- Whether n bytes from an address are on-wafer memory of a basin. -/
def State.memoryOf (s : State) (b a n : Nat) : Bool :=
  let ok := fun (x : Nat) => match s.place b x with
    | .slice _ _ => true
    | .mchip _ _ => true
    | _ => false
  ok a && ok (a + n - 1)

/-- ADDSEG: a segment joins the free list. -/
def State.addSeg (s : State) (b a : Nat) : State :=
  let v := s.basinAt b
  if 4 ≤ b || a % 4096 ≠ 0 || !s.memoryOf b a 4096 || v.free.contains a || v.ditches.any fun e => e.2.segs.contains a then s
  else s.freeSeg b a

def execAddseg (b : Nat) (v : W64) (s : State) : Out := .next (s.addSeg b (bits v.toNat 47 0))

/-- Whether an image is held: in the pool, by a thread in a slot, or by a suspended continuation (R381). -/
def State.imgHeld (s : State) (b a : Nat) : Bool :=
  (s.basinAt b).images.contains a || (s.slots.any fun e => e.2.busy && e.2.ctl.imga.toNat == a) || s.armedImgs.contains a ||
    (s.awayRecs b).any fun r => (r.getD 6 0#64).toNat == a

/-- ADDIMG: a context image joins the pool. -/
def State.addImg (s : State) (b a : Nat) : State :=
  if 4 ≤ b || a % 2048 ≠ 0 || !s.memoryOf b a 2048 || s.imgHeld b a then s
  else (s.modBasin b fun v => { v with images := v.images ++ [a] }).callPass b

def execAddimg (b : Nat) (v : W64) (s : State) : Out := .next (s.addImg b (bits v.toNat 47 0))

/-- ADDSAVE: an engine save area joins the pool. -/
def State.addSave (s : State) (b a : Nat) : State :=
  if 4 ≤ b || a % 0x10000 ≠ 0 || !s.memoryOf b a 0x40000 then s else s.modBasin b fun v => { v with savePool := v.savePool ++ [a] }

def execAddsave (b : Nat) (v : W64) (s : State) : Out := .next (s.addSave b (bits v.toNat 47 0))

/-- SLUICE_HOLD_WRITE: a write of W5; clearing HOLD calls for a pass. -/
def State.holdWrite (s : State) (b : Nat) (v : W64) : State :=
  if 4 ≤ b then s
  else
    let was := (s.basinAt b).hold
    let s := s.modBasin b fun x => { x with hold := v.getLsbD 0, quant := bits v.toNat 15 8 }
    if was && !v.getLsbD 0 then s.callPass b else s

def execSluiceHoldWrite (b : Nat) (v : W64) (s : State) : Out := s.taken (s.basinAnswers b) (s.holdWrite b v)

/-- REGION_WRITE: a region of the grid, valid only inside it. -/
def State.regionWrite (s : State) (b k : Nat) (v : W64) : State :=
  let n := v.toNat
  let r : Rect := ⟨bits n 5 0, bits n 13 8, bits n 21 16, bits n 29 24⟩
  if 4 ≤ b || k = 0 || 16 ≤ k then s
  else s.modBasin b fun x => { x with regions := mput x.regions k ⟨r, bit n 31 && decide (r.x + r.w ≤ gridW b) && decide (r.y + r.h ≤ gridH b)⟩ }

def execRegionWrite (b k : Nat) (v : W64) (s : State) : Out := s.taken (s.basinAnswers b) (s.regionWrite b k v)

/-- A region; region 0 is the whole grid. -/
def State.regionAt (s : State) (b k : Nat) : Region :=
  if k = 0 then ⟨⟨0, 0, gridW b, gridH b⟩, true⟩ else mget (s.basinAt b).regions k {}

/-- The words of a basin's sluice control. -/
def State.sluiceRead (s : State) (b k : Nat) : W64 :=
  let v := s.basinAt b
  match k with
  | 0 => w64 (v.free.headD 0)
  | 2 => w64 (v.free.length % 2 ^ 32 + v.resv * 2 ^ 32)
  | 4 => w64 v.images.length
  | 5 => w64 (v.hold.toNat + v.quant * 2 ^ 8)
  | n =>
    if 8 ≤ n && n < 24 then
      let r := s.regionAt b (n - 8)
      w64 (r.rect.x + r.rect.y * 2 ^ 8 + r.rect.w * 2 ^ 16 + r.rect.h * 2 ^ 24 + r.valid.toNat * 2 ^ 31)
    else 0#64

end Sys2Proof.Machine
end

