-- ==== Sys2Proof/Machine/Launch.lean ====
section
/-! DEFINITION. Launches: the check of a header, its records, the count of its continuations, its completion and its dependants
(spec/01_organisation.md R37 to R41; spec/13_sluice.md R384 to R386, R402). -/

namespace Sys2Proof.Machine

/-- An access of the address space of a ditch. -/
def State.ditchXl (s : State) (b d va : Nat) (need : Need) : Except Nat Nat × State :=
  s.unitXl (s.unitCore b d) (s.ditchAt b d).asn (s.ditchAt b d).root va need

/-! ### The check of a header (Table 1-7, R385) -/

/-- Bits of PARG that Table 13-3 names. -/
def pargMask (place : Nat) : Nat :=
  match place with
  | 0 => 0xF3F3F
  | 1 => 0x3F7F7F
  | 2 => 2 ^ 64 - 1
  | _ => 0

/-- Whether every reserved bit of a header is zero (condition 0x02). -/
def hdrClean (h : List W64) : Bool :=
  wordBits h 0 23 23 == 0 && wordBits h 0 63 32 == 0 && wordBits h 1 63 36 == 0 && wordBits h 5 63 48 == 0 && wordBits h 7 63 32 == 0 &&
    wordBits h 10 63 48 == 0 && wordBits h 13 63 48 == 0 &&
    Nat.land (wordBits h 11 63 0) (2 ^ 64 - 1 - pargMask (hdrPlace h)) == 0

/-- Condition 0x03. -/
def hdrLevels (h : List W64) : Bool :=
  let n := hdrNlev h
  let g := hdrGlev h
  let k := hdrKlev h
  decide (1 ≤ n) && decide (n ≤ 6) && decide (1 ≤ g) && decide (g ≤ n) && (decide (k = 0) || (decide (g < k) && decide (k ≤ n))) &&
    decide (1 ≤ hdrQuota h)

/-- Condition 0x04. -/
def hdrFields (h : List W64) : Bool :=
  ((List.range 6).all fun i =>
    if i < hdrNlev h then decide (1 ≤ hdrWidth h i) && decide (hdrExtent h i ≤ 2 ^ hdrWidth h i) else hdrWidth h i == 0 && hdrExtent h i == 0) &&
    decide (hdrLow h 6 ≤ 64)

/-- Condition 0x07 (R385). -/
def State.hdrFits (s : State) (b : Nat) (h : List W64) : Bool :=
  if hdrPlace h ≠ 0 then true
  else
    let r := s.regionAt b (wordBits h 11 19 16)
    let w := wordBits h 11 5 0
    let t := wordBits h 11 13 8
    r.valid && decide (1 ≤ w) && decide (w ≤ r.rect.w) && decide (1 ≤ t) && decide (t ≤ r.rect.h) && decide (w * t = hdrGang h)

/-- The code of the first condition that a header breaks. -/
def State.hdrRefusal (s : State) (b : Nat) (h : List W64) : Option Nat :=
  if !(wordBits h 0 3 0 == 11 && wordBits h 0 7 4 == 1) then some 1
  else if !hdrClean h then some 2
  else if !hdrLevels h then some 3
  else if !hdrFields h then some 4
  else if hdrQuota h < hdrProduct h 0 (hdrGlev h) then some 5
  else if hdrEntry h % 16 ≠ 0 || hdrCmap h % 64 ≠ 0 || wordBits h 13 47 0 % 8 ≠ 0 || wordBits h 7 31 0 % 16 ≠ 0 then some 6
  else if !s.hdrFits b h then some 7
  else if 1048576 < hdrGroups h then some 8
  else none

/-! ### Records of a launch (R384, Table 13-3) -/

/-- PARG of the records of a group. -/
def hdrParg (h : List W64) (v : Nat) : Nat :=
  match hdrPlace h with
  | 0 => wordBits h 11 31 0
  | 1 => wordBits h 11 14 0
  | 2 => (wordBits h 11 31 0 + v * wordBits h 11 63 32) % 2 ^ 32
  | _ => 0

def hdrRadius (h : List W64) : Nat := if hdrPlace h = 1 then wordBits h 11 21 16 else 0

/-- The record of item j of a launch. -/
def launchRecord (h : List W64) (hdr j : Nat) : List W64 :=
  let wid := hdrWid h j
  let v := hdrGroup h wid
  [w64 (1 + hdrPlace h * 2 ^ 8 + hdrRadius h * 2 ^ 10 + hdrDitch h * 2 ^ 16 + hdrParg h v * 2 ^ 32), w64 wid, w64 (hdrEntry h),
    w64 (wordBits h 6 63 0 + v * wordBits h 7 31 0), h.getD 8 0#64, h.getD 9 0#64, 0#64, w64 hdr]

/-- Records appended together: those of a gang, which is one group where KLEV is 0 (R384, R385). -/
def hdrChunk (h : List W64) : Nat := hdrProduct h 0 (if hdrKlev h = 0 then hdrGlev h else hdrKlev h)

/-- The records of a launch leave for its ditch, gang by gang. -/
def State.expand (s : State) (b hdr : Nat) (h : List W64) : State :=
  let n := hdrChunk h
  (List.range (hdrItems h / max 1 n)).foldl (fun s i =>
    { s.bump with appends := s.appends ++
        [{ id := s.nextId, basin := b, ditch := hdrDitch h, kind := .launch, recs := (List.range n).map fun j => launchRecord h hdr (n * i + j) }] }) s

/-! ### Completion (R41, R386) -/

/-- Word 15 of a header. -/
def State.setStatus (s : State) (hdr status reason : Nat) : State := s.unitWrite (hdr + 120) [w64 (status + reason * 2 ^ 8)]

/-- The release write of a completed launch goes out; the dependants wait behind it. -/
def State.release (s : State) (b : Nat) (h : List W64) : State :=
  let d := hdrDitch h
  let rel := wordBits h 13 47 0
  let sig := fun (r : Option Nat) => ({ basin := b, ditch := d, list := wordBits h 12 47 0, count := wordBits h 12 63 48, req := r } : Signal)
  if rel = 0 then { s with signals := s.signals ++ [sig none] }
  else match s.ditchXl b d rel .write with
    | (.error _, s) => { (s.sluicePkt b d 0x95 (sluiceInfo d 0)) with signals := s.signals ++ [sig none] }
    | (.ok pa, s) =>
      let q : Req :=
        { id := s.nextId, core := s.unitCore b d, slot := 8, ix := 127, seq := 0, lsid := 0, kind := .post, va := rel, pa := pa
          data := (h.getD 14 0#64).setWidth 128, info := sluiceInfo d 0, ord := s.nextId, left := true, since := s.time }
      { s.bump with reqs := s.reqs ++ [q], signals := s.signals ++ [sig (some s.nextId)] }

/-- A launch completes. -/
def State.completeLaunch (s : State) (b hdr : Nat) (h : List W64) : State :=
  let s := { s with launches := s.launches.filter fun l => !(decide (l.basin = b) && decide (l.hdr = hdr)) }
  (s.setStatus hdr 2 0).release b h

/-- A continuation of a group of an active launch is over: it has retired, or its record was retired. -/
def State.countRetired (s : State) (b : Nat) (g : Group) : State :=
  match s.launchOf b g.hdr with
  | none => s
  | some l =>
    let d := mget l.groups g.vc (0, 0)
    let s := s.modLaunch b g.hdr fun l => { l with live := l.live - 1, groups := mput l.groups g.vc (d.1, d.2 + 1) }
    let s := if s.groupLive b g = 0 then s.returnArea b g else s
    if l.live ≤ 1 then s.completeLaunch b g.hdr l.words else s

/-- DEPENDANT_SIGNAL: once the release write, or the signal before it, has performed, the next dependant of the oldest completed launch is signalled. -/
def State.signalNext (s : State) (b : Nat) : State :=
  let done := fun (r : Option Nat) => match r with | some i => !(s.reqs.any fun q => q.id == i) | none => true
  match s.signals.find? fun g => decide (g.basin = b) && done g.req with
  | none => s
  | some g =>
    let drop := s.signals.erase g
    if g.count ≤ g.next then { s with signals := drop }
    else
      let put := fun (s : State) (r : Option Nat) => { s with signals := s.signals.map fun x => if x = g then { g with next := g.next + 1, req := r } else x }
      let skip := fun (s : State) => put (s.sluicePkt b g.ditch 0x95 (sluiceInfo g.ditch 0)) none
      let va := g.list + 8 * g.next
      match s.ditchXl b g.ditch va .read with
      | (.error _, s) => skip s
      | (.ok pa, s) =>
        if va % 8 ≠ 0 then skip s
        else match s.pieceRefused true (pa, 8) with
          | some c => skip (if c = 0x39 then s.countUe pa else s)
          | none =>
            let s := s.correct [wordOf pa]
            let e := s.mem.read pa 8
            if bits e 3 1 ≠ 0 || bits e 63 48 ≠ 0 || (bit e 0 && bits e 6 4 ≠ 0) then skip s
            else
              let a := bits e 47 4 * 16
              let sp := unitSpace (s.unitCore b g.ditch) (s.ditchAt b g.ditch).asn (s.ditchAt b g.ditch).root
              let x := if bit e 0 then (if inWindow a then (.error 0x33, s) else s.engineAt sp a .read) else s.ditchXl b g.ditch a .write
              match x with
              | (.error _, s) => skip s
              | (.ok pa, s) =>
                if bit e 0 then
                  put { s.bump with submits := s.submits ++ [{ id := s.nextId, basin := b, hdr := pa, core := s.unitCore b g.ditch, asn := (s.ditchAt b g.ditch).asn, sv := false, ditch := g.ditch }] } none
                else
                  let q : Req :=
                    { id := s.nextId, core := s.unitCore b g.ditch, slot := 8, ix := 127, seq := 0, lsid := 0, kind := .joinad false, va := a, pa := pa
                      size := 16, data := BitVec.ofNat 128 (2 ^ 64 - 1), info := sluiceInfo g.ditch 0, ord := s.nextId, left := true, since := s.time }
                  put { s.bump with reqs := s.reqs ++ [q] } (some s.nextId)

def execDependantSignal (b : Nat) (s : State) : Out := .next (s.signalNext b)

/-! ### Submission (R39, R40, R384, R402) -/

def State.dropSubmit (s : State) (p : Submit) : State := { s with submits := s.submits.filter fun x => decide (x.id ≠ p.id) }

/-- The completion of a leat LAUNCH. -/
def State.submitReply (s : State) (p : Submit) (status reason : Nat) : State :=
  match p.leat with
  | some (port, seq, tag) => s.leatReply port seq (replyFrame 8 seq tag status reason [])
  | none => s

/-- A header that cannot be taken: the thread follows R226, the host is told, and a dependant is reported. -/
def State.submitFail (s : State) (p : Submit) (d cause status : Nat) : State :=
  let s := s.dropSubmit p
  if p.leat.isSome then s.submitReply p status 0
  else if p.slot < 8 then s.failAfter p.core p.slot cause p.ix p.hdr (if 0x90 ≤ cause then sluiceInfo d p.hdr else 0)
  else s.sluicePkt p.basin p.ditch (if 0x90 ≤ cause then cause else 0x95) (sluiceInfo d p.hdr)

/-- A refused header (R40). -/
def State.submitRefused (s : State) (p : Submit) (reason : Nat) : State :=
  let s := (s.dropSubmit p).setStatus p.hdr 3 reason
  if p.leat.isSome then s.submitReply p 3 reason
  else
    let n := coreSite p.core
    s.sendPkt n (if p.slot < 8 then p.core else s.riderCore n) (if p.slot < 8 then p.slot else 7)
      (packetWords 0x41 n (coreNum p.core) (p.slot % 8) 0xA6 127 false false true 0 0 0#64 (reason + p.hdr % 2 ^ 48 * 2 ^ 8) s.time
        (s.coreAt p.core).lcid 0)

/-- An accepted launch begins: its records leave for the ditch, or, without items, it completes at once (R41). -/
def State.startLaunch (s : State) (p : Submit) (h : List W64) : State :=
  let s := s.dropSubmit p
  if hdrItems h = 0 then s.completeLaunch p.basin p.hdr h
  else ({ s with launches := s.launches ++ [⟨p.basin, p.hdr, h, hdrItems h, false, []⟩] } : State).expand p.basin p.hdr h

/-- Whether a basin has room for another active launch. -/
def State.launchRoom (s : State) (b : Nat) : Bool := decide ((s.launches.filter fun l => decide (l.basin = b)).length < 1024)

/-- Whether a header accepted now may begin: there is room, HOLD is 0, and no accepted header waits (R381, R384). -/
def State.launchFree (s : State) (b : Nat) : Bool :=
  s.launchRoom b && !(s.basinAt b).hold && !s.submits.any fun x => x.accepted && decide (x.basin = b)

/-- The submission the sluice takes up next: the oldest accepted header that waits, once it may begin, else one that has reached the sluice. -/
def State.nextSubmit (s : State) (b : Nat) : Option Submit :=
  match s.submits.find? fun p => p.accepted && decide (p.basin = b) && s.launchRoom b && !(s.basinAt b).hold with
  | some p => some p
  | none => s.submits.find? fun p => !p.accepted && decide (p.basin = b) && (decide (8 ≤ p.slot) || s.earlierDone p.core p.slot p.seq p.lsid)

/-- LAUNCH_EXPANSION: the sluice takes the next header, checks it, and appends its records. While HOLD is 1 a header is read, checked and accepted, and one
without items completes; the expansion of any other waits (R41, R381; log entry 91). -/
def State.launchExpand (s : State) (b : Nat) : State :=
  match s.nextSubmit b with
    | none => s
    | some p =>
      if p.accepted then s.startLaunch p p.words
      else if (s.owned.any fun o => (s.linesAt p.hdr 128).contains o.line) || s.resv.any fun e => (s.wordsAt p.hdr 128).contains e.1 then s
      else match s.pieceRefused true (p.hdr, 128) with
        | some c => (if c = 0x39 then s.countUe (8 * ((s.firstPoisoned (s.wordsAt p.hdr 128)).getD 0)) else s).submitFail p p.ditch c (if c = 0x39 then 2 else 1)
        | none =>
          let h := s.memWords p.hdr 16
          let s := s.correct (s.wordsAt p.hdr 128)
          match s.hdrRefusal b h with
            | some r => s.submitRefused p r
            | none =>
              let q := s.ditchAt b (hdrDitch h)
              if !q.en then s.submitFail p (hdrDitch h) 0x91 4
              else if !p.sv && p.asn ≠ q.asn then s.submitFail p (hdrDitch h) 0x93 4
              else
                let s := s.submitReply p 0 0
                if s.launchFree b || hdrItems h = 0 then s.startLaunch p h
                else { (s.dropSubmit p) with submits := (s.dropSubmit p).submits ++ [{ p with accepted := true, words := h }] }

def execLaunchExpansion (b : Nat) (s : State) : Out := .next (s.launchExpand b)

end Sys2Proof.Machine
end

