-- ==== Sys2Proof/Machine/Place.lean ====
section
/-! DEFINITION. Placement: which core and slot a record takes, passes, tasks, gangs and their ageing, and the shares of slots
(spec/13_sluice.md R387 to R396; spec/08_matrix_engine.md R255; spec/09_copy_engine.md R296; spec/14_ditch_rider.md R431, R432). -/

namespace Sys2Proof.Machine

/-! ### What a record belongs to -/

/-- Whether word 7 of a thread continuation addresses, in a basin, the header of a launch accepted or running (R387). -/
def State.recLaunched (s : State) (b : Nat) (r : List W64) : Bool :=
  let a := recHdr r
  s.memoryOf b a 128 && s.mem.read (s.redirect a) 1 == 0x1B && decide (s.mem.read (s.redirect (a + 120)) 1 % 4 ≤ 1)

/-- The core on which a group has a continuation. -/
def State.groupCore (s : State) (b : Nat) (g : Group) : Option Nat :=
  (s.slots.find? fun e => e.2.busy && decide (e.1 % 8 < 7) && decide (coreBasin (e.1 / 8) = b) && e.2.group == g).map fun e => e.1 / 8

/-- What binds a group: nothing, a core, or an entry that names no live core (R388). -/
inductive Binding where
  | none_ | core (k : Nat) | lost
  deriving DecidableEq, Repr

def State.binding (s : State) (b d : Nat) (g : Group) (h : List W64) : Binding × State :=
  match s.groupCore b g with
  | some k => (.core k, s)
  | none => match s.cmapGet b h g.vc (s.unitGen b d % 2) with
    | (none, s) => (.none_, s)
    | (some e, s) =>
      (if !bit e 31 then .none_ else match s.logicalCoreIn b (s.unitGen b d) (bits e 15 0) with
        | some k => .core k
        | none => .lost, s)

/-! ### Cores and slots (R388) -/

def Rect.has (r : Rect) (core : Nat) : Bool :=
  decide (r.x ≤ gridX core) && decide (gridX core < r.x + r.w) && decide (r.y ≤ gridY core) && decide (gridY core < r.y + r.h)

/-- The ditch for which a core is held (R396). -/
def State.heldFor (s : State) (core : Nat) : Option Nat :=
  ((s.basinAt (coreBasin core)).ditches.find? fun e => match e.2.held with | some r => r.has core | none => false).map Prod.fst

/-- Whether a core lies in a rectangle held for another ditch. -/
def State.heldElse (s : State) (d core : Nat) : Bool :=
  (s.basinAt (coreBasin core)).ditches.any fun e => decide (e.1 ≠ d) && match e.2.held with | some r => r.has core | none => false

/-- The idle user slots of a core that a ditch may take. -/
def State.eligible (s : State) (d core : Nat) : List Nat :=
  if s.heldElse d core then []
  else (List.range 7).filter fun n => let sl := s.slotAt core n; !sl.busy && (decide (sl.owner = d) || decide (sl.owner = 0x100))

/-- A migration keeps records away from its old core, and from its target all but those of its group (R434). -/
def State.coreOpen (s : State) (core : Nat) (g : Group) : Bool :=
  (s.coreAt core).mig.isNone && (s.coreAt core).phase == 0 &&
    !(s.cores.any fun e => match e.2.mig with
      | some j => decide (e.2.target = core) && decide (e.1 ≠ core) && !(j.grp == g)
      | none => false)

/-- The fold count that a group's save area records. -/
def State.savedFold (s : State) (g : Group) : Nat :=
  match s.saveArea g with
  | some a => bits (s.mem.read a 8) 42 40
  | none => 0

/-- A group whose save area records a fold count resumes only on a core onto which it is folded (R431). -/
def State.foldOk (s : State) (core : Nat) (g : Group) : Bool := s.savedFold g = 0 || (s.coreAt core).members.contains g

/-- Whether a group without a continuation on a core keeps its engines for want of a save area (R425). -/
def State.areaWanted (s : State) (core : Nat) : Bool :=
  let k := s.coreAt core
  (s.basinAt (coreBasin core)).savePool.isEmpty && (k.owner.toList ++ k.members).any fun g =>
    g ≠ goneGroup && !s.holdsGroup core g && s.groupLive (coreBasin core) g ≠ 0 && (s.saveArea g).isNone

/-- Whether a new group of a ditch may take a core. -/
def State.newOk (s : State) (b d core : Nat) (g : Group) : Bool :=
  s.coreLive core && !(s.eligible d core).isEmpty && (!(s.coreAt core).owned || (s.ditchAt b d).share) && !s.areaWanted core && s.coreOpen core g && s.foldOk core g

/-- Slots of a core that a launch holds. -/
def State.launchSlots (s : State) (core hdr : Nat) : Nat :=
  ((List.range 7).filter fun n => let sl := s.slotAt core n; sl.busy && sl.ending != some .swap && sl.group.hdr == hdr).length

/-- Whether a bound record may take its core. -/
def State.boundOk (s : State) (d core : Nat) (g : Group) (h : List W64) : Bool :=
  s.coreLive core && !(s.eligible d core).isEmpty && decide (s.launchSlots core g.hdr < hdrQuota h) && s.coreOpen core g && s.foldOk core g

/-- The cores of a basin in ascending physical index. -/
def basinCores (b : Nat) : List Nat := (List.range (nmaxOf b)).map (physCore b)

def absDiff (a b : Nat) : Nat := (a - b) + (b - a)

/-- Distance of a core from mesh coordinates (R390). -/
def hintDistance (core x y : Nat) : Nat := absDiff (meshX (coreSite core) (coreNum core)) x + absDiff (meshY (coreSite core) (coreNum core)) y

/-- The first of a list with the least measure. -/
def leastBy (f : Nat → Nat) : List Nat → Option Nat
  | [] => none
  | a :: l => match leastBy f l with
    | some m => if f m < f a then some m else some a
    | none => some a

/-! ### Starting a continuation (R34, R392, R397, R432) -/

/-- SEG of a member of a fold (R432). -/
def State.foldSeg (s : State) (core : Nat) (g : Group) : W64 :=
  let k := s.coreAt core
  let n := (if promptBasin (coreBasin core) then 32 else 64) - (if s.riderCore (coreSite core) = core then 3 else 0)
  let u := n / k.foldK
  w64 (k.foldIndex g * u * 2 ^ 16 + u * 2 ^ 32)

/-- The windows of a thread that resumes inside a fold, or outside one again. -/
def State.foldWindow (s : State) (core : Nat) (g : Group) (sl : Slot) : Slot × State :=
  let img := sl.ctl.imga.toNat
  let was := s.foldImgs.contains img
  if 2 ≤ (s.coreAt core).foldK && (s.coreAt core).members.contains g then
    ({ sl with route := List.replicate 8 0#64, ctl := { sl.ctl with fseg := if was then sl.ctl.fseg else sl.ctl.seg, seg := s.foldSeg core g } },
      { s with foldImgs := sins s.foldImgs img })
  else if was then ({ sl with ctl := { sl.ctl with seg := sl.ctl.fseg } }, { s with foldImgs := sdel s.foldImgs img })
  else (sl, s)

/-- A group takes the engines of a core without an owner, or returns to its fold: its state is restored from its save area. -/
def State.claimEngines (s : State) (core : Nat) (g : Group) (sp : Space) : State :=
  let k := s.coreAt core
  let restore := fun (s : State) => match s.saveArea g with
    | some a => s.restoreEngines core g sp a
    | none => s
  if !k.owned then restore (s.modCore core fun k => { k with owner := some g, ownSp := (sp.asn, sp.root) })
  else if k.awaiting.contains g then restore (s.modCore core fun k => { k with awaiting := k.awaiting.filter fun x => !(x == g) })
  else s

/-- A record takes a slot of a core. -/
def State.startIn (s : State) (b d : Nat) (r : List W64) (g : Group) (core slot : Nat) (isNew : Bool) : State :=
  let r := recSet r 24 24 0
  let old := s.slotAt core slot
  let q := s.ditchAt b d
  let h := s.hdrWords b g.hdr
  let img := if recState r = 0 then (s.basinAt b).images.headD 0 else (r.getD 6 0#64).toNat
  let s := if recState r = 0 then s.modBasin b fun v => { v with images := v.images.drop 1 } else s
  let sl := if recState r = 0 then newSlot r img g.vc q.asn q.root else s.loadImage img
  let sl := { sl with
    record := r, pc := r.getD 2 0#64, seq := old.seq + 2, account := old.account, owner := d
    ctl := if recState r = 0 then { sl.ctl with esave := match s.saveArea g with | some a => w64 a | none => sl.ctl.esave } else sl.ctl
    route := if (s.basinAt b).pend then List.replicate 8 0#64 else sl.route
    run := if recState r = 1 && sl.barWait.getLsbD 6 then (mget? s.asleep img).map fun (x : Run) => { x with seq := old.seq + 1 } else none }
  let sl := { sl with deferFrz := sl.run.any Run.frzDue, deferStop := sl.run.any Run.stopDue }
  let s := { s with asleep := mdel s.asleep img }
  let (sl, s) := s.foldWindow core g sl
  let s := (s.setSlot core slot sl).claimEngines core g (sl.space core slot)
  let s := if isNew then s.cmapSet b h g.vc (s.unitGen b d % 2) (cmapEntry ((s.logicalIdIn (s.unitGen b d) core).getD 0)) else s
  let s := match s.launchOf b g.hdr with
    | some l => if l.started then s else (s.setStatus g.hdr 1 0).modLaunch b g.hdr fun l => { l with started := true }
    | none => s
  (s.ungate core).settle core slot

/-- Whether a record has the image it needs. -/
def State.imageOk (s : State) (b : Nat) (r : List W64) : Bool := recState r ≠ 0 || !(s.basinAt b).images.isEmpty

/-- A record leaves its ditch for the first eligible slot of a core, if it has the image it needs (R397). -/
def State.placeOn (s : State) (b d a : Nat) (r : List W64) (g : Group) (core : Nat) (isNew : Bool) : State :=
  match (s.eligible d core).head? with
  | none => s
  | some n => if !s.imageOk b r then s else (s.takeRecs b d [a]).startIn b d r g core n isNew

/-- A record is retired without being run (R36, R387, R389, R391). -/
def State.retireRec (s : State) (b d a : Nat) (r : List W64) (cause : Nat) (counts : Bool) : State :=
  let s := (s.takeRecs b d [a]).sluicePkt b d cause (sluiceInfo d a)
  if counts && recKind r = 1 && (s.launchOf b (recHdr r)).isSome then s.countRetired b (s.recGroup b r) else s

/-! ### Single records (R388, R390, R391) -/

/-- A hinted record for which no core qualifies is moved to the hint ditch, once (R390). -/
def State.hintMove (s : State) (b d a : Nat) (r : List W64) (x y : Nat) : State :=
  let n := siteAtXY (x / 4) (y / 4)
  let hd := (s.siteAt n).hditch
  if 88 ≤ x || 88 ≤ y || !isCompute n || basinOf n ≠ b || hd = d || (s.ditchAt b d).hinted.contains a then s
  else
    let s := s.takeRecs b d [a]
    { s.bump with appends := s.appends ++ [{ id := s.nextId, basin := b, ditch := hd, kind := .hint, recs := [recSet r 23 16 hd], since := s.time }] }

/-- A thread continuation that is bound to a core, or whose group is new. Gang units are placed elsewhere; a gang record that a DPUSH appended, and whose group
is not bound, forms none and is retired (R389). -/
def State.placeThread (s : State) (b d a : Nat) (r : List W64) : State :=
  let g := s.recGroup b r
  let h := s.hdrWords b g.hdr
  match s.groupCore b g with
    | some k => if s.boundOk d k g h then s.placeOn b d a r g k false else s
    | none =>
      if recPlace r = 3 then
        let (e, s) := s.cmapGet b h g.vc (s.unitGen b d % 2)
        match (e.filter fun e => bit e 31).bind fun e => s.logicalCoreIn b (s.unitGen b d) (bits e 15 0) with
        | none => s.retireRec b d a r 0x95 true
        | some k => if s.boundOk d k g h then s.placeOn b d a r g k false else s
      else match s.binding b d g h with
        | (.core k, s) => if s.boundOk d k g h then s.placeOn b d a r g k false else s
        | (.lost, s) => s
        | (.none_, s) =>
          if recPlace r = 1 then
            let x := bits (recParg r) 6 0
            let y := bits (recParg r) 14 8
            match leastBy (fun k => hintDistance k x y) ((basinCores b).filter fun k => decide (hintDistance k x y ≤ recRadius r) && s.newOk b d k g) with
            | some k => s.placeOn b d a r g k true
            | none => s.hintMove b d a r x y
          else if recPlace r = 0 then (if (s.ditchAt b d).pushed.contains a then s.retireRec b d a r 0x95 true else s)
          else match s.keyedCore b (s.unitGen b d) (recParg r) with
            | some k => if s.newOk b d k g then s.placeOn b d a r g k true else s
            | none => s

/-! ### Tasks (R255, R296, R393) -/

/-- The address space and group under which a ditch task runs on a core: those of the engines' owner. -/
def State.taskSpace (s : State) (b d core : Nat) : Space × Group :=
  let q := s.ditchAt b d
  match (s.coreAt core).owner with
  | none => (⟨core, false, q.asn, q.root, 0⟩, ⟨0, 0⟩)
  | some g => match (List.range 7).find? fun n => let sl := s.slotAt core n; sl.busy && sl.group == g with
    | some n => ((s.slotAt core n).space core n, g)
    | none => (⟨core, false, q.asn, q.root, 0⟩, g)

/-- The engine of a core takes a task record from its ditch, if it may. -/
def State.takeTask (s : State) (b d a core : Nat) (r : List W64) : State :=
  let x := s.taskSpace b d core
  let c : Cmd := { id := s.nextId, kind := if recKind r = 2 then .mtask else .ctask, core := core, slot := 8, sp := x.1, grp := x.2 }
  let (ok, s) := if recKind r = 2 then s.bump.matTake core r c else s.bump.copyTake core r c
  if ok then (s.takeRecs b d [a]).ungate core else s

/-- Whether a core's engine may have room for a task: no record is placed in a held rectangle but its head (R396). -/
def State.taskRoom (s : State) (core : Nat) (r : List W64) : Bool :=
  let mat := decide (recKind r = 2)
  let tag := bits (r.getD (if mat then 7 else 3) 0#64).toNat 5 0
  s.coreLive core && (s.heldFor core).isNone && (s.coreAt core).mig.isNone && (s.coreAt core).phase == 0 && decide ((s.coreAt core).foldK < 2) && s.tagRoom core [tag] &&
    decide ((if mat then (s.matAt core).tasks.length else (s.copyAt core).tasks.length) < 16)

/-- The core on which a task record may be placed now. -/
def State.taskCore (s : State) (b d : Nat) (r : List W64) : Option Nat :=
  if recPlace r = 1 then
    let x := bits (recParg r) 6 0
    let y := bits (recParg r) 14 8
    leastBy (fun k => hintDistance k x y) ((basinCores b).filter fun k => decide (hintDistance k x y ≤ recRadius r) && s.taskRoom k r)
  else (s.keyedCore b (s.unitGen b d) (recParg r)).filter fun k => s.taskRoom k r

/-- A task record is placed by its PLACE field; a gang or explicit one names no core and is retired. -/
def State.placeTask (s : State) (b d a : Nat) (r : List W64) : State :=
  if recPlace r = 0 || recPlace r = 3 then s.retireRec b d a r 0x95 false
  else match s.taskCore b d r with
    | some k => s.takeTask b d a k r
    | none => s

/-- The record at an address, once its words can be read. -/
def State.recAt (s : State) (a : Nat) : List W64 := s.memWords a 8

/-- One record that forms a unit of its own. -/
def State.placeOne (s : State) (b d a : Nat) : State :=
  let r := s.recAt a
  if (s.firstPoisoned (s.wordsAt a 64)).isSome then (s.countUe (s.redirect a)).retireRec b d a r 0x95 false
  else
    let s := s.correct (s.wordsAt a 64)
    if recBad r then s.retireRec b d a r 0xA5 true
    else if recKind r ≠ 1 then s.placeTask b d a r
    else if !s.recLaunched b r then s.retireRec b d a r 0x95 false
    else s.placeThread b d a r

/-- Whether a DPOP has reserved a record (R404). -/
def State.popped (s : State) (b a : Nat) : Bool := s.pops.any fun p => decide (coreBasin p.core = b) && p.taken.isEmpty && p.place == some a

/-- MATRIX_TASK_TAKE and COPY_TASK_ACCEPT: record n of the window of ditch d is taken by the engine of core c, the core its placement names. -/
def State.taskEvent (s : State) (b d n core kind : Nat) : State :=
  let q := s.ditchAt b d
  match q.recs[n]? with
  | none => s
  | some a =>
    let r := s.recAt a
    if !q.en || q.mode || s.popped b a || (s.basinAt b).hold || q.win < n || q.aged || recKind r ≠ kind || recBad r || recPlace r = 0 || recPlace r = 3 ||
        s.taskCore b d r ≠ some core then s
    else s.takeTask b d a core r

def execMatrixTaskTake (b d n c : Nat) (s : State) : Out := .next (s.taskEvent b d n c 2)
def execCopyTaskAccept (b d n c : Nat) (s : State) : Out := .next (s.taskEvent b d n c 3)

/-! ### Gangs (R387, R389, R395, R396) -/

/-- The launch and gang of a record that forms part of a gang unit: placed as a gang, its group not bound. -/
def State.gangKey (s : State) (b d a : Nat) : Option (Nat × Nat) × State :=
  let r := s.recAt a
  if (s.firstPoisoned (s.wordsAt a 64)).isSome || recBad r || recKind r ≠ 1 || recPlace r ≠ 0 || (s.ditchAt b d).pushed.contains a || !s.recLaunched b r then (none, s)
  else
    let g := s.recGroup b r
    let h := s.hdrWords b g.hdr
    match s.binding b d g h with
    | (.none_, s) => (some (g.hdr, g.vc / max 1 (hdrGang h)), s)
    | (_, s) => (none, s)

/-- The leading records of a list that belong to a gang. -/
def State.sameGang (s : State) (b d : Nat) (key : Nat × Nat) : List Nat → List Nat × State
  | [] => ([], s)
  | a :: l => match s.gangKey b d a with
    | (some k, s) => if k = key then
        let x := State.sameGang s b d key l
        (a :: x.1, x.2)
      else ([], s)
    | (none, s) => ([], s)

/-- The first n units of a ditch's records: whether each is a gang unit, and its records. -/
def State.units (s : State) (b d : Nat) (recs : List Nat) : Nat → List (Bool × List Nat) × State
  | 0 => ([], s)
  | n + 1 => match recs with
    | [] => ([], s)
    | a :: l =>
      let (key, s) := s.gangKey b d a
      let (u, s) : (Bool × List Nat) × State := match key with
        | none => ((false, [a]), s)
        | some k =>
          let x := s.sameGang b d k l
          ((true, a :: x.1), x.2)
      let x := State.units s b d (recs.drop u.2.length) n
      (u :: x.1, x.2)

/-- The rectangles of a region for a gang of w by h cores, in the order of R389. -/
def gangRects (r : Rect) (w h : Nat) : List Rect :=
  if r.w < w || r.h < h then []
  else (List.range (r.h - h + 1)).flatMap fun j => (List.range (r.w - w + 1)).map fun i => ⟨r.x + i, r.y + j, w, h⟩

/-- The core of a rectangle that takes group i of a gang. -/
def Rect.core (r : Rect) (b i : Nat) : Nat := gridCore b (r.x + i % max 1 r.w) (r.y + i / max 1 r.w)

/-- The cores of a rectangle. -/
def Rect.cores (r : Rect) (b : Nat) : List Nat := (List.range (r.w * r.h)).map (r.core b)

/-- Records of a gang unit with their groups. -/
def State.unitGroups (s : State) (b : Nat) (u : List Nat) : List (Nat × Group) := u.map fun a => (a, s.recGroup b (s.recAt a))

/-- Whether a rectangle admits a gang unit (R389). -/
def State.rectAdmits (s : State) (b d n : Nat) (us : List (Nat × Group)) (r : Rect) : Bool :=
  (List.range (r.w * r.h)).all fun i =>
    let k := r.core b i
    let mine := us.filter fun e => e.2.vc % max 1 n == i
    s.coreLive k && !s.holdsAny k && !(s.coreAt k).owned && decide (mine.length ≤ (s.eligible d k).length) &&
      mine.all fun e => s.coreOpen k e.2 && s.foldOk k e.2

/-- Every record of a gang unit takes its slot at once. -/
def State.placeGangIn (s : State) (b d n : Nat) (us : List (Nat × Group)) (r : Rect) : State :=
  let rs := us.map fun e => (e.1, e.2, s.recAt e.1)
  let s := s.takeRecs b d (us.map Prod.fst)
  rs.foldl (fun s e =>
    let k := r.core b (e.2.1.vc % max 1 n)
    let isNew := !s.holdsGroup k e.2.1
    match (s.eligible d k).head? with
    | some m => s.startIn b d e.2.2 e.2.1 k m isNew
    | none => s) s

/-- OWNER of a slot. -/
def State.setOwner (s : State) (core slot owner : Nat) : State :=
  if (s.slotAt core slot).owner = owner then s else s.modSlot core slot fun sl => { sl with owner := owner }

/-- Give the idle user slots of a held rectangle to its ditch. -/
def State.ownRect (s : State) (b d : Nat) (r : Rect) : State :=
  (r.cores b).foldl (fun s k => (List.range 7).foldl (fun s n =>
    if (s.slotAt k n).busy then s else s.setOwner k n d) s) s

/-- The rectangle held for an aged head: of live cores, with the fewest that hold a continuation or an owner (R396). -/
def State.chooseRect (s : State) (b : Nat) (rs : List Rect) : Option Rect :=
  let ok := rs.filter fun r => (r.cores b).all s.coreLive
  let cost := fun (r : Rect) => ((r.cores b).filter fun k => s.holdsAny k || (s.coreAt k).owned).length
  (leastBy (fun i => cost (ok.getD i {})) (List.range ok.length)).map fun i => ok.getD i {}

/-- The head gang could not be placed: it starts to age, or is aged and has a rectangle held for it. -/
def State.ageHead (s : State) (b d a : Nat) (rs : List Rect) : State :=
  let q := s.ditchAt b d
  if q.recs.head? ≠ some a then s
  else match q.age with
    | none => s.modDitch b d fun q => { q with age := some (a, s.time) }
    | some (_, t) =>
      let keep := q.aged && (match q.held with | some r => (r.cores b).all s.coreLive | none => false)
      if s.time - t < q.agelim || keep then s
      else match s.chooseRect b rs with
        | none => s.modDitch b d fun q => { q with aged := true, held := none }
        | some r => (s.modDitch b d fun q => { q with aged := true, held := some r }).ownRect b d r

/-- A gang unit: it is placed whole, or stays. -/
def State.placeGang (s : State) (b d : Nat) (u : List Nat) : State :=
  let a := u.headD 0
  let r := s.recAt a
  let us := s.unitGroups b u
  let hdr := recHdr r
  let h := s.hdrWords b hdr
  let n := hdrGang h
  let gang := (us.headD (0, ⟨0, 0⟩)).2.vc / max 1 n
  let coming := s.appends.any fun x => x.kind = .launch && decide (x.basin = b) && x.recs.any fun y =>
    recHdr y == hdr && (s.recGroup b y).vc / max 1 n == gang
  let whole := (List.range n).all fun i => s.groupLive b ⟨hdr, gang * n + i⟩ = 0 || us.any fun e => e.2.vc == gang * n + i
  if coming || !whole then s
  else
    let p := recParg r
    let reg := s.regionAt b (bits p 19 16)
    let rs := if reg.valid then gangRects reg.rect (bits p 5 0) (bits p 13 8) else []
    let q := s.ditchAt b d
    let tries := if q.aged then (match q.held with | some r => [r] | none => []) else rs
    let news := (u.filter fun x => recState (s.recAt x) == 0).length
    if news ≤ (s.basinAt b).images.length then
      match tries.find? (s.rectAdmits b d n us) with
      | some r => s.placeGangIn b d n us r
      | none => s.ageHead b d a rs
    else s.ageHead b d a rs

/-! ### Passes (R387, R396, R399) -/

/-- The units of one ditch in a pass: those with WAKE first, and the head alone while it is aged. -/
def State.passDitch (s : State) (b d : Nat) : State :=
  let q := s.ditchAt b d
  let (us, s) := s.units b d (q.recs.filter fun a => !s.popped b a) (if q.aged then 1 else q.win + 1)
  let woken := fun (u : Bool × List Nat) => u.2.any fun a => recWake (s.recAt a)
  (us.filter woken ++ us.filter fun u => !woken u).foldl (fun s u =>
    let q := s.ditchAt b d
    if q.aged && !(q.recs.head? == u.2.head?) then s
    else if !(u.2.all q.recs.contains) then s
    else if u.1 then s.placeGang b d u.2 else s.placeOne b d (u.2.headD 0)) s

/-- Whether the head of a ditch has aged to its limit. -/
def State.ageDue (s : State) (b : Nat) : Bool :=
  (s.basinAt b).ditches.any fun e => e.2.en && !e.2.aged && match e.2.age with | some (_, t) => decide (t + e.2.agelim ≤ s.time) | none => false

/-- PLACEMENT_PASS: the placing ditches of a basin are visited in ascending number. -/
def State.placementPass (s : State) (b : Nat) : State :=
  let v := s.basinAt b
  if v.hold || !(v.passDue || s.ageDue b) then s
  else
    (v.ditches.filter fun e => e.2.en && !e.2.mode && !e.2.recs.isEmpty).foldl (fun s e => s.passDitch b e.1)
      (s.modBasin b fun v => { v with passDue := false })

def execPlacementPass (b : Nat) (s : State) : Out := .next (s.placementPass b)

/-! ### Shares (R394) -/

/-- The ditch that an idle slot goes to at a share boundary: the greatest deficit, the lowest number on a tie. -/
def bestShare (act : List (Nat × Nat)) : Option (Nat × Nat) :=
  act.foldl (fun best e => match best with
    | none => if 1 ≤ e.2 then some e else none
    | some x => if x.2 < e.2 then some e else some x) none

/-- Reassign idle slots in order; the answer holds the deficits left. -/
def State.reassign (s : State) (act : List (Nat × Nat)) : List (Nat × Nat) → List (Nat × Nat) × State
  | [] => (act, s)
  | k :: ks =>
    if (s.slotAt k.1 k.2).busy || (s.heldFor k.1).isSome then State.reassign s act ks
    else match bestShare act with
      | some e =>
        State.reassign (s.setOwner k.1 k.2 e.1) (act.map fun x => if x.1 = e.1 then (x.1, x.2 - 1) else x) ks
      | none => State.reassign (s.setOwner k.1 k.2 0x100) act ks

/-- SHARE_BOUNDARY: at a multiple of 4,096 the idle slots of a basin are reassigned by deficit, and a pass follows. -/
def State.shareBoundary (s : State) (b : Nat) : State :=
  let v := s.basinAt b
  let t := s.time / 4096 * 4096
  if 4 ≤ b || t ≤ v.shared then s
  else
    let act := (v.ditches.filter fun e => e.2.en && !e.2.mode && decide (0 < e.2.weight) && !e.2.recs.isEmpty).map fun e =>
      (e.1, min (e.2.deficit + e.2.weight * v.quant) (2 * e.2.weight * v.quant))
    let slots := (basinCores b).flatMap fun k => (List.range 7).map fun n => (k, n)
    let (left, s) := s.reassign act slots
    (s.modBasin b fun v =>
      { v with
        shared := t
        ditches := v.ditches.map fun e => (e.1, { e.2 with deficit := match left.find? fun x => x.1 == e.1 with | some x => x.2 | none => 0 }) }).callPass b

def execShareBoundary (b : Nat) (s : State) : Out := .next (s.shareBoundary b)

end Sys2Proof.Machine
end

