-- ==== Sys2Proof/Machine/Sluice.lean ====
section
/-! DEFINITION. The sluice forms, pops, and the end of a continuation (spec/13_sluice.md R397 to R409; spec/05_block_engine.md R161;
spec/04_ordering.md R142). -/

namespace Sys2Proof.Machine

/-! ### The forms when they fire (R401 to R409) -/

/-- A sluice form's fault at fire. -/
def State.sluiceBad (s : State) (c : Ctx) (cause info : Nat) : State := s.raise c.core c.slot cause c.ix false 0 info

/-- The operation a form leaves for commit. -/
def State.sluiceOp (s : State) (c : Ctx) (k : OpKind) (n : BitVec 4) (v va pa : Nat) : State :=
  (s.addOp c.core c.slot
    { kind := k, ix := c.ix, lsid := n.toNat, l := c.l.data, r := c.r.data, v := v, va := va, pa := pa }).setSt c.core c.slot c.ix .ready

/-- LAUNCH (R402). -/
def State.launchFire (s : State) (n : BitVec 4) (c : Ctx) : State :=
  let l := c.l.data.toNat
  let a := bits l 47 0
  if c.l.mask ≠ 0#16 then s.setSt c.core c.slot c.ix .null
  else if bits l 127 48 ≠ 0 || a % 128 ≠ 0 then s.sluiceBad c 0x90 0
  else match s.formXl c.core c.slot a .read with
    | (.error e, s) => s.raise c.core c.slot e c.ix (replayable e) a 0
    | (.ok pa, s) => s.sluiceOp c .launch n 0 a pa

def execLaunch (p : Pred) (n : BitVec 4) (s : State) : Out :=
  firing p needL (fun c => s.setSt c.core c.slot c.ix .null) (fun c => s.launchFire n c) s

/-- DPUSH (R403): `v` is the ditch, with HEADF above it. -/
def State.dpushFire (s : State) (n : BitVec 4) (c : Ctx) : State :=
  let l := c.l.data.toNat
  let r := c.r.data.toNat
  let a := bits l 47 0
  if c.l.mask ≠ 0#16 || c.r.mask ≠ 0#16 then s.setSt c.core c.slot c.ix .null
  else if bits l 127 48 ≠ 0 || a % 64 ≠ 0 || bits r 127 9 ≠ 0 || (bit r 8 && c.slot ≠ 7) then s.sluiceBad c 0x90 (sluiceInfo (bits r 7 0) a)
  else match s.formXl c.core c.slot a .read with
    | (.error e, s) => s.raise c.core c.slot e c.ix (replayable e) a 0
    | (.ok pa, s) => s.sluiceOp c .dpush n (bits r 8 0) a pa

def execDpush (p : Pred) (n : BitVec 4) (s : State) : Out :=
  firing p needLR (fun c => s.setSt c.core c.slot c.ix .null) (fun c => s.dpushFire n c) s

/-- DPOP (R404): BUF is translated and the request for a reservation goes out. -/
def State.dpopFire (s : State) (n : BitVec 4) (c : Ctx) : State :=
  let l := c.l.data.toNat
  let buf := bits l 47 0
  let d := bits l 71 64
  if c.l.mask ≠ 0#16 then s.setSt c.core c.slot c.ix .null
  else if bits l 63 48 ≠ 0 || bits l 127 72 ≠ 0 || buf % 64 ≠ 0 then s.sluiceBad c 0x90 (sluiceInfo d 0)
  else
    let (x, s) := if buf = 0 then (.ok 0, s) else s.formXl c.core c.slot buf .write
    match x with
    | .error e => s.raise c.core c.slot e c.ix (replayable e) buf 0
    | .ok pa =>
      let q : PopReq :=
        { id := s.nextId, core := c.core, slot := c.slot, ix := c.ix, seq := c.run.seq, lsid := n.toNat, ditch := d, bufVa := buf, bufPa := pa
          since := s.time }
      let op : Op := { kind := .dpop, ix := c.ix, lsid := n.toNat, l := c.l.data, v := d, va := buf, pa := pa, req := s.nextId }
      (({ s.bump with pops := s.pops ++ [q] } : State).addOp c.core c.slot op).setSt c.core c.slot c.ix (.wait s.time)

def execDpop (p : Pred) (n : BitVec 4) (_t : Option Target) (s : State) : Out :=
  firing p needL (fun c => s.setSt c.core c.slot c.ix .null) (fun c => s.dpopFire n c) s

/-- The access of a JOINAD or JOINW to its counter. -/
def joinForm (k : MemKind) (n : BitVec 4) (t : Option Target) : MForm :=
  { kind := k, size := match k with | .joinad _ => 16 | _ => 8, off := 0#6, lsid := n.toNat, t := t }

/-- JOINAD and JOINW once their operands are present (R405, R406). -/
def State.joinFire (s : State) (f : MForm) (c : Ctx) : State :=
  let l := c.l.data.toNat
  let a := bits l 47 0
  let ad := f.kind.storeMask
  if c.l.mask ≠ 0#16 || (ad && c.r.mask ≠ 0#16) then s.memNull c f
  else if bits l 127 48 ≠ 0 || a % 16 ≠ 0 || (ad && bits c.r.data.toNat 127 64 ≠ 0) then s.sluiceBad c 0x90 0
  else
    let sp := c.sl.space c.core c.slot
    (s.touchL1 sp a).memXl c f a (s.xlateFast sp a f.kind.need)

def execJoinad (p : Pred) (n v : BitVec 4) (s : State) : Out :=
  firing p needLR (fun c => s.setSt c.core c.slot c.ix .null) (fun c => s.joinFire (joinForm (.joinad (v = 1#4)) n none) c) s

def execJoinw (p : Pred) (n : BitVec 4) (t : Option Target) (s : State) : Out :=
  firing p needL (fun c => s.memNull c (joinForm .joinw n t)) (fun c => s.joinFire (joinForm .joinw n t) c) s

/-- SPAWN (R407). -/
def State.spawnFire (s : State) (n : BitVec 4) (c : Ctx) : State :=
  let l := c.l.data.toNat
  let e := bits l 47 0
  if c.l.mask ≠ 0#16 || c.r.mask ≠ 0#16 then s.setSt c.core c.slot c.ix .null
  else if bits l 63 48 ≠ 0 || e % 16 ≠ 0 || bits c.r.data.toNat 127 64 ≠ 0 || c.slot = 7 ||
      (s.launchOf (coreBasin c.core) c.sl.group.hdr).isNone then s.sluiceBad c 0x90 (recDitch c.sl.record)
  else s.sluiceOp c .spawn n 0 e 0

def execSpawn (p : Pred) (n : BitVec 4) (s : State) : Out :=
  firing p needLR (fun c => s.setSt c.core c.slot c.ix .null) (fun c => s.spawnFire n c) s

/-- DSTAT (R408). -/
def State.dstatFire (s : State) (t : Option Target) (c : Ctx) : State :=
  let l := c.l.data.toNat
  let b := coreBasin c.core
  if c.l.mask ≠ 0#16 then s.fireToken c t none 6 nullToken 0#6
  else if l / 256 ≠ 0 then s.sluiceBad c 0x90 (l % 256)
  else
    let q := s.ditchAt b (l % 256)
    s.fireToken c t none 6
      { data := BitVec.ofNat 128 (q.recs.length % 2 ^ 32 + q.en.toNat * 2 ^ 32 + q.mode.toNat * 2 ^ 33 + q.aged.toNat * 2 ^ 34 + q.weight * 2 ^ 40 +
          q.segs.length % 2 ^ 16 * 2 ^ 48 + q.deficit % 2 ^ 32 * 2 ^ 64 + (s.basinAt b).free.length % 2 ^ 32 * 2 ^ 96) } 0#6

def execDstat (p : Pred) (_n : BitVec 4) (t : Option Target) (s : State) : Out :=
  firing p needL (fun c => s.fireToken c t none 6 nullToken 0#6) (fun c => s.dstatFire t c) s

/-- DWEIGHT (R409). -/
def State.dweightFire (s : State) (n : BitVec 4) (c : Ctx) : State :=
  let l := c.l.data.toNat
  let r := c.r.data.toNat
  if c.l.mask ≠ 0#16 || c.r.mask ≠ 0#16 then s.setSt c.core c.slot c.ix .null
  else if l / 256 ≠ 0 || r / 256 ≠ 0 then s.sluiceBad c 0x90 (l % 256)
  else s.sluiceOp c .dweight n (l % 256) 0 0

def execDweight (p : Pred) (n : BitVec 4) (s : State) : Out :=
  firing p needLR (fun c => s.setSt c.core c.slot c.ix .null) (fun c => s.dweightFire n c) s

/-! ### Leaving the core at commit -/

/-- The record of a spawned continuation (R407). -/
def spawnRecord (sl : Slot) (op : Op) : List W64 :=
  let own := sl.record
  [w64 (1 + recPlace own * 2 ^ 8 + recRadius own * 2 ^ 10 + recDitch own * 2 ^ 16 + recParg own * 2 ^ 32), sl.ctl.wid, w64 op.va, own.getD 3 0#64,
    w64 (op.l.toNat / 2 ^ 64), op.r.setWidth 64, 0#64, own.getD 7 0#64]

/-- A sluice form leaves its core at commit. -/
def State.issueSluice (s : State) (core slot : Nat) (sl : Slot) (r : Run) (op : Op) : State :=
  let b := coreBasin core
  let sv := decide (slot = 7)
  let asn := sl.ctl.asn.toNat
  match op.kind with
  | .launch =>
    { s.bump with submits := s.submits ++
        [{ id := s.nextId, basin := b, hdr := op.pa, core := core, slot := slot, seq := r.seq, lsid := op.lsid, ix := op.ix, asn := asn, sv := sv }] }
  | .dpush =>
    { s.bump with appends := s.appends ++
        [{ id := s.nextId, basin := b, ditch := op.v % 256, kind := if op.v < 256 then .push else .pushHead, recs := [], core := core, slot := slot
           seq := r.seq, lsid := op.lsid, ix := op.ix, va := op.va, pa := op.pa, asn := asn, sv := sv, since := s.time }] }
  | .dpop => { s.bump with pops := s.pops.map fun q => if q.id = op.req then { q with left := true, ord := s.nextId } else q }
  | .spawn =>
    let g := sl.group
    let s := s.modLaunch b g.hdr fun l =>
      let d := mget l.groups g.vc (0, 0)
      { l with live := l.live + 1, groups := mput l.groups g.vc (d.1 + 1, d.2) }
    { s.bump with appends := s.appends ++
        [{ id := s.nextId, basin := b, ditch := recDitch sl.record, kind := .spawn, recs := [spawnRecord sl op], core := core, slot := slot
           seq := r.seq, lsid := op.lsid, ix := op.ix, since := s.time }] }
  | .dweight => s.modDitch b op.v fun q => { q with weight := bits op.r.toNat 7 0 }
  | _ => s

/-! ### Pops (R404) -/

/-- Whether a pop is still held in its core. -/
def State.popHeld (s : State) (q : PopReq) : Bool :=
  match s.runAt q.core q.slot with
  | some r => r.heldByWait (s.cyc q.core) q.lsid
  | none => false

/-- A pop asks for its reservation: the oldest at a ditch reserves the first record that none has reserved. -/
def State.popGrant (s : State) (q : PopReq) : State :=
  let b := coreBasin q.core
  let d := s.ditchAt b q.ditch
  if q.place.isSome || q.left || s.popHeld q then s
  else if !d.en then s.raise q.core q.slot 0x91 q.ix false 0 (sluiceInfo q.ditch 0)
  else if q.slot ≠ 7 && (s.slotAt q.core q.slot).ctl.asn.toNat ≠ d.asn then s.raise q.core q.slot 0x93 q.ix false 0 (sluiceInfo q.ditch 0)
  else if s.pops.any fun x => x.place.isNone && decide (coreBasin x.core = b) && decide (x.ditch = q.ditch) && decide (x.id < q.id) && !s.popHeld x then s
  else match d.recs.find? fun a => !s.popped b a with
    | none => s
    | some a =>
      ({ s with pops := s.pops.map fun x => if x.id = q.id then { x with place := some a } else x } : State).setSt q.core q.slot q.ix .ready

/-- A pop ends: words 0 and 1 of its record go to the tail, or the record could not be written at BUF. -/
def State.popDone (s : State) (q : PopReq) (ok : Bool) : State :=
  let s := { s with pops := s.pops.filter fun x => decide (x.id ≠ q.id) }
  let answer := fun (s : State) (v : Option W128) =>
    { s.bump with results := s.results ++ [{ id := s.nextId, core := q.core, slot := q.slot, seq := q.seq, ix := q.ix, val := v }] }
  if ok then answer s (some (BitVec.ofNat 128 ((q.taken.getD 0 0#64).toNat + (q.taken.getD 1 0#64).toNat * 2 ^ 64)))
  else answer (s.failAfter q.core q.slot 0x96 q.ix q.bufVa (sluiceInfo q.ditch (q.place.getD 0))) none

/-- The next 16 bytes of a popped record are written at BUF, and siblings that have loaded a word written replay (R114, R156, R404); with the last of them the pop
ends. -/
def State.popWrite (s : State) (q : PopReq) : State :=
  if q.bufVa = 0 then s.popDone q true
  else
    let p := (q.bufPa + q.put, pieceSize (q.bufVa + q.put) (64 - q.put))
    if s.pieceHeld p || s.engineHeld q.core p.1 || s.writeBehind q.core q.slot q.seq q.lsid q.ord p then s
    else if (s.pieceRefused false p).isSome then s.popDone q false
    else
      let q' := { q with put := q.put + p.2 }
      let s := (s.unitWrite p.1 ((q.taken.drop (q.put / 8)).take (p.2 / 8))).replaySiblings q.core q.slot (s.wordsAt p.1 p.2)
      if 64 ≤ q'.put then s.popDone q' true else { s with pops := s.pops.map fun x => if x.id = q.id then q' else x }

/-- A committed pop removes its record, writes it at BUF and sends words 0 and 1 to the tail. -/
def State.popTake (s : State) (q : PopReq) : State :=
  match q.place with
  | none => s
  | some a =>
    if !q.taken.isEmpty then s.popWrite q
    else if !q.left || s.acquirePending q.core q.slot q.seq q.lsid ||
        (s.reqs.any fun x => x.left && x.kind.acquires && decide (x.core = q.core) && decide (x.slot = q.slot) && earlier x.seq x.lsid q.seq q.lsid) then s
    else
      let q' := { q with taken := s.recAt a }
      let s := ({ s with pops := s.pops.map fun x => if x.id = q.id then q' else x } : State).takeRecs (coreBasin q.core) q.ditch [a]
      s.popWrite q'

/-! ### The end of a continuation (R142, R161, R397, R398) -/

/-- R142 for the thread of a slot; a fill form of the hypervector engine has marked its register at its commit (R150). -/
def State.quiesced (s : State) (core slot : Nat) : Bool :=
  let me := fun (k n : Nat) => decide (k = core) && decide (n = slot)
  !(s.reqs.any fun q => q.left && me q.core q.slot) && !(s.fills.any fun f => me f.core f.slot) && !(s.qmsgs.any fun m => me m.core m.slot) &&
    !(s.recvs.any fun r => r.left && me r.core r.slot) && !(s.pops.any fun r => r.left && me r.core r.slot) &&
    !(s.appends.any fun a => (a.kind = .push ∨ a.kind = .pushHead) && me a.core a.slot) &&
    !(s.arrivals.any fun a => me a.core a.slot) &&
    !(s.results.any fun r => me r.core r.slot) &&
    !(s.ownReqs.any fun o => me o.core o.slot) &&
    !(((s.hvAt core).intake ++ (s.hvAt core).run.toList.map Running.cmd).any fun c => c.kind.isFill && decide (c.slot = slot)) &&
    (slot != 7 || !(s.supCmds.any fun c => decide (c.src = core)))

/-- The WBAR of a tail that waits for its token. -/
def Run.waitingWbar (r : Run) : Option Nat :=
  (List.range r.words.length).find? fun i => (match (r.inst i).st with | .wait _ => true | _ => false) &&
    (match r.instr i with | some (.wbar ..) => true | _ => false)

/-- Whether the thread stands at a boundary: no block is loaded, or the block has committed and its tail waits for a barrier. -/
def State.atBoundary (s : State) (core slot : Nat) : Bool :=
  match s.runAt core slot with
  | none => true
  | some r => r.tail && r.waitingWbar.isSome

/-- A slot falls idle. It keeps its OWNER, but in a held rectangle takes the ditch it is held for; the lines of its image are marked evictable (R147, R394, R396,
R398). -/
def State.freeSlot (s : State) (core slot : Nat) : State :=
  let sl := s.slotAt core slot
  let owner := match s.heldFor core with | some d => if slot < 7 then d else sl.owner | none => sl.owner
  ((s.setSlot core slot { seq := sl.seq + 1, account := sl.account, owner := owner }).modCore core fun k =>
    { k with rlines := rlinesEvict k.rlines sl.ctl.imga.toNat }).callPass (coreBasin core)

/-- The record of a continuation as it is written back: STATE 1, its resume address and its image. -/
def Slot.backRecord (sl : Slot) : List W64 := lset (lset (recSet sl.record 7 4 1) 2 sl.pc) 6 sl.ctl.imga

/-- A continuation's state goes to its image with its record; a run that waits for a barrier is kept beside it (R375). -/
def State.writeBack (s : State) (core slot : Nat) (wake : Bool) : State :=
  let sl := s.slotAt core slot
  let r := recSet sl.backRecord 24 24 (if wake then 1 else 0)
  let s := s.modSlot core slot fun sl => { sl with record := r }
  let s := s.saveImage core slot
  match sl.run with
  | some x => { s with asleep := mput s.asleep sl.ctl.imga.toNat { x with frzDue := sl.deferFrz, stopDue := sl.deferStop } }
  | none => s

/-- SUSPENSION_COMPLETE: a continuation that is ending stands at a boundary with all it has done performed. -/
def State.suspensionComplete (s : State) (core slot : Nat) : State :=
  let sl := s.slotAt core slot
  let b := coreBasin core
  if !sl.busy || !s.atBoundary core slot || !s.quiesced core slot || sl.failed ≠ [] then s
  else match sl.ending with
    | none => s
    | some .migrate => s
    | some .retire =>
      let img := sl.ctl.imga.toNat
      let g := sl.group
      let s := s.freeSlot core slot
      if slot = 7 then s
      else
        (({ (s.modBasin b fun v => { v with images := v.images ++ [img] }) with foldImgs := sdel s.foldImgs img } : State).countRetired b g)
    | some .susp =>
      if sl.run.isSome then s
      else
        let s := s.writeBack core slot false
        let r := (s.slotAt core slot).record
        let s := s.freeSlot core slot
        if sl.armed && !sl.wake then { s with armedImgs := sins s.armedImgs sl.ctl.imga.toNat }
        else { s.bump with appends := s.appends ++ [{ id := s.nextId, basin := b, ditch := recDitch r, kind := if sl.armed then .wake else .writeback, recs := [r], core := core, slot := slot, since := s.time }] }
    | some .swap =>
      let woken := (s.wbarRelease b sl.barWait).isSome || sl.wake
      let s := s.modSlot core slot fun x => if (s.wbarRelease b sl.barWait).isSome then { x with barWait := x.barWait ||| 0x80#64 } else x
      let s := s.writeBack core slot woken
      let r := (s.slotAt core slot).record
      (s.freeSlot core slot).modCore core fun k =>
        { k with swap := k.swap.map fun j => { j with recs := j.recs ++ [((r.getD 1 0#64).toNat, r)] } }

def execSuspensionComplete (c q : Nat) (s : State) : Out := .next (s.suspensionComplete c q)

/-- ENGINE_SAVE: the engines of a core without a continuation of their owner are given up once they are idle (R263, R393). -/
def execEngineSave (c : Nat) (s : State) : Out := .next (s.ownershipEnd c)

/-! ### Site registers (Table 13-5) -/

/-- The words of the sluice registers of a compute site. -/
def State.siteSluiceRead (s : State) (n k : Nat) : W64 :=
  if k = 0 then w64 (s.siteAt n).hditch
  else if 8 ≤ k && k < 136 then
    let core := coreOf n ((k - 8) / 8)
    let sl := s.slotAt core ((k - 8) % 8)
    w64 (sl.owner + (s.heldFor core).isSome.toNat * 2 ^ 9 + (sl.busy && sl.ending != some .swap).toNat * 2 ^ 10)
  else 0#64

end Sys2Proof.Machine
end

