-- ==== Sys2Proof/Machine/Rider.lean ====
section
/-! DEFINITION. The ditch-rider: supervisor forms and commands, the fault ring, the debug window, swap-out, folding and migration
(spec/14_ditch_rider.md R413 to R436). -/

namespace Sys2Proof.Machine

/-! ### Supervisor forms when they fire (R421) -/

/-- The core and slot a thread name means. -/
def nameCore (l : Nat) : Nat := coreOf (bits l 8 0) (bits l 12 9)
def nameSlot (l : Nat) : Nat := bits l 15 13

/-- Whether a name means a live core of a compute site of the issuing basin, and not the issuing slot. -/
def State.nameOk (s : State) (c : Ctx) (l : Nat) : Bool :=
  let k := nameCore l
  s.coreLive k && coreBasin k == coreBasin c.core && !(k == c.core && nameSlot l == c.slot)

/-- The supervisor operand fault. -/
def State.supBad (s : State) (c : Ctx) : State := s.raise c.core c.slot 0xA0 c.ix false 0 0

/-- A form that is left for commit. -/
def State.supHeld (s : State) (c : Ctx) (k : SupKind) : State :=
  (s.finish c).modRun c.core c.slot fun r => { r with sups := r.sups ++ [⟨k, c.ix, c.l.data, c.r.data, c.p.data⟩] }

/-- A form with its operands: a null byte makes it do nothing, a breach of its operand rules faults. -/
def State.supFire (s : State) (k : SupKind) (nul ok : Bool) (c : Ctx) : State :=
  if nul then s.finish c else if ok then s.supHeld c k else s.supBad c

/-- A form that names a thread in l and nothing else. -/
def threadForm (k : SupKind) (p : Pred) (s : State) : Out :=
  firing p needL (fun c => s.finish c)
    (fun c => s.supFire k (c.l.mask ≠ 0#16) (bits c.l.data.toNat 127 16 == 0 && s.nameOk c c.l.data.toNat) c) s

def execFreeze (p : Pred) (s : State) : Out := threadForm .freeze p s
def execThaw (p : Pred) (s : State) : Out := threadForm .thaw p s
def execAckf (p : Pred) (s : State) : Out := threadForm .ackf p s
def execStopt (p : Pred) (s : State) : Out := threadForm .stopt p s
def execStartt (p : Pred) (s : State) : Out := threadForm .startt p s
def execSwapout (p : Pred) (s : State) : Out := threadForm .swapout p s

/-- TLBINV (R424). -/
def execTlbinv (p : Pred) (s : State) : Out :=
  firing p needL (fun c => s.finish c)
    (fun c =>
      let l := c.l.data.toNat
      s.supFire .tlbinv (c.l.mask ≠ 0#16) (bits l 63 18 == 0 && bits l 127 112 == 0 && (bit l 17 || bits l 111 64 == 0)) c) s

/-- SWAPIN (R431): K from 1 to 7, the header aligned, every bit it does not name zero. -/
def execSwapin (p : Pred) (s : State) : Out :=
  firing p needL (fun c => s.finish c)
    (fun c =>
      let l := c.l.data.toNat
      s.supFire .swapin (c.l.mask ≠ 0#16)
        (bits l 31 19 == 0 && bits l 127 112 == 0 && bits l 18 16 != 0 && bits l 70 64 == 0) c) s

/-- MIGR (R434). -/
def execMigr (p : Pred) (s : State) : Out :=
  firing p needLR (fun c => s.finish c)
    (fun c =>
      s.supFire .migr (c.l.mask ≠ 0#16 || c.r.mask ≠ 0#16)
        (bits c.l.data.toNat 127 16 == 0 && bits c.r.data.toNat 127 16 == 0 && s.nameOk c c.l.data.toNat) c) s

/-- RDCTX (R423): the word of the target's image with its full/empty bit; null of an idle slot. -/
def State.rdctxFire (s : State) (t u : Option Target) (c : Ctx) : State :=
  let l := c.l.data.toNat
  let w := c.r.data.toNat
  let k := nameCore l
  let n := nameSlot l
  if c.l.mask ≠ 0#16 || c.r.mask ≠ 0#16 then s.fireToken c t u 10 nullToken 0#6
  else if bits l 127 16 ≠ 0 || 256 ≤ w || !s.nameOk c l then s.supBad c
  else if !(s.slotAt k n).busy then s.fireToken c t u 10 nullToken 0#6
  else
    let v := s.imageWord k n w
    s.fireToken c t u 10 { data := BitVec.ofNat 128 (v.1.toNat + v.2.toNat * 2 ^ 64) } 0#6

def execRdctx (p : Pred) (t u : Option Target) (s : State) : Out :=
  firing p needLR (fun c => s.fireToken c t u 10 nullToken 0#6) (fun c => s.rdctxFire t u c) s

/-- WRCTX (R423). -/
def execWrctx (s : State) : Out :=
  firing .always needLRP (fun c => s.finish c)
    (fun c =>
      s.supFire .wrctx (c.l.mask ≠ 0#16 || c.r.mask ≠ 0#16 || c.p.mask ≠ 0#16)
        (bits c.l.data.toNat 127 16 == 0 && decide (c.r.data.toNat < 256) && bits c.p.data.toNat 127 65 == 0 && s.nameOk c c.l.data.toNat) c) s

/-- IDLE (R426): the wait begins. -/
def execIdle (p : Pred) (t u : Option Target) (s : State) : Out :=
  firing p needNone (fun c => s.fireToken c t u 2 nullToken 0#6) (fun c => s.setSt c.core c.slot c.ix (.wait s.time)) s

/-- IDLE_DELIVER: IDLE delivers in a clk in which queue 7 holds a message or WLIM has passed. -/
def State.idleDeliver (s : State) (core slot ix : Nat) : State :=
  match s.runAt core slot with
  | none => s
  | some r => match (r.inst ix).st, r.instr ix with
    | .wait since, some (.idle _ t u) =>
      let n := (s.queueAt core 7).count
      let late := decide (since + (s.slotAt core slot).ctl.wlim.toNat ≤ s.tick core)
      if n ≠ 0 || late then
        ((s.ungate core).setSt core slot ix .done).deliver core slot t u 2 (scalarToken (w64 (n % 2 ^ 16 + (late && n = 0).toNat * 2 ^ 16)))
      else s
    | _, _ => s

def execIdleDeliver (c q ix : Nat) (s : State) : Out := .next (s.idleDeliver c q ix)

/-! ### Commands on their way (R419, R422) -/

/-- A supervisor form of a committing block is sent. TLBINV holds the issuing thread's next block (R424). -/
def State.sendSup (s : State) (core slot : Nat) (o : SupOp) : State :=
  let l := o.l.toNat
  let c : SupCmd :=
    { id := s.nextId, kind := o.kind, core := nameCore l, slot := nameSlot l, src := core
      word := match o.kind with | .tlbinv => l | .swapin => l | _ => o.r.toNat
      val := o.p.setWidth 64, fe := o.p.getLsbD 64 }
  let c := match o.kind with
    | .tlbinv => { c with core := core, slot := slot }
    | .swapin => { c with core := core, slot := slot }
    | _ => c
  let s := { s.bump with supCmds := s.supCmds ++ [c] }
  if o.kind = .tlbinv then s.modSlot core slot fun sl => { sl with tlbWait := true } else s

/-- A notice that names a thread, to the chiplet rider of a core's site (R433). -/
def State.noticeTo (s : State) (to_ core slot cause info : Nat) : State :=
  s.sendPkt (coreSite to_) core slot
    (packetWords 0x42 (coreSite core) (coreNum core) slot cause 127 false false true 0 0 0#64 info s.time (s.coreAt core).lcid 0)

/-- FREEZE and STOPT: an uncommitted block is discarded, a committed one finishes its tail first (R419). -/
def State.halt (s : State) (core slot : Nat) (frz : Bool) : State :=
  let sl := s.slotAt core slot
  if !sl.busy then s
  else match sl.run with
    | some r =>
      if r.tail then s.modSlot core slot fun sl =>
        if frz then { sl with deferFrz := true } else { sl with deferStop := true }
      else ((s.discard core slot).modSlot core slot fun sl => if frz then { sl with frz := true } else { sl with stop := true }).settle core slot
    | none => s.modSlot core slot fun sl =>
        if frz then { sl with frz := true, look := none } else { sl with stop := true, look := none }

/-- THAW: without effect while TAIL is 1 (R420). -/
def State.thaw (s : State) (core slot : Nat) : State :=
  let sl := s.slotAt core slot
  if !sl.busy || sl.tailBit then s
  else ((s.ungate core).modSlot core slot fun sl => { sl with frz := false, deferFrz := false }).settle core slot

/-- STARTT. -/
def State.start (s : State) (core slot : Nat) : State :=
  if !(s.slotAt core slot).busy then s
  else ((s.ungate core).modSlot core slot fun sl => { sl with stop := false, deferStop := false }).settle core slot

/-- ACKF: the retry latch first, else the event park, or the park that the end of the tail would bring (R112, R200). -/
def State.ack (s : State) (core slot : Nat) : State :=
  let sl := s.slotAt core slot
  if !sl.busy then s
  else (s.modSlot core slot fun sl => if sl.rty then { sl with rty := false }
    else { sl with evp := false, run := sl.run.map fun r => { r with park := false } }).settle core slot

/-- WRCTX at its target: a running one is left as it is and reported to a rider. A register line is loaded before a word of it is written; where no full/empty bit is
given, the register keeps its own. -/
def State.writeCtx (s : State) (to_ core slot w : Nat) (v : W64) (fe : Option Bool) : State :=
  let sl := s.slotAt core slot
  if !sl.busy then s
  else if !(sl.stop || sl.frz) then s.noticeTo to_ core slot 0xA2 0
  else if w < 128 then
    match s.loadLine core slot (w / 2) with
    | none => s
    | some s =>
      let full := fe.getD ((s.slotAt core slot).isFull (w / 2))
      let s := s.modSlot core slot fun sl => sl.setImageWord w v full
      if full then s.wakeReads core slot (w / 2) else s
  else (s.modSlot core slot fun sl => sl.setImageWord w v true).settle core slot

/-- TLBINV: the matching entries of every first-level cache and second-level store of the basin, and the block store of the issuing quad; the issuing thread
fetches its next block from then on (R424). -/
def State.tlbInvalidate (s : State) (core slot l : Nat) : State :=
  let b := coreBasin core
  let hit := fun (e : TlbEntry) => bit l 16 || (decide (e.asn = bits l 15 0) && (!bit l 17 || decide (e.vpn = bits l 111 64 / 0x10000)))
  let strip := fun (m : SMap (List TlbEntry)) (mine : Nat → Bool) =>
    m.map fun (e : Nat × List TlbEntry) => if mine e.1 then (e.1, e.2.filter fun x => !hit x) else e
  let s : State :=
    { s with
      tlb1 := strip s.tlb1 fun k => coreBasin k == b
      tlb2 := strip s.tlb2 fun n => basinOf n == b
      stores := mdel s.stores (quadOf core)
      misses := s.misses.map fun m => if coreBasin m.core = b ∧ m.walk then { m with stale := true } else m }
  (s.modSlot core slot fun sl => { sl with tlbWait := false, look := none }).settle core slot

/-! ### Swap-out (R398, R399, R425) -/

/-- Whether the block of a slot holds a reservation that has been granted. -/
def State.holdsGrant (s : State) (core slot : Nat) : Bool :=
  (s.reqs.any fun q => q.ofBlock core slot && q.st == .reserved) || (s.recvs.any fun q => q.ofBlock core slot && q.granted) ||
    s.pops.any fun q => q.ofBlock core slot && q.place.isSome

/-- The uncommitted block of a parked thread is discarded; a reservation released unconsumed is kept as WAKE. -/
def State.leaveParked (s : State) (core slot : Nat) : State :=
  match s.runAt core slot with
  | none => s
  | some r =>
    if r.tail || !s.isParked core slot then s
    else
      let w := s.holdsGrant core slot
      (s.discard core slot).modSlot core slot fun sl => { sl with wake := sl.wake || w }

/-- Every user thread of a group on a core starts to leave it. -/
def State.leaveAll (s : State) (core : Nat) (g : Group) (k : EndKind) : State :=
  (List.range 7).foldl (fun s n =>
    let sl := s.slotAt core n
    if sl.busy && sl.group == g then
      (s.modSlot core n fun sl => { sl with ending := some (sl.ending.getD k) }).leaveParked core n
    else s) s

/-- SWAPOUT at the core of the thread. A core that is swapping or migrating a group takes the command afterwards. -/
def State.swapOut (s : State) (core slot src : Nat) : State :=
  let sl := s.slotAt core slot
  if !sl.busy || 7 ≤ slot || (s.launchOf (coreBasin core) sl.group.hdr).isNone then s
  else (s.modCore core fun k => { k with swap := some { grp := sl.group, src := src, slot := slot } }).leaveAll core sl.group .swap

/-- Records in ascending work identifier. -/
def sortRecs (l : List (Nat × List W64)) : List (List W64) :=
  let ins := fun (l : List (Nat × List W64)) (x : Nat × List W64) => l.takeWhile (fun y => decide (y.1 ≤ x.1)) ++ x :: l.dropWhile (fun y => decide (y.1 ≤ x.1))
  (l.foldl ins []).map Prod.snd

/-- The engine state of a group that leaves its core is saved, or dropped where nothing of the group is left; none where no area is to be had. -/
def State.engineLeave (s : State) (core : Nat) (g : Group) : Option State :=
  if !(s.coreAt core).owns g then some s
  else (s.giveUp core g).map fun s => s.modCore core fun k => if 2 ≤ k.foldK then k.leaveFold g else { k with owner := none }

/-- The core map entry of a group is cleared in the bank in force, but for explicit launches (R398). -/
def State.unbind (s : State) (b : Nat) (g : Group) : State :=
  let h := s.hdrWords b g.hdr
  if hdrPlace h = 3 then s else s.cmapSet b h g.vc (s.unitGen b (hdrDitch h) % 2) 0

/-- SWAPOUT_COMPLETE: the group's threads have left their slots and its engines have come to rest. -/
def State.swapDone (s : State) (core : Nat) : State :=
  match (s.coreAt core).swap with
  | none => s
  | some j =>
    let b := coreBasin core
    if s.holdsGroup core j.grp || !s.enginesRest core then s
    else
      let rs := sortRecs j.recs
      match s.engineLeave core j.grp with
      | none => s
      | some s =>
        let s := (s.unbind b j.grp).modCore core fun k => { k with swap := none }
        let ap : Append :=
          { id := s.nextId, basin := b, ditch := recDitch (rs.headD []), kind := .writeback, recs := rs, core := core, since := s.time }
        let s := if rs.isEmpty then s else { s.bump with appends := s.appends ++ [ap] }
        (s.noticeTo j.src core j.slot 0xB0 0).callPass b

def execSwapoutComplete (c : Nat) (s : State) : Out := .next (s.swapDone c)

/-! ### SWAPIN and folding (R431) -/

/-- Whether a group holds a slot or owns the engines of any core of a basin. -/
def State.groupPlaced (s : State) (b : Nat) (g : Group) : Bool :=
  (s.groupCore b g).isSome || s.cores.any fun e => decide (coreBasin e.1 = b) && e.2.owns g

/-- Whether a save area holds state outside a share of one in n (reason 5). -/
def State.areaExceeds (s : State) (a n : Nat) : Bool :=
  let q := 64 / n
  let qh := ({ foldK := n } : Core).qh
  let st := s.mem.read a 8
  let cs := s.mem.read (a + 0x2C000) 8
  let tagOf := fun (i : Nat) (ws : List W64) => bits (ws.getD i 0#64).toNat 5 0
  ((List.range 4096).any fun i => decide (q ≤ i / 64) && decide ((AccEl.ofImage (s.mem.read (a + 0xA000 + 32 * i) 32)).mode ≠ 0)) ||
    ((List.range 8).any fun r => decide (qh ≤ r) && decide (s.mem.read (a + hvSaveOff + 0x1000 + 1024 * r) 1024 ≠ 0)) ||
    (((s.getEntries (a + 0x100) (bits st 13 9)).map (tagOf 7) ++ (s.getEntries (a + 0x500) (bits st 8 4)).map (tagOf 2) ++
        (s.getEntries (a + 0x2C100) (bits cs 9 5)).map (tagOf 3) ++ (s.getEntries (a + 0x2C500) (bits cs 4 0)).map (tagOf 2)).any fun t => decide (q ≤ t))

/-- The reason for which SWAPIN is refused, tested in the order of R431. -/
def State.swapInRefusal (s : State) (b k n : Nat) (h : List W64) (gs : List Group) : Option Nat :=
  let areas := gs.filterMap s.saveArea
  let live := (gs.map (s.groupLive b)).sum
  if gs.any (s.groupPlaced b) then some 1
  else if 2 ≤ n && !hdrFold h then some 2
  else if s.holdsAny k || (s.coreAt k).owned then some 3
  else if 7 < live || hdrQuota h * n < live then some 4
  else if areas.any fun a => s.areaExceeds a n then some 5
  else if areas.any fun a => bits (s.mem.read a 8) 39 32 ≠ matrixRows k then some 6
  else none

/-- A save area's fold count rewritten in its three status words. -/
def State.setFoldCount (s : State) (a n : Nat) : State :=
  let f := fun (m : Memory) (p lo : Nat) => m.write p (setBits (m.read p 8) (lo + 2) lo n) 0 8
  { s with mem := f (f (f s.mem a 40) (a + 0x2C000) 32) (a + hvSaveOff) 24 }

/-- SWAPIN at the target's chiplet: l as the rider gave it. A target that names no live core is left alone (log entry 31). -/
def State.swapIn (s : State) (src slot l : Nat) : State :=
  let b := coreBasin src
  match s.logicalCoreIn b (s.coreAt src).gen (bits l 15 0) with
  | none => s
  | some k =>
    let gen := (s.siteAt (coreSite k)).gen
    let n := bits l 18 16
    let hdr := bits l 111 64
    let h := s.hdrWords b hdr
    let gs := (List.range n).map fun i => (⟨hdr, (bits l 63 32 + i) % 2 ^ 32⟩ : Group)
    match s.swapInRefusal b k n h gs with
    | some r => s.noticeTo src src slot 0xA4 r
    | none =>
      let p := gen % 2
      let e := cmapEntry ((s.logicalIdIn gen k).getD 0)
      let s := gs.foldl (fun s g => (s.cmapSet b h g.vc p e).cmapSet b h g.vc (1 - p) e) s
      let s := gs.foldl (fun s g => match s.saveArea g with | some a => s.setFoldCount a (if n = 1 then 0 else n) | none => s) s
      let s := if n = 1 then s else s.modCore k fun v => { v with members := gs, foldK := n, awaiting := gs }
      s.callPass b

/-! ### Arrival of a command -/

/-- Whether an earlier command of the same source is still on its way to the same core (R138, R422). -/
def State.supBehind (s : State) (c : SupCmd) : Bool :=
  s.supCmds.any fun x => decide (x.id < c.id) && decide (x.src = c.src) && decide (x.core = c.core)

/-- Whether a command that reaches a slot comes after a fault of the present clk: it acts in a later one, for a command acts before the faults of its clk (R419). -/
def State.supLate (s : State) (c : SupCmd) : Bool :=
  (match c.kind with | .tlbinv => false | .swapin => false | _ => true) && decide ((s.slotAt c.core c.slot).faultAt = some (s.cyc c.core))

/-- SUPERVISOR_COMMAND_ARRIVAL. -/
def State.supArrive (s : State) (i : Nat) : State :=
  match s.supCmds.find? (·.id == i) with
  | none => s
  | some c =>
    let busy := fun (k : Core) => k.swap.isSome || k.mig.isSome
    if s.supBehind c || s.supLate c || c.kind = .migr || (c.kind = .swapout && busy (s.coreAt c.core)) then s
    else
      let s := { s with supCmds := s.supCmds.filter fun x => decide (x.id ≠ i) }
      match c.kind with
      | .freeze => s.halt c.core c.slot true
      | .thaw => s.thaw c.core c.slot
      | .ackf => s.ack c.core c.slot
      | .stopt => s.halt c.core c.slot false
      | .startt => s.start c.core c.slot
      | .tlbinv => s.tlbInvalidate c.core c.slot c.word
      | .swapout => s.swapOut c.core c.slot c.src
      | .swapin => s.swapIn c.src c.slot c.word
      | .wrctx => s.writeCtx c.src c.core c.slot c.word c.val (some c.fe)
      | .migr => s

def execSupervisorCommandArrival (i : Nat) (s : State) : Out := .next (s.supArrive i)

/-! ### Migration (R434 to R436) -/

/-- The reason for which MIGR is refused, or its target. -/
def State.migrCheck (s : State) (core : Nat) (g : Group) (id : Nat) : Except Nat Nat :=
  let b := coreBasin core
  match s.logicalCoreIn b (s.coreAt core).gen id with
  | none => .error 1
  | some t =>
    let h := s.hdrWords b g.hdr
    if matrixRows t ≠ matrixRows core then .error 2
    else if s.holdsAny t || (s.coreAt t).owned then .error 3
    else if s.riderCore (coreSite core) = core then .error 4
    else if (List.range 7).any fun n => let sl := s.slotAt core n; sl.busy && !(sl.group == g) then .error 5
    else if hdrKlev h ≠ 0 || 2 ≤ (s.coreAt core).foldK then .error 6
    else if s.cores.any fun e => decide (coreBasin e.1 = b) && e.2.mig.isSome then .error 7
    else if (List.range 7).any fun q => (s.queueAt t q).en then .error 8
    else .ok t

/-- MIGR_ARRIVAL: it is checked at the old core; accepted, its first phase begins. -/
def State.migrArrive (s : State) (i : Nat) : State :=
  match s.supCmds.find? fun c => c.id == i && decide (c.kind = .migr) with
  | none => s
  | some c =>
    let sl := s.slotAt c.core c.slot
    if s.supBehind c || (s.coreAt c.core).swap.isSome then s
    else
      let s := { s with supCmds := s.supCmds.filter fun x => decide (x.id ≠ i) }
      if !sl.busy || 7 ≤ c.slot then s
      else match s.migrCheck c.core sl.group (bits c.word 15 0) with
        | .error r => s.noticeTo c.src c.core c.slot 0xA4 r
        | .ok t =>
          (s.modCore c.core fun k => { k with mig := some { grp := sl.group, src := c.src, slot := c.slot }, phase := 1, target := t, tgtId := bits c.word 15 0, lmoved := 0 }).leaveAll
            c.core sl.group .migrate

def execMigrArrival (i : Nat) (s : State) : Out := .next (s.migrArrive i)

/-- The slots of a core that hold a group. -/
def State.groupSlots (s : State) (core : Nat) (g : Group) : List Nat :=
  (List.range 7).filter fun n => let sl := s.slotAt core n; sl.busy && sl.group == g

/-- MIGRATION_QUIESCE: the threads of the group stand at boundaries with all they did performed, and the engines have come to rest. -/
def State.migrQuiesce (s : State) (core : Nat) : State :=
  let k := s.coreAt core
  match k.mig with
  | none => s
  | some j =>
    if k.phase ≠ 1 then s
    else
      let ns := s.groupSlots core j.grp
      let s := ns.foldl (fun s n => s.leaveParked core n) s
      if ns.all (fun n => s.atBoundary core n && s.quiesced core n && (s.slotAt core n).failed = []) && s.enginesRest core then
        s.modCore core fun k => { k with phase := 2 }
      else s

def execMigrationQuiesce (c : Nat) (s : State) : Out := .next (s.migrQuiesce c)

/-- MIGRATION_SAVE: the engines' state is saved where the group owns them, and the register lines are written to their images. -/
def State.migrSave (s : State) (core : Nat) : State :=
  let k := s.coreAt core
  match k.mig with
  | none => s
  | some j =>
    if k.phase ≠ 2 then s
    else
      let saved := if !k.owns j.grp then some s else match s.takeArea (coreBasin core) j.grp with
        | none => none
        | some (a, s) => some ((s.saveEngines core j.grp a).clearEngines core j.grp)
      match saved with
      | none => s
      | some s => ((s.groupSlots core j.grp).foldl (fun s n => s.saveImage core n) s).modCore core fun k => { k with phase := 3 }

def execMigrationSave (c : Nat) (s : State) : Out := .next (s.migrSave c)

/-- Keys of a range moved to another place, over what was there. -/
def moveKeys {α : Type} (m : SMap α) (lo n dst : Nat) : SMap α :=
  let keep := m.filter fun e => !(decide (dst ≤ e.1) && decide (e.1 < dst + n))
  (m.filter fun e => decide (lo ≤ e.1) && decide (e.1 < lo + n)).foldl (fun l e => mput l (dst + (e.1 - lo)) e.2) keep

/-- A slice copied to another: bytes, full/empty bits and words in error. -/
def Memory.copySlice (m : Memory) (src dst n : Nat) : Memory :=
  let w := n / 8
  let keep := m.empties.filter fun x => !(decide (dst / 8 ≤ x) && decide (x < dst / 8 + w))
  { cells := moveKeys m.cells src n dst
    empties := (m.empties.filter fun x => decide (src / 8 ≤ x) && decide (x < src / 8 + w)).foldl (fun l x => sins l (dst / 8 + (x - src / 8))) keep
    errs := moveKeys m.errs (src / 8) w (dst / 8) }

/-- What is under way towards a line that has moved follows it to the new slice: requests, reservations, ownership, and lines to write (R136, R434). -/
def State.moveRefs (s : State) : State :=
  let mv := s.redirect
  let ml := fun (l : Nat) => lineOf (mv (64 * l))
  let mw := fun (w : Nat) => wordOf (mv (8 * w))
  let lw := fun (x : LineWrite) => { x with line := ml x.line }
  let run := fun (r : Running) => { r with todo := r.todo.map lw }
  let op := fun (o : Op) => match o.kind with | .mem _ => { o with pa := mv o.pa } | _ => o
  { s with
    reqs := s.reqs.map fun q => if q.kind.isFence then q else { q with pa := mv q.pa }
    resv := s.resv.map fun e => (mw e.1, e.2)
    owned := s.owned.map fun o => { o with line := ml o.line }
    ownReqs := s.ownReqs.map fun o => { o with line := ml o.line }
    slots := s.slots.map fun e => (e.1, { e.2 with run := e.2.run.map fun r =>
      { r with ops := r.ops.map fun o => (o.1, op o.2), watch := r.watch.foldl (fun l w => sins l (mw w)) [] } })
    mats := s.mats.map fun e => (e.1, { e.2 with load := e.2.load.map run, stream := e.2.stream.map run, task := e.2.task.map run, faulted := e.2.faulted.map run })
    hvs := s.hvs.map fun e => (e.1, { e.2 with run := e.2.run.map run })
    copies := s.copies.map fun e => (e.1, { e.2 with active := e.2.active.map fun a => (a.1, { a.2 with todo := a.2.todo.map lw }) }) }

/-- The next line of a slice in phase 3 moves, at one instant, and what is under way towards it with it; behind the last begins phase 4 (Table 14-8). -/
def State.moveLine (s : State) (core : Nat) : State :=
  let k := s.coreAt core
  let n := sliceBytes core / 64
  if k.mig.isNone || k.phase ≠ 3 then s
  else
    let a := 64 * k.lmoved
    (({ s with mem := s.mem.copySlice (slicePa core + a) (slicePa k.target + a) 64 } : State).modCore core fun k =>
      { k with rdir := true, lmoved := k.lmoved + 1, phase := if k.lmoved + 1 = n then 4 else 3 }).moveRefs

/-- The descriptors of queues 0 to 6 move to the target (R435). -/
def State.moveQueues (s : State) (core t : Nat) : State :=
  let qs := (s.coreAt core).queues
  let s := s.modCore t fun k => { k with queues := qs.take 7 ++ k.queues.drop 7 }
  s.modCore core fun k => { k with queues := (qs.take 7).map (fun q => { q with en := false }) ++ qs.drop 7 }

/-- MIGRATION_COPY: every line of the slice has moved, and the core map names the target in both banks, the bank in force first. -/
def State.migrCopy (s : State) (core : Nat) : State :=
  let k := s.coreAt core
  match k.mig with
  | none => s
  | some j =>
    if k.phase ≠ 4 then s
    else
      let b := coreBasin core
      let gen := (s.siteAt (coreSite core)).gen
      let h := s.hdrWords b j.grp.hdr
      let e := cmapEntry ((s.logicalIdIn gen k.target).getD 0)
      let s := (s.cmapSet b h j.grp.vc (gen % 2) e).cmapSet b h j.grp.vc (1 - gen % 2) e
      (s.moveQueues core k.target).modCore core fun k => { k with phase := 5 }

def execMigrationCopy (c : Nat) (s : State) : Out := .next (s.migrCopy c)

/-- A thread takes the lowest idle slot of its new core, where it loads its register lines from its image again; the rotation account and the owner of a slot
stay with it. -/
def State.moveThread (s : State) (core t n : Nat) : State :=
  match (List.range 7).find? fun m => !(s.slotAt t m).busy with
  | none => s
  | some m =>
    let a := s.slotAt core n
    let o := s.slotAt t m
    let s := s.setSlot t m
      { a with
        seq := o.seq + 2, account := o.account, owner := o.owner, ending := none, look := none, route := List.replicate 8 0#64
        present := 0#16, run := a.run.map fun r => { r with seq := o.seq + 1 } }
    (s.freeSlot core n).settle t m

/-- MIGRATION_RESTORE: the group is restored onto the target, and its notice goes out. -/
def State.migrRestore (s : State) (core : Nat) : State :=
  let k := s.coreAt core
  match k.mig with
  | none => s
  | some j =>
    if k.phase ≠ 5 then s
    else
      let t := k.target
      let ns := s.groupSlots core j.grp
      let sp := (s.slotAt core (ns.headD 0)).space t (ns.headD 0)
      let s := if k.owns j.grp then
          let s := (s.modCore core fun k => { k with owner := none }).modCore t fun k => { k with owner := some j.grp, ownSp := (sp.asn, sp.root) }
          match s.saveArea j.grp with
          | some a => s.restoreEngines t j.grp sp a
          | none => s
        else s
      let s := ns.foldl (fun s n => s.moveThread core t n) (s.ungate t)
      ((s.modCore core fun k => { k with phase := 6 }).noticeTo j.src core j.slot 0xB1 0).callPass (coreBasin core)

def execMigrationRestore (c : Nat) (s : State) : Out := .next (s.migrRestore c)

/-- RDIR_CLEAR: a write of 0 to RDIR after phase 6 ends the redirection. -/
def State.rdirClear (s : State) (core : Nat) : State :=
  if (s.coreAt core).phase ≠ 6 then s
  else (s.modCore core fun k => { k with rdir := false, phase := 0, mig := none }).callPass (coreBasin core)

def execRdirClear (c : Nat) (s : State) : Out := .next (s.rdirClear c)

/-- The words of the migration control of a core (Table 14-9a). -/
def State.migrRead (s : State) (core k : Nat) : W64 :=
  let v := s.coreAt core
  match k with
  | 0 => w64 (v.rdir.toNat + v.phase * 2)
  | 1 => w64 v.tgtId
  | 2 => w64 v.lmoved
  | _ => 0#64

/-! ### The fault ring (R416, R417) -/

/-- The message that an interface builds from a packet. -/
def Packet.msg (p : Packet) : QMsg :=
  let w := fun (i : Nat) => p.words.getD i 0#64
  { id := p.id, core := coreOf p.site p.core, slot := p.slot, seq := 0, lsid := 0, ix := 127, wid := w 3, vc := w64 (bits (w 6).toNat 63 32), dest := p.dest
    qn := 7, nanm := false, typed := false, vec := false, info := 0#64, head := BitVec.ofNat 128 ((w 0).toNat + (w 1).toNat * 2 ^ 64), len := 64
    body := p.words }

/-- FAULT_PACKET_ARRIVAL: a packet is written into the fault ring, or, when the ring is full, discarded and counted. -/
def State.packetArrive (s : State) (i : Nat) : State :=
  match s.pkts.find? (·.id == i) with
  | none => s
  | some p =>
    if (s.flightOf i).any s.wayHeld ||
        s.pkts.any fun x => decide (x.id < p.id) && decide (x.dest = p.dest) && decide (x.site = p.site) && decide (x.core = p.core) then s
    else
      let s := { s with pkts := s.pkts.filter fun x => decide (x.id ≠ i) }
      let q := s.queueAt p.dest 7
      if !q.en || q.room < 2 then s.modQueue p.dest 7 fun v => { v with nfull := min (v.nfull + 1) (2 ^ 32 - 1) }
      else ((s.ringPut p.dest 7 p.msg.words 2).traceMsg p.dest 7 p.msg)

def execFaultPacketArrival (i : Nat) (s : State) : Out := .next (s.packetArrive i)

/-! ### The debug window (R427) -/

/-- Whether a slot exists on the wafer. -/
def slotExists (core slot : Nat) : Bool := isCompute (coreSite core) && decide (slot < 8)

/-! The commands as writes of the slot control word; each is a debug access, which ungates the core (R364). -/

def execSlotStopw (c q : Nat) (s : State) : Out := .next (if slotExists c q then (s.ungate c).halt c q false else s)
def execSlotStartw (c q : Nat) (s : State) : Out := .next (if slotExists c q then (s.ungate c).start c q else s)
def execSlotFrzw (c q : Nat) (s : State) : Out := .next (if slotExists c q then (s.ungate c).halt c q true else s)
def execSlotFrzClear (c q : Nat) (s : State) : Out := .next (if slotExists c q then (s.ungate c).thaw c q else s)
def execSlotAckClear (c q : Nat) (s : State) : Out := .next (if slotExists c q then (s.ungate c).ack c q else s)

/-- A write of a slot control word: the commands its 1 bits name, in ascending bit order. -/
def State.slotCtlWrite (s : State) (core slot : Nat) (v : W64) : State :=
  if !slotExists core slot then s
  else
    let s := s.ungate core
    let s := if v.getLsbD 1 then s.thaw core slot else s
    let s := if v.getLsbD 2 || v.getLsbD 3 then s.ack core slot else s
    let s := if v.getLsbD 8 then s.halt core slot false else s
    let s := if v.getLsbD 9 then s.start core slot else s
    if v.getLsbD 10 then s.halt core slot true else s

/-- The slot control word (Table 14-13). -/
def State.slotCtlRead (s : State) (core slot : Nat) : W64 :=
  let sl := s.slotAt core slot
  if sl.busy then w64 (sl.stateWord.toNat % 32 + 32) else 0#64

/-- CONTEXT_MIRROR_WRITE: as WRCTX of the core that issues the write, or where no core does, of the core itself; a register word keeps its full/empty bit (log
entry 32). -/
def State.mirrorWrite (s : State) (core slot w : Nat) (v : W64) (src : Option Nat := none) : State :=
  if !slotExists core slot || 256 ≤ w then s
  else (s.ungate core).writeCtx (src.getD core) core slot w v none

def execContextMirrorWrite (c q k : Nat) (v : W64) (s : State) : Out := s.taken (s.answers (coreSite c)) (s.mirrorWrite c q k v)

/-- The word of the mirror; of an idle slot zero. -/
def State.mirrorRead (s : State) (core slot w : Nat) : W64 :=
  if (s.slotAt core slot).busy then (s.imageWord core slot w).1 else 0#64

/-- SUMP_WINDOW_WRITE: performed only while the sump holds no flits. -/
def State.sumpWrite (s : State) (n off : Nat) (v : W64) : State :=
  if !isCompute n || 0x20000 ≤ off || off % 8 ≠ 0 || !(s.siteAt n).sump.isEmpty then s
  else match s.sumpPa n with
    | some a =>
      let ws := s.wordsAt (a + off) 8
      ((s.correct ws).putMem (s.redirect (a + off)) v.toNat 0 8).retestAll ws
    | none => s

def execSumpWindowWrite (n off : Nat) (v : W64) (s : State) : Out := s.taken (s.answers n) (s.sumpWrite n off v)

end Sys2Proof.Machine
end

