-- ==== Sys2Proof/Machine/Commit.lean ====
section
/-! DEFINITION. Commit, the tail, deferred fills, and the ends of waits (spec/05_block_engine.md R149 to R157; spec/03_numbers.md R110 to
R112; spec/06_lane_engine.md R198, R199; spec/07_slice_engine.md R229; spec/01_organisation.md R43; spec/08_matrix_engine.md R246). -/

namespace Sys2Proof.Machine

/-! ### The tail (R152) -/

/-- Performing forms. -/
def performs : Instr → Bool
  | .take .. => true | .qrecv .. => true | .dpop .. => true | .wbar .. => true
  | .aadd .. => true | .aand .. => true | .aor .. => true | .axor .. => true | .amins .. => true | .amaxs .. => true
  | .aminn .. => true | .amaxn .. => true | .aswp .. => true | .acas .. => true
  | _ => false

def Run.performsAt (r : Run) (ix : Nat) : Bool := match r.instr ix with | some i => performs i | none => false

/-- Which instructions belong to the tail: those fed by a performing form, directly or through others. -/
def Run.tailSet (r : Run) : List Bool :=
  (List.range r.words.length).foldl (fun acc i =>
    acc ++ [(List.range i).any fun j => (acc.getD j false || r.performsAt j) && feedsIx (r.shape j) i]) []

/-- Indexes of a block inside and outside its tail. -/
def Run.inTail (r : Run) : List Nat := let t := r.tailSet; (List.range r.words.length).filter fun i => t.getD i false
def Run.outTail (r : Run) : List Nat := let t := r.tailSet; (List.range r.words.length).filter fun i => !t.getD i false

/-- Whether no instruction outside the tail can still fire or awaits a value (R153 condition 4). -/
def Run.quiet (r : Run) (now : Nat) : Bool := let a := r.live now; r.outTail.all fun i => !a.getD i false

/-- Whether an instruction has resolved by clk `now`. -/
def Run.resolved (r : Run) (now ix : Nat) : Bool :=
  match (r.inst ix).st with
  | .ready => true
  | .done => true
  | .null => true
  | .wait _ => false
  | .idle => r.shut now ix

/-- Forms that R153 waits for: store-mask forms, WRITE and WRC. -/
def countedForm (sh : Shape) : Bool := sh.smask || sh.write.isSome || sh.wrc.isSome

/-- The NULL flag resolves what is left outside the tail as null, once nothing there can fire (R153). -/
def Run.withNulls (r : Run) (now : Nat) : Run :=
  if r.nullFlag && r.quiet now then
    r.outTail.foldl (fun r i => if countedForm (r.shape i) && !r.resolved now i then r.modInst i fun x => { x with st := .null } else r) r
  else r

/-- The first form of the tail that may not stand there: an M-format, E-format or supervisor form, or a WRC. -/
def Run.badTail (r : Run) : Option Nat :=
  r.inTail.find? fun i => let sh := r.shape i; sh.lsid.isSome || sh.wrc.isSome || sh.major == 0x7E

/-! ### What a commit writes -/

/-- WRITEs outside the tail with their tokens, in index order. -/
def Run.writes (r : Run) : List (Nat × Token) :=
  r.outTail.filterMap fun i => match (r.shape i).write, (r.inst i).st, (r.inst i).l with
    | some n, .done, some t => some (n, t)
    | _, _, _ => none

/-- WRCs outside the tail with their values; a null token writes nothing (R151). -/
def Run.wrcs (r : Run) : List (Nat × W64) :=
  r.outTail.filterMap fun i => match (r.shape i).wrc, (r.inst i).st, (r.inst i).l with
    | some n, .done, some t => if t.nullIn 8 then none else some (n, t.lo)
    | _, _, _ => none

/-- Registers that the tail writes. -/
def Run.tailRegs (r : Run) : List Nat := r.inTail.filterMap fun i => (r.shape i).write

/-- Registers that fill forms of the block mark. -/
def Run.fillRegs (r : Run) : List Nat :=
  r.outTail.filterMap fun i => match (r.inst i).st with
    | .ready => (r.shape i).fill
    | _ => none

/-- Whether the tail may yet fire a CALL or CALLI. -/
def Run.tailCalls (r : Run) : Bool :=
  r.exit.isNone && r.inTail.any fun i => match r.instr i with
    | some (.call ..) => true
    | some (.calli ..) => true
    | _ => false

/-- Registers that must be full at commit (R149): a WRITE of a null token changes nothing and needs none. -/
def Run.needFull (r : Run) : List Nat :=
  (r.writes.filter fun w => !w.2.isNull).map Prod.fst ++ r.tailRegs ++ r.fillRegs ++ if r.calls || r.tailCalls then [63] else []

/-- Words that the block's stores write. -/
def Run.writtenWords (r : Run) : List Nat :=
  r.ops.flatMap fun e => match e.2.kind with
    | .mem k => if k.writes then wordsOf e.2.pa e.2.size else []
    | _ => []

/-- The words that a block's commit writes: those of its stores, and the words at BUF of a QRECV that holds its message and of a DPOP (R156). -/
def State.commitWords (s : State) (core : Nat) (r : Run) : List Nat :=
  r.writtenWords ++ r.ops.flatMap fun e => match e.2.kind with
    | .qrecv => if e.2.va = 0 || s.headLen core e.2.size = 0 then [] else s.wordsAt e.2.pa (s.headLen core e.2.size)
    | .dpop => if e.2.va = 0 then [] else s.wordsAt e.2.pa 64
    | _ => []

/-- Load the register lines a commit touches, or name a register whose line cannot be loaded. -/
def State.loadLines (s : State) (core slot : Nat) : List Nat → Except Nat State
  | [] => .ok s
  | n :: ns => match s.loadLine core slot n with
    | none => .error n
    | some s => State.loadLines s core slot ns

/-! ### Whether a block commits (R43, R149, R153, R157, R246, R405) -/

/-- The answer to whether a block commits: not yet; a fault; a register whose line cannot be loaded; a wait that parks the thread (R149, R43,
R246); held by a sibling's priority (R157); ready. -/
inductive CommitTest where
  | notYet
  | faults (cause ix : Nat)
  | lost (reg : Nat)
  | waits
  | held
  | ready
  deriving DecidableEq, Repr

/-- Engine commands of a block. -/
def Run.cmds (r : Run) : List (CmdKind × Op) :=
  r.ops.filterMap fun e => match e.2.kind with
    | .cmd k => some (k, e.2)
    | _ => none

/-- Whether the tag counts and the intakes have room for a block's commands. -/
def State.cmdRoom (s : State) (core : Nat) (g : Group) (r : Run) : Bool :=
  let cs := r.cmds
  let fits := fun (e : EngineId) =>
    let n := (cs.filter fun c => decide (c.1.engine = e)).length
    n == 0 || decide (s.intakeUsed core e + n ≤ 16)
  s.tagRoom core (cs.map fun c => s.physTag core g (bits c.2.r.toNat 5 0)) && fits .matrix && fits .copy && fits .hyper

/-- Whether a sibling that holds priority has loaded a word the block writes. -/
def State.prioHeld (s : State) (core slot : Nat) (r : Run) : Bool :=
  match (s.coreAt core).prio with
  | none => false
  | some p => p ≠ slot && match s.runAt core p with
    | some x => (s.commitWords core r).any x.watch.contains
    | none => false

/-- A JOINAD.arm of a block whose exit is not SUSP. -/
def Run.badArm (r : Run) : Option Nat :=
  match r.exit with
  | some ⟨.susp, _⟩ => none
  | _ => (r.ops.find? fun e => decide (e.2.kind = .mem (.joinad true))).map fun e => e.2.ix

/-- What holds a block that is complete: its registers, its lines loaded, must be full, and there must be room for its commands. -/
def State.commitWaits (s : State) (core slot : Nat) (r : Run) : CommitTest :=
  match s.loadLines core slot r.needFull with
  | .error n => .lost n
  | .ok s =>
    let sl := s.slotAt core slot
    if !(r.needFull.all sl.isFull && s.cmdRoom core sl.group r) then .waits
    else if s.prioHeld core slot r then .held
    else .ready

/-- The test of R153 for a block in which the NULL flag has acted. -/
def State.commitTest (s : State) (core slot : Nat) (r : Run) : CommitTest :=
  let now := s.cyc core
  if r.tail || (s.slotAt core slot).held || now < r.from_ || !r.quiet now then .notYet
  else if !(r.outTail.all fun i => !(countedForm (r.shape i)) || r.resolved now i) || !(r.exit.isSome || r.inTail.any fun i => (r.shape i).exit.isSome) then
    .faults 0x22 127
  else match r.badTail with
    | some i => .faults 0x26 i
    | none => match r.badArm with
      | some i => .faults 0x96 i
      | none => s.commitWaits core slot r

/-- Whether R153 was met in a clk before the present one (R176). -/
def Run.metBefore (r : Run) (now : Nat) : Bool := match r.met with | some n => decide (n < now) | none => false

/-- The block of a slot is looked at as a clk ends: the clk in which R153 is first met, and the TIME from which its commit waits. -/
def State.testCommit (s : State) (core slot : Nat) : State :=
  match s.runAt core slot with
  | none => s
  | some r =>
    let now := s.cyc core
    match s.commitTest core slot (r.withNulls now) with
    | .ready => s.modRun core slot fun r => { r with met := some (r.met.getD now), held := none }
    | .held => s.modRun core slot fun r => { r with met := some (r.met.getD now), held := none }
    | .waits => s.modRun core slot fun r => { r with held := some (r.held.getD s.time) }
    | _ => s

/-- Whether another slot of the core commits first in this clk (R155). -/
def State.outranked (s : State) (core slot : Nat) : Bool :=
  let first := fun (n : Nat) => match (s.coreAt core).prio with
    | some p => if p = slot then false else if p = n then true else decide (n < slot)
    | none => decide (n < slot)
  (List.range 8).any fun n => n ≠ slot && first n && match s.runAt core n with
    | some x => x.metBefore (s.cyc core) && decide (s.commitTest core n (x.withNulls (s.cyc core)) = .ready)
    | none => false

/-! ### What leaves the core (R155 step 3) -/

/-- The request of a store-mask form that leaves its core: a form with a reservation keeps its request. -/
def State.issueMem (s : State) (core slot : Nat) (sl : Slot) (r : Run) (op : Op) (k : MemKind) : State :=
  if k = .fence .core then s
  else if k.reserves then
    { s.bump with
      reqs := (s.reqs.filter fun q => decide (q.id ≠ op.req)) ++
        (s.reqs.filter fun q => decide (q.id = op.req)).map fun q => { q with left := true, ord := s.nextId } }
  else
    let q : Req :=
      { id := s.nextId, core := core, slot := slot, ix := op.ix, seq := r.seq, lsid := op.lsid, kind := k, va := op.va, pa := op.pa, size := op.size
        data := op.r, mask := op.rmask, cmp := match k with | .joinad _ => sl.ctl.imga | _ => op.p.setWidth 64
        rgn := op.rgn, ord := s.nextId, left := true, since := s.time, clk := s.cyc core }
    let s := { s.bump with reqs := s.reqs ++ [q] }
    match k with
    | .ldd _ reg => s.modSlot core slot fun sl => sl.markEmpty reg
    | _ => s

/-- One store or command leaves the core. -/
def State.issueOp (s : State) (core slot : Nat) (sl : Slot) (r : Run) (op : Op) : State :=
  match op.kind with
  | .mem k => s.issueMem core slot sl r op k
  | .cmd k => s.issueCmd core slot sl r op k
  | .qsend => s.issueMsg core slot sl r op false
  | .qsendv => s.issueMsg core slot sl r op true
  | .qrecv => s.issueRecv core slot r op
  | .qrecvd _ => s.issueRecv core slot r op
  | .wbar => s.issueArrival core slot r op true
  | .warr => s.issueArrival core slot r op false
  | .wcfg => s.cellWrite (coreBasin core) (4 * op.v) (op.r.setWidth 64)
  | .wstep => s.askStep core op.v (bits op.l.toNat 12 8) (bits op.r.toNat 63 0) .ask
  | .launch => s.issueSluice core slot sl r op
  | .dpush => s.issueSluice core slot sl r op
  | .dpop => s.issueSluice core slot sl r op
  | .spawn => s.issueSluice core slot sl r op
  | .dweight => s.issueSluice core slot sl r op

/-! ### The end of a block (R112, R155, R161, R198, R199) -/

/-- A block is over: its tail has resolved. Tail WRITEs without a token refill their registers, the link stands over every WRITE (R159), the tail's flags
are merged and may raise an event of their own unless the thread is parked for one (R198, R199), and the slot stands at the boundary. With no exit
fired the thread freezes. -/
def State.endBlock (s : State) (core slot : Nat) (r : Run) : State :=
  let refill := r.inTail.filterMap fun i => if (r.inst i).st = .done then none else (r.shape i).write
  let late := r.inTail.any fun i => (r.shape i).exit.isSome && decide ((r.inst i).st = .done)
  let s := s.lateEvent core slot r
  let s := s.modSlot core slot fun sl =>
    let sl := { sl with ctl := { sl.ctl with fpf := mergeFpf sl.ctl.fpf r.flags } }
    let sl := { sl with full := refill.foldl (fun f n => f ||| (1#64 <<< n)) sl.full }
    if r.calls && (late || r.tailRegs.contains 63) && !r.fillRegs.contains 63 then sl.setReg 63 (r.link.setWidth 128) else sl
  let sl := s.slotAt core slot
  let tailEvt := eventFlags r.fpc r.flags
  let s := if tailEvt = 0#6 || sl.evp || sl.run.any Run.park then s
    else (s.fpEvent core slot r r.eventNext tailEvt true sl.ctl.fpf s.time).modRun core slot fun r => { r with park := !r.retires }
  match r.exit with
  | none => s.raise core slot 0x22 127 false 0 0
  | some e =>
    let ends : Option EndKind := match e.kind with | .susp => some .susp | .retire => some .retire | _ => none
    (s.modSlot core slot fun sl =>
      { sl with
        run := none
        evp := sl.evp || sl.run.any Run.park
        look := if ends.isSome then none else sl.look
        pc := match e.kind with | .retire => r.addr | _ => e.target
        ending := if ends.isSome then ends else sl.ending }).settle core slot

/-- The tail is looked at: when no instruction of the block can fire or awaits a value any more, the block is over. -/
def State.tailSettle (s : State) (core slot : Nat) : State :=
  match s.runAt core slot with
  | none => s
  | some r => if r.tail && !((r.live (s.cyc core)).any id) then s.endBlock core slot r else s

/-! ### Commit (R155) -/

/-- The control registers after a block's WRCs and flags: FPF's WRC first, then the flags, then the others in index order (R110, R151). -/
def Run.commitCtl (r : Run) (x : Ctl) (folded : Bool) : Ctl :=
  let ws := r.wrcs
  let x := (ws.filter fun w => w.1 == 1).foldl (fun x w => x.write folded 1 w.2) x
  let x := { x with fpf := mergeFpf x.fpf r.flags }
  (ws.filter fun w => w.1 != 1).foldl (fun x w => x.write folded w.1 w.2) x

/-- Steps 1 and 2: control registers, registers, the link, and the registers the tail will write. -/
def State.commitRegs (s : State) (core slot : Nat) (r : Run) : State :=
  let folded := s.foldImgs.contains (s.slotAt core slot).ctl.imga.toNat
  let s := s.modSlot core slot fun sl => { sl with ctl := r.commitCtl sl.ctl folded }
  let s := s.modSlot core slot fun sl => r.writes.foldl (fun sl w => if w.2.isNull then sl else sl.setReg w.1 (mergeBytes (sl.reg w.1) w.2)) sl
  let s := if r.calls then s.modSlot core slot fun sl => sl.setReg 63 (r.link.setWidth 128) else s
  let s := s.modSlot core slot fun sl => r.tailRegs.foldl Slot.markEmpty sl
  if r.wrcs.any fun w => w.1 == 32 || w.1 == 33 then
    s.modSlot core slot fun sl => { sl with look := sl.look.map fun k => { k with got := .asked } }
  else s

/-- The block has committed: its tail begins, and the flags that raise an event are kept with FPF and TIME at their merge. Performing forms that
resolved with an effect await their results. -/
def Run.commits (r : Run) (fpf : W64) (time : Nat) : Run :=
  let wait := fun (r : Run) (i : Nat) =>
    if r.performsAt i && decide ((r.inst i).st = .ready) then r.modInst i fun x => { x with st := .wait time } else r
  { (List.range r.words.length).foldl wait r with
    tail := true, flags := 0#6, watch := [], held := none, ops := [], sups := [],
    evt := eventFlags r.fpc r.flags, evtFpf := fpf, evtTime := time }

/-- Null tokens of the performing forms that resolved as null. -/
def State.nullTokens (s : State) (core slot : Nat) (r : Run) : State :=
  (List.range r.words.length).foldl (fun s i =>
    if r.performsAt i && decide ((r.inst i).st = .null) then s.deliver core slot (r.shape i).t none 1 nullToken else s) s

/-- The registers that a block reads and writes. -/
def Run.usedRegs (r : Run) : List Nat :=
  (List.range r.words.length).filterMap fun i => match r.instr i with
    | some (.read g _ _) => some g.toNat
    | some (.readt g _ _) => some g.toNat
    | some (.write g) => some g.toNat
    | _ => none

/-- The register lines a block has used are the most recent ones (R147). -/
def State.touchLines (s : State) (core slot : Nat) (r : Run) : State :=
  let img := (s.slotAt core slot).ctl.imga.toNat
  s.modCore core fun k => { k with rlines := r.usedRegs.foldl (fun l g => rlinesTouch l (img / 64 + g / 4)) k.rlines }

/-- A block commits, as one step. The lookup of a block that holds ALIGN is made now, where its exit has fired (R163); its event goes out with the commit
unless the exit lies in the tail (R112). -/
def State.commit (s : State) (core slot : Nat) (r : Run) : State :=
  let sl := s.slotAt core slot
  let words := s.commitWords core r
  let s := (s.commitRegs core slot r).modSlot core slot fun x => { x with run := some (r.commits x.ctl.fpf s.time), replays := 0 }
  let s := match r.exit with
    | some ⟨.susp, _⟩ => s
    | some ⟨.retire, _⟩ => s
    | some e => if r.holdsAlign then s.modSlot core slot fun sl => sl.makeLook (r.lookup e.target (s.cyc core)) else s
    | none => s
  let s := (s.touchLines core slot r).modCore core fun k => { k.dropPrio slot with commitAt := some (s.cyc core) }
  let s := (s.account core slot 6 1).nullTokens core slot r
  let s := r.ops.foldl (fun s e => s.issueOp core slot sl r e.2) s
  let s := ((List.range r.words.length).flatMap fun i => r.sups.filter fun o => decide (o.ix = i)).foldl (fun s o => s.sendSup core slot o) s
  let s := s.replaySiblings core slot words
  let s := match s.runAt core slot with
    | some x => if x.exit.isSome then s.lateEvent core slot x else s
    | none => s
  s.tailSettle core slot

/-- BLOCK_COMMIT: the block of a slot is tested, and commits, waits, or faults. It commits after the clk in which R153 was met, one block of a core in
a clk. -/
def State.blockCommit (s : State) (core slot : Nat) : State :=
  match s.runAt core slot with
  | none => s
  | some r0 =>
    let r := r0.withNulls (s.cyc core)
    match s.commitTest core slot r with
    | .notYet => s
    | .faults c i => (s.modRun core slot fun _ => r).raise core slot c i false 0 0
    | .lost n =>
      let a := (s.slotAt core slot).ctl.imga.toNat + 16 * n
      (s.countUe a).raise core slot 0x39 127 false a 0
    | .held => s.testCommit core slot
    | .waits => match s.loadLines core slot r.needFull with
      | .error _ => s
      | .ok s => s.testCommit core slot
    | .ready =>
      if !r0.metBefore (s.cyc core) || (s.coreAt core).commitAt = some (s.cyc core) || s.outranked core slot then s
      else match s.loadLines core slot r.needFull with
        | .error _ => s
        | .ok s => s.commit core slot r

def execBlockCommit (c q : Nat) (s : State) : Out := .next (s.blockCommit c q)

/-! ### Results and fills (R150, R155) -/

/-- PERFORMING_RESULT: a result feeds the tail of its block, unless it is held on its way from its home (R330, R333). -/
def State.performingResult (s : State) (i : Nat) : State :=
  match s.results.find? (·.id == i) with
  | none => s
  | some q =>
    if q.flight.any s.wayHeld then s else
    let s := { s with results := s.results.filter fun x => decide (x.id ≠ i) }
    match s.runAt q.core q.slot with
    | none => s
    | some r =>
      if !r.tail || r.seq ≠ q.seq then s
      else
        let tok : Token := match q.val with | some v => { data := v } | none => nullToken
        (((s.setSt q.core q.slot q.ix .done).deliver q.core q.slot (r.shape q.ix).t none 1 tok).ungate q.core).tailSettle q.core q.slot

def execPerformingResult (i : Nat) (s : State) : Out := .next (s.performingResult i)

/-- FILL_ARRIVAL: the value is written, the register is full, and what waits for it goes on (R148), unless the fill is held on its way from its home (R330, R333). A fill form ends with it, and its tag falls (R312,
R317). -/
def State.fillArrival (s : State) (i : Nat) : State :=
  match s.fills.find? (·.id == i) with
  | none => s
  | some f =>
    if f.flight.any s.wayHeld then s else
    let s := { s with fills := s.fills.filter fun x => decide (x.id ≠ i) }
    let s := (s.loadLine f.core f.slot f.reg).getD s
    let s := if f.hv then s.setHv f.core { s.hvAt f.core with run := none } else s
    (((s.modSlot f.core f.slot fun sl => { sl.setReg f.reg f.val with wake := sl.wake || sl.ending == some .swap }).wakeReads f.core f.slot f.reg).tagDown f.core f.tag).ungate f.core

def execFillArrival (i : Nat) (s : State) : Out := .next (s.fillArrival i)

/-! ### The ends of waits (R229) -/

/-- Whether a wait begun at a TIME has reached its limit. -/
def State.due (s : State) (core slot since : Nat) : Bool := decide (since + (s.slotAt core slot).ctl.wlim.toNat ≤ s.time)

/-- The first wait of an uncommitted block, other than at a home, that has reached its limit: its cause, index and INFO. -/
def State.dueWait (s : State) (core slot : Nat) (r : Run) : Option (Nat × Nat × Nat) :=
  let b := coreBasin core
  let at_ := (List.range r.words.length).findSome? fun i => match (r.inst i).st, r.instr i with
    | .wait t, some x =>
      if !s.due core slot t then none
      else match x with
        | .read .. => some (0x24, i, 0)
        | .qrecv .. => some (0x72, i, bits ((r.inst i).l.getD {}).data.toNat 66 64)
        | .dpop .. => some (0x92, i, sluiceInfo (bits ((r.inst i).l.getD {}).data.toNat 71 64) 0)
        | .twany .. => some (0x58, i, 0)
        | .twall .. => some (0x58, i, 0)
        | .tffr .. => some (0x58, i, 0)
        | .wwait .. =>
          let l := ((r.inst i).l.getD {}).data.toNat
          if (s.wwaitRelease b (bits l 5 0) (bits l 31 16)).isSome then none else some (0x81, i, 0)
        | _ => none
    | _, _ => none
  match at_, r.held with
  | some x, _ => some x
  | none, some t =>
    let full := match s.loadLines core slot r.needFull with | .ok s => r.needFull.all (s.slotAt core slot).isFull | .error _ => true
    if s.due core slot t && !full then some (0x24, 127, 0) else none
  | none, none => none

/-- The performing form whose result a tail has awaited to the limit. -/
def State.dueTail (s : State) (core slot : Nat) (r : Run) : Option Nat :=
  (List.range r.words.length).find? fun i => r.performsAt i && !s.barKnown core slot r i &&
    match (r.inst i).st with | .wait t => s.due core slot t | _ => false

/-- Withdrawals go to the homes of an uncommitted block's requests whose waits have reached the limit. A request that its core still holds is at no home,
and PROBE never faults (R224). -/
def State.sendWithdrawals (s : State) (core slot : Nat) : State :=
  let ids := (s.reqs.filter fun q => q.ofBlock core slot && !(q.st == .reserved) && q.kind != .probe && s.due core slot q.since && !(decide (q.st = .sent) && s.holdsBack q) && !s.withdrawals.contains q.id).map Req.id
  { s with withdrawals := s.withdrawals ++ ids }

/-- Deferred receives and pushes of a thread that have waited to the limit before their message is taken or their record appended (R344, R403). -/
def State.dueCommitted (s : State) (core slot : Nat) : State :=
  match s.recvs.find? fun q => decide (q.core = core) && decide (q.slot = slot) && q.left && q.deferred.isSome && q.taken.isNone && s.due core slot q.since with
  | some q => ({ s with recvs := s.recvs.filter fun x => decide (x.id ≠ q.id) } : State).failAfter core slot 0x72 q.ix 0 q.qn
  | none =>
    match s.appends.find? fun a => (decide (a.kind = .push) || decide (a.kind = .pushHead)) && a.waiting && decide (a.core = core) &&
        decide (a.slot = slot) && s.due core slot a.since with
    | some a => ({ s with appends := s.appends.filter fun x => decide (x.id ≠ a.id) } : State).pushFail a 0x91 0 (sluiceInfo a.ditch 0)
    | none => s

/-- WAIT_LIMIT_EXPIRY: TIME has reached the limit of a wait of a thread. -/
def State.waitLimit (s : State) (core slot : Nat) : State :=
  match s.runAt core slot with
  | none => s.dueCommitted core slot
  | some r =>
    if r.tail then
      match s.dueTail core slot r with
      | some i => (s.modSlot core slot fun sl => { sl with barWait := 0#64 }).raise core slot 0x27 i false 0 0
      | none => s.dueCommitted core slot
    else
      let s := (s.sendWithdrawals core slot).dueCommitted core slot
      match s.dueWait core slot r with
      | some (c, i, info) => s.raise core slot c i false 0 info
      | none => s

def execWaitLimitExpiry (c q : Nat) (s : State) : Out := .next (s.waitLimit c q)

end Sys2Proof.Machine
end

