-- ==== Sys2Proof/Machine/BringUp.lean ====
section
/-! DEFINITION. Bring-up: the wavefront, the network-select tables, the first ring, and the start of the riders
(spec/15_headgates.md R438 to R449; spec/14_ditch_rider.md R429); publication of a ring (spec/01_organisation.md R25 to R29). -/

namespace Sys2Proof.Machine

/-! ### Edges of a site (R445, R446) -/

/-- The site across edge e: 0 north, 1 east, 2 south, 3 west. -/
def acrossEdge (n e : Nat) : Option Nat :=
  let x := siteX n
  let y := siteY n
  let m : Option Nat := match e with
    | 0 => if y = 0 then none else some (siteAtXY x (y - 1))
    | 1 => if x = 21 then none else some (siteAtXY (x + 1) y)
    | 2 => if y = 21 then none else some (siteAtXY x (y + 1))
    | _ => if x = 0 then none else some (siteAtXY (x - 1) y)
  m.filter siteExists

/-- The edge of the other site. -/
def facing (e : Nat) : Nat := (e + 2) % 4

/-- Whether an edge crosses a seam. -/
def seamEdge (n e : Nat) : Bool := match acrossEdge n e with | some m => basinOf m != basinOf n | none => false

/-- The bits of edge e in a dead-bond map. -/
def edgeBits (d e : Nat) : Nat := bits d (8 * e + 7) (8 * e)
def edgeMask (e : Nat) : Nat := 255 * 2 ^ (8 * e)

/-- The bits that face an empty corner or leave the wafer. -/
def borderDead (n : Nat) : Nat := (List.range 4).foldl (fun d e => if (acrossEdge n e).isNone then Nat.lor d (edgeMask e) else d) 0

def State.markDead (s : State) (n d : Nat) : State := s.modSite n fun v => { v with dbm := Nat.lor v.dbm d }

/-- The bond test of an edge from the sender's side: lanes that fail are dead from now on. -/
def State.testEdge (s : State) (n e : Nat) : State := s.markDead n (Nat.land (mget s.part.defect n 0) (edgeMask e))

/-- The neighbours of a failed site mark every lane of the shared edge dead (R443). -/
def State.siteFails (s : State) (n code : Nat) : State :=
  (List.range 4).foldl (fun s e => match acrossEdge n e with
    | some m => s.markDead m (edgeMask (facing e))
    | none => s) (s.modSite n fun v => { v with bst := 6, fcode := code })

/-! ### Phase 0 and the wavefront (R440 to R443) -/

/-- POWER_GOOD: every bonded site is DARK, with the dead bonds of the manufacturing record. -/
def State.powerGood (s : State) : State :=
  if s.powered then s
  else
    ((List.range 484).filter siteExists).foldl (fun s n => s.markDead n (Nat.lor (mget s.part.record n 0) (borderDead n)))
      { s with powered := true, time := 0 }

def execPowerGood (s : State) : Out := .next s.powerGood

/-- The bytes of a store from offset 0 to its last byte. -/
def storeBytes (m : SMap Byte) : List Byte :=
  let n := m.foldl (fun n e => max n (e.1 + 1)) 0
  (List.range n).map fun i => mget m i 0#8

/-- The image in the boot store of a headgate. -/
def State.imageAt (s : State) (n : Nat) : List Byte := storeBytes (mget s.boots n [])

/-- The image that a basin runs: of the first of its headgates that has not failed. -/
def State.imageOf (s : State) (b : Nat) : List Byte := s.imageAt (((headgates b).find? fun n => (s.siteAt n).bst ≠ 6).getD 0)

/-- The failure code of a site whose configuration check fails, or whose TYPE is another (Table 15-2). -/
def failCode (c : Nat) : Nat := if c = 3 then 3 else 2

/-- Why a headgate does not come up (R438, R461): its image fails, its clock does not lock, or its checks fail. -/
def State.headgateFails (s : State) (n : Nat) : Option Nat :=
  if !Config.fwPasses (s.imageAt n) then some 0
  else if s.part.noLock.contains n then some 1
  else if mget s.part.fails n 0 ≠ 0 then some (failCode (mget s.part.fails n 0))
  else none

/-- PHASE0_END: each headgate of a basin verifies its copy of the firmware image and is CONFIGURED, or is treated as FAILED. With one CONFIGURED the wavefront
starts, and the clock runs at the grade entry from then on (R448); with none the basin halts where an image failed, and stays dark where none did (log
entry 94). -/
def State.phase0End (s : State) (b : Nat) : State :=
  let v := s.basinAt b
  let t := max 65536 s.time
  if !s.powered || 4 ≤ b || v.phase ≠ 0 || v.tstart ≠ 0 || !s.upTo t then s
  else
    let good := (headgates b).filter fun n => (s.headgateFails n).isNone
    let halt := (headgates b).any fun n => s.headgateFails n = some 0
    let g := s.part.grade.getD b 17
    let s' := (headgates b).foldl (fun s n => match s.headgateFails n with
      | none => s.modSite n fun v => { v with bst := 3, origin := n, hop := 0, tcfg := t }
      | some c => s.siteFails n c) { s with time := t }
    if good ≠ [] then s'.modBasin b fun v => { v with phase := 1, tstart := t, on := true, m := g, epoch := t, edges := 0, tick := t }
    else if halt then s'.modBasin b fun v => { v with phase := 5 }
    else s'.modBasin b fun v => { v with tstart := t }

def execPhase0End (b : Nat) (s : State) : Out := .next (s.phase0End b)

/-- One offer of a site across an edge: the bond is tested, and an edge with a good lane carries the offer to a DARK neighbour. -/
def State.sendOffer (s : State) (n e : Nat) : State :=
  match acrossEdge n e with
  | none => s
  | some m =>
    if seamEdge n e then s
    else
      let s := s.testEdge n e
      let v := s.siteAt n
      if edgeBits v.dbm e = 255 || (s.siteAt m).bst ≠ 0 then s
      else s.modSite m fun w => { w with offers := w.offers ++ [(v.hop + 1, v.origin, facing e)] }

/-- WAVEFRONT_SLOT_START: at the start of slot h the sites CONFIGURED at the end of the slot before send their offers, and start to clear
their memory. -/
def State.slotStart (s : State) (h : Nat) : State :=
  let mine := fun (n : Nat) =>
    let v := s.basinAt (basinOf n)
    siteExists n && decide (v.phase = 1) && decide ((s.siteAt n).bst = 3) && decide ((s.siteAt n).tcfg = v.tstart + 4096 * (h - 1)) && decide (0 < h)
  let ns := (List.range 484).filter mine
  let pending := (List.range 484).any fun n => let v := s.siteAt n; decide (v.bst = 1) || decide (v.bst = 2) || !v.offers.isEmpty
  match ns with
  | [] => s
  | n :: _ =>
    if pending || !s.phase0Over || !s.upTo (s.siteAt n).tcfg then s
    else
      let s := ns.foldl (fun s n => (List.range 4).foldl (fun s e => s.sendOffer n e) s) s
      let s := ns.foldl (fun s n => s.modSite n fun v => { v with bst := 4 }) s
      { s with time := max s.time (s.siteAt n).tcfg }

def execWavefrontSlotStart (h : Nat) (s : State) : Out := .next (s.slotStart h)

/-- Whether an offer is preferred to another (R442). -/
def offerBefore (a b : Nat × Nat × Nat) : Bool :=
  decide (a.1 < b.1) || (decide (a.1 = b.1) && (decide (a.2.1 < b.2.1) || (decide (a.2.1 = b.2.1) && decide (a.2.2 < b.2.2))))

/-- OFFER_WINDOW_CLOSE: 256 ns into the slot a DARK site accepts one offer. -/
def State.offerClose (s : State) (n : Nat) : State :=
  let v := s.siteAt n
  match v.offers with
  | [] => s
  | o :: os =>
    let a := os.foldl (fun a b => if offerBefore b a then b else a) o
    let t := (s.basinAt (basinOf n)).tstart + 4096 * (a.1 - 1) + 256
    if v.bst ≠ 0 || !s.upTo t then s
    else
      { s.setSite n { v with bst := 1, hop := a.1, origin := a.2.1, pedge := a.2.2, offers := [] } with time := max s.time t }

def execOfferWindowClose (n : Nat) (s : State) : Out := .next (s.offerClose n)

/-- CLOCK_LOCK: the site locks to its parent, or fails. -/
def State.clockLock (s : State) (n : Nat) : State :=
  if (s.siteAt n).bst ≠ 1 then s
  else if s.part.noLock.contains n then s.siteFails n 1
  else s.modSite n fun v => { v with bst := 2 }

def execClockLock (n : Nat) (s : State) : Out := .next (s.clockLock n)

/-- SITE_CONFIGURED: at the end of the slot a tested site is CONFIGURED, or fails its checks. -/
def State.siteConfigured (s : State) (n : Nat) : State :=
  let v := s.siteAt n
  let t := (s.basinAt (basinOf n)).tstart + 4096 * v.hop
  if v.bst ≠ 2 || !s.upTo t then s
  else
    let s : State := { s with time := max s.time t }
    if mget s.part.fails n 0 ≠ 0 then s.siteFails n (failCode (mget s.part.fails n 0))
    else s.modSite n fun v => { v with bst := 3, tcfg := t }

def execSiteConfigured (n : Nat) (s : State) : Out := .next (s.siteConfigured n)

/-- Slots that the memory clear of a site takes (Table 15-2). -/
def clearSlots (n : Nat) : Nat :=
  match siteKind n with
  | .prompt => 5 | .token => 10 | .memory => 64 | _ => 1

/-- Bad words of a site, by the address at which the part lists them. -/
def State.badOf (s : State) (n : Nat) : List Nat := (s.part.badWords.filter fun a => decide (paSpace a = 0) && decide (paSite a = n)).map wordOf

/-- The memory of a site cleared: every word zero, full and correct but the bad ones, which stay poisoned (R205). -/
def Memory.clearSite (m : Memory) (n : Nat) (bad : List Nat) : Memory :=
  let lo := n * 2 ^ 37
  let z := m.zero lo (2 ^ 37)
  { z with
    empties := z.empties.filter fun w => !(decide (lo ≤ 8 * w) && decide (8 * w < lo + 2 ^ 37))
    errs := bad.foldl (fun l w => mput l w true) z.errs }

/-- MEMORY_CLEAR_DONE: the clear of a site is complete. -/
def State.clearDone (s : State) (n : Nat) : State :=
  let v := s.siteAt n
  let t := v.tcfg + 4096 * clearSlots n
  if v.bst ≠ 4 || !s.upTo t then s
  else
    let bad := s.badOf n
    let mem := siteKind n == .memory
    ({ s with mem := s.mem.clearSite n bad, time := max s.time t } : State).setSite n
      { v with
        bst := 5, trdy := t, nbad := min (bad.length + (mget s.part.badPlaces n []).length) (2 ^ 16 - 1)
        ue := if mem then bad.length else v.ue
        ulast := if mem then (match bad.getLast? with | some w => paOff (8 * w) | none => v.ulast) else v.ulast }

def execMemoryClearDone (n : Nat) (s : State) : Out := .next (s.clearDone n)

/-! ### Phases 2 to 4 -/

/-- Whether phase 1 of a basin is over: it stays dark, or each of its sites is READY, FAILED or out of reach. -/
def State.phase1Over (s : State) (b : Nat) : Bool :=
  let v := s.basinAt b
  match v.phase with
  | 0 => decide (v.tstart ≠ 0)
  | 1 => (List.range 484).all fun n => basinOf n != b || !siteExists n ||
      (let w := s.siteAt n; decide (w.bst = 5) || decide (w.bst = 6) || (decide (w.bst = 0) && w.offers.isEmpty))
  | _ => true

/-- TIME at which phase 1 is over in every basin: the last site is READY. -/
def State.phase1End (s : State) : Nat := (List.range 484).foldl (fun t n => max t (s.siteAt n).trdy) 0

/-- SEAM_PASS: phase 2 starts in every basin at once; the bonds that cross a seam are tested, and where an end is not READY, both mark every lane of the edge
dead. -/
def State.seamPass (s : State) : State :=
  if !s.powered || !s.upTo s.phase1End || !((List.range 4).all s.phase1Over) || !((List.range 4).any fun b => (s.basinAt b).phase == 1) then s
  else
    let s := ((List.range 484).filter siteExists).foldl (fun s n => (List.range 4).foldl (fun s e =>
      match acrossEdge n e with
      | some m =>
        if !seamEdge n e then s
        else if (s.siteAt n).bst = 5 && (s.siteAt m).bst = 5 then s.testEdge n e
        else s.markDead n (edgeMask e)
      | none => s) s) s
    (List.range 4).foldl (fun s b => if (s.basinAt b).phase = 1 then s.modBasin b fun v => { v with phase := 2 } else s)
      { s with time := max s.time s.phase1End }

def execSeamPass (s : State) : Out := .next s.seamPass

/-- Whether the link between neighbouring routers is good on a flume, and leads into a READY site. -/
def State.linkGood (s : State) (f : Nat) (p q : Nat × Nat) : Bool :=
  let n := siteAtXY (p.1 / 4) (p.2 / 4)
  let m := siteAtXY (q.1 / 4) (q.2 / 4)
  if n = m then true
  else
    let e := if q.2 < p.2 then 0 else if p.1 < q.1 then 1 else if p.2 < q.2 then 2 else 3
    let l := if e = 0 || e = 2 then p.1 % 4 else p.2 % 4
    siteExists m && decide ((s.siteAt m).bst = 5) && !bit (s.siteAt n).dbm (8 * e + 4 * f + l)

/-- Whether every link of a route is good. -/
def State.pathGood (s : State) (f : Nat) : List (Nat × Nat) → Bool
  | p :: q :: l => s.linkGood f p q && State.pathGood s f (q :: l)
  | _ => true

/-- The router positions of a site, as mesh coordinates. -/
def positions (n : Nat) : List (Nat × Nat) := (List.range 16).map fun p => (meshX n p, meshY n p)

/-- clean of R447. -/
def State.clean (s : State) (f n m : Nat) (w : Option (Nat × Nat)) : Bool :=
  (positions n).all fun p => (positions m).all fun q => match w with
    | none => s.pathGood f (legPath f p q)
    | some w => s.pathGood f (legPath f p w) && s.pathGood f (legPath f w q)

/-- The network-select table of a READY site, with its waypoint where some entry needs one (R447). -/
def State.nstTable (s : State) (n : Nat) : SMap Nat × Option (Nat × Nat) :=
  let ready := fun (m : Nat) => siteExists m && decide ((s.siteAt m).bst = 5)
  let dsts := (List.range 484).filter ready
  let a := dsts.filter fun m => s.clean 0 n m none
  let rest := dsts.filter fun m => !a.contains m
  let b := rest.filter fun m => s.clean 1 n m none
  let pend := rest.filter fun m => !b.contains m
  let ways := [2, 0, 3, 1].filterMap fun e => (acrossEdge n e).bind fun k => if ready k then some (meshX k 0, meshY k 0) else none
  let w := if pend.isEmpty then none else ways.find? fun w => pend.all fun m => s.clean 0 n m (some w)
  let put := fun (e : Nat) (t : SMap Nat) (ms : List Nat) => ms.foldl (fun t m => mset 3 t m e) t
  let t := put 1 (put 0 [] a) b
  (match w with | some _ => put 2 t pend | none => t, w)

/-- The core whose slot 7 is a chiplet rider: core 0, or the lowest live one (R20). -/
def riderOf (live : BitVec 16) : Nat := ((List.range 16).find? fun c => live.getLsbD c).getD 0

/-- Cores of a compute site that are live after its clear. -/
def State.liveOf (s : State) (n : Nat) : BitVec 16 :=
  if (s.siteAt n).bst ≠ 5 then 0#16
  else (List.range 16).foldl (fun (v : BitVec 16) c =>
    let k := coreOf n c
    if (s.badOf n).any fun w => decide (slicePa k ≤ 8 * w) && decide (8 * w < slicePa k + sliceBytes k) then v else v ||| (1#16 <<< c)) 0#16

/-- Where the context image of a core's rider lies (R429). -/
def State.riderImage (s : State) (core : Nat) : Nat :=
  let k := s.riderCore (coreSite core)
  slicePa k + sliceBytes k - 0x2C000 + 0x800 * coreNum core

/-- The words of a rider's image that are not zero (R429). -/
def State.riderWords (s : State) (core entry : Nat) : List (Nat × Nat) :=
  let b := coreBasin core
  [(0, coreSite core + coreNum core * 2 ^ 9 + 7 * 2 ^ 13), (2, s.riderImage core), (4, (s.logicalId core).getD 0), (6, b), (128, entry), (133, 0x33),
    (134, 0x3F80), (135, 0x3F80), (137, 100000), (141, s.riderImage core)]

/-- A rider's image is written. -/
def State.writeRiderImage (s : State) (core entry : Nat) : State :=
  let img := s.riderImage core
  let m := s.mem.zero img 0x800
  let m := (List.range 256).foldl (fun (m : Memory) w => m.setFull (wordOf (img + 8 * w)) true) m
  { s with mem := (s.riderWords core entry).foldl (fun m e => m.write (img + 8 * e.1) e.2 0 8) m }

/-- The live cores of a basin in ascending physical index. -/
def State.liveCores (s : State) (b : Nat) : List Nat := (basinCores b).filter s.coreLive

/-- The fault ring of a compute site with a live core (R416, R448). -/
def State.makeFaultRing (s : State) (n : Nat) : State :=
  if (s.siteAt n).live = 0#16 then s
  else
    let k := s.riderCore n
    s.modQueue k 7 fun _ => { en := true, base := (sliceBytes k - 0x24000) / 64, size := 256 }

/-- The ditch-rider section of the image in a basin's memory, and the images of its riders (R429, R461). -/
def State.loadRiders (s : State) (b : Nat) : State :=
  let img := s.imageOf b
  let s := s.unitWrite (Config.fwLoad img b) (Config.fwSection img b)
  (s.liveCores b).foldl (fun s k => s.writeRiderImage k (Config.fwEntry img b)) s

/-- The clock of a basin at its grade entry: one that a step has left at another frequency goes on from its last edge. -/
def Basin.graded (v : Basin) (g : Nat) : Basin :=
  if v.m = g then { v with base := g, bmax := g } else { v with m := g, base := g, bmax := g, epoch := v.tick, edges := 0 }

/-- TABLES_PHASE: phase 3 of a basin starts one slot after phase 2 (R440, R447, R448). -/
def State.tablesPhase (s : State) (b : Nat) : State :=
  let t := s.phase1End + 4096
  if (s.basinAt b).phase ≠ 2 || !s.upTo t then s
  else
    let s : State := { s with time := max s.time t }
    let ns := (List.range 484).filter fun n => basinOf n == b && siteExists n && decide ((s.siteAt n).bst = 5)
    let s := ns.foldl (fun s n =>
      let t := s.nstTable n
      s.modSite n fun v => { v with nst := t.1, wx := (t.2.map Prod.fst).getD v.wx, wy := (t.2.map Prod.snd).getD v.wy }) s
    let s := (ns.filter isCompute).foldl (fun s n =>
      let l := s.liveOf n
      (s.modSite n fun v => { v with live := l, rider := riderOf l, gen := 0 }).makeFaultRing n) s
    let ks := (s.liveCores b).map physIndex
    let g := s.part.grade.getD b 17
    let s := s.modBasin b fun v => { v.graded g with bank0 := ks.length :: ks, gen := 0, pend := false, phase := 3 }
    s.loadRiders b

def execTablesPhase (b : Nat) (s : State) : Out := .next (s.tablesPhase b)

/-- The rider of a core starts from its image. -/
def State.startRider (s : State) (core : Nat) : State :=
  let old := s.slotAt core 7
  let sl := s.loadImage (s.riderImage core)
  let s := s.modCore core fun k => { k with gen := (s.basinAt (coreBasin core)).gen, lcid := (s.logicalId core).getD 0 }
  (s.setSlot core 7 { sl with seq := old.seq + 1, account := old.account, owner := old.owner }).settle core 7

/-- CORES_RELEASE: the cores of a basin leave reset. -/
def State.coresRelease (s : State) (b : Nat) : State :=
  if (s.basinAt b).phase ≠ 3 then s
  else
    let s := s.modBasin b fun v => { v with phase := 4, tdone := s.time }
    (s.liveCores b).foldl (fun s k => s.startRider k) s

def execCoresRelease (b : Nat) (s : State) : Out := .next (s.coresRelease b)

/-! ### The bring-up registers (Tables 15-3, 15-4) -/

def State.bringUpRead (s : State) (n k : Nat) : W64 :=
  let v := s.siteAt n
  match k with
  | 0 => w64 (v.bst + v.origin * 2 ^ 4 + v.hop % 64 * 2 ^ 16 + v.pedge * 2 ^ 24 + (siteKind n == .headgate).toNat * 2 ^ 26 + v.fcode * 2 ^ 32)
  | 1 => w64 v.dbm
  | 2 => w64 v.tcfg
  | 3 => w64 v.trdy
  | 4 => w64 v.nbad
  | _ => 0#64

def State.bandRead (s : State) (n k : Nat) : W64 :=
  let b := basinOf n
  let v := s.basinAt b
  let sites := (List.range 484).filter fun m => siteExists m && basinOf m == b
  match k with
  | 0 => w64 ((List.range 4).foldl (fun a i => a + s.part.grade.getD i 17 % 32 * 2 ^ (8 * i)) 0)
  | 1 => w64 (v.phase + (sites.filter fun m => (s.siteAt m).bst == 6).length * 2 ^ 16 +
      (if v.phase = 0 || v.phase = 5 then 0 else (sites.filter fun m => (s.siteAt m).bst == 0).length) * 2 ^ 32)
  | 2 => w64 v.tstart
  | 3 => w64 v.tdone
  | _ => 0#64

/-! ### The ring (R25 to R29) -/

/-- RPUB_WRITE: an accepted write publishes the inactive bank. -/
def State.rpubWrite (s : State) (b : Nat) (v : W64) : State :=
  let x := s.basinAt b
  if 4 ≤ b || x.pend || v.toNat ≠ (x.gen + 1) % 2 ^ 32 then s
  else (s.setBasin b { x with gen := (x.gen + 1) % 2 ^ 32, pend := true }).callPass b

def execRpubWrite (b : Nat) (v : W64) (s : State) : Out := s.taken (s.basinAnswers b) (s.rpubWrite b v)

/-- A write through the window of a bank: word k of it (R26). -/
def State.wbankWrite (s : State) (b n k : Nat) (v : W64) : State :=
  let x := s.basinAt b
  if x.pend || x.gen % 2 = n || 512 ≤ k then s
  else
    let put := fun (l : List Nat) =>
      let l := l ++ List.replicate (4 * k + 4 - l.length) 0
      (List.range 4).foldl (fun l i => lset l (4 * k + i) (bits v.toNat (16 * i + if 4 * k + i = 0 then 15 else 10) (16 * i))) l
    s.setBasin b (if n = 0 then { x with bank0 := put x.bank0 } else { x with bank1 := put x.bank1 })

def State.bankRead (s : State) (b n k : Nat) : W64 :=
  let x := s.basinAt b
  let l := if n = 0 then x.bank0 else x.bank1
  w64 ((List.range 4).foldl (fun a i => a + l.getD (4 * k + i) 0 % 65536 * 2 ^ (16 * i)) 0)

/-- Whether every core of a ring and every sluice unit of a basin has the generation in force: PEND then returns to 0. -/
def State.allAdopted (s : State) (b : Nat) : Bool :=
  ((s.liveCores b).all fun k => (s.coreAt k).gen == (s.basinAt b).gen) && (computeSites b).all fun n => (s.siteAt n).gen == (s.basinAt b).gen

/-- A core takes the generation in force between two commits, its route caches cleared (R430). One that has left the ring keeps its last ID. -/
def State.adoptCore (s : State) (core : Nat) : State :=
  let s := s.modCore core fun k => { k with gen := (s.basinAt (coreBasin core)).gen, lcid := (s.logicalId core).getD k.lcid }
  (List.range 8).foldl (fun s n => if (s.slotAt core n).busy then s.modSlot core n fun sl => { sl with route := List.replicate 8 0#64 } else s) s

/-- The route caches of the suspended continuations of a basin are cleared, in their images (R430). -/
def State.clearAwayRoutes (s : State) (b : Nat) : State :=
  (s.awayRecs b).foldl (fun s r => s.unitWrite ((r.getD 6 0#64).toNat + 0x480) (List.replicate 8 0#64)) s

/-- GENERATION_ADOPT: core c adopts the generation in force, or, for c from 8,192 on, the sluice unit of site c − 8,192; with the last one PEND returns
to 0. -/
def State.adopt (s : State) (c : Nat) : State :=
  let n := c - 8192
  let b := if c < 8192 then coreBasin c else basinOf n
  if !(s.basinAt b).pend || !(if c < 8192 then s.coreLive c else isCompute n) then s
  else
    let s := if c < 8192 then s.adoptCore c else (s.modSite n fun v => { v with gen := (s.basinAt b).gen }).callPass b
    if s.allAdopted b then (s.modBasin b fun v => { v with pend := false }).clearAwayRoutes b else s

def execGenerationAdopt (c : Nat) (s : State) : Out := .next (s.adopt c)

/-- RGEN (Table 1-4). -/
def State.rgenRead (s : State) (b : Nat) : W64 := let x := s.basinAt b; w64 (x.gen + x.pend.toNat * 2 ^ 63)

/-! ### Interleave descriptors and M chiplets (R213, R215, R216) -/

/-- INTERLEAVE_DESCRIPTOR_WRITE: a write at an offset of the descriptors of a basin. A valid one takes only a write of word 0 that clears VALID; what
waits in its region is then refused. An LSIZE that is no multiple of 0x1_0000 is kept as written (log entry 87). -/
def State.interleaveWrite (s : State) (b off : Nat) (v : W64) : State :=
  let d := off / 0x80
  let k := off % 0x80 / 8
  if 4 ≤ b || 16 ≤ d then s
  else
    let x := v.toNat
    let s := s.modBasin b fun q =>
      let i := mget q.interleave d {}
      let put := fun (i : Interleave) => { q with interleave := mput q.interleave d i }
      if i.valid then (if k = 0 && !v.getLsbD 0 then put { i with valid := false, div := bits x 5 1, lbase := bits x 47 16 } else q)
      else match k with
        | 0 => put { i with valid := bit x 0 && decide (1 ≤ bits x 5 1) && decide (bits x 5 1 ≤ 30), div := bits x 5 1, lbase := bits x 47 16 }
        | 1 => put { i with lsize := bits x 31 0 }
        | _ => put { i with mem := (List.range 4).foldl (fun m j =>
            let h := 4 * k + j - 8
            if h < 30 then mset 0 m h (bits x (16 * j + 8) (16 * j)) else m) i.mem }
    s.retestAll (s.waitWords fun q => decide (coreBasin q.core = b) && decide (q.rgn = some d) && (s.homeRefuses q).isSome)

def execInterleaveDescriptorWrite (b off : Nat) (v : W64) (s : State) : Out := s.taken (s.basinAnswers b) (s.interleaveWrite b off v)

def State.interleaveRead (s : State) (b off : Nat) : W64 :=
  let i := mget (s.basinAt b).interleave (off / 0x80) {}
  let k := off % 0x80 / 8
  match k with
  | 0 => w64 (i.valid.toNat + i.div * 2 + i.lbase * 2 ^ 16)
  | 1 => w64 i.lsize
  | _ => w64 ((List.range 4).foldl (fun a j => let h := 4 * k + j - 8; a + (if h < 30 then mget i.mem h 0 else 0) * 2 ^ (16 * j)) 0)

/-- M_CHIPLET_STATE_WRITE: a write of word 0 of an M-chiplet capability. What waits at a chiplet that retires is refused (R216). -/
def State.mStateWrite (s : State) (n : Nat) (v : W64) : State :=
  let e := bits v.toNat 1 0
  if siteKind n ≠ .memory || e = 3 || (s.siteAt n).mstate = 2 then s
  else
    let s := s.modSite n fun x => { x with mstate := e }
    s.retestAll (s.waitWords fun q => decide (paSite q.pa = n))

def execMChipletStateWrite (n : Nat) (v : W64) (s : State) : Out := s.taken (s.answers n) (s.mStateWrite n v)

end Sys2Proof.Machine
end

