-- ==== Sys2Proof/Machine/Edge.lean ====
section
/-! DEFINITION. The scale-up links, the power arbiter and the margin monitors, trace sessions and the replay port
(spec/16_edges_and_health.md R456 to R468). -/

namespace Sys2Proof.Machine

/-! ### Scale-up links: what arrives (R457) -/

/-- Flits of a number below another, mod 4,096, within the replay window of 512. -/
def seqBefore (a b : Nat) : Bool := decide (a ≠ b) && decide ((b + 4096 - a) % 4096 ≤ 512)

/-- Whether a slot is carried by some flit of the replay buffer (R458). -/
def LinkPort.klock (p : LinkPort) (k : Bool) : Bool := p.replay.any fun f => f.ks == k

/-- Whether the port passes flits now: it is up and no width change stops it. -/
def State.linkUp (s : State) (n : Nat) : Bool :=
  let p := s.linkAt n
  decide (n < 128) && p.en && decide (p.width ≠ 0) && decide (p.stopTo ≤ s.time)

/-- The unsent messages of a link that goes down come back undeliverable (R332, R460): a culvert takes the copy engine's memory fault, a queue send
0x71. -/
def State.peerUnsent (s : State) (m : PeerMsg) : State :=
  match m.vc with
  | 3 =>
    match (s.copyAt m.core).active.find? fun e => e.2.cmd.id = m.cmd with
    | some e => s.copyFault e.2 0x52 0x31 (if m.flag then e.2.cmd.culvFlag else e.2.cmd.culvDst) e.2.stage false
    | none => s
  | 2 =>
    match s.qmsgs.find? fun q => decide (q.id = m.cmd) with
    | some q => (s.dropMsg q.id).msgFail q 0x71
    | none => s
  | _ => s

/-- The place of a scale-up port, under which a peer module owns lines. -/
def portCore (n : Nat) : Nat := coreOf (portSite n) (n % 2)

/-- An ownership request of a peer module reaches the home of its line (R131, R283). -/
def State.peerOwns (s : State) (n a : Nat) : State :=
  let pa := s.redirect (a % 2 ^ 48)
  match s.place (basinOf (paSite pa)) pa with
  | .refused _ => s
  | .config _ _ => s
  | _ => { s.bump with owned := s.owned ++ [{ line := lineOf pa, cmd := s.nextId, core := portCore n, arr := s.nextId }] }

/-- A peer module's port gives up the lines it owns for which it holds, or the oldest of them at one line. -/
def State.peerYields (s : State) (n : Nat) (p : Own → Bool) : State :=
  let mine := (s.owned.filter fun o => decide (o.core = portCore n) && p o).map Own.cmd
  ({ s with owned := s.owned.filter fun o => !mine.contains o.cmd } : State).retestAll
    (lineWords ((s.owned.filter fun o => mine.contains o.cmd).map Own.line))

/-- The entry of a line that a peer module's port owns or asks to own first. -/
def State.peerOwn (s : State) (n line : Nat) : Option Own := s.owned.find? fun o => decide (o.line = line) && decide (o.core = portCore n)

/-- The queue messages that a link has sent and that await an answer are lost with it: they are never counted delivered (R347, R460; log entry 96). -/
def State.peerLost (s : State) (n : Nat) : State :=
  let gone := (s.peerOut.filter fun m => decide (m.port = n) && decide (m.vc = 2)).map PeerMsg.id
  { s with
    qmsgs := s.qmsgs.map fun m => if m.st = .away ∧ gone.contains m.id then { m with st := .lost } else m
    peerOut := s.peerOut.filter fun m => decide (m.port ≠ n) }

/-- A link goes down (R460): the flits in its replay buffer are lost, what was not sent comes back, the lines that its peers own are given up, EN is cleared
and notice 0xB5 raised. -/
def State.linkDown (s : State) (n : Nat) : State :=
  let back := (s.linkAt n).waiting.filter fun m => !m.begun
  let s := s.modLink n fun p =>
    { p with
      en := false, width := 0, replay := [], waiting := [], txSeq := 0, rxSeq := 0, tw := none, stopTo := 0, lost := false, training := false
      part := [], nakRun := 0, rxNak := 0 }
  (((back.foldl (fun s m => s.peerUnsent m) s).peerLost n).peerYields n fun _ => true).healthPkt (basinOf (portSite n)) 0xB5 n

/-- An acknowledged sequence number frees the flits up to it, and what waits is sent. -/
def State.linkAck (s : State) (n q : Nat) : State :=
  s.modLink n fun p =>
    let p := { p with replay := p.replay.filter fun f => !(decide (f.seq = q) || seqBefore f.seq q), nakRun := 0 }
    p.pump

/-- LINK_ACK_RECEIVE. -/
def execLinkAckReceive (n q : Nat) (s : State) : Out :=
  .next (if s.linkUp n && (s.linkAt n).replay.any (fun f => decide (f.seq = q)) then s.linkAck n q else s)

/-- What stands in the replay buffer goes on the link again, in order and unchanged but for the acknowledgement. -/
def LinkPort.resend (p : LinkPort) : LinkPort := { p with out := p.out ++ p.replay.map p.wire }

/-- LINK_NAK_RECEIVE: the flits before the one named are acknowledged, and the rest are sent again unchanged; eight in a row for one SEQ take the
link down. -/
def State.linkNak (s : State) (n q : Nat) : State :=
  let p := s.linkAt n
  if !p.replay.any fun f => decide (f.seq = q) then s
  else
    let run := if p.nakSeq = q && p.nakRun ≠ 0 then p.nakRun + 1 else 1
    let s := s.modLink n fun p =>
      LinkPort.resend { p with
        replay := p.replay.filter fun f => !seqBefore f.seq q
        nakr := min (p.nakr + 1) (2 ^ 32 - 1)
        nakSeq := q, nakRun := run }
    if 8 ≤ run then s.linkDown n else s.modLink n LinkPort.pump

def execLinkNakReceive (n q : Nat) (s : State) : Out := .next (if s.linkUp n then s.linkNak n q else s)

/-- The core whose mesh coordinates a flit header gives at a bit. -/
def flitCore (h at_ : Nat) : Nat :=
  let x := bits h (at_ + 6) at_
  let y := bits h (at_ + 13) (at_ + 7)
  coreOf (siteAtXY (x / 4) (y / 4)) (4 * (y % 4) + x % 4)

/-- A queue message of a peer module as its flits give it; it comes from the port's place. -/
def peerQMsg (id n : Nat) (flits : List (List W64)) : QMsg :=
  let h := ((flits.headD []).headD 0#64).toNat
  let ws := flits.flatMap fun f => f.drop 1
  let w := fun (k : Nat) => (ws.getD k 0#64).toNat
  { id := id, core := coreOf (portSite n) 0, slot := 8 + n % 2, seq := 0, lsid := 0, ix := 127, wid := 0#64
    vc := w64 (bits (w 1) 31 0), dest := flitCore h 0, qn := bits (w 0) 22 20, nanm := bit (w 0) 16, typed := bit (w 0) 17, vec := bit (w 0) 18
    peerf := true, smod := bits (w 1) 47 32, info := 0#64, head := BitVec.ofNat 128 (w 2 + w 3 * 2 ^ 64)
    len := bits (w 0) 41 32, body := (ws.drop 8).take (bits (w 0) 41 32 / 8), st := .sent
    sender := some (coreOf (bits (w 0) 8 0) (bits (w 0) 12 9), bits (w 0) 15 13) }

/-- A culvert write of a peer module at its home: none while another unit owns the line, before the peer's own request or without one, or a word of it is
reserved; else it performs, gives up the line, or is refused, and is answered (R289, R290). -/
def State.peerCulvert (s : State) (n : Nat) (flits : List (List W64)) : Option State :=
  let h := ((flits.headD []).headD 0#64).toNat
  let w := Config.peerWrite flits.flatten
  let pa := s.redirect (w.1 % 2 ^ 48 / 64 * 64)
  let lw : LineWrite :=
    { va := pa, line := lineOf pa, data := w.2.1 % 2 ^ 512, mask := w.2.2.1 % 2 ^ 64, fe := if w.2.2.2 = 1 then some true else if w.2.2.2 = 2 then some false else none }
  let answer := fun (s : State) (c : Nat) => s.bump.peerAnswer n (flitCore h 32) (flitCore h 0) s.nextId c
  match s.place (basinOf (paSite pa)) pa with
  | .refused c => some (answer s c)
  | .config _ _ => some (answer s 0x31)
  | _ =>
    if s.inSump (basinOf (paSite pa)) pa then some (answer s 0x31) else
    let mine := s.peerOwn n lw.line
    if (s.owned.any fun o => decide (o.line = lw.line) && match mine with | some m => decide (o.arr < m.arr) | none => true) || s.resv.any fun e => decide (e.1 / 8 = lw.line) then none
    else match s.lineRefused lw with
      | some c => some (answer (s.peerYields n fun o => decide (some o = mine)) c)
      | none => some (answer (((s.putLine lw).peerYields n fun o => decide (some o = mine)).retestAll (lineWords [lw.line])) 0)

/-- The answer of a peer module to a message of this one. -/
def State.peerAnswered (s : State) (n : Nat) (flits : List (List W64)) : State :=
  let a := Config.peerAnswer flits.flatten
  match s.peerOut.find? fun m => decide (m.id = a.1) && decide (m.port = n) with
  | none => s
  | some m =>
    let s := { s with peerOut := s.peerOut.filter fun x => decide (x.id ≠ a.1) }
    match m.vc with
    | 3 =>
      if a.2 = 0 then s.culvertAcked m.core m.cmd m.id
      else match (s.copyAt m.core).active.find? fun e => e.2.cmd.id = m.cmd with
        | some e => s.copyFault e.2 0x56 a.2 (if m.flag then e.2.cmd.culvFlag else e.2.cmd.culvDst) e.2.stage false
        | none => s
    | _ => if a.2 = 0 then s else s.modMsg m.cmd fun q => { q with st := .refused }

/-- A whole message has arrived; none while its write cannot perform, or the interface of the port with its basin relocks (R459). -/
def State.peerMessage (s : State) (n vc : Nat) (flits : List (List W64)) : Option State :=
  if s.portHeld (meshAt (portCore n)) then none
  else match vc with
  | 1 => some (s.peerAnswered n flits)
  | 2 => some { s.bump with qmsgs := s.qmsgs ++ [peerQMsg s.nextId n flits] }
  | 3 => match Config.peerAsks flits.flatten with
    | some a => some (s.peerOwns n a)
    | none => s.peerCulvert n flits
  | _ => some s

/-- The channel a clear flit travels on. -/
def flitVc (f : List W64) : Nat := bits (f.headD 0#64).toNat 16 14

/-- LINK_FLIT_RECEIVE: the next flit is decrypted under the slot its KS names and checked; it is accepted, or answered with NAK and the
expected SEQ. Any other flit is not accepted. -/
def State.linkFlit (s : State) (n : Nat) (fl : LinkFlit) : State :=
  let p := s.linkAt n
  if fl.seq.toNat ≠ p.rxSeq then s
  else
    let key := if fl.ks then p.key1 else p.key0
    let salt := w64 (if fl.ks then p.salt1 else p.salt0)
    let ctr := if fl.ks then p.rx1 else p.rx0
    let f := Config.linkDecrypt key salt ctr fl.words
    if Config.linkCrc f ≠ fl.crc || Config.linkTag key salt ctr fl.words ≠ fl.tag then
      let s := s.modLink n fun p => { p with rxNak := p.rxNak + 1, naksOut := p.naksOut ++ [p.rxSeq] }
      if 8 ≤ p.rxNak + 1 then s.linkDown n else s
    else
      let vc := flitVc f
      let mine := p.part.filter (fun g => flitVc g == vc) ++ [f]
      let last := bits (f.headD 0#64).toNat 53 50 + 1 ≥ bits (f.headD 0#64).toNat 49 46
      let next := fun (s : State) =>
        let s := s.modLink n fun p =>
          { p with
            rxSeq := (p.rxSeq + 1) % 4096, rxNak := 0
            rx0 := if fl.ks then p.rx0 else p.rx0 + 1
            rx1 := if fl.ks then p.rx1 + 1 else p.rx1
            part := if last then p.part.filter fun g => !(flitVc g == vc) else p.part ++ [f] }
        if fl.nak then s.linkNak n fl.ack.toNat
        else if (s.linkAt n).replay.any (fun g => decide (g.seq = fl.ack.toNat)) then s.linkAck n fl.ack.toNat
        else s
      if !last then next s
      else match s.peerMessage n vc mine with
        | none => s
        | some s => next s

def execLinkFlitReceive (n : Nat) (fl : LinkFlit) (s : State) : Out := .next (if s.linkUp n then s.linkFlit n fl else s)

/-! ### Keys, width and training (R458 to R460) -/

/-- KEY_SLOT_WRITE: word k of the registers of port n, from KEY0 on; a slot in use keeps its key. -/
def State.keyWrite (s : State) (n k : Nat) (v : W64) : State :=
  let p := s.linkAt n
  let slot : Bool := decide (4 ≤ k)
  let s := if k = 6 then s.modLink n fun p => { p with nakr := Nat.land p.nakr (2 ^ 32 - 1 - bits v.toNat 63 32) } else s
  if 128 ≤ n || p.txks == slot || p.klock slot then s
  else s.modLink n fun p => match k with
    | 1 => { p with key0 := lset p.key0 0 v, tx0 := 0, rx0 := 0 }
    | 2 => { p with key0 := lset p.key0 1 v, tx0 := 0, rx0 := 0 }
    | 3 => { p with salt0 := bits v.toNat 31 0, tx0 := 0, rx0 := 0 }
    | 4 => { p with key1 := lset p.key1 0 v, tx1 := 0, rx1 := 0 }
    | 5 => { p with key1 := lset p.key1 1 v, tx1 := 0, rx1 := 0 }
    | 6 => { p with salt1 := bits v.toNat 31 0, tx1 := 0, rx1 := 0 }
    | _ => p

def execKeySlotWrite (n k : Nat) (v : W64) (s : State) : Out := s.taken (s.answers (portSite n)) (s.keyWrite n k v)

/-- TXKS_WRITE. -/
def State.txksWrite (s : State) (n : Nat) (v : W64) : State :=
  if 128 ≤ n then s else s.modLink n fun p => { p with txks := v.getLsbD 0 }

def execTxksWrite (n : Nat) (v : W64) (s : State) : Out := s.taken (s.answers (portSite n)) (s.txksWrite n v)

/-- A width is asked for, and the pending step of the basin gives way (R459). -/
def State.askWidth (s : State) (n w : Nat) : State :=
  let p := s.linkAt n
  let now := if p.tw.isSome then p.twWidth else p.width
  if p.width = 0 || now = w then s
  else (s.modLink n fun p => { p with tw := some (syncCount (s.time + 4096)), twWidth := w }).shiftStep (basinOf (portSite n))

/-- WREQ_WRITE: 1 asks for one lane, 0 for two; a port that has lost a lane has one. -/
def State.wreqWrite (s : State) (n : Nat) (v : W64) : State :=
  if 128 ≤ n then s
  else
    let one := v.getLsbD 0 || (s.linkAt n).lost
    (s.modLink n fun p => { p with wreq := v.getLsbD 0 }).askWidth n (if one then 1 else 2)

def execWreqWrite (n : Nat) (v : W64) (s : State) : Out := s.taken (s.answers (portSite n)) (s.wreqWrite n v)

/-- WIDTH_CHANGE: at Tw the link changes width and stops until Tw + 512 ns. -/
def State.widthChange (s : State) (n : Nat) : State :=
  let p := s.linkAt n
  match p.tw with
  | none => s
  | some t =>
    if !s.upTo t then s else
    let s := s.modLink n fun p => { p with width := p.twWidth, tw := none, stopTo := t + 512 }
    ({ s with time := max s.time t } : State).healthPkt (basinOf (portSite n)) 0xB4 (n + p.twWidth * 2 ^ 8)

def execWidthChange (n : Nat) (s : State) : Out := .next (s.widthChange n)

/-- LANE_LOCK_LOSS: the first lane lost leaves one; the second takes the link down. -/
def State.laneLoss (s : State) (n : Nat) : State :=
  let p := s.linkAt n
  if 128 ≤ n || p.width = 0 then s
  else if p.lost then s.linkDown n
  else (s.modLink n fun p => { p with lost := true }).askWidth n 1

def execLaneLockLoss (n : Nat) (s : State) : Out := .next (s.laneLoss n)

/-- PORT_EN_WRITE: a write of 1 trains the link, a write of 0 takes it down. -/
def State.portEn (s : State) (n : Nat) (v : W64) : State :=
  let p := s.linkAt n
  if 128 ≤ n || v.getLsbD 0 == p.en then s
  else if v.getLsbD 0 then s.modLink n fun p => { p with en := true, training := true }
  else s.linkDown n

def execPortEnWrite (n : Nat) (v : W64) (s : State) : Out := s.taken (s.answers (portSite n)) (s.portEn n v)

/-- LINK_TRAINING_DONE: the link comes up with two lanes or one, and learns the peer's module number. -/
def State.trained (s : State) (n : Nat) (two : Bool) (k : Nat) : State :=
  let p := s.linkAt n
  if !p.training then s
  else s.modLink n fun p =>
    let p := { p with training := false, width := if two then 2 else 1, lost := !two, rmod := k % 65536 }
    p.pump

def execLinkTrainingDone (n : Nat) (w : Bool) (k : Nat) (s : State) : Out := .next (s.trained n w k)

/-- The registers of a port (Table 16-4). -/
def State.linkRead (s : State) (n k : Nat) : W64 :=
  let p := s.linkAt n
  match k with
  | 0 => w64 (p.en.toNat + p.width * 2 + p.wreq.toNat * 2 ^ 3 + p.txks.toNat * 2 ^ 4 + (p.klock false).toNat * 2 ^ 5 + (p.klock true).toNat * 2 ^ 6)
  | 6 => w64 (p.nakr * 2 ^ 32)
  | 7 => w64 p.rmod
  | _ => 0#64

/-- A write of a whole register of a port. -/
def State.linkWrite (s : State) (n k : Nat) (v : W64) : State :=
  match k with
  | 0 => ((s.txksWrite n (v >>> 4)).wreqWrite n (v >>> 3)).portEn n v
  | 7 => s
  | _ => s.keyWrite n k v

/-! ### The power arbiter and the margin monitors (R462, R463) -/

/-- The basin with the greatest clock, the later one first among equals. -/
def State.fastest (s : State) : Option Nat :=
  ((List.range 4).filter fun b => (s.basinAt b).on).foldl (fun a b => match a with
    | none => some b
    | some c => if (s.basinAt c).m ≤ (s.basinAt b).m then some b else some c) none

/-- Of the basins the arbiter has stepped down, the one with the least clock, the earlier one first among equals. -/
def State.slowest (s : State) : Option Nat :=
  ((List.range 4).filter fun b => s.pdown.contains b).foldl (fun a b => match a with
    | none => some b
    | some c => if (s.basinAt b).m < (s.basinAt c).m then some b else some c) none

/-- The arbiter asks for a step. -/
def State.powerAsk (s : State) (b m : Nat) : State := { s.askStep (gatePos b) b m 0 .power with pbusy := some b }

/-- A step to BMAX that a margin asked for while another request was pending: the first basin that still needs it (R462, R463). -/
def State.powerLower (s : State) : Option Nat := s.plower.find? fun b => decide ((s.basinAt b).bmax < (s.basinAt b).m)

/-- POWER_WINDOW: a 64 µs window closes with an average of a units of 10 W. -/
def State.powerWindow (s : State) (a : Nat) : State :=
  if s.time < (s.pwin + 1) * 64000 then s
  else
    let s := { s with pavg := a % 65536, pwin := s.pwin + 1 }
    if s.pbusy.isSome || s.time < s.pdue then s
    else if let some b := s.powerLower then { s with plower := s.plower.erase b }.powerAsk b (s.basinAt b).bmax
    else if s.plim * 100 < s.pavg * 10 then
      match s.fastest with
      | some b => s.powerAsk b ((s.basinAt b).m - 1)
      | none => s
    else if s.pavg * 10 + 1000 < s.plim * 100 then
      match s.slowest with
      | some b => s.powerAsk b ((s.basinAt b).m + 1)
      | none => s
    else s

def execPowerWindow (a : Nat) (s : State) : Out := .next (s.powerWindow a)

/-- MARGIN_SAMPLE: the least slack of a basin, once a millisecond; 1,024 low samples in a row lower BMAX. -/
def State.marginSample (s : State) (b a : Nat) : State :=
  let v := s.basinAt b
  if 4 ≤ b || s.time < (v.msamp + 1) * 1000000 then s
  else
    let a := min a 63
    let row := if a < v.mthr then v.mrow + 1 else 0
    let v := { v with mmin := a, mrow := row % 1024, msamp := v.msamp + 1 }
    if row < 1024 || v.bmax ≤ 8 then s.setBasin b v
    else
      let v := { v with bmax := v.bmax - 1, nrpl := min (v.nrpl + 1) 65535 }
      let s := (s.setBasin b v).healthPkt b 0xB2 (b + v.bmax * 2 ^ 8)
      if v.m ≤ v.bmax then s
      else if s.pbusy.isSome || decide (s.time < s.pdue) then { s with plower := s.plower.erase b ++ [b] }
      else s.powerAsk b v.bmax

def execMarginSample (b a : Nat) (s : State) : Out := .next (s.marginSample b a)

/-- Capability 0x08 of a headgate of basin b. -/
def State.arbiterRead (s : State) (b k : Nat) : W64 :=
  let v := s.basinAt b
  match k with
  | 0 => w64 s.mymod
  | 1 => w64 (s.plim + s.pavg * 2 ^ 16)
  | 2 => w64 (v.mthr + v.mmin * 2 ^ 8 + v.nrpl * 2 ^ 16)
  | _ => 0#64

def State.arbiterWrite (s : State) (b k : Nat) (v : W64) : State :=
  match k with
  | 0 => { s with mymod := bits v.toNat 15 0 }
  | 1 => { s with plim := min 220 (max 140 (bits v.toNat 7 0)) }
  | 2 => s.modBasin b fun x => { x with mthr := bits v.toNat 5 0 }
  | _ => s

/-- An entry of the peer table of a basin (R456). -/
def State.peerRead (s : State) (b m : Nat) : W64 := w64 (mget (s.basinAt b).peers m 0)
def State.peerWrite (s : State) (b m : Nat) (v : W64) : State :=
  s.modBasin b fun x => { x with peers := mset 0 x.peers m (bits v.toNat 6 0 + (v.getLsbD 15).toNat * 2 ^ 15) }

/-! ### Trace sessions (R465) -/

/-- TRACE_SESSION_WRITE: word k of session n; an open session keeps its source, buffer and size. -/
def State.traceSession (s : State) (b n k : Nat) (v : W64) : State :=
  if 4 ≤ b || 4 ≤ n then s
  else
    let t := mget (s.basinAt b).traces n {}
    let x := v.toNat
    let put := fun (t : TraceSession) => s.modBasin b fun q => { q with traces := mput q.traces n t }
    match k with
    | 0 =>
      let t' : TraceSession :=
        { t with
          src := if t.en then t.src else bits x 3 1
          snum := bits x 11 4, site := bits x 20 12, core := bits x 24 21 }
      if !bit x 0 then put { t' with en := false }
      else if 4 < t'.src then put t'
      else if t.en then put { t' with head := 0, tail := 0 }
      else put { t' with en := true, head := 0, tail := 0, count := 0, owed := [] }
    | 1 => if t.en then s else put { t with buf := bits x 47 0 }
    | 2 => if t.en then s else put { t with size := bits x 31 0 }
    | 3 => (put { t with head := bits x 31 0 }).traceOwed b n
    | _ => s

def execTraceSessionWrite (b n k : Nat) (v : W64) (s : State) : Out := s.taken (s.basinAnswers b) (s.traceSession b n k v)

def State.traceRead (s : State) (b n k : Nat) : W64 :=
  let t := mget (s.basinAt b).traces n {}
  match k with
  | 0 => w64 (t.en.toNat + t.src * 2 + t.snum * 2 ^ 4 + t.site * 2 ^ 12 + t.core * 2 ^ 21)
  | 1 => w64 t.buf
  | 2 => w64 t.size
  | 3 => w64 (t.head + t.tail * 2 ^ 32)
  | 4 => w64 t.drops
  | _ => 0#64

/-! ### The replay port (R468) -/

/-- Whether the engine a command goes to is idle, with its intake and queue empty. -/
def State.engineEmpty (s : State) (core : Nat) : EngineId → Bool
  | .matrix =>
    let m := s.matAt core
    m.intake.isEmpty && m.tasks.isEmpty && m.load.isNone && m.stream.isNone && m.task.isNone
  | .copy => let m := s.copyAt core; m.intake.isEmpty && m.tasks.isEmpty && m.active.isEmpty
  | .hyper => let m := s.hvAt core; m.intake.isEmpty && m.run.isNone

/-- REPLAY_GO: the command of a traced entry runs as a task with no issuing thread; a write that finds the core in use, or no such entry, is
ignored with CAUSE 0x01. A command whose tag has no room in its count waits for it (R268), and the event comes again. -/
def State.replayGo (s : State) (core : Nat) : State :=
  let k := s.coreAt core
  let r := k.replay
  let ws := s.memWords r.ent 16
  let no := s.setCore core { k with replay := { r with cause := 1 } }
  let sp : Space := ⟨core, false, r.asn, r.root, 0⟩
  if !s.coreLive core then s
  else if (r.busy && !r.held) || k.owner.isSome || (List.range 7).any (fun n => (s.slotAt core n).busy) || bits (ws.getD 0 0#64).toNat 3 0 ≠ 2 then no
  else match s.cmdOfEntry core sp (ws.drop 8) with
    | none => no
    | some c =>
      let run := fun (held : Bool) => s.setCore core { k with replay := { r with cause := 0, done := false, busy := true, fvalid := false, held := held } }
      if !s.engineEmpty core c.kind.engine then no
      else if !s.tagRoom core [c.tag] then run true
      else
        let s := run false
        ((s.bump.pushIntake { c with id := s.nextId, slot := 8, rp := true }).tagUp core c.tag).ungate core

def execReplayGo (c : Nat) (s : State) : Out := .next (s.replayGo c)

def State.replayRead (s : State) (core k : Nat) : W64 :=
  let r := (s.coreAt core).replay
  match k with
  | 0 => w64 (r.ent + r.done.toNat * 2 ^ 49 + r.busy.toNat * 2 ^ 50 + r.cause * 2 ^ 56)
  | 1 => w64 (r.root + r.asn * 2 ^ 48)
  | 2 => r.fillv
  | 3 => w64 r.fvalid.toNat
  | _ => 0#64

def State.replayWrite (s : State) (core k : Nat) (v : W64) : State :=
  let put := fun (f : ReplayPort → ReplayPort) => s.modCore core fun c => { c with replay := f c.replay }
  match k with
  | 0 =>
    let s := put fun r => { r with ent := bits v.toNat 47 0 }
    if !v.getLsbD 48 then s else if (s.coreAt core).replay.busy then put fun r => { r with cause := 1 } else s.replayGo core
  | 1 => put fun r => { r with root := bits v.toNat 47 0, asn := bits v.toNat 63 48 }
  | _ => s

end Sys2Proof.Machine
end

