-- ==== Sys2Proof/Machine/Cfg.lean ====
section
/-! DEFINITION. Reads and writes of configuration space (spec/01_organisation.md R44 to R46; spec/07_slice_engine.md R203;
spec/15_headgates.md R438, R439, R444). The registers of a basin answer at both of its headgates. -/

namespace Sys2Proof.Machine

/-- TYPE and, for a compute site, KINDC (Tables 1-9, 1-11). -/
def siteType (n : Nat) : Nat :=
  match siteKind n with
  | .prompt => 1 | .token => 2 | .memory => 3 | .scaleLink => 4 | .hostLink => 5 | .headgate => 6 | _ => 0

/-- The header word of a capability (R45); every one has version 1 (log entry 13). -/
def capHeader (n off : Nat) : W64 :=
  let cs := capsOf n
  match cs.find? fun c => c.1 == off with
  | none => 0#64
  | some c =>
    let next := ((cs.find? fun d => decide (off < d.1)).map Prod.fst).getD 0
    w64 (c.2.1 + 2 ^ 8 + next * 2 ^ 16 + 8 * c.2.2 * 2 ^ 32)

/-- A W1C write of a counter. -/
def w1c (old v : Nat) : Nat := old - Nat.land old v

/-- The words of a receive queue descriptor (Table 11-4). -/
def RecvQ.word (q : RecvQ) (k : Nat) : W64 :=
  match k with
  | 0 => w64 (q.en.toNat + q.base * 2 ^ 6 + q.size * 2 ^ 32)
  | 1 => w64 (q.head + q.tail * 2 ^ 16 + q.count * 2 ^ 32)
  | 2 => w64 q.nfull
  | _ => 0#64

/-- The words of the network-select body (Table 11-3). -/
def Site.nstWord (v : Site) (k : Nat) : W64 :=
  if k = 0 then w64 (v.wx + v.wy * 2 ^ 8)
  else if k ≤ 16 then w64 ((List.range 32).foldl (fun a j => a + mget v.nst (32 * (k - 1) + j) 3 * 4 ^ j) 0)
  else w64 (!v.marks.isEmpty).toNat

/-- The words of a leat port's capability (Table 16-3). -/
def State.leatWord (s : State) (n k : Nat) : W64 :=
  let p := s.leatAt n
  match k with
  | 0 => w64 (p.en.toNat + p.mode.toNat * 2 + p.link.toNat * 4)
  | 1 => w64 (mget s.part.mac n 0 % 2 ^ 48)
  | 2 => p.ipv6lo
  | 3 => p.ipv6hi
  | 4 => w64 (p.expseq + p.naks * 2 ^ 32)
  | 5 => p.hbase
  | 6 => w64 (p.badf + p.dups * 2 ^ 32)
  | _ => 0#64

/-- The group as whose virtual core the hypervector status of a core is read: the reader's where it is folded there, else the last user's (R320). -/
def State.hvReader (s : State) (core : Nat) (g : Option Group) : Group :=
  match g.filter (s.coreAt core).members.contains with
  | some g => g
  | none => (s.hvAt core).user.getD ((s.coreAt core).owner.getD ⟨0, 0⟩)

/-- The value of a register as a supervisor reads it; `g` is the group of a thread that reads. RPUB holds no value that the spec gives: it reads as zero
(log entry 86). -/
def State.regRead (s : State) (n : Nat) (r : Reg) (g : Option Group := none) : W64 :=
  let b := basinOf n
  match r with
  | .header => w64 (0x4C44 + siteType n * 2 ^ 16 + mget s.part.rev n 0 % 16 * 2 ^ 20 + n * 2 ^ 24 + ((capsOf n).headD (0, 0, 0)).1 * 2 ^ 48)
  | .capHead off => capHeader n off
  | .compute => w64 ((s.siteAt n).live.toNat + (s.siteAt n).rider * 2 ^ 16 + siteType n * 2 ^ 20)
  | .mchip k => let v := s.siteAt n; (match k with | 0 => w64 (v.mstate + 384 * 2 ^ 16) | 1 => w64 (v.ce + v.ue * 2 ^ 32) | _ => w64 v.ulast)
  | .nst k => (s.siteAt n).nstWord k
  | .ringCap => w64 (0x10000 + nmaxOf b * 2 ^ 32 + b * 2 ^ 48)
  | .band k => s.bandRead n k
  | .leat k => s.leatWord n k
  | .link port k => s.linkRead port k
  | .arbiter k => s.arbiterRead b k
  | .bringUp k => s.bringUpRead n k
  | .account core slot k => mget (s.slotAt core slot).account k 0#64
  | .sliceErr core k => let v := s.coreAt core; (match k with | 0 => w64 (v.ce + v.ue * 2 ^ 32) | 1 => w64 v.ulast | _ => 0#64)
  | .mat core k => s.matCtlWord core k
  | .copy core k => s.copyCtlWord core k
  | .hv core k => s.hvCtlWord core k (s.hvReader core g)
  | .queue core q k => (s.queueAt core q).word k
  | .siteSluice k => s.siteSluiceRead n k
  | .migr core k => s.migrRead core k
  | .replay core k => s.replayRead core k
  | .slotCtl core slot => s.slotCtlRead core slot
  | .mirror core slot w => s.mirrorRead core slot w
  | .sump off => (match s.sumpPa n with | some a => w64 (s.mem.read (a + off) 8) | none => 0#64)
  | .rgen => s.rgenRead b
  | .rpub => 0#64
  | .bank i k => s.bankRead b i k
  | .wbank i k => s.bankRead b i k
  | .interleave off => s.interleaveRead b off
  | .cell k => s.cellRead b k
  | .clock k => s.clockRead b k
  | .ditch d k => s.ditchRead b d k
  | .sluice k => s.sluiceRead b k
  | .save k => if k = 1 then w64 (s.basinAt b).savePool.length else 0#64
  | .trace i k => s.traceRead b i k
  | .peer m => s.peerRead b m

/-- A write of a leat port's capability. -/
def State.leatCfg (s : State) (n k : Nat) (v : W64) : State :=
  s.modLeat n fun p => match k with
    | 0 => { p with en := v.getLsbD 0, mode := v.getLsbD 1 }
    | 2 => { p with ipv6lo := v }
    | 3 => { p with ipv6hi := v }
    | 4 => if p.en then p else { p with expseq := bits v.toNat 31 0 }
    | 5 => { p with hbase := v }
    | 6 => { p with badf := w1c p.badf (bits v.toNat 31 0), dups := w1c p.dups (bits v.toNat 63 32) }
    | _ => p

/-- A write of the sluice control of a basin. -/
def State.sluiceWrite (s : State) (b k : Nat) (v : W64) : State :=
  match k with
  | 1 => s.addSeg b (bits v.toNat 47 0)
  | 2 => s.modBasin b fun x => { x with resv := bits v.toNat 47 32 }
  | 3 => s.addImg b (bits v.toNat 47 0)
  | 5 => s.holdWrite b v
  | n => if 9 ≤ n then s.regionWrite b (n - 8) v else s

/-- A write of a register with supervisor rights, from a core or from outside the basin's cores. -/
def State.regWrite (s : State) (n : Nat) (r : Reg) (v : W64) (src : Option Nat := none) : State :=
  let b := basinOf n
  let x := v.toNat
  match r with
  | .mchip k =>
    (match k with
    | 0 => s.mStateWrite n v
    | 1 => s.modSite n fun w => { w with ce := w1c w.ce (bits x 31 0), ue := w1c w.ue (bits x 63 32) }
    | _ => s)
  | .nst k => s.nstWrite n k v
  | .leat k => s.leatCfg n k v
  | .link port k => s.linkWrite port k v
  | .arbiter k => s.arbiterWrite b k v
  | .bringUp k => if k = 1 then s.modSite n fun w => { w with dbm := Nat.lor (bits x 31 0) (borderDead n) } else s
  | .account core slot k => s.modSlot core slot fun w => { w with account := mset 0#64 w.account k v }
  | .sliceErr core k => if k = 0 then s.modCore core fun w => { w with ce := w1c w.ce (bits x 31 0), ue := w1c w.ue (bits x 63 32) } else s
  | .mat core k =>
    if k ≠ 0 then s else if bit x 18 then s.matFlush core else if bit x 17 then s.matSkip core else if bit x 16 then s.matRetry core else s
  | .copy core k =>
    if k ≠ 0 then s
    else
      let s := s.setCopy core { (s.copyAt core) with clim := max 10 (min (bits x 29 0) 1000000) }
      if bit x 30 then s.copyFclr core else s
  | .queue core q k =>
    (match k with
    | 0 => s.queueEnWrite core q v
    | 2 => s.modQueue core q fun d => { d with nfull := w1c d.nfull (bits x 31 0) }
    | 3 =>
      let s := if bit x 0 then s.queueDisc core q else s
      if bit x 1 then s.queueReset core q else s
    | _ => s)
  | .siteSluice k => if k = 0 then s.modSite n fun w => { w with hditch := bits x 7 0 } else s
  | .migr core k => if k = 0 && !bit x 0 then s.rdirClear core else s
  | .replay core k => s.replayWrite core k v
  | .slotCtl core slot => s.slotCtlWrite core slot v
  | .mirror core slot w => s.mirrorWrite core slot w v src
  | .sump off => s.sumpWrite n off v
  | .rpub => s.rpubWrite b v
  | .wbank i k => s.wbankWrite b i k v
  | .interleave off => s.interleaveWrite b off v
  | .cell k => s.cellWrite b k v
  | .clock k =>
    (match k with
    | 0 => s.modBasin b fun w => { w with bmax := max 8 (min (bits x 20 16) (s.part.grade.getD b 17)) }
    | 5 => s.modBasin b fun w => { w with sreq := w64 (bits x 12 0) }
    | 6 => s.stsWrite b v
    | _ => s)
  | .ditch d k => s.ditchWrite b d k v
  | .sluice k => s.sluiceWrite b k v
  | .save k => if k = 0 then s.addSave b (bits x 47 0) else s
  | .trace i k => s.traceSession b i k v
  | .peer m => s.peerWrite b m v
  | .header => s
  | .capHead _ => s
  | .compute => s
  | .ringCap => s
  | .band _ => s
  | .hv _ _ => s
  | .rgen => s
  | .bank _ _ => s

/-- A read of configuration space; a site that does not answer, and an offset without a register, read as zero. -/
def State.cfgRead (s : State) (n off : Nat) (g : Option Group := none) : W64 :=
  if !s.answers n then 0#64 else match regAt n off with | some r => s.regRead n r g | none => 0#64

/-- What a read of configuration space does beside the read: one of the debug window ungates the core (R364). -/
def State.cfgTouch (s : State) (n off : Nat) : State :=
  if !s.answers n then s
  else match regAt n off with
    | some (.slotCtl core _) => s.ungate core
    | some (.mirror core _ _) => s.ungate core
    | _ => s

/-- A write of configuration space; a site that does not answer, and an offset without a register, take none. -/
def State.cfgWrite (s : State) (n off : Nat) (v : W64) (src : Option Nat := none) : State :=
  if !s.answers n then s else match regAt n off with | some r => s.regWrite n r v src | none => s

/-- CONFIG_WRITE: a supervisor write of any configuration word. -/
def execConfigWrite (n off : Nat) (v : W64) (s : State) : Out := .next (s.cfgWrite n off v)

/-- What the data register of CFGACC holds: address, write flag and data. -/
def tapData (a : Nat) (w : Bool) (v : W64) : BitVec 129 := BitVec.ofNat 129 (a + w.toNat * 2 ^ 64 + v.toNat * 2 ^ 65)

/-- CFGACC: the test port of headgate n holds the instruction 0x40, and reads or writes one configuration word of a site of its basin; the word read stands in
the data register. -/
def State.cfgacc (s : State) (n a : Nat) (w : Bool) (v : W64) : State :=
  if siteKind n ≠ .headgate || paSpace a ≠ 3 || 2 ^ 48 ≤ a || basinOf (paSite a) ≠ basinOf n || !siteExists (paSite a) then s
  else
    let hold := fun (v : W64) => mput s.taps n { ir := 0x40#8, dr := tapData a w v }
    if w then { s.cfgWrite (paSite a) (paOff a) v with taps := hold v }
    else { s.cfgTouch (paSite a) (paOff a) with taps := hold (s.cfgRead (paSite a) (paOff a)) }

def execCfgacc (n a : Nat) (w : Bool) (v : W64) (s : State) : Out := .next (s.cfgacc n a w v)

end Sys2Proof.Machine
end

