-- ==== Sys2Proof/Machine/Leat.lean ====
section
/-! DEFINITION. The leat: frames of the host, their execution, host writes, and firmware over the leat (spec/16_edges_and_health.md R450 to
R455, R461). -/

namespace Sys2Proof

open Machine

/-! ### Frames (R450, Table 16-1) -/

def Frame.op (f : Frame) : Nat := bits f.w0.toNat 7 4
def Frame.fe (f : Frame) : Nat := bits f.w0.toNat 9 8
def Frame.len (f : Frame) : Nat := bits f.w0.toNat 31 16
def Frame.seq (f : Frame) : Nat := bits f.w0.toNat 63 32
def Frame.addr (f : Frame) : Nat := bits f.w1.toNat 47 0
def Frame.ditch (f : Frame) : Nat := bits f.w1.toNat 55 48
def Frame.basin (f : Frame) : Nat := bits f.w1.toNat 57 56
def Frame.tag (f : Frame) : Nat := bits f.w2.toNat 31 0
def Frame.rlen (f : Frame) : Nat := bits f.w3.toNat 12 0

/-- The sub-operation of an MGMT request. -/
def Frame.sub (f : Frame) : Nat := (f.payload.headD 0#64).toNat

/-- Requests that return data are served afresh when they are duplicated. -/
def Frame.returnsData (f : Frame) : Bool := f.op == 2 || (f.op == 5 && decide (1 ≤ f.sub) && decide (f.sub ≤ 3))

/-- Whether the length of a frame follows its operation's rule (Table 16-2). -/
def Frame.lenOk (f : Frame) : Bool :=
  decide (f.len ≤ 4096) && f.len % 8 == 0 && decide (f.payload.length = f.len / 8) &&
    match f.op with
    | 1 => true
    | 2 => f.len == 0
    | 3 => f.len % 64 == 0 && decide (64 ≤ f.len)
    | 4 => f.len == 0
    | 5 => decide (8 ≤ f.len)
    | 8 => f.len == 0
    | _ => false

/-- A frame that a port of a mode takes; any other is discarded and counted. -/
def Frame.good (f : Frame) (mode : Bool) : Bool := f.fcsOk && f.carrier == Carrier.ofMode mode && bits f.w0.toNat 3 0 == 1 && f.lenOk

/-- A completion without data, and one with data. -/
def Frame.compl (f : Frame) (status : Nat) : Frame := replyFrame 8 f.seq f.tag status 0 []
def Frame.rdata (f : Frame) (ws : List W64) : Frame := replyFrame 9 f.seq f.tag 0 0 ws

end Sys2Proof

namespace Sys2Proof.Machine

/-! ### Host writes acknowledged (R453) -/

/-- HOST_COMPL_ARRIVAL: the host has performed a write, and its culvert is acknowledged. -/
def State.hostCompl (s : State) (n q : Nat) : State :=
  match s.hostWrites.find? fun h => decide (h.port = n) && decide (h.seq = q) with
  | none => s
  | some h => ({ s with hostWrites := s.hostWrites.filter fun x => decide (x.id ≠ h.id) } : State).culvertAcked h.core h.cmd h.id

def execHostComplArrival (n q : Nat) (s : State) : Out := .next (s.hostCompl n q)

/-- HOST_WRITE_RETRANSMIT: a write without its completion for 100 µs is sent again under the same SEQ. -/
def State.hostResend (s : State) (n q : Nat) : State :=
  match s.hostWrites.find? fun h => decide (h.port = n) && decide (h.seq = q) && decide (h.sentAt + 100000 ≤ s.time) with
  | none => s
  | some h =>
    { s.leatSend n h.frame with
      hostWrites := s.hostWrites.map fun x => if x.id = h.id then { x with sentAt := s.time } else x }

def execHostWriteRetransmit (n q : Nat) (s : State) : Out := .next (s.hostResend n q)

/-! ### Receiving (R450, R452, R461) -/

/-- Whether a port serves a frame: EN is 1, or it is an MGMT request in a halted basin (log entry 35). -/
def State.leatServes (s : State) (n : Nat) (f : Frame) : Bool :=
  siteKind n == .hostLink && ((s.leatAt n).en || (f.op == 5 && (s.basinAt (basinOf n)).phase == 5))

/-- LEAT_FRAME_RECEIVE: a frame is checked; a request is taken, found a duplicate, or answered with NAK. -/
def State.leatReceive (s : State) (n : Nat) (f : Frame) : State :=
  if !s.leatServes n f then s
  else if !f.good (s.leatAt n).mode then s.modLeat n fun p => { p with badf := min (p.badf + 1) (2 ^ 32 - 1) }
  else if f.op = 8 then s.hostCompl n f.seq
  else
    let p := s.leatAt n
    if f.seq = p.expseq then
      s.modLeat n fun p => { p with expseq := (p.expseq + 1) % 2 ^ 32, jobs := p.jobs ++ [{ seq := f.seq, frame := f }] }
    else if p.recent f.seq then
      let s := s.modLeat n fun p => { p with dups := min (p.dups + 1) (2 ^ 32 - 1) }
      if p.jobs.any fun j => j.seq == f.seq then s
      else if f.returnsData then s.modLeat n fun p => { p with jobs := p.jobs ++ [{ seq := f.seq, frame := f }] }
      else match p.done.find? fun e => e.1 == f.seq with
        | some e => s.leatSend n e.2
        | none => s
    else
      (s.modLeat n fun p => { p with naks := min (p.naks + 1) (2 ^ 32 - 1) }).leatSend n (replyFrame 0xA p.expseq 0 0 0 [])

def execLeatFrameReceive (n : Nat) (f : Frame) (s : State) : Out := .next (s.leatReceive n f)

/-- LEAT_LINK_CHANGE: LINK follows the Ethernet link. -/
def execLeatLinkChange (n : Nat) (w : Bool) (s : State) : Out :=
  .next (if siteKind n = .hostLink then s.modLeat n fun p => { p with link := w } else s)

/-! ### Executing requests in order (R451, R452) -/

/-- The next request to execute on a port, where it is the given frame: the first of those not yet answered, where it has not run. A DITCHW whose appends and
a LAUNCH whose header have yet to be dealt with hold back every later request (R452; log entry 97). -/
def State.leatNext (s : State) (n op : Nat) (f : Frame) : Bool :=
  f.op == op && match (s.leatAt n).jobs with
    | j :: _ => !j.ran && j.frame == f
    | [] => false

/-- The request has run; its completion may be known. -/
def State.leatRan (s : State) (n : Nat) (f : Frame) (appendId : Option Nat) : State :=
  s.modLeat n fun p => { p with jobs := p.jobs.map fun j => if !j.ran && j.frame = f then { j with ran := true, appendId := appendId } else j }

/-- The request has run and is answered. -/
def State.leatDone (s : State) (n : Nat) (f a : Frame) : State := (s.leatRan n f none).leatReply n f.seq a

/-- Whether every 8-byte word of a range is served: an address in space 00 or 11, in memory or at a bonded site, reachable from the port. A sump is not
written over the leat (R204; log entry 43). -/
def State.leatAddrOk (s : State) (write : Bool) (n a bytes : Nat) : Bool :=
  a % 8 == 0 && (List.range (bytes / 8)).all fun k =>
    let w := a + 8 * k
    (paSpace w == 0 || paSpace w == 3) && decide (paSite w = paSite a) && s.reachable n (paSite w) && !(write && s.inSump (basinOf (paSite w)) w) &&
      match s.place (basinOf (paSite w)) w with
      | .refused _ => false
      | .config _ _ => paSpace a == 3
      | _ => paSpace a == 0 && !s.retiredHome w

/-- Whether an access must wait for an owner of a line or a reservation, or is held on its way. -/
def State.leatHeld (s : State) (n a bytes : Nat) : Bool :=
  s.sendHeld .request (coreOf n 0) (homePos a) || paSpace a == 0 && ((s.owned.any fun o => (linesOf (s.redirect a) bytes).contains o.line) ||
    s.resv.any fun e => (wordsOf (s.redirect a) bytes).contains e.1)

/-- Words of the payload of a WRITE perform at their home. -/
def State.leatStore (s : State) (a fe : Nat) (ws : List W64) : State :=
  if paSpace a = 3 then
    (List.range ws.length).foldl (fun s k => s.cfgWrite (paSite a) (paOff a + 8 * k) (ws.getD k 0#64)) s
  else
    let pa := s.redirect a
    let names := wordsOf pa (8 * ws.length)
    let s := (s.correct names).heal names
    let m := (List.range ws.length).foldl (fun (m : Memory) k => m.write (pa + 8 * k) (ws.getD k 0#64).toNat 0 8) s.mem
    let m := if fe = 0 then m else names.foldl (fun (m : Memory) w => m.setFull w (fe == 1)) m
    ({ s with mem := m } : State).retestAll names

/-- The bytes of a request that have been accessed, and the words read. -/
def State.leatDoneSoFar (s : State) (n : Nat) (f : Frame) : Nat × List W64 :=
  match (s.leatAt n).jobs.find? fun j => !j.ran && decide (j.frame = f) with
  | some j => (j.at_, j.words)
  | none => (0, [])

/-- The next access of a request goes up to a 16-byte boundary (R114, R451). -/
def leatPiece (a left : Nat) : Nat := min (16 - a % 16) left

/-- A request has made another access. -/
def State.leatWent (s : State) (n : Nat) (f : Frame) (k : Nat) (ws : List W64) : State :=
  s.modLeat n fun p => { p with jobs := p.jobs.map fun j => if !j.ran && j.frame = f then { j with at_ := k, words := ws } else j }

/-- LEAT_WRITE: the next 16-byte access of the write in turn performs; the last answers it. -/
def State.leatWrite (s : State) (n : Nat) (f : Frame) : State :=
  let k := (s.leatDoneSoFar n f).1
  let a := f.addr + k
  let m := leatPiece a (f.len - k)
  if !s.leatNext n 1 f then s
  else if f.fe = 3 then s.leatDone n f (f.compl 6)
  else if !s.leatAddrOk true n a (max 8 (f.len - k)) then s.leatDone n f (f.compl 1)
  else if s.leatHeld n a m then s
  else
    let s := s.leatStore a f.fe ((f.payload.drop (k / 8)).take (m / 8))
    if k + m < f.len then s.leatWent n f (k + m) [] else s.leatDone n f (f.compl 0)

def execLeatWrite (n : Nat) (f : Frame) (s : State) : Out := .next (s.leatWrite n f)

/-- The words of one access of a READ, or none where one is poisoned (R231). -/
def State.leatLoad (s : State) (a m : Nat) : Option (List W64) × State :=
  if paSpace a = 3 then (some ((List.range (m / 8)).map fun k => s.cfgRead (paSite a) (paOff a + 8 * k)),
    (List.range (m / 8)).foldl (fun s k => s.cfgTouch (paSite a) (paOff a + 8 * k)) s)
  else
    let names := wordsOf (s.redirect a) m
    match s.firstPoisoned names with
    | some w => (none, s.countUe (8 * w))
    | none => (some (s.memWords (s.redirect a) (m / 8)), s.correct names)

/-- LEAT_READ: the next 16-byte access of the read in turn performs; the last answers it. -/
def State.leatRead (s : State) (n : Nat) (f : Frame) : State :=
  let d := s.leatDoneSoFar n f
  let a := f.addr + d.1
  let m := leatPiece a (f.rlen - d.1)
  if !s.leatNext n 2 f then s
  else if f.rlen < 8 || 4096 < f.rlen || f.rlen % 8 ≠ 0 then s.leatDone n f (f.compl 6)
  else if !s.leatAddrOk false n a (f.rlen - d.1) then s.leatDone n f (f.compl 1)
  else if s.leatHeld n a m then s
  else match s.leatLoad a m with
    | (none, s) => s.leatDone n f (f.compl 2)
    | (some ws, s) => if d.1 + m < f.rlen then s.leatWent n f (d.1 + m) (d.2 ++ ws) else s.leatDone n f (f.rdata (d.2 ++ ws))

def execLeatRead (n : Nat) (f : Frame) (s : State) : Out := .next (s.leatRead n f)

/-- A payload cut into records. -/
def recordsOf (ws : List W64) : List (List W64) := (List.range (ws.length / 8)).map fun k => (ws.drop (8 * k)).take 8

/-- LEAT_DITCHW. -/
def State.leatDitchw (s : State) (n : Nat) (f : Frame) : State :=
  if !s.leatNext n 3 f then s
  else if !(s.ditchAt f.basin f.ditch).en then s.leatDone n f (f.compl 4)
  else
    let a : Append := { id := s.nextId, basin := f.basin, ditch := f.ditch, kind := .leat, recs := recordsOf f.payload, since := s.time }
    let s' : State := s.leatRan n f (some s.nextId)
    { s' with appends := s'.appends ++ [a], nextId := s'.nextId + 1 }

def execLeatDitchw (n : Nat) (f : Frame) (s : State) : Out := .next (s.leatDitchw n f)

/-- LEAT_LAUNCH. -/
def State.leatLaunch (s : State) (n : Nat) (f : Frame) : State :=
  if !s.leatNext n 4 f then s
  else if paSpace f.addr ≠ 0 || !s.leatAddrOk false n f.addr 8 then s.leatDone n f (f.compl 1)
  else
    let p : Submit := { id := s.nextId, basin := basinOf (paSite f.addr), hdr := f.addr, leat := some (n, f.seq, f.tag) }
    let s' : State := s.leatRan n f none
    { s' with submits := s'.submits ++ [p], nextId := s'.nextId + 1 }

def execLeatLaunch (n : Nat) (f : Frame) (s : State) : Out := .next (s.leatLaunch n f)

/-! ### Management (R454, R461) -/

/-- An MGMT request runs: during a restart all but STATUS are busy. -/
def State.leatMgmt (s : State) (n sub : Nat) (f : Frame) (act : State → Frame × State) : State :=
  if !s.leatNext n 5 f || f.sub ≠ sub then s
  else if s.restart && sub ≠ 1 then s.leatDone n f (f.compl 5)
  else
    let r := act s
    r.2.leatDone n f r.1

/-- MGMT_STATUS: the PHASE of every basin. A sub-operation that is none of the six is a bad request. -/
def execMgmtStatus (n : Nat) (f : Frame) (s : State) : Out :=
  .next (if f.sub = 0 || 6 < f.sub then s.leatMgmt n f.sub f fun s => (f.compl 6, s)
    else s.leatMgmt n 1 f fun s => (f.rdata ((List.range 4).map fun b => w64 (s.basinAt b).phase), s))

/-- The bytes of a list of words. -/
def wordBytes (ws : List W64) : List Byte := ws.flatMap fun w => (List.range 8).map fun k => BitVec.ofNat 8 (w.toNat / 2 ^ (8 * k))

/-- The measurement: the SM3 hash over the image, capability 0x05 word 0 and every DBM word in ascending site number. -/
def State.measurement (s : State) (n : Nat) : List W64 :=
  Config.sm3 (s.imageOf (basinOf n) ++ wordBytes (s.bandRead n 0 :: ((List.range 484).filter siteExists).map fun m => w64 (s.siteAt m).dbm))

/-- MGMT_ATTEST: the measurement, and a signature over the hash of the nonce followed by it. -/
def execMgmtAttest (n : Nat) (f : Frame) (s : State) : Out :=
  .next (s.leatMgmt n 2 f fun s =>
    if f.payload.length ≠ 5 then (f.compl 6, s)
    else
      let m := s.measurement n
      (f.rdata (m ++ Config.sm2Sign (Config.sm3 (wordBytes ((f.payload.drop 1) ++ m)))), s))

/-- MGMT_IDENT: the public key and its certificate. -/
def execMgmtIdent (n : Nat) (f : Frame) (s : State) : Out := .next (s.leatMgmt n 3 f fun s => (f.rdata Config.moduleIdentity, s))

/-- MGMT_FWCHUNK: data into the staging store. -/
def execMgmtFwchunk (n : Nat) (f : Frame) (s : State) : Out :=
  .next (s.leatMgmt n 4 f fun s =>
    let at_ := (f.payload.getD 1 0#64).toNat
    let data := wordBytes (f.payload.drop 2)
    let put := fun (m : SMap Byte) (k : Nat) => mput m (at_ + k) (data.getD k 0#8)
    if f.payload.length < 2 then (f.compl 6, s) else (f.compl 0, { s with stage := (List.range data.length).foldl put s.stage }))

/-- The rider of a core is discarded with its fault ring; what it has sent is under way. -/
def State.dropRider (s : State) (core : Nat) : State :=
  let s := (s.withdraw core 7).discard core 7
  let old := s.slotAt core 7
  s.setSlot core 7 { seq := old.seq + 1, account := old.account, owner := old.owner }

/-- A firmware restart starts (R454): HOLD in every basin, the riders and fault rings discarded, and the riders loaded from the image. -/
def State.startRestart (s : State) : State :=
  (List.range 4).foldl (fun s b =>
    let s := s.modBasin b fun v => { v with hold := true }
    if (s.basinAt b).phase ≠ 4 then s
    else
      let s := (s.liveCores b).foldl (fun s k => s.dropRider k) s
      let s := (computeSites b).foldl (fun s n => s.makeFaultRing n) s
      s.loadRiders b) { s with restart := true }

/-- Whether the module is halted: a basin's firmware failed its verification and no basin runs. -/
def State.halted (s : State) : Bool :=
  (List.range 4).any (fun b => (s.basinAt b).phase == 5) && (List.range 4).all fun b => (s.basinAt b).phase == 5 || (s.basinAt b).phase == 0

/-- Bring-up from phase 0 in a halted module: every site is DARK again. -/
def State.reboot (s : State) : State :=
  let s := (List.range 4).foldl (fun s b => s.modBasin b fun v => { v with phase := 0, tstart := 0 }) s
  ((List.range 484).filter siteExists).foldl (fun s n =>
    s.modSite n fun v => { v with bst := 0, fcode := 0, offers := [], dbm := Nat.lor (mget s.part.record n 0) (borderDead n) }) s

/-- An image goes into the boot stores of the eight headgates. -/
def State.storeImage (s : State) (img : SMap Byte) : State :=
  { s with boots := ((List.range 4).flatMap headgates).foldl (fun m n => mput m n img) s.boots }

/-- MGMT_FWCOMMIT: a passing image goes into every boot store and is started. -/
def execMgmtFwcommit (n : Nat) (f : Frame) (s : State) : Out :=
  .next (s.leatMgmt n 5 f fun s =>
    if !Config.fwPasses (storeBytes s.stage) then (f.compl 6, s)
    else
      let s := s.storeImage s.stage
      (f.compl 0, if s.halted then s.reboot else s.startRestart))

/-- MGMT_RESTART. -/
def execMgmtRestart (n : Nat) (f : Frame) (s : State) : Out := .next (s.leatMgmt n 6 f fun s => (f.compl 0, s.startRestart))

/-- RESTART_COMPLETE: every rider has reached its entry, and HOLD is cleared in every basin. -/
def State.restartDone (s : State) : State :=
  if !s.restart then s
  else
    (List.range 4).foldl (fun s b =>
      let s := if (s.basinAt b).phase = 4 then (s.liveCores b).foldl (fun s k => s.startRider k) s else s
      (s.modBasin b fun v => { v with hold := false }).callPass b) { s with restart := false }

def execRestartComplete (s : State) : Out := .next s.restartDone

end Sys2Proof.Machine
end

