-- ==== Sys2Proof/Machine/Access.lean ====
section
/-! DEFINITION. A request reaches its home: memory, configuration space, a queue or a ditch; and translation misses are answered
(spec/04_ordering.md R115; spec/07_slice_engine.md R203, R208 to R212; spec/11_flumes.md R333, R341, R343; spec/13_sluice.md R404). -/

namespace Sys2Proof.Machine

/-- Registers whose word is written 1 to clear: a byte that is not written clears nothing there. -/
def Reg.w1c : Reg → Bool
  | .mchip k => k == 1
  | .leat k => k == 6
  | .sliceErr _ _ => true
  | .queue _ _ k => k == 2
  | .cell k => k % 4 == 2
  | .slotCtl _ _ => true
  | _ => false

/-- The word a register of a scale-up port holds; its keys and salts read as zero, and NAKR is written 1 to clear (Table 16-4). -/
def LinkPort.held (p : LinkPort) (k : Nat) : Option W64 :=
  match k with
  | 1 => some (p.key0.getD 0 0#64)
  | 2 => some (p.key0.getD 1 0#64)
  | 3 => some (w64 p.salt0)
  | 4 => some (p.key1.getD 0 0#64)
  | 5 => some (p.key1.getD 1 0#64)
  | 6 => some (w64 p.salt1)
  | _ => none

/-- What the null bytes of a store leave in a register: the bytes it holds (R180; log entry 36). -/
def State.regHeld (s : State) (n off : Nat) : W64 :=
  match regAt n off with
  | some (.link port k) => ((s.linkAt port).held k).getD (s.cfgRead n off)
  | some r => if r.w1c then 0#64 else s.cfgRead n off
  | none => 0#64

/-- What a store whose null bytes are not written gives a register (R180; log entry 36). -/
def State.cfgMerge (s : State) (n off : Nat) (data : Nat) (mask : BitVec 16) : W64 :=
  let keep := s.regHeld n off
  w64 ((List.range 8).foldl (fun a k => a + (if mask.getLsbD k then bits keep.toNat (8 * k + 7) (8 * k) else bits data (8 * k + 7) (8 * k)) * 2 ^ (8 * k)) 0)

/-- An access to configuration space performs at its site. -/
def State.accessConfig (s : State) (q : Req) : State :=
  if s.holdsBack q || s.sentAhead q.core (homeOf q.pa) q.key q.id then s
  else
    let n := paSite q.pa
    let off := paOff q.pa
    match q.kind with
    | .st _ => (s.dropReq q).cfgWrite n off (s.cfgMerge n off q.data.toNat q.mask) (some q.core)
    | .strel _ => (s.dropReq q).cfgWrite n off (q.data.setWidth 64) (some q.core)
    | _ => ((s.cfgTouch n off).dropReq q).answer q { data := (s.cfgRead n off (some (s.slotAt q.core q.slot).group)).setWidth 128 }

/-- An access of a thread, unless something holds it on its way. -/
def State.accessReq (s : State) (q : Req) : State :=
  if s.reqHeld q then s
  else if !q.kind.isFence && paSpace q.pa = 3 then s.accessConfig q
  else s.accessMemory q

/-- HOME_ACCESS: request i performs at its home: an access to memory or configuration space, the body read of a send, a committed receive, or a
pop. -/
def State.homeAccess (s : State) (i : Nat) : State :=
  match s.reqs.find? (·.id == i) with
  | some q => s.accessReq q
  | none => match s.qmsgs.find? (·.id == i) with
    | some m => s.readBody m
    | none => match s.recvs.find? (·.id == i) with
      | some r => s.recvTake r
      | none => match s.pops.find? (·.id == i) with
        | some p => if p.left then s.popTake p else s.popGrant p
        | none => s

def execHomeAccess (i : Nat) (s : State) : Out := .next (s.homeAccess i)

/-! ### Translation misses (R209, R210) -/

/-- The M-format form, or the join form, of an instruction. -/
def formOf (i : Instr) : Option MForm :=
  match i with
  | .joinad _ n v => some (joinForm (.joinad (v = 1#4)) n none)
  | .joinw _ n t => some (joinForm .joinw n t)
  | i => memForm i

/-- The context of an instruction of a slot. -/
def State.ctxAt (s : State) (core slot ix : Nat) : Option Ctx :=
  match s.runAt core slot with
  | some r => if ix < r.words.length then some ⟨core, slot, ix, s.slotAt core slot, r, r.inst ix⟩ else none
  | none => none

/-- A form that awaited its translation goes on with the answer. -/
def State.resume (s : State) (m : Miss) (r : Xl) : State :=
  if !s.misses.contains m then s else
  let s := { s with misses := s.misses.filter fun x => decide (x ≠ m) }
  match s.ctxAt m.core m.slot m.ix with
  | none => s
  | some c => match (c.run.instr m.ix).bind formOf with
    | some f => s.memXl c f m.va r
    | none => s

def State.missOf (s : State) (core slot ix : Nat) (walk : Bool) : Option Miss :=
  s.misses.find? fun m => decide (m.core = core) && decide (m.slot = slot) && decide (m.ix = ix) && m.walk == walk

/-- The page of a miss: its basin, ASN and virtual page. -/
def State.missPage (s : State) (m : Miss) : Nat × Nat × Nat := (coreBasin m.core, ((s.slotAt m.core m.slot).space m.core m.slot).asn, m.va / 0x10000)

/-- The pages whose walks run at a second-level home. -/
def State.walksAt (s : State) (home : Nat) : List (Nat × Nat × Nat) :=
  (((s.misses.filter Miss.walk).map s.missPage).filter fun p => decide (tlbHome p.1 p.2.1 p.2.2 = home)).eraseDups

/-- Whether a message between a core and the second-level home of a page, or its answer, is held on its way; and whether a read of the walker there is (R326, R333). -/
def State.missHeld (s : State) (core b asn vpn : Nat) : Bool :=
  let h := coreOf (tlbHome b asn vpn) 0
  s.sendHeld .request core h || s.sendHeld .response h core
def State.walkHeld (s : State) (b asn root va : Nat) : Bool :=
  (s.walkReads b root va).any fun w => s.engineHeld (coreOf (tlbHome b asn (va / 0x10000)) 0) (8 * w)

/-- TLB_MISS_REQUEST: a miss reaches the second-level home of its page; a leaf found there fills the first-level cache, and otherwise the miss joins the
walk of its page or begins one of the four that the home's walker runs. -/
def State.tlbMiss (s : State) (core slot ix : Nat) : State :=
  match s.missOf core slot ix false with
  | none => s
  | some m =>
    let sp := (s.slotAt core slot).space core slot
    let b := coreBasin core
    let vpn := m.va / 0x10000
    if s.missHeld core b sp.asn vpn then s else
    match s.findL2 b sp.asn vpn with
    | some leaf => ((s.touchL2 b sp.asn vpn leaf).fillL1 core sp.asn vpn leaf).resume m (s.underLeaf sp leaf m.va m.need)
    | none =>
      let ws := s.walksAt (tlbHome b sp.asn vpn)
      if ws.contains (s.missPage m) || ws.length < 4 then { s with misses := s.misses.map fun x => if x = m then { m with walk := true } else x }
      else s

def execTlbMissRequest (c q ix : Nat) (s : State) : Out := .next (s.tlbMiss c q ix)

/-- PAGE_WALK: the walk for a miss, and for those that joined it, completes; its leaf is cached unless an invalidation arrived meanwhile. -/
def State.pageWalk (s : State) (core slot ix : Nat) : State :=
  match s.missOf core slot ix true with
  | none => s
  | some m =>
    let b := coreBasin core
    let sp := (s.slotAt core slot).space core slot
    let vpn := m.va / 0x10000
    if s.walkHeld b sp.asn sp.root m.va then s else
    let joined := s.misses.filter fun x => x.walk && s.missPage x == s.missPage m
    let t := s.afterWalk b sp.root m.va
    match s.walk b sp.root m.va with
    | .error c => joined.foldl (fun s x => s.resume x (.bad c.1 0)) t
    | .ok leaf =>
      let stale := joined.any Miss.stale
      let t := if stale then t else t.fillL2 b sp.asn vpn leaf
      joined.foldl (fun s x =>
        let sp := (s.slotAt x.core x.slot).space x.core x.slot
        (if stale then s else s.fillL1 x.core sp.asn vpn leaf).resume x (s.underLeaf sp leaf x.va x.need)) t

def execPageWalk (c q ix : Nat) (s : State) : Out := .next (s.pageWalk c q ix)

end Sys2Proof.Machine
end

