-- ==== Sys2Proof/Machine/Clock.lean ====
section
/-! DEFINITION. The clock edges of a basin: CYC, NCYC and TIME, and the turn each core gives in the clk that begins (spec/05_block_engine.md R169 to
R173; spec/06_lane_engine.md R201; spec/07_slice_engine.md R225; spec/12_weir.md R351 to R354, R364). -/

namespace Sys2Proof.Machine

/-! ### What can fire (R145, R171, R225) -/

/-- M-format and E-format forms. -/
def Shape.isRequest (sh : Shape) : Bool := decide (0x60 ≤ sh.major) && decide (sh.major ≤ 0x7D)

/-- Forms of majors 0x50 to 0x5F. -/
def Shape.isHeavy (sh : Shape) : Bool := decide (0x50 ≤ sh.major) && decide (sh.major ≤ 0x5F)

/-- The shared unit of a core that an instruction occupies. -/
inductive FireUnit where
  | none | divider | laneDivide | special
  deriving DecidableEq, Repr

def fireUnit : Instr → FireUnit
  | .divs .. => .divider | .divn .. => .divider | .rems .. => .divider | .remn .. => .divider
  | .fdiv .. => .laneDivide | .fsqrt .. => .laneDivide
  | .exp2 .. => .special | .log2 .. => .special | .rcp .. => .special | .rsq .. => .special | .tanh .. => .special
  | _ => .none

/-- Whether the unit of an instruction can take an operation in this clk. -/
def Core.unitFree (k : Core) (u : FireUnit) (now : Nat) : Bool :=
  match u with
  | .none => true
  | .divider => decide (k.divFree ≤ now)
  | .laneDivide => decide (k.ldivFree ≤ now)
  | .special => decide (k.sfuFree ≤ now)

/-- Entries of the request queue of a core in use: store-mask forms of uncommitted blocks, requests that have not left the core, and committed sends
that cannot leave it (R335, R341). -/
def State.queueUsed (s : State) (core : Nat) : Nat :=
  let ops := fun (slot : Nat) => match s.runAt core slot with
    | some r => if r.tail then 0 else r.ops.length
    | none => 0
  ((List.range 8).map ops).sum +
    (s.reqs.filter fun q => decide (q.core = core) && !q.left && !q.kind.storeMask && decide (q.st = .sent) && s.holdsBack q).length +
    (s.misses.filter fun m => decide (m.core = core)).length +
    (s.qmsgs.filter fun m => decide (m.core = core) && s.sendStuck m).length

/-- Whether instruction ix of a block can fire in this clk: before commit one outside the tail, after it one of the tail. -/
def State.canFire (s : State) (core : Nat) (r : Run) (tail : List Bool) (room : Bool) (now ix : Nat) : Bool :=
  let sh := r.shape ix
  let i := r.inst ix
  decide (i.st = .idle) && (tail.getD ix false == r.tail) && i.ready sh now && !r.shut now ix &&
    (!Shape.isRequest sh || room) &&
    match r.instr ix with
    | some x => (s.coreAt core).unitFree (fireUnit x) now
    | none => false

/-- The instructions a slot would fire in a turn: the first that can, and the next that breaks no limit with it. -/
def State.selection (s : State) (core slot now : Nat) : List Nat :=
  let sl := s.slotAt core slot
  match sl.run with
  | none => []
  | some r =>
    let tail := r.tailSet
    let room := decide (s.queueUsed core < 16)
    match (List.range r.words.length).filter (s.canFire core r tail room now) with
    | [] => []
    | a :: rest =>
      let both := fun (f : Shape → Bool) (b : Nat) => f (r.shape a) && f (r.shape b)
      let divides := fun (i : Nat) => match r.instr i with | some x => fireUnit x == .divider | none => false
      match rest.find? fun b => !both Shape.isRequest b && !both Shape.isHeavy b && !(divides a && divides b) with
      | some b => [a, b]
      | none => [a]

/-- The states of Table 5-6. -/
inductive SlotState where
  | ready | waiting | parked | stopped
  deriving DecidableEq, Repr

def State.slotState (s : State) (core slot now : Nat) : SlotState :=
  let sl := s.slotAt core slot
  if !sl.busy then .parked
  else if sl.stop || sl.frz then .stopped
  else if sl.rty || sl.evp then .parked
  else if !(s.selection core slot now).isEmpty then .ready
  else if s.isParked core slot then .parked
  else .waiting

/-! ### The turn (R170, R173) -/

/-- The turn of a clk on a core: its owner's, or lent to the first ready slot after it; and its account. -/
def State.giveTurn (s : State) (core now : Nat) : State :=
  let owner := now % 8
  let st := s.slotState core owner now
  let mine := (s.slotAt core owner).busy
  let s := if st = .parked && mine then s.account core owner 4 1 else s
  let none_ := fun (s : State) => (s.account core owner 3 1).modCore core fun k => { k with turn := none }
  let fires := fun (s : State) (slot : Nat) => s.modCore core fun k => { k with turn := some ⟨slot, s.selection core slot now⟩ }
  if (s.coreAt core).gated then none_ s
  else match st with
    | .ready => fires (s.account core owner 0 1) owner
    | .stopped => none_ s
    | _ =>
      match ((List.range 7).map fun i => (owner + 1 + i) % 8).find? fun n => s.slotState core n now == .ready with
      | some n => fires ((s.account core owner 1 1).account core n 2 1) n
      | none => none_ s

/-! ### Gating (R364) -/

/-- Whether a slot sleeps: it holds no continuation, or is parked in a WBAR release wait, a WWAIT, a WSLEEP or IDLE. -/
def State.sleeps (s : State) (core slot now : Nat) : Bool :=
  let sl := s.slotAt core slot
  !sl.busy || (s.slotState core slot now == .parked && match sl.run with
    | none => false
    | some r => (List.range r.words.length).any fun ix => match (r.inst ix).st with
      | .wait _ => (match r.instr ix with
        | some (.wbar ..) => true
        | some (.wwait ..) => true
        | some (.wsleep ..) => true
        | some (.idle ..) => true
        | _ => false)
      | _ => false)

def State.countIdle (s : State) (core now : Nat) : State :=
  let idle := (List.range 8).all (fun n => s.sleeps core n now) && s.enginesIdle core
  s.modCore core fun k => { k with idleClk := if idle then k.idleClk + 1 else 0 }

/-! ### The edge -/

/-- Whether the next edge of basin b comes no later than that of any other basin, and after the end of phase 0, every step that lands and every width that
changes before it. -/
def State.edgeNext (s : State) (b : Nat) : Bool :=
  let v := s.basinAt b
  v.on && s.phase0Over && (List.range 4).all (fun i =>
    let w := s.basinAt i
    !w.on || (decide (v.edgeNum * w.m ≤ w.edgeNum * v.m) &&
      (!w.stepPend || if i = b then !w.beforeEdge w.pts else decide (v.edgeNum < w.pts * v.m)))) &&
    s.links.all fun e => match e.2.tw with
      | some t => decide (v.edgeNum < t * v.m)
      | none => true

/-- Whether every turn under way in a basin has fired what it selected. -/
def State.turnsDone (s : State) (b : Nat) : Bool :=
  s.cores.all fun e => decide (coreBasin e.1 ≠ b) || match e.2.turn with | some t => t.sel.isEmpty | none => true

/-- What the clk of a slot has yet to do as it ends: the waits whose condition it meets deliver in it (R271, R361, R370, R426), a wait whose limit it has
reached is ended or withdrawn (R229, R349), and the commit of its block is tested (R176). -/
def State.endSlot (s : State) (core slot : Nat) : State :=
  match s.runAt core slot with
  | none => s.waitLimit core slot
  | some r =>
    let s := (List.range r.words.length).foldl (fun s i => match (r.inst i).st with
      | .wait _ => ((s.tagDeliver core slot i).sleepDeadline core slot i).idleDeliver core slot i
      | _ => s) s
    (((s.waiterWake core slot).tailSettle core slot).waitLimit core slot).testCommit core slot

/-- The withdrawals that have been under way for 2 µs reach their homes (R229). -/
def State.oldWithdrawals (s : State) (b : Nat) : State :=
  s.withdrawals.foldl (fun s i => match s.reqs.find? (·.id == i) with
    | some q => if coreBasin q.core = b ∧ q.since + (s.slotAt q.core q.slot).ctl.wlim.toNat + 2000 ≤ s.time then s.withdrawal i else s
    | none => s) s

/-- A block that met R153 in an earlier clk commits before its clk ends (R176), unless another slot of its core has the commit of this clk. -/
def State.commitDue (s : State) (core slot : Nat) : State :=
  match s.runAt core slot with
  | some r => if r.metBefore (s.cyc core) && !r.tail then s.blockCommit core slot else s
  | none => s

/-- A clk of a basin ends. -/
def State.endClk (s : State) (b : Nat) : State :=
  let all := fun (f : State → Nat → Nat → State) (s : State) =>
    (s.liveCores b).foldl (fun s k => (List.range 8).foldl (fun s n => if (s.slotAt k n).busy then f s k n else s) s) s
  all State.endSlot (all State.commitDue (s.takeReplies.oldWithdrawals b))

/-- A clk of a basin begins: its tag waits see the tags at its start (R271), a core that has slept for 16 clk is gated (R364), every core gives its
turn, and a slice that is being migrated moves a line (R434). Cores in reset do nothing. -/
def State.beginClk (s : State) (b : Nat) : State :=
  let now := (s.basinAt b).cyc
  (if (s.basinAt b).phase = 3 then [] else s.liveCores b).foldl (fun s k => (((s.modCore k fun c => { c with tagsAt := c.tags }).coreGate k).giveTurn k now).countIdle k now)
    (((s.cores.filter fun e => decide (e.2.phase = 3) && decide (coreBasin e.1 = b)).foldl (fun s e => s.moveLine e.1) s).boostAsks b)

/-- FREQUENCY_STEP: a pending step lands at Ts (R353, R354): the period that contains Ts ends there and counts one increment of the old m;
the edges of the new clock are counted from Ts. No edge of another basin before Ts is left. -/
def State.freqStep (s : State) (b : Nat) : State :=
  let v := s.basinAt b
  if !v.on || !v.stepPend || !v.beforeEdge v.pts || !s.turnsDone b ||
      !((List.range 4).all fun i => decide (i = b) || !(s.basinAt i).on || (s.basinAt i).beforeEdge v.pts) then s
  else
    let s := s.endClk b
    let v := s.basinAt b
    let grown := decide (v.pm ≠ v.m)
    let s := s.setBasin b
      { v with
        cyc := v.cyc + 1, ncyc := v.ncyc + ncycInc v.m, m := v.pm, base := if v.pboost then v.base else v.pm
        stepPend := false, pboost := false, lts := v.pts, nstep := min (v.nstep + 1) (2 ^ 32 - 1)
        relock := v.relock || grown, relocks := if grown then (v.pts :: v.relocks).take 16 else v.relocks, epoch := v.pts, edges := 0, tick := v.pts, back := false }
    let s := { s with time := max s.time v.pts }
    let s := if s.pbusy = some b then { (s.healthPkt b 0xB3 (b + v.pm * 2 ^ 8)) with
        pbusy := none, pdue := s.time + 64000
        pdown := if v.pm < v.m then s.pdown ++ [b] else if v.m < v.pm then s.pdown.erase b else s.pdown } else s
    (if v.back && v.pboost then s.askStep (gatePos b) b v.base 0 .back else s).beginClk b

def execFrequencyStep (b : Nat) (s : State) : Out := .next (s.freqStep b)

/-- BASIN_CLOCK_EDGE: a clk ends and the next begins, whose readers see the TIME at its start (R351). -/
def State.clockEdge (s : State) (b : Nat) : State :=
  if 4 ≤ b || !s.edgeNext b || !s.turnsDone b then s
  else
    let s := s.endClk b
    let v := s.basinAt b
    let t := v.edgeNum / v.m
    ({ s.setBasin b { v with cyc := v.cyc + 1, ncyc := v.ncyc + ncycInc v.m, edges := v.edges + 1, tick := t } with
      time := max s.time t } : State).beginClk b

def execBasinClockEdge (b : Nat) (s : State) : Out := .next (s.clockEdge b)

end Sys2Proof.Machine
end

