-- ==== Sys2Proof/Machine/Lane.lean ====
section
/-! DEFINITION. The lane forms (spec/06_lane_engine.md R177 to R198). A compact form has the meaning of its G form with predicate
mode 00 and one target (R197). -/

namespace Sys2Proof.Machine

/-- Whether the slots of a lane form hold their tokens: the data slots of `need`, and p with a predicate. -/
def laneReady (p : Pred) (need : Inst → Bool) (i : Inst) : Bool := need i && (decide (p = .always) || i.p.isSome)

/-- A lane form fires once every slot it has holds a token, whatever the predicate's lanes hold (R180). -/
def laneFire (p : Pred) (need : Inst → Bool) (lat : Nat) (t u : Option Target) (f : Ctx → Token × Flags) (s : State) : Out :=
  firing .always (laneReady p need) (fun c => s.finish c)
    (fun c => let (tok, fl) := f c; s.fireToken c t u lat tok fl) s

/-- The predicate token of a context, for a predicated form. -/
def Ctx.pt (c : Ctx) : Option Token := c.inst.p

/-- One-operand lane by lane form (R179). -/
def lanes1 (p : Pred) (y : LaneTy) (op : Nat → Nat × Flags) (c : Ctx) : Token × Flags :=
  laneToken y.width ((List.range y.count).map fun i =>
    if laneNull c.l y i || !predLane p c.pt y i then none else some (op (getLane c.l.data y i)))

/-- Two-operand lane by lane form. -/
def lanes2 (p : Pred) (y : LaneTy) (op : Nat → Nat → Nat × Flags) (c : Ctx) : Token × Flags :=
  laneToken y.width ((List.range y.count).map fun i =>
    if laneNull c.l y i || laneNull c.r y i || !predLane p c.pt y i then none
    else some (op (getLane c.l.data y i) (getLane c.r.data y i)))

/-- Three-operand lane by lane form. -/
def lanes3 (y : LaneTy) (op : Nat → Nat → Nat → Nat × Flags) (c : Ctx) : Token × Flags :=
  laneToken y.width ((List.range y.count).map fun i =>
    if laneNull c.l y i || laneNull c.r y i || laneNull c.p y i then none
    else some (op (getLane c.l.data y i) (getLane c.r.data y i) (getLane c.p.data y i)))

/-! ### Integer lanes (R183 to R187) -/

/-- An integer lane result without flags. -/
def noFlag (x : Nat) : Nat × Flags := (x, 0#6)

def iWrap (y : LaneTy) (f : Int → Int → Int) (a b : Nat) : Nat × Flags :=
  noFlag (wrapInt (f (laneInt y a) (laneInt y b)) y.width)

/-- sat, raising NS on a clamp. -/
def satLane (y : LaneTy) (x : Int) : Nat × Flags :=
  let lo : Int := if y.isSigned then -((2 ^ (y.width - 1) : Nat) : Int) else 0
  let hi : Int := if y.isSigned then ((2 ^ (y.width - 1) : Nat) : Int) - 1 else ((2 ^ y.width : Nat) : Int) - 1
  let c := clampInt lo hi x
  (wrapInt c y.width, flagIf (decide (c ≠ x)) flagNS)

def iSat (y : LaneTy) (f : Int → Int → Int) (a b : Nat) : Nat × Flags := satLane y (f (laneInt y a) (laneInt y b))

def allOnesLane (y : LaneTy) (b : Bool) : Nat × Flags := noFlag (if b then 2 ^ y.width - 1 else 0)

def iCmp (y : LaneTy) (f : Int → Int → Bool) (a b : Nat) : Nat × Flags := allOnesLane y (f (laneInt y a) (laneInt y b))

def iShl (y : LaneTy) (a b : Nat) : Nat × Flags := noFlag (a * 2 ^ (b % y.width) % 2 ^ y.width)
def iShr (y : LaneTy) (a b : Nat) : Nat × Flags := noFlag (wrapInt (laneInt y a / ((2 ^ (b % y.width) : Nat) : Int)) y.width)
def iRotl (y : LaneTy) (a b : Nat) : Nat × Flags :=
  let k := b % y.width
  noFlag ((a * 2 ^ k + a / 2 ^ (y.width - k)) % 2 ^ y.width)
def iNot (y : LaneTy) (a : Nat) : Nat × Flags := noFlag (2 ^ y.width - 1 - a)
def iMin (a b : Int) : Int := if a ≤ b then a else b
def iMax (a b : Int) : Int := if b ≤ a then a else b

/-- A two-operand integer lane form. -/
def execLane2 (f : LaneTy → Nat → Nat → Nat × Flags) (lat : Nat) (p : Pred) (y : LaneTy) (t u : Option Target) (s : State) : Out :=
  laneFire p needLR lat t u (lanes2 p y (f y)) s

def laneAnd (_ : LaneTy) (a b : Nat) : Nat × Flags := noFlag (Nat.land a b)
def laneOr (_ : LaneTy) (a b : Nat) : Nat × Flags := noFlag (Nat.lor a b)
def laneXor (_ : LaneTy) (a b : Nat) : Nat × Flags := noFlag (Nat.xor a b)
def laneAndn (y : LaneTy) (a b : Nat) : Nat × Flags := noFlag (Nat.land a (2 ^ y.width - 1 - b))

def execVadd (p : Pred) (y : LaneTy) (t u : Option Target) (s : State) : Out := execLane2 (fun y => iWrap y (· + ·)) 1 p y t u s
def execVsub (p : Pred) (y : LaneTy) (t u : Option Target) (s : State) : Out := execLane2 (fun y => iWrap y (· - ·)) 1 p y t u s
def execVadds (p : Pred) (y : LaneTy) (t u : Option Target) (s : State) : Out := execLane2 (fun y => iSat y (· + ·)) 1 p y t u s
def execVsubs (p : Pred) (y : LaneTy) (t u : Option Target) (s : State) : Out := execLane2 (fun y => iSat y (· - ·)) 1 p y t u s
def execVmul (p : Pred) (y : LaneTy) (t u : Option Target) (s : State) : Out := execLane2 (fun y => iWrap y (· * ·)) 3 p y t u s
def execVmulh (p : Pred) (y : LaneTy) (t u : Option Target) (s : State) : Out :=
  execLane2 (fun y => iWrap y fun a b => a * b / ((2 ^ y.width : Nat) : Int)) 3 p y t u s
def execVmin (p : Pred) (y : LaneTy) (t u : Option Target) (s : State) : Out := execLane2 (fun y => iWrap y iMin) 1 p y t u s
def execVmax (p : Pred) (y : LaneTy) (t u : Option Target) (s : State) : Out := execLane2 (fun y => iWrap y iMax) 1 p y t u s
def execVand (p : Pred) (y : LaneTy) (t u : Option Target) (s : State) : Out := execLane2 laneAnd 1 p y t u s
def execVor (p : Pred) (y : LaneTy) (t u : Option Target) (s : State) : Out := execLane2 laneOr 1 p y t u s
def execVxor (p : Pred) (y : LaneTy) (t u : Option Target) (s : State) : Out := execLane2 laneXor 1 p y t u s
def execVandn (p : Pred) (y : LaneTy) (t u : Option Target) (s : State) : Out := execLane2 laneAndn 1 p y t u s
def execVshl (p : Pred) (y : LaneTy) (t u : Option Target) (s : State) : Out := execLane2 iShl 1 p y t u s
def execVshr (p : Pred) (y : LaneTy) (t u : Option Target) (s : State) : Out := execLane2 iShr 1 p y t u s
def execVrotl (p : Pred) (y : LaneTy) (t u : Option Target) (s : State) : Out := execLane2 iRotl 1 p y t u s
def execVnot (p : Pred) (y : LaneTy) (t u : Option Target) (s : State) : Out := laneFire p needL 1 t u (lanes1 p y (iNot y)) s
def execVceq (p : Pred) (y : LaneTy) (t u : Option Target) (s : State) : Out :=
  execLane2 (fun y => iCmp y fun a b => decide (a = b)) 1 p y t u s
def execVcne (p : Pred) (y : LaneTy) (t u : Option Target) (s : State) : Out :=
  execLane2 (fun y => iCmp y fun a b => decide (a ≠ b)) 1 p y t u s
def execVclt (p : Pred) (y : LaneTy) (t u : Option Target) (s : State) : Out :=
  execLane2 (fun y => iCmp y fun a b => decide (a < b)) 1 p y t u s
def execVcle (p : Pred) (y : LaneTy) (t u : Option Target) (s : State) : Out :=
  execLane2 (fun y => iCmp y fun a b => decide (a ≤ b)) 1 p y t u s

/-- VSPLAT: every lane is the low lane of l; null in every lane if a byte of that lane is null (R186). -/
def vsplat (p : Pred) (y : LaneTy) (c : Ctx) : Token × Flags :=
  laneToken y.width ((List.range y.count).map fun i =>
    if laneNull c.l y 0 || !predLane p c.pt y i then none else some (noFlag (getLane c.l.data y 0)))

def execVsplat (p : Pred) (y : LaneTy) (t u : Option Target) (s : State) : Out := laneFire p needL 1 t u (vsplat p y) s

/-- VEXTR: a scalar from lane r mod n; null if that lane fails its predicate or is null, or if r has a null byte (R181, R186). -/
def vextr (p : Pred) (y : LaneTy) (c : Ctx) : Token × Flags :=
  let k := c.r.lo.toNat % y.count
  if c.r.nullIn 8 || laneNull c.l y k || !predLane p c.pt y k then (nullToken, 0#6)
  else (scalarToken (BitVec.ofInt 64 (laneInt y (getLane c.l.data y k))), 0#6)

def execVextr (p : Pred) (y : LaneTy) (t u : Option Target) (s : State) : Out := laneFire p needLR 1 t u (vextr p y) s

/-- VPERM (R186). -/
def vperm (p : Pred) (y : LaneTy) (c : Ctx) : Token × Flags :=
  laneToken y.width ((List.range y.count).map fun i =>
    let k := getLane c.r.data y i % y.count
    if laneNull c.r y i || laneNull c.l y k || !predLane p c.pt y i then none else some (noFlag (getLane c.l.data y k)))

def execVperm (p : Pred) (y : LaneTy) (t u : Option Target) (s : State) : Out := laneFire p needLR 1 t u (vperm p y) s

/-- VSEL (R186). -/
def vsel (y : LaneTy) (c : Ctx) : Token × Flags :=
  laneToken y.width ((List.range y.count).map fun i =>
    let src := if laneTrue c.p.data y i then c.l else c.r
    if laneNull c.p y i || laneNull src y i then none else some (noFlag (getLane src.data y i)))

def execVsel (y : LaneTy) (t u : Option Target) (s : State) : Out := laneFire .always needLRP 1 t u (vsel y) s

/-- The live source lanes of a reduction, as values (R181). -/
def liveLanes (p : Pred) (y : LaneTy) (c : Ctx) : List Int :=
  (List.range y.count).filterMap fun i =>
    if laneNull c.l y i || !predLane p c.pt y i then none else some (laneInt y (getLane c.l.data y i))

/-- VREDADD, VREDMIN, VREDMAX: a scalar, null when every source lane is null (R187). -/
def vred (f : Int → Int → Int) (p : Pred) (y : LaneTy) (c : Ctx) : Token × Flags :=
  match liveLanes p y c with
  | [] => (nullToken, 0#6)
  | x :: xs => (scalarToken (BitVec.ofInt 64 (xs.foldl f x)), 0#6)

def execVredadd (p : Pred) (y : LaneTy) (t u : Option Target) (s : State) : Out := laneFire p needL 3 t u (vred (· + ·) p y) s
def execVredmin (p : Pred) (y : LaneTy) (t u : Option Target) (s : State) : Out := laneFire p needL 3 t u (vred iMin p y) s
def execVredmax (p : Pred) (y : LaneTy) (t u : Option Target) (s : State) : Out := laneFire p needL 3 t u (vred iMax p y) s
def execVabs (p : Pred) (y : LaneTy) (t u : Option Target) (s : State) : Out :=
  laneFire p needL 1 t u (lanes1 p y fun a => noFlag (wrapInt ((laneInt y a).natAbs) y.width)) s

/-- VWIDENLO and VWIDENHI: lanes from `base` of the source, in the wider type, the predicate read there (R188). -/
def vwiden (base : Nat) (p : Pred) (y : LaneTy) (c : Ctx) : Token × Flags :=
  let d := y.wider
  laneToken d.width ((List.range d.count).map fun i =>
    if laneNull c.l y (base + i) || !predLane p c.pt d i then none
    else some (noFlag (wrapInt (laneInt y (getLane c.l.data y (base + i))) d.width)))

def execVwidenlo (p : Pred) (y : LaneTy) (t u : Option Target) (s : State) : Out := laneFire p needL 1 t u (vwiden 0 p y) s
def execVwidenhi (p : Pred) (y : LaneTy) (t u : Option Target) (s : State) : Out :=
  laneFire p needL 1 t u (vwiden (y.count / 2) p y) s

/-- VNARROW and VNARROWS: l then r, in the narrower type, the predicate read there (R188). -/
def vnarrow (f : LaneTy → Int → Nat × Flags) (p : Pred) (y : LaneTy) (c : Ctx) : Token × Flags :=
  let d := y.narrower
  laneToken d.width ((List.range (2 * y.count)).map fun i =>
    let src := if i < y.count then c.l else c.r
    let k := i % y.count
    if laneNull src y k || !predLane p c.pt d i then none else some (f d (laneInt y (getLane src.data y k))))

def execVnarrow (p : Pred) (y : LaneTy) (t u : Option Target) (s : State) : Out :=
  laneFire p needLR 1 t u (vnarrow (fun d x => noFlag (wrapInt x d.width)) p y) s
def execVnarrows (p : Pred) (y : LaneTy) (t u : Option Target) (s : State) : Out :=
  laneFire p needLR 1 t u (vnarrow satLane p y) s

/-! ### Floating-point lanes (R189 to R192) -/

/-- The value of a floating-point lane. -/
def laneVal (y : LaneTy) (x : Nat) : Val := fmtValue x y.fmt false

/-- FPC.RM of the block (R110). -/
def Ctx.rm (c : Ctx) : RMode := fpcRm c.run.fpc

/-- Rounded sum; an exact zero takes the sign that the mode gives. -/
def fAddVal (rm : RMode) (a b : Val) : Val := Val.add (rm == 3#2) a b

def fBin (f : RMode → Val → Val → Val) (y : LaneTy) (rm : RMode) (a b : Nat) : Nat × Flags :=
  roundLane (f rm (laneVal y a) (laneVal y b)) y.fmt rm

/-- FDIV: a finite nonzero value over zero raises DZ. -/
def fDivLane (y : LaneTy) (rm : RMode) (a b : Nat) : Nat × Flags :=
  let x := laneVal y a
  let z := laneVal y b
  let (r, fl) := roundLane (x.div z) y.fmt rm
  (r, fl ||| flagIf (z.isZero && !x.isZero && !x.isNan && !x.isInf) flagDZ)

/-- FMA and FMS: one rounding; infinity times zero is invalid even when c is a quiet NaN (R189). -/
def fFma (sub : Bool) (y : LaneTy) (rm : RMode) (a b c : Nat) : Nat × Flags :=
  let z := laneVal y c
  roundLane (fAddVal rm ((laneVal y a).mul (laneVal y b)) (if sub then z.negate else z)) y.fmt rm

/-- minimumNumber and maximumNumber (R189): a NaN yields the other operand, -0 < +0. -/
def fPick (least : Bool) (y : LaneTy) (_rm : RMode) (a b : Nat) : Nat × Flags :=
  let x := laneVal y a
  let z := laneVal y b
  let fl := snanFlag [x, z]
  if x.isNan && z.isNan then (nanOrZero y.fmt false, fl)
  else if x.isNan then (b, fl)
  else if z.isNan then (a, fl)
  else
    let xLess := match x.cmp z with
      | .lt => true
      | .gt => false
      | .eq => x.neg? && !z.neg?
    (if xLess == least then a else if x.cmp z == .eq && x.neg? == z.neg? then a else b, fl)

/-- A comparison of R190: `quiet` raises NV for a signalling NaN only. -/
def fCmp (quiet : Bool) (f : Ordering → Bool) (onNan : Bool) (y : LaneTy) (_rm : RMode) (a b : Nat) : Nat × Flags :=
  let x := laneVal y a
  let z := laneVal y b
  let un := x.isNan || z.isNan
  let r := if un then onNan else f (x.cmp z)
  ((allOnesLane y r).1, if quiet then snanFlag [x, z] else flagIf un flagNV)

/-- A two-operand floating-point form. -/
def execFloat2 (f : LaneTy → RMode → Nat → Nat → Nat × Flags) (lat : Nat) (p : Pred) (y : LaneTy) (t u : Option Target)
    (s : State) : Out :=
  laneFire p needLR lat t u (fun c => lanes2 p y (f y c.rm) c) s

def execFadd (p : Pred) (y : LaneTy) (t u : Option Target) (s : State) : Out := execFloat2 (fBin fAddVal) 4 p y t u s
def execFsub (p : Pred) (y : LaneTy) (t u : Option Target) (s : State) : Out :=
  execFloat2 (fBin fun rm a b => fAddVal rm a b.negate) 4 p y t u s
def execFmul (p : Pred) (y : LaneTy) (t u : Option Target) (s : State) : Out :=
  execFloat2 (fBin fun _ a b => a.mul b) 4 p y t u s
def execFmin (p : Pred) (y : LaneTy) (t u : Option Target) (s : State) : Out := execFloat2 (fPick true) 2 p y t u s
def execFmax (p : Pred) (y : LaneTy) (t u : Option Target) (s : State) : Out := execFloat2 (fPick false) 2 p y t u s
def execFceq (p : Pred) (y : LaneTy) (t u : Option Target) (s : State) : Out :=
  execFloat2 (fCmp true (· == .eq) false) 2 p y t u s
def execFclt (p : Pred) (y : LaneTy) (t u : Option Target) (s : State) : Out :=
  execFloat2 (fCmp false (· == .lt) false) 2 p y t u s
def execFcle (p : Pred) (y : LaneTy) (t u : Option Target) (s : State) : Out :=
  execFloat2 (fCmp false (· != .gt) false) 2 p y t u s
def execFcun (p : Pred) (y : LaneTy) (t u : Option Target) (s : State) : Out :=
  execFloat2 (fCmp true (fun _ => false) true) 2 p y t u s

def execFma (y : LaneTy) (t u : Option Target) (s : State) : Out :=
  laneFire .always needLRP 4 t u (fun c => lanes3 y (fFma false y c.rm) c) s
def execFms (y : LaneTy) (t u : Option Target) (s : State) : Out :=
  laneFire .always needLRP 4 t u (fun c => lanes3 y (fFma true y c.rm) c) s

/-- Latency and occupancy of the divide unit (Table 6-2). -/
def fdivLat (y : LaneTy) : Nat := if y = .f32 then 14 else 10
def fdivBusy (y : LaneTy) : Nat := if y = .f32 then 7 else 5

/-- The lane divide unit and the special-function unit taken (R201). -/
def State.takeLaneDiv (s : State) (core n : Nat) : State := s.modCore core fun k => { k with ldivFree := s.cyc core + n }
def State.takeSfu (s : State) (core : Nat) : State := s.modCore core fun k => { k with sfuFree := s.cyc core + 1 }

/-- A form of the lane divide unit. -/
def laneFireDiv (p : Pred) (need : Inst → Bool) (y : LaneTy) (t u : Option Target) (f : Ctx → Token × Flags) (s : State) : Out :=
  firing .always (laneReady p need) (fun c => s.finish c)
    (fun c => let (tok, fl) := f c; (s.takeLaneDiv c.core (fdivBusy y)).fireToken c t u (fdivLat y) tok fl) s

def execFdiv (p : Pred) (y : LaneTy) (t u : Option Target) (s : State) : Out :=
  laneFireDiv p needLR y t u (fun c => lanes2 p y (fDivLane y c.rm) c) s

/-- √a: -0 gives -0; a negative nonzero value is invalid (R191). -/
def fSqrtLane (y : LaneTy) (rm : RMode) (a : Nat) : Nat × Flags :=
  match laneVal y a with
  | .fin neg num den exp =>
    if num = 0 then (a, 0#6)
    else if neg then (nanOrZero y.fmt false, flagNV)
    else let (n, d, e) := sqrtMag num den exp; roundLane (.fin false n d e) y.fmt rm
  | .inf neg => if neg then (nanOrZero y.fmt false, flagNV) else (a, 0#6)
  | .nan sig => (nanOrZero y.fmt false, flagIf sig flagNV)

def execFsqrt (p : Pred) (y : LaneTy) (t u : Option Target) (s : State) : Out :=
  laneFireDiv p needL y t u (fun c => lanes1 p y (fSqrtLane y c.rm) c) s

/-- FABS and FNEG (R191). -/
def fSignLane (f : Bool → Bool) (y : LaneTy) (a : Nat) : Nat × Flags :=
  match laneVal y a with
  | .nan sig => (nanOrZero y.fmt false, flagIf sig flagNV)
  | v => (signCode y.fmt (f v.neg?) (a % y.fmt.signBit), 0#6)

def execFabs (p : Pred) (y : LaneTy) (t u : Option Target) (s : State) : Out :=
  laneFire p needL 2 t u (fun c => lanes1 p y (fSignLane (fun _ => false) y) c) s
def execFneg (p : Pred) (y : LaneTy) (t u : Option Target) (s : State) : Out :=
  laneFire p needL 2 t u (fun c => lanes1 p y (fSignLane (fun b => !b) y) c) s

/-- One level of the tree of FREDADD: adjacent nodes joined, the lower index on the left (R191). -/
def redLevel (y : LaneTy) (rm : RMode) : List LaneRes → List LaneRes
  | some (a, f) :: some (b, g) :: rest =>
    (let (r, h) := fBin fAddVal y rm a b; some (r, f ||| g ||| h)) :: redLevel y rm rest
  | some x :: none :: rest => some x :: redLevel y rm rest
  | none :: b :: rest => b :: redLevel y rm rest
  | [x] => [x]
  | [] => []

/-- A NaN that reaches the root unjoined, as the only lane that is not null, gives the canonical NaN, and NV where it is signalling (R104). -/
def redRoot (y : LaneTy) (rm : RMode) (r : Nat) (f : Flags) : Nat × Flags :=
  match laneVal y r with
  | .nan _ => let q := roundLane (laneVal y r) y.fmt rm; (q.1, f ||| q.2)
  | _ => (r, f)

/-- FREDADD: the root in lane 0, the other lanes +0; null when every source lane is null. -/
def fredadd (p : Pred) (y : LaneTy) (c : Ctx) : Token × Flags :=
  let leaves : List LaneRes := (List.range y.count).map fun i =>
    if laneNull c.l y i || !predLane p c.pt y i then none else some (noFlag (getLane c.l.data y i))
  let l3 := redLevel y c.rm (redLevel y c.rm leaves)
  let root := if y.count = 8 then redLevel y c.rm l3 else l3
  match root with
  | some (r, f) :: _ => let q := redRoot y c.rm r f; ({ data := BitVec.ofNat 128 q.1 }, q.2)
  | _ => (nullToken, 0#6)

def execFredadd (p : Pred) (y : LaneTy) (t u : Option Target) (s : State) : Out :=
  laneFire p needL (if y = .f32 then 8 else 12) t u (fredadd p y) s

/-! ### Special functions (R107, R192, Table 3-8) -/

def exp2Lane (y : LaneTy) (rm : RMode) (a : Nat) : Nat × Flags :=
  match laneVal y a with
  | .nan sig => (nanOrZero y.fmt false, flagIf sig flagNV)
  | .inf neg => roundLane (if neg then .zero false else .inf false) y.fmt rm
  | .fin neg num den exp => roundLane (if num = 0 then .ofInt 1 else exp2Val neg num den exp) y.fmt rm

def log2Lane (y : LaneTy) (rm : RMode) (a : Nat) : Nat × Flags :=
  match laneVal y a with
  | .nan sig => (nanOrZero y.fmt false, flagIf sig flagNV)
  | .inf neg => if neg then (nanOrZero y.fmt false, flagNV) else roundLane (.inf false) y.fmt rm
  | .fin neg num den exp =>
    if num = 0 then ((roundLane (.inf true) y.fmt rm).1, flagDZ)
    else if neg then (nanOrZero y.fmt false, flagNV)
    else roundLane (log2Val num den exp) y.fmt rm

def rcpLane (y : LaneTy) (rm : RMode) (a : Nat) : Nat × Flags :=
  match laneVal y a with
  | .nan sig => (nanOrZero y.fmt false, flagIf sig flagNV)
  | .inf neg => roundLane (.zero neg) y.fmt rm
  | .fin neg num den exp =>
    if num = 0 then ((roundLane (.inf neg) y.fmt rm).1, flagDZ) else roundLane (.fin neg den num (-exp)) y.fmt rm

def rsqLane (y : LaneTy) (rm : RMode) (a : Nat) : Nat × Flags :=
  match laneVal y a with
  | .nan sig => (nanOrZero y.fmt false, flagIf sig flagNV)
  | .inf neg => if neg then (nanOrZero y.fmt false, flagNV) else roundLane (.zero false) y.fmt rm
  | .fin neg num den exp =>
    if num = 0 then ((roundLane (.inf neg) y.fmt rm).1, flagDZ)
    else if neg then (nanOrZero y.fmt false, flagNV)
    else let (n, d, e) := sqrtMag den num (-exp); roundLane (.fin false n d e) y.fmt rm

def tanhLane (y : LaneTy) (rm : RMode) (a : Nat) : Nat × Flags :=
  match laneVal y a with
  | .nan sig => (nanOrZero y.fmt false, flagIf sig flagNV)
  | .inf neg => roundLane (.fin neg 1 1 0) y.fmt rm
  | .fin neg num den exp => if num = 0 then (a, 0#6) else roundLane (tanhVal neg num den exp) y.fmt rm

/-- A form of the special-function unit. -/
def execSpecial (f : LaneTy → RMode → Nat → Nat × Flags) (p : Pred) (y : LaneTy) (t u : Option Target) (s : State) : Out :=
  firing .always (laneReady p needL) (fun c => s.finish c)
    (fun c => let (tok, fl) := lanes1 p y (f y c.rm) c; (s.takeSfu c.core).fireToken c t u 6 tok fl) s

def execExp2 (p : Pred) (y : LaneTy) (t u : Option Target) (s : State) : Out := execSpecial exp2Lane p y t u s
def execLog2 (p : Pred) (y : LaneTy) (t u : Option Target) (s : State) : Out := execSpecial log2Lane p y t u s
def execRcp (p : Pred) (y : LaneTy) (t u : Option Target) (s : State) : Out := execSpecial rcpLane p y t u s
def execRsq (p : Pred) (y : LaneTy) (t u : Option Target) (s : State) : Out := execSpecial rsqLane p y t u s
def execTanh (p : Pred) (y : LaneTy) (t u : Option Target) (s : State) : Out := execSpecial tanhLane p y t u s

/-- FRINT: an integral value under rm, keeping the sign of zero (R192). -/
def frintLane (y : LaneTy) (rm : RMode) (a : Nat) : Nat × Flags :=
  match laneVal y a with
  | .nan sig => (nanOrZero y.fmt false, flagIf sig flagNV)
  | .inf _ => (a, 0#6)
  | .fin neg num den exp =>
    if num = 0 then (a, 0#6)
    else
      let (k, exact) := roundScaled rm neg num den exp
      ((roundLane (.fin neg k 1 0) y.fmt rm).1, flagIf (!exact) flagNX)

def execFrint (p : Pred) (y : LaneTy) (t u : Option Target) (s : State) : Out :=
  laneFire p needL 2 t u (fun c => lanes1 p y (frintLane y c.rm) c) s

/-! ### Conversions (R193 to R195) -/

/-- One lane of CVT. -/
def cvtLane (d s : LaneTy) (rm : RMode) (a : Nat) : Nat × Flags :=
  if s.isInt then cvtFromInt (laneInt s a) d.fmt rm
  else if d.isInt then cvtToInt (laneVal s a) d.isSigned d.width rm
  else roundLane (laneVal s a) d.fmt rm

/-- CVT: m lanes, the predicate read under the destination type; the bits above them are zero values. -/
def cvt (p : Pred) (d y : LaneTy) (c : Ctx) : Token × Flags :=
  laneToken d.width ((List.range (min y.count d.count)).map fun i =>
    if laneNull c.l y i || !predLane p c.pt d i then none else some (cvtLane d y c.rm (getLane c.l.data y i)))

def execCvtFloatSource (p : Pred) (d y : LaneTy) (t u : Option Target) (s : State) : Out := laneFire p needL 3 t u (cvt p d y) s
def execCvtIntegerSource (p : Pred) (d y : LaneTy) (t u : Option Target) (s : State) : Out := laneFire p needL 3 t u (cvt p d y) s

/-- The null mask of packed elements: a byte is null when every element with bits in it is null (R194). -/
def packedNull (w : Nat) (nulls : List Bool) : Nat :=
  (List.range (packedBytes w nulls.length)).foldl (fun m b =>
    let allNull := (List.range nulls.length).all fun i =>
      !(decide (w * i < 8 * (b + 1)) && decide (8 * b < w * (i + 1))) || nulls.getD i false
    if allNull then m + 2 ^ b else m) 0

/-- SNARROW (R194). -/
def snarrow (p : Pred) (f : MFmt) (y : LaneTy) (c : Ctx) : Token × Flags :=
  let sc := c.r.data.toNat % 65536
  let res : List LaneRes := (List.range y.count).map fun i =>
    if laneNull c.l y i || !predLane p c.pt y i || c.r.nullIn 2 then none
    else some (narrowScaled (laneVal y (getLane c.l.data y i)) sc f c.rm (fpcSat c.run.fpc) (c.run.nanm.getLsbD 0))
  let codes := res.map fun r => match r with | some (x, _) => x | none => 0
  let fl := res.foldl (fun a r => match r with | some (_, g) => a ||| g | none => a) 0#6
  ({ data := BitVec.ofNat 128 (packElems f.width codes), mask := BitVec.ofNat 16 (packedNull f.width (res.map Option.isNone)) }, fl)

def execSnarrow (p : Pred) (f : MFmt) (y : LaneTy) (t u : Option Target) (s : State) : Out :=
  laneFire p needLR 4 t u (snarrow p f y) s

/-- SWIDEN (R195). -/
def swiden (p : Pred) (d : LaneTy) (f : MFmt) (c : Ctx) : Token × Flags :=
  let sc := c.r.data.toNat % 65536
  laneToken d.width ((List.range d.count).map fun i =>
    let lo := f.width * i / 8
    let hi := (f.width * (i + 1) - 1) / 8
    let nul := bits c.l.mask.toNat hi lo != 0
    if nul || c.r.nullIn 2 || !predLane p c.pt d i then none
    else some (widenScaled (packedElem c.l.data.toNat f.width i) f sc d.fmt c.rm (c.run.nanm.getLsbD 0)))

def execSwiden (p : Pred) (d : LaneTy) (f : MFmt) (t u : Option Target) (s : State) : Out :=
  laneFire p needLR 4 t u (swiden p d f) s

/-! ### Compact forms (R61, R197) -/

def execVaddCompact (y : LaneTy) (t : Option Target) (s : State) : Out := execLane2 (fun y => iWrap y (· + ·)) 1 .always y t none s
def execVsubCompact (y : LaneTy) (t : Option Target) (s : State) : Out := execLane2 (fun y => iWrap y (· - ·)) 1 .always y t none s
def execVmulCompact (y : LaneTy) (t : Option Target) (s : State) : Out := execLane2 (fun y => iWrap y (· * ·)) 3 .always y t none s
def execVminCompact (y : LaneTy) (t : Option Target) (s : State) : Out := execLane2 (fun y => iWrap y iMin) 1 .always y t none s
def execVmaxCompact (y : LaneTy) (t : Option Target) (s : State) : Out := execLane2 (fun y => iWrap y iMax) 1 .always y t none s
def execVandCompact (y : LaneTy) (t : Option Target) (s : State) : Out := execLane2 laneAnd 1 .always y t none s
def execVorCompact (y : LaneTy) (t : Option Target) (s : State) : Out := execLane2 laneOr 1 .always y t none s
def execVxorCompact (y : LaneTy) (t : Option Target) (s : State) : Out := execLane2 laneXor 1 .always y t none s
def execVshlCompact (y : LaneTy) (t : Option Target) (s : State) : Out := execLane2 iShl 1 .always y t none s
def execVshrCompact (y : LaneTy) (t : Option Target) (s : State) : Out := execLane2 iShr 1 .always y t none s
def execVceqCompact (y : LaneTy) (t : Option Target) (s : State) : Out :=
  execLane2 (fun y => iCmp y fun a b => decide (a = b)) 1 .always y t none s
def execFaddCompact (y : LaneTy) (t : Option Target) (s : State) : Out := execFloat2 (fBin fAddVal) 4 .always y t none s
def execFsubCompact (y : LaneTy) (t : Option Target) (s : State) : Out :=
  execFloat2 (fBin fun rm a b => fAddVal rm a b.negate) 4 .always y t none s
def execFmulCompact (y : LaneTy) (t : Option Target) (s : State) : Out :=
  execFloat2 (fBin fun _ a b => a.mul b) 4 .always y t none s
def execFminCompact (y : LaneTy) (t : Option Target) (s : State) : Out := execFloat2 (fPick true) 2 .always y t none s
def execFmaxCompact (y : LaneTy) (t : Option Target) (s : State) : Out := execFloat2 (fPick false) 2 .always y t none s

end Sys2Proof.Machine
end

