-- ==== Sys2Proof/Machine/Dispatch.lean ====
section
/-! DEFINITION. One arm for each instruction and event: what it does is the meaning the arm calls. -/

namespace Sys2Proof.Machine

def exec (i : Instr) (s : State) : Host.Outcome State Fault Refusal :=
  match i with
  | .br p x o => Sys2Proof.Machine.execBr p x o s
  | .call p x o => Sys2Proof.Machine.execCall p x o s
  | .bri p x => Sys2Proof.Machine.execBri p x s
  | .calli p x => Sys2Proof.Machine.execCalli p x s
  | .ret p x => Sys2Proof.Machine.execRet p x s
  | .susp p x o => Sys2Proof.Machine.execSusp p x o s
  | .retire p x => Sys2Proof.Machine.execRetire p x s
  | .read r t u => Sys2Proof.Machine.execRead r t u s
  | .readt r t u => Sys2Proof.Machine.execReadt r t u s
  | .write r => Sys2Proof.Machine.execWrite r s
  | .rdc r t u => Sys2Proof.Machine.execRdc r t u s
  | .wrc r => Sys2Proof.Machine.execWrc r s
  | .null p => Sys2Proof.Machine.execNull p s
  | .mov p t u => Sys2Proof.Machine.execMov p t u s
  | .align => Sys2Proof.Machine.execAlign s
  | .movi p imm t => Sys2Proof.Machine.execMovi p imm t s
  | .appi p imm t => Sys2Proof.Machine.execAppi p imm t s
  | .add p t u => Sys2Proof.Machine.execAdd p t u s
  | .sub p t u => Sys2Proof.Machine.execSub p t u s
  | .mul p t u => Sys2Proof.Machine.execMul p t u s
  | .mulhs p t u => Sys2Proof.Machine.execMulhs p t u s
  | .mulhn p t u => Sys2Proof.Machine.execMulhn p t u s
  | .divs p t u => Sys2Proof.Machine.execDivs p t u s
  | .divn p t u => Sys2Proof.Machine.execDivn p t u s
  | .rems p t u => Sys2Proof.Machine.execRems p t u s
  | .remn p t u => Sys2Proof.Machine.execRemn p t u s
  | .mins p t u => Sys2Proof.Machine.execMins p t u s
  | .minn p t u => Sys2Proof.Machine.execMinn p t u s
  | .maxs p t u => Sys2Proof.Machine.execMaxs p t u s
  | .maxn p t u => Sys2Proof.Machine.execMaxn p t u s
  | .neg p t u => Sys2Proof.Machine.execNeg p t u s
  | .abs p t u => Sys2Proof.Machine.execAbs p t u s
  | .and p t u => Sys2Proof.Machine.execAnd p t u s
  | .or p t u => Sys2Proof.Machine.execOr p t u s
  | .xor p t u => Sys2Proof.Machine.execXor p t u s
  | .andn p t u => Sys2Proof.Machine.execAndn p t u s
  | .shl p t u => Sys2Proof.Machine.execShl p t u s
  | .shrn p t u => Sys2Proof.Machine.execShrn p t u s
  | .shrs p t u => Sys2Proof.Machine.execShrs p t u s
  | .rotl p t u => Sys2Proof.Machine.execRotl p t u s
  | .not p t u => Sys2Proof.Machine.execNot p t u s
  | .popc p t u => Sys2Proof.Machine.execPopc p t u s
  | .clz p t u => Sys2Proof.Machine.execClz p t u s
  | .ctz p t u => Sys2Proof.Machine.execCtz p t u s
  | .ceq p t u => Sys2Proof.Machine.execCeq p t u s
  | .cne p t u => Sys2Proof.Machine.execCne p t u s
  | .clts p t u => Sys2Proof.Machine.execClts p t u s
  | .cles p t u => Sys2Proof.Machine.execCles p t u s
  | .cltn p t u => Sys2Proof.Machine.execCltn p t u s
  | .clen p t u => Sys2Proof.Machine.execClen p t u s
  | .sel t u => Sys2Proof.Machine.execSel t u s
  | .exts8 p t u => Sys2Proof.Machine.execExts8 p t u s
  | .exts16 p t u => Sys2Proof.Machine.execExts16 p t u s
  | .exts32 p t u => Sys2Proof.Machine.execExts32 p t u s
  | .extn8 p t u => Sys2Proof.Machine.execExtn8 p t u s
  | .extn16 p t u => Sys2Proof.Machine.execExtn16 p t u s
  | .extn32 p t u => Sys2Proof.Machine.execExtn32 p t u s
  | .addi p imm t => Sys2Proof.Machine.execAddi p imm t s
  | .muli p imm t => Sys2Proof.Machine.execMuli p imm t s
  | .andi p imm t => Sys2Proof.Machine.execAndi p imm t s
  | .ori p imm t => Sys2Proof.Machine.execOri p imm t s
  | .xori p imm t => Sys2Proof.Machine.execXori p imm t s
  | .shli p imm t => Sys2Proof.Machine.execShli p imm t s
  | .shrni p imm t => Sys2Proof.Machine.execShrni p imm t s
  | .shrsi p imm t => Sys2Proof.Machine.execShrsi p imm t s
  | .ceqi p imm t => Sys2Proof.Machine.execCeqi p imm t s
  | .cltsi p imm t => Sys2Proof.Machine.execCltsi p imm t s
  | .vadd p y t u => Sys2Proof.Machine.execVadd p y t u s
  | .vsub p y t u => Sys2Proof.Machine.execVsub p y t u s
  | .vadds p y t u => Sys2Proof.Machine.execVadds p y t u s
  | .vsubs p y t u => Sys2Proof.Machine.execVsubs p y t u s
  | .vmul p y t u => Sys2Proof.Machine.execVmul p y t u s
  | .vmulh p y t u => Sys2Proof.Machine.execVmulh p y t u s
  | .vmin p y t u => Sys2Proof.Machine.execVmin p y t u s
  | .vmax p y t u => Sys2Proof.Machine.execVmax p y t u s
  | .vand p y t u => Sys2Proof.Machine.execVand p y t u s
  | .vor p y t u => Sys2Proof.Machine.execVor p y t u s
  | .vxor p y t u => Sys2Proof.Machine.execVxor p y t u s
  | .vandn p y t u => Sys2Proof.Machine.execVandn p y t u s
  | .vshl p y t u => Sys2Proof.Machine.execVshl p y t u s
  | .vshr p y t u => Sys2Proof.Machine.execVshr p y t u s
  | .vrotl p y t u => Sys2Proof.Machine.execVrotl p y t u s
  | .vnot p y t u => Sys2Proof.Machine.execVnot p y t u s
  | .vceq p y t u => Sys2Proof.Machine.execVceq p y t u s
  | .vcne p y t u => Sys2Proof.Machine.execVcne p y t u s
  | .vclt p y t u => Sys2Proof.Machine.execVclt p y t u s
  | .vcle p y t u => Sys2Proof.Machine.execVcle p y t u s
  | .vsplat p y t u => Sys2Proof.Machine.execVsplat p y t u s
  | .vextr p y t u => Sys2Proof.Machine.execVextr p y t u s
  | .vperm p y t u => Sys2Proof.Machine.execVperm p y t u s
  | .vsel y t u => Sys2Proof.Machine.execVsel y t u s
  | .vredadd p y t u => Sys2Proof.Machine.execVredadd p y t u s
  | .vredmin p y t u => Sys2Proof.Machine.execVredmin p y t u s
  | .vredmax p y t u => Sys2Proof.Machine.execVredmax p y t u s
  | .vabs p y t u => Sys2Proof.Machine.execVabs p y t u s
  | .vwidenlo p y t u => Sys2Proof.Machine.execVwidenlo p y t u s
  | .vwidenhi p y t u => Sys2Proof.Machine.execVwidenhi p y t u s
  | .vnarrow p y t u => Sys2Proof.Machine.execVnarrow p y t u s
  | .vnarrows p y t u => Sys2Proof.Machine.execVnarrows p y t u s
  | .fadd p y t u => Sys2Proof.Machine.execFadd p y t u s
  | .fsub p y t u => Sys2Proof.Machine.execFsub p y t u s
  | .fmul p y t u => Sys2Proof.Machine.execFmul p y t u s
  | .fdiv p y t u => Sys2Proof.Machine.execFdiv p y t u s
  | .fma y t u => Sys2Proof.Machine.execFma y t u s
  | .fms y t u => Sys2Proof.Machine.execFms y t u s
  | .fmin p y t u => Sys2Proof.Machine.execFmin p y t u s
  | .fmax p y t u => Sys2Proof.Machine.execFmax p y t u s
  | .fceq p y t u => Sys2Proof.Machine.execFceq p y t u s
  | .fclt p y t u => Sys2Proof.Machine.execFclt p y t u s
  | .fcle p y t u => Sys2Proof.Machine.execFcle p y t u s
  | .fcun p y t u => Sys2Proof.Machine.execFcun p y t u s
  | .fabs p y t u => Sys2Proof.Machine.execFabs p y t u s
  | .fneg p y t u => Sys2Proof.Machine.execFneg p y t u s
  | .fsqrt p y t u => Sys2Proof.Machine.execFsqrt p y t u s
  | .fredadd p y t u => Sys2Proof.Machine.execFredadd p y t u s
  | .exp2 p y t u => Sys2Proof.Machine.execExp2 p y t u s
  | .log2 p y t u => Sys2Proof.Machine.execLog2 p y t u s
  | .rcp p y t u => Sys2Proof.Machine.execRcp p y t u s
  | .rsq p y t u => Sys2Proof.Machine.execRsq p y t u s
  | .tanh p y t u => Sys2Proof.Machine.execTanh p y t u s
  | .frint p y t u => Sys2Proof.Machine.execFrint p y t u s
  | .cvtFloatSource p d q t u => Sys2Proof.Machine.execCvtFloatSource p d q t u s
  | .cvtIntegerSource p d q t u => Sys2Proof.Machine.execCvtIntegerSource p d q t u s
  | .snarrow p f q t u => Sys2Proof.Machine.execSnarrow p f q t u s
  | .swiden p d f t u => Sys2Proof.Machine.execSwiden p d f t u s
  | .vaddCompact y t => Sys2Proof.Machine.execVaddCompact y t s
  | .vsubCompact y t => Sys2Proof.Machine.execVsubCompact y t s
  | .vmulCompact y t => Sys2Proof.Machine.execVmulCompact y t s
  | .vminCompact y t => Sys2Proof.Machine.execVminCompact y t s
  | .vmaxCompact y t => Sys2Proof.Machine.execVmaxCompact y t s
  | .vandCompact y t => Sys2Proof.Machine.execVandCompact y t s
  | .vorCompact y t => Sys2Proof.Machine.execVorCompact y t s
  | .vxorCompact y t => Sys2Proof.Machine.execVxorCompact y t s
  | .vshlCompact y t => Sys2Proof.Machine.execVshlCompact y t s
  | .vshrCompact y t => Sys2Proof.Machine.execVshrCompact y t s
  | .vceqCompact y t => Sys2Proof.Machine.execVceqCompact y t s
  | .faddCompact y t => Sys2Proof.Machine.execFaddCompact y t s
  | .fsubCompact y t => Sys2Proof.Machine.execFsubCompact y t s
  | .fmulCompact y t => Sys2Proof.Machine.execFmulCompact y t s
  | .fminCompact y t => Sys2Proof.Machine.execFminCompact y t s
  | .fmaxCompact y t => Sys2Proof.Machine.execFmaxCompact y t s
  | .ld p z n o t => Sys2Proof.Machine.execLd p z n o t s
  | .st p z n o => Sys2Proof.Machine.execSt p z n o s
  | .ldd p z n r o => Sys2Proof.Machine.execLdd p z n r o s
  | .take p n o t => Sys2Proof.Machine.execTake p n o t s
  | .look p n o t => Sys2Proof.Machine.execLook p n o t s
  | .give p n o => Sys2Proof.Machine.execGive p n o s
  | .amend p n o => Sys2Proof.Machine.execAmend p n o s
  | .post p n o => Sys2Proof.Machine.execPost p n o s
  | .void p n o => Sys2Proof.Machine.execVoid p n o s
  | .febit p n o t => Sys2Proof.Machine.execFebit p n o t s
  | .aadd p m n o t => Sys2Proof.Machine.execAadd p m n o t s
  | .aand p m n o t => Sys2Proof.Machine.execAand p m n o t s
  | .aor p m n o t => Sys2Proof.Machine.execAor p m n o t s
  | .axor p m n o t => Sys2Proof.Machine.execAxor p m n o t s
  | .amins p m n o t => Sys2Proof.Machine.execAmins p m n o t s
  | .amaxs p m n o t => Sys2Proof.Machine.execAmaxs p m n o t s
  | .aminn p m n o t => Sys2Proof.Machine.execAminn p m n o t s
  | .amaxn p m n o t => Sys2Proof.Machine.execAmaxn p m n o t s
  | .aswp p m n o t => Sys2Proof.Machine.execAswp p m n o t s
  | .acas m n o t => Sys2Proof.Machine.execAcas m n o t s
  | .fenceCore p n => Sys2Proof.Machine.execFenceCore p n s
  | .fenceBasin p n => Sys2Proof.Machine.execFenceBasin p n s
  | .fenceSys p n => Sys2Proof.Machine.execFenceSys p n s
  | .ldacqCore p n o t => Sys2Proof.Machine.execLdacqCore p n o t s
  | .ldacqBasin p n o t => Sys2Proof.Machine.execLdacqBasin p n o t s
  | .ldacqSys p n o t => Sys2Proof.Machine.execLdacqSys p n o t s
  | .strelCore p n o => Sys2Proof.Machine.execStrelCore p n o s
  | .strelBasin p n o => Sys2Proof.Machine.execStrelBasin p n o s
  | .strelSys p n o => Sys2Proof.Machine.execStrelSys p n o s
  | .probe p n t => Sys2Proof.Machine.execProbe p n t s
  | .mls p n => Sys2Proof.Machine.execMls p n s
  | .mlsc p n v => Sys2Proof.Machine.execMlsc p n v s
  | .mswap p n => Sys2Proof.Machine.execMswap p n s
  | .mstream p n => Sys2Proof.Machine.execMstream p n s
  | .mstreama p n => Sys2Proof.Machine.execMstreama p n s
  | .mzero p n v => Sys2Proof.Machine.execMzero p n v s
  | .mdrain p n => Sys2Proof.Machine.execMdrain p n s
  | .mdrainn p n => Sys2Proof.Machine.execMdrainn p n s
  | .mtask p n => Sys2Proof.Machine.execMtask p n s
  | .mstat p n t => Sys2Proof.Machine.execMstat p n t s
  | .cpy1 p n v => Sys2Proof.Machine.execCpy1 p n v s
  | .cpy2 p n v => Sys2Proof.Machine.execCpy2 p n v s
  | .gath p n v => Sys2Proof.Machine.execGath p n v s
  | .scat p n v => Sys2Proof.Machine.execScat p n v s
  | .fill p n v => Sys2Proof.Machine.execFill p n v s
  | .cpycv p n v => Sys2Proof.Machine.execCpycv p n v s
  | .cpymc p n v => Sys2Proof.Machine.execCpymc p n v s
  | .culv p n v => Sys2Proof.Machine.execCulv p n v s
  | .pghand p n v => Sys2Proof.Machine.execPghand p n v s
  | .ctask p n => Sys2Proof.Machine.execCtask p n s
  | .twany p n t => Sys2Proof.Machine.execTwany p n t s
  | .twall p n t => Sys2Proof.Machine.execTwall p n t s
  | .tffr p n t => Sys2Proof.Machine.execTffr p n t s
  | .cstat p n t => Sys2Proof.Machine.execCstat p n t s
  | .hbind p n v => Sys2Proof.Machine.execHbind p n v s
  | .hbund p n v => Sys2Proof.Machine.execHbund p n v s
  | .hperm p n => Sys2Proof.Machine.execHperm p n s
  | .hthr p n v => Sys2Proof.Machine.execHthr p n v s
  | .hld p n => Sys2Proof.Machine.execHld p n s
  | .hst p n => Sys2Proof.Machine.execHst p n s
  | .hclr p n v => Sys2Proof.Machine.execHclr p n v s
  | .hphase p n => Sys2Proof.Machine.execHphase p n s
  | .hbndld p n => Sys2Proof.Machine.execHbndld p n s
  | .hbndst p n => Sys2Proof.Machine.execHbndst p n s
  | .hmove p n v => Sys2Proof.Machine.execHmove p n v s
  | .hdist p n v r => Sys2Proof.Machine.execHdist p n v r s
  | .hnear p n r => Sys2Proof.Machine.execHnear p n r s
  | .hneark p n r => Sys2Proof.Machine.execHneark p n r s
  | .hpopc p n v r => Sys2Proof.Machine.execHpopc p n v r s
  | .qsend p n => Sys2Proof.Machine.execQsend p n s
  | .qsendv p n => Sys2Proof.Machine.execQsendv p n s
  | .qrecv p n t => Sys2Proof.Machine.execQrecv p n t s
  | .qrecvd p n r => Sys2Proof.Machine.execQrecvd p n r s
  | .qpoll p n t => Sys2Proof.Machine.execQpoll p n t s
  | .qstat p n t => Sys2Proof.Machine.execQstat p n t s
  | .wbar p n t => Sys2Proof.Machine.execWbar p n t s
  | .warr p n => Sys2Proof.Machine.execWarr p n s
  | .wwait p n t => Sys2Proof.Machine.execWwait p n t s
  | .wtime p n t => Sys2Proof.Machine.execWtime p n t s
  | .wsleep p n v t => Sys2Proof.Machine.execWsleep p n v t s
  | .wstat p n t => Sys2Proof.Machine.execWstat p n t s
  | .wcfg p n => Sys2Proof.Machine.execWcfg p n s
  | .wstep p n => Sys2Proof.Machine.execWstep p n s
  | .launch p n => Sys2Proof.Machine.execLaunch p n s
  | .dpush p n => Sys2Proof.Machine.execDpush p n s
  | .dpop p n t => Sys2Proof.Machine.execDpop p n t s
  | .joinad p n v => Sys2Proof.Machine.execJoinad p n v s
  | .joinw p n t => Sys2Proof.Machine.execJoinw p n t s
  | .spawn p n => Sys2Proof.Machine.execSpawn p n s
  | .dstat p n t => Sys2Proof.Machine.execDstat p n t s
  | .dweight p n => Sys2Proof.Machine.execDweight p n s
  | .freeze p => Sys2Proof.Machine.execFreeze p s
  | .thaw p => Sys2Proof.Machine.execThaw p s
  | .ackf p => Sys2Proof.Machine.execAckf p s
  | .stopt p => Sys2Proof.Machine.execStopt p s
  | .startt p => Sys2Proof.Machine.execStartt p s
  | .tlbinv p => Sys2Proof.Machine.execTlbinv p s
  | .swapout p => Sys2Proof.Machine.execSwapout p s
  | .swapin p => Sys2Proof.Machine.execSwapin p s
  | .rdctx p t u => Sys2Proof.Machine.execRdctx p t u s
  | .wrctx => Sys2Proof.Machine.execWrctx s
  | .migr p => Sys2Proof.Machine.execMigr p s
  | .idle p t u => Sys2Proof.Machine.execIdle p t u s
  | .blockLookup c q => Sys2Proof.Machine.execBlockLookup c q s
  | .blockMissFill c q => Sys2Proof.Machine.execBlockMissFill c q s
  | .alignHoldTimeout c q => Sys2Proof.Machine.execAlignHoldTimeout c q s
  | .blockCommit c q => Sys2Proof.Machine.execBlockCommit c q s
  | .performingResult imm => Sys2Proof.Machine.execPerformingResult imm s
  | .fillArrival imm => Sys2Proof.Machine.execFillArrival imm s
  | .waitLimitExpiry c q => Sys2Proof.Machine.execWaitLimitExpiry c q s
  | .withdrawal imm => Sys2Proof.Machine.execWithdrawal imm s
  | .tlbMissRequest c q ix => Sys2Proof.Machine.execTlbMissRequest c q ix s
  | .pageWalk c q ix => Sys2Proof.Machine.execPageWalk c q ix s
  | .homeAccess imm => Sys2Proof.Machine.execHomeAccess imm s
  | .waitlistResend imm => Sys2Proof.Machine.execWaitlistResend imm s
  | .ownershipRequest imm => Sys2Proof.Machine.execOwnershipRequest imm s
  | .patrolScrub a => Sys2Proof.Machine.execPatrolScrub a s
  | .interleaveDescriptorWrite b off v => Sys2Proof.Machine.execInterleaveDescriptorWrite b off v s
  | .mChipletStateWrite n v => Sys2Proof.Machine.execMChipletStateWrite n v s
  | .combinedRead imm j => Sys2Proof.Machine.execCombinedRead imm j s
  | .matrixIntakeArrival c => Sys2Proof.Machine.execMatrixIntakeArrival c s
  | .matrixCommandStart c => Sys2Proof.Machine.execMatrixCommandStart c s
  | .matrixCommandComplete c u => Sys2Proof.Machine.execMatrixCommandComplete c u s
  | .matrixTaskTake b d n c => Sys2Proof.Machine.execMatrixTaskTake b d n c s
  | .matrixTaskStart c => Sys2Proof.Machine.execMatrixTaskStart c s
  | .matrixRetry c => Sys2Proof.Machine.execMatrixRetry c s
  | .matrixSkip c => Sys2Proof.Machine.execMatrixSkip c s
  | .matrixFlush c => Sys2Proof.Machine.execMatrixFlush c s
  | .engineSave c => Sys2Proof.Machine.execEngineSave c s
  | .copyIntakeArrival c => Sys2Proof.Machine.execCopyIntakeArrival c s
  | .copyCommandStart c => Sys2Proof.Machine.execCopyCommandStart c s
  | .copyLineWrite c k => Sys2Proof.Machine.execCopyLineWrite c k s
  | .copyCommandComplete c k => Sys2Proof.Machine.execCopyCommandComplete c k s
  | .copyTaskAccept b d n c => Sys2Proof.Machine.execCopyTaskAccept b d n c s
  | .culvertDataAck c k => Sys2Proof.Machine.execCulvertDataAck c k s
  | .pghandFlagAck c k => Sys2Proof.Machine.execPghandFlagAck c k s
  | .culvertLimitExpiry c k => Sys2Proof.Machine.execCulvertLimitExpiry c k s
  | .copyFclr c => Sys2Proof.Machine.execCopyFclr c s
  | .tagWaitDeliver c q ix => Sys2Proof.Machine.execTagWaitDeliver c q ix s
  | .hvIntakeArrival c => Sys2Proof.Machine.execHvIntakeArrival c s
  | .hvCommandStart c => Sys2Proof.Machine.execHvCommandStart c s
  | .hvCommandComplete c => Sys2Proof.Machine.execHvCommandComplete c s
  | .queueMessageArrival imm => Sys2Proof.Machine.execQueueMessageArrival imm s
  | .queueReservationGrant c q => Sys2Proof.Machine.execQueueReservationGrant c q s
  | .queueRefusal imm => Sys2Proof.Machine.execQueueRefusal imm s
  | .deliveryAck imm => Sys2Proof.Machine.execDeliveryAck imm s
  | .undeliverableReturn imm => Sys2Proof.Machine.execUndeliverableReturn imm s
  | .sumpSpill n imm => Sys2Proof.Machine.execSumpSpill n imm s
  | .sumpDrain n => Sys2Proof.Machine.execSumpDrain n s
  | .nstWrite n k v => Sys2Proof.Machine.execNstWrite n k v s
  | .markerAck n => Sys2Proof.Machine.execMarkerAck n s
  | .queueEnWrite c q v => Sys2Proof.Machine.execQueueEnWrite c q v s
  | .queueDisc c q => Sys2Proof.Machine.execQueueDisc c q s
  | .queueReset c q => Sys2Proof.Machine.execQueueReset c q s
  | .stepRequest imm => Sys2Proof.Machine.execStepRequest imm s
  | .clockStsWrite b v => Sys2Proof.Machine.execClockStsWrite b v s
  | .frequencyStep b => Sys2Proof.Machine.execFrequencyStep b s
  | .relockEnd b => Sys2Proof.Machine.execRelockEnd b s
  | .barrierCellWrite b k v => Sys2Proof.Machine.execBarrierCellWrite b k v s
  | .barrierArrival imm => Sys2Proof.Machine.execBarrierArrival imm s
  | .moduleCompletionReport imm => Sys2Proof.Machine.execModuleCompletionReport imm s
  | .waiterWake c q => Sys2Proof.Machine.execWaiterWake c q s
  | .sleepDeadline c q ix => Sys2Proof.Machine.execSleepDeadline c q ix s
  | .coreGate c => Sys2Proof.Machine.execCoreGate c s
  | .ditchDescriptorWrite b d k v => Sys2Proof.Machine.execDitchDescriptorWrite b d k v s
  | .ditchRst b d => Sys2Proof.Machine.execDitchRst b d s
  | .addseg b v => Sys2Proof.Machine.execAddseg b v s
  | .addimg b v => Sys2Proof.Machine.execAddimg b v s
  | .addsave b v => Sys2Proof.Machine.execAddsave b v s
  | .sluiceHoldWrite b v => Sys2Proof.Machine.execSluiceHoldWrite b v s
  | .regionWrite b k v => Sys2Proof.Machine.execRegionWrite b k v s
  | .ditchAppend imm => Sys2Proof.Machine.execDitchAppend imm s
  | .appendWaitResume b d => Sys2Proof.Machine.execAppendWaitResume b d s
  | .launchExpansion b => Sys2Proof.Machine.execLaunchExpansion b s
  | .dependantSignal b => Sys2Proof.Machine.execDependantSignal b s
  | .placementPass b => Sys2Proof.Machine.execPlacementPass b s
  | .shareBoundary b => Sys2Proof.Machine.execShareBoundary b s
  | .suspensionComplete c q => Sys2Proof.Machine.execSuspensionComplete c q s
  | .rpubWrite b v => Sys2Proof.Machine.execRpubWrite b v s
  | .generationAdopt c => Sys2Proof.Machine.execGenerationAdopt c s
  | .faultPacketArrival imm => Sys2Proof.Machine.execFaultPacketArrival imm s
  | .idleDeliver c q ix => Sys2Proof.Machine.execIdleDeliver c q ix s
  | .supervisorCommandArrival imm => Sys2Proof.Machine.execSupervisorCommandArrival imm s
  | .slotStopw c q => Sys2Proof.Machine.execSlotStopw c q s
  | .slotStartw c q => Sys2Proof.Machine.execSlotStartw c q s
  | .slotFrzw c q => Sys2Proof.Machine.execSlotFrzw c q s
  | .slotFrzClear c q => Sys2Proof.Machine.execSlotFrzClear c q s
  | .slotAckClear c q => Sys2Proof.Machine.execSlotAckClear c q s
  | .contextMirrorWrite c q k v => Sys2Proof.Machine.execContextMirrorWrite c q k v s
  | .sumpWindowWrite n off v => Sys2Proof.Machine.execSumpWindowWrite n off v s
  | .swapoutComplete c => Sys2Proof.Machine.execSwapoutComplete c s
  | .migrArrival imm => Sys2Proof.Machine.execMigrArrival imm s
  | .migrationQuiesce c => Sys2Proof.Machine.execMigrationQuiesce c s
  | .migrationSave c => Sys2Proof.Machine.execMigrationSave c s
  | .migrationCopy c => Sys2Proof.Machine.execMigrationCopy c s
  | .migrationRestore c => Sys2Proof.Machine.execMigrationRestore c s
  | .rdirClear c => Sys2Proof.Machine.execRdirClear c s
  | .powerGood => Sys2Proof.Machine.execPowerGood s
  | .phase0End b => Sys2Proof.Machine.execPhase0End b s
  | .wavefrontSlotStart h => Sys2Proof.Machine.execWavefrontSlotStart h s
  | .offerWindowClose n => Sys2Proof.Machine.execOfferWindowClose n s
  | .clockLock n => Sys2Proof.Machine.execClockLock n s
  | .siteConfigured n => Sys2Proof.Machine.execSiteConfigured n s
  | .memoryClearDone n => Sys2Proof.Machine.execMemoryClearDone n s
  | .seamPass => Sys2Proof.Machine.execSeamPass s
  | .tablesPhase b => Sys2Proof.Machine.execTablesPhase b s
  | .coresRelease b => Sys2Proof.Machine.execCoresRelease b s
  | .cfgacc n a w v => Sys2Proof.Machine.execCfgacc n a w v s
  | .leatFrameReceive n f => Sys2Proof.Machine.execLeatFrameReceive n f s
  | .leatWrite n f => Sys2Proof.Machine.execLeatWrite n f s
  | .leatRead n f => Sys2Proof.Machine.execLeatRead n f s
  | .leatDitchw n f => Sys2Proof.Machine.execLeatDitchw n f s
  | .leatLaunch n f => Sys2Proof.Machine.execLeatLaunch n f s
  | .mgmtStatus n f => Sys2Proof.Machine.execMgmtStatus n f s
  | .mgmtAttest n f => Sys2Proof.Machine.execMgmtAttest n f s
  | .mgmtIdent n f => Sys2Proof.Machine.execMgmtIdent n f s
  | .mgmtFwchunk n f => Sys2Proof.Machine.execMgmtFwchunk n f s
  | .mgmtFwcommit n f => Sys2Proof.Machine.execMgmtFwcommit n f s
  | .mgmtRestart n f => Sys2Proof.Machine.execMgmtRestart n f s
  | .restartComplete => Sys2Proof.Machine.execRestartComplete s
  | .hostComplArrival n q => Sys2Proof.Machine.execHostComplArrival n q s
  | .hostWriteRetransmit n q => Sys2Proof.Machine.execHostWriteRetransmit n q s
  | .linkFlitReceive n fl => Sys2Proof.Machine.execLinkFlitReceive n fl s
  | .linkNakReceive n q => Sys2Proof.Machine.execLinkNakReceive n q s
  | .linkAckReceive n q => Sys2Proof.Machine.execLinkAckReceive n q s
  | .keySlotWrite n k v => Sys2Proof.Machine.execKeySlotWrite n k v s
  | .txksWrite n v => Sys2Proof.Machine.execTxksWrite n v s
  | .wreqWrite n v => Sys2Proof.Machine.execWreqWrite n v s
  | .widthChange n => Sys2Proof.Machine.execWidthChange n s
  | .laneLockLoss n => Sys2Proof.Machine.execLaneLockLoss n s
  | .portEnWrite n v => Sys2Proof.Machine.execPortEnWrite n v s
  | .powerWindow a => Sys2Proof.Machine.execPowerWindow a s
  | .marginSample b a => Sys2Proof.Machine.execMarginSample b a s
  | .traceSessionWrite b n k v => Sys2Proof.Machine.execTraceSessionWrite b n k v s
  | .replayGo c => Sys2Proof.Machine.execReplayGo c s
  | .configWrite n off v => Sys2Proof.Machine.execConfigWrite n off v s
  | .basinClockEdge b => Sys2Proof.Machine.execBasinClockEdge b s
  | .softError a w => Sys2Proof.Machine.execSoftError a w s
  | .leatLinkChange n w => Sys2Proof.Machine.execLeatLinkChange n w s
  | .linkTrainingDone n w k => Sys2Proof.Machine.execLinkTrainingDone n w k s

end Sys2Proof.Machine
end

