-- ==== Sys2Proof/Machine/Fire.lean ====
section
/-! DEFINITION. The firing of one instruction in its core's turn (spec/05_block_engine.md R145, R170, R171), and the acts of the
schedule. -/

namespace Sys2Proof.Machine

/-- Whether the turn of a core lets an instruction of a slot fire. -/
def State.mayFire (s : State) (core slot ix : Nat) : Bool :=
  match (s.coreAt core).turn with
  | some t => decide (t.slot = slot) && t.sel.contains ix
  | none => false

/-- The instruction that an act fires, if it may. -/
def State.firingInstr (s : State) (core slot ix : Nat) : Option Instr :=
  if s.mayFire core slot ix then
    match s.runAt core slot with
    | some r => r.instr ix
    | none => none
  else none

/-- The state in which the instruction's meaning acts: its place in the turn is used, the slot's FIRED counter has grown, and `cur`
names it. -/
def State.atFire (s : State) (core slot ix : Nat) : State :=
  { ((s.modCore core fun k => { k with turn := k.turn.map fun t => { t with sel := t.sel.filter (· ≠ ix) } }).account core slot 5 1) with
    cur := some ⟨core, slot, ix⟩ }

/-- What follows the meaning of a fired instruction: nothing fires any more, and the tail of a committed block is looked at (R155). -/
def State.fired (s : State) (core slot : Nat) : State := ({ s with cur := none } : State).tailSettle core slot

/-- The outcome of a meaning with what follows it. -/
def Out.after (o : Out) (f : State → State) : Out :=
  match o with
  | .next t => .next (f t)
  | .fault r => .fault r
  | .refused r => .refused r

/-- An act of the schedule. One that may not take place changes nothing. -/
def State.act (s : State) (a : Act) : Out :=
  match a with
  | .ev i => exec i s
  | .fire core slot ix => match s.firingInstr core slot ix with
    | none => .next s
    | some i => Out.after (exec i (s.atFire core slot ix)) fun t => t.fired core slot

end Sys2Proof.Machine
end

