-- ==== Sys2Proof/Machine/Step.lean ====
section
/-! DEFINITION. One step of the machine: the next act of its schedule (log entry 1). -/

namespace Sys2Proof.Machine

/-- The step: the head of the agenda takes place. With an empty agenda nothing is scheduled and nothing changes. -/
def step (s : State) : Host.Outcome State Fault Refusal :=
  match s.agenda with
  | [] => .next s
  | a :: rest => State.act { s with agenda := rest } a

/-- The core whose rider slot runs an instruction placed from outside: core 0 of site 23. -/
def placeCore : Nat := 368

/-- The operand tokens an instruction placed from outside starts with: data tokens address the slice of its core, the predicate admits it. -/
def placedInst (i : Instr) : Inst :=
  let a : Token := { data := BitVec.ofNat 128 (slicePa placeCore + 0x1000) }
  { l := some a, r := some a, p := some { data := if i.shape.pm = .onFalse then 0#128 else BitVec.allOnes 128 } }

def State.withFetchWord (s : State) (nbits w : Nat) : State :=
  let n := max (nbits / 8) (if w % 2 = 0 then 2 else 4)
  let pa := slicePa placeCore
  let hd := n / 2 * 2 ^ 40
  let k := s.coreAt placeCore
  let v := s.siteAt (coreSite placeCore)
  let sl := s.slotAt placeCore 7
  let inst := match decodeWord w with
    | .ok i => placedInst i
    | .error _ => {}
  let r : Run := { addr := w64 pa, hd := hd, words := [w], insts := [inst], seq := sl.seq }
  { ((s.setSite (coreSite placeCore) { v with live := v.live ||| 1#16 }).setCore placeCore { k with turn := some ⟨7, [0]⟩ }).setSlot
      placeCore 7 { sl with busy := true, pc := w64 pa, run := some r } with
    mem := (s.mem.write pa hd 0 8).write (pa + 8) w 0 n
    agenda := .fire placeCore 7 0 :: s.agenda }

end Sys2Proof.Machine
end

