-- ==== Sys2Proof/Safety.lean ====
section
/-! DEFINITION. The terms in which the claims speak of the machine: the invariant of its memory, an instruction that fires, what
it sends, and what a step leaves as it was. -/

namespace Sys2Proof

open Machine

/-- The invariant of the memory: its canonical form (Machine.Memory.wf). -/
def MemoryInv (s : State) : Prop := s.mem.wf = true

/-! ### Firing -/

/-- `cur` names an instruction of a loaded block that has not fired, and the block keeps operand slots for each of its
words (R144). -/
structure Fires (s : State) (c : Ctx) : Prop where
  ctx : s.ctx? = some c
  idle : c.inst.st = .idle
  sized : c.run.insts.length = c.run.words.length

/-- The predicate admits the instruction (R57): the form has none, or a token in p whose low eight bytes are not null and
whose bit 0 is as the mode asks. -/
def Admits (p : Pred) (c : Ctx) : Prop :=
  match p with
  | .always => True
  | .onTrue => ∃ t, c.inst.p = some t ∧ t.nullIn 8 = false ∧ t.data.getLsbD 0 = true
  | .onFalse => ∃ t, c.inst.p = some t ∧ t.nullIn 8 = false ∧ t.data.getLsbD 0 = false

/-- The targets can take a token: different operand slots of instructions of the block, still empty (R146). -/
structure Room (c : Ctx) (t u : Option Target) : Prop where
  first : ∀ g, t = some g → g.idx.toNat < c.run.words.length ∧ (c.run.inst g.idx.toNat).slot g.slot = none
  second : ∀ g, u = some g → g.idx.toNat < c.run.words.length ∧ (c.run.inst g.idx.toNat).slot g.slot = none
  apart : ∀ g, t = some g → u ≠ some g

/-- Nothing but the block loaded in a slot has changed: memory, every register and control register of every thread, every other
slot, core, site and basin, and every request are as they were. -/
structure OnlyBlock (s t : State) (core slot : Nat) : Prop where
  fields : { t with slots := s.slots } = s
  others : ∀ k, k ≠ slotKey core slot → mget t.slots k {} = mget s.slots k {}
  own : ({ t.slotAt core slot with run := none } : Slot) = { s.slotAt core slot with run := none }

/-- Whether operand slot sl of instruction j is one of the targets. -/
def isTarget (t u : Option Target) (j : Nat) (sl : OpSlot) : Bool :=
  let hit := fun (x : Option Target) => match x with
    | some g => decide (g.idx.toNat = j) && decide (g.slot = sl)
    | none => false
  hit t || hit u

/-- What the block of a firing instruction has become: the instruction is done, flags f are merged, the target slots hold the token unless
their instruction is resolved already at clk `now`, and every other operand slot, every other instruction's standing and the rest of the block are as they were (R145, R146, R110). -/
structure SentIn (c : Ctx) (now : Nat) (r : Run) (t u : Option Target) (tok : Token) (f : Flags) : Prop where
  done : (r.inst c.ix).st = .done
  standing : ∀ j, j ≠ c.ix → (r.inst j).st = (c.run.inst j).st
  flags : r.flags = c.run.flags ||| f
  slots : ∀ j sl, (r.inst j).slot sl = if isTarget t u j sl && !c.run.shut now j then some tok else (c.run.inst j).slot sl
  rest : ({ r with insts := [], flags := 0#6 } : Run) = { c.run with insts := [], flags := 0#6 }

/-- From s to t the instruction of c has fired and sent a token, usable `lat` clk after the present one (R176), to its
targets, with flags f, and nothing else has happened. -/
structure Sends (s t : State) (c : Ctx) (a b : Option Target) (lat : Nat) (tok : Token) (f : Flags) : Prop where
  block : ∃ r, t.runAt c.core c.slot = some r ∧ SentIn c (s.cyc c.core) r a b { tok with usable := s.cyc c.core + lat } f
  frame : OnlyBlock s t c.core c.slot

/-! ### Tokens made lane by lane -/

/-- Whether lane i of a lane form is live (R179): no data token has a null byte there, and the predicate lane, read under the type,
is not null and is as the mode asks. -/
def liveLane (p : Pred) (y : LaneTy) (ops : List Token) (c : Ctx) (i : Nat) : Bool :=
  ops.all (fun t => !laneNull t y i) && predLane p c.inst.p y i

/-- A token of n lanes of w bits, with flags: a lane with a result holds its code and no null byte; a lane without one is null in each
byte and zero; above the lanes there is nothing; the flags are the union of the lanes' (R179, R182). -/
structure LaneOut (w n : Nat) (res : Nat → Option (Nat × Flags)) (tok : Token) (f : Flags) : Prop where
  value : ∀ i < n, tok.data.toNat / 2 ^ (w * i) % 2 ^ w = match res i with | some r => r.1 % 2 ^ w | none => 0
  null : ∀ i < n, tok.mask.toNat / 2 ^ (w / 8 * i) % 2 ^ (w / 8) = match res i with | some _ => 0 | none => 2 ^ (w / 8) - 1
  above : tok.data.toNat < 2 ^ (w * n) ∧ tok.mask.toNat < 2 ^ (w / 8 * n)
  flags : ∀ k, f.getLsbD k = true ↔ ∃ i < n, ∃ r, res i = some r ∧ r.2.getLsbD k = true

end Sys2Proof
end

