-- ==== Sys2Proof/Certificates/Slice0/Obligations.lean ====
section
/-! DEFINITION. The statements about the model, with the tables they range over. -/

namespace Sys2Proof.Claims

open Machine

/-! ### Scalar forms (spec/05_block_engine.md Tables 5-2 to 5-4, R164 to R166; latencies of Table 5-10) -/

/-- A form with a predicate and two targets. -/
abbrev Form := Pred → Option Target → Option Target → Instr

def wrap64 (x : Int) : W64 := BitVec.ofInt 64 x
def truth (b : Bool) : W64 := if b then 1#64 else 0#64

/-- Two-operand scalar forms: the form, its latency and its result on a = l[63:0] and b = r[63:0]. -/
def scalarPairs : List (Form × Nat × (W64 → W64 → W64)) :=
  [(.add, 1, fun a b => wrap64 (a.toNat + b.toNat)),
   (.sub, 1, fun a b => wrap64 (a.toNat - b.toNat)),
   (.mul, 3, fun a b => wrap64 (a.toNat * b.toNat)),
   (.mulhs, 3, fun a b => wrap64 (a.toInt * b.toInt / 2 ^ 64)),
   (.mulhn, 3, fun a b => wrap64 (a.toNat * b.toNat / 2 ^ 64)),
   (.mins, 1, fun a b => wrap64 (min a.toInt b.toInt)),
   (.minn, 1, fun a b => wrap64 (min a.toNat b.toNat : Nat)),
   (.maxs, 1, fun a b => wrap64 (max a.toInt b.toInt)),
   (.maxn, 1, fun a b => wrap64 (max a.toNat b.toNat : Nat)),
   (.and, 1, fun a b => a &&& b),
   (.or, 1, fun a b => a ||| b),
   (.xor, 1, fun a b => a ^^^ b),
   (.andn, 1, fun a b => a &&& ~~~b),
   (.shl, 1, fun a b => wrap64 (a.toNat * 2 ^ (b.toNat % 64))),
   (.shrn, 1, fun a b => wrap64 (a.toNat / 2 ^ (b.toNat % 64))),
   (.shrs, 1, fun a b => wrap64 (a.toInt / 2 ^ (b.toNat % 64))),
   (.rotl, 1, fun a b => (a <<< (b.toNat % 64)) ||| (a >>> (64 - b.toNat % 64))),
   (.ceq, 1, fun a b => truth (decide (a = b))),
   (.cne, 1, fun a b => truth (decide (a ≠ b))),
   (.clts, 1, fun a b => truth (decide (a.toInt < b.toInt))),
   (.cles, 1, fun a b => truth (decide (a.toInt ≤ b.toInt))),
   (.cltn, 1, fun a b => truth (decide (a.toNat < b.toNat))),
   (.clen, 1, fun a b => truth (decide (a.toNat ≤ b.toNat)))]

/-- The division forms: quotient toward zero and remainder, with the results of a zero divisor and of −2^63 by −1. -/
def divisions : List (Form × (W64 → W64 → W64)) :=
  [(.divs, fun a b => if b.toInt = 0 then 0xFFFFFFFFFFFFFFFF#64 else if a.toInt = -2 ^ 63 ∧ b.toInt = -1 then wrap64 a.toInt
      else wrap64 (a.toInt.tdiv b.toInt)),
   (.divn, fun a b => if b.toNat = 0 then 0xFFFFFFFFFFFFFFFF#64 else wrap64 (a.toNat / b.toNat)),
   (.rems, fun a b => if b.toInt = 0 then wrap64 a.toInt else if a.toInt = -2 ^ 63 ∧ b.toInt = -1 then 0#64
      else wrap64 (a.toInt - b.toInt * a.toInt.tdiv b.toInt)),
   (.remn, fun a b => if b.toNat = 0 then a else wrap64 (a.toNat % b.toNat))]

/-- One-operand scalar forms. -/
def scalarSingles : List (Form × (W64 → W64)) :=
  [(.neg, fun a => wrap64 (-a.toInt)),
   (.abs, fun a => wrap64 a.toInt.natAbs),
   (.not, fun a => ~~~a),
   (.popc, fun a => wrap64 ((List.range 64).countP fun i => a.getLsbD i)),
   (.clz, fun a => wrap64 (((List.range 64).find? fun i => a.getLsbD (63 - i)).getD 64)),
   (.ctz, fun a => wrap64 (((List.range 64).find? fun i => a.getLsbD i).getD 64)),
   (.exts8, fun a => wrap64 (a.setWidth 8).toInt),
   (.exts16, fun a => wrap64 (a.setWidth 16).toInt),
   (.exts32, fun a => wrap64 (a.setWidth 32).toInt),
   (.extn8, fun a => wrap64 (a.toNat % 2 ^ 8)),
   (.extn16, fun a => wrap64 (a.toNat % 2 ^ 16)),
   (.extn32, fun a => wrap64 (a.toNat % 2 ^ 32))]

/-- Immediate forms with an operand: the form, its latency and its result on a and the 14-bit field. -/
def scalarImms : List ((Pred → BitVec 14 → Option Target → Instr) × Nat × (W64 → BitVec 14 → W64)) :=
  [(.addi, 1, fun a i => wrap64 (a.toNat + i.toInt)),
   (.muli, 3, fun a i => wrap64 (a.toNat * i.toInt)),
   (.andi, 1, fun a i => a &&& wrap64 i.toInt),
   (.ori, 1, fun a i => a ||| wrap64 i.toInt),
   (.xori, 1, fun a i => a ^^^ wrap64 i.toInt),
   (.shli, 1, fun a i => wrap64 (a.toNat * 2 ^ i.toNat)),
   (.shrni, 1, fun a i => wrap64 (a.toNat / 2 ^ i.toNat)),
   (.shrsi, 1, fun a i => wrap64 (a.toInt / 2 ^ i.toNat)),
   (.ceqi, 1, fun a i => truth (decide (a = wrap64 i.toInt))),
   (.cltsi, 1, fun a i => truth (decide (a.toInt < i.toInt))),
   (.appi, 1, fun a i => wrap64 (a.toNat * 2 ^ 14 + i.toNat))]

/-- The token of a scalar form (R144, R145): null when a data operand has a null byte in bits [63:0], else the value in bits
[63:0] with zeros above. -/
def scalarOut (ops : List Token) (v : W64) : Token := if ops.any (·.nullIn 8) then nullToken else { data := v.setWidth 128 }

/-! ### Lane forms (spec/06_lane_engine.md R179 to R197; latencies of Table 6-2) -/

/-- A lane form with a predicate, a type and two targets. -/
abbrev LaneForm := Pred → LaneTy → Option Target → Option Target → Instr

/-- wrap(x, w). -/
def wrapTo (w : Nat) (x : Int) : Nat := (x % ((2 ^ w : Nat) : Int)).toNat

/-- The least and the greatest value of an integer type. -/
def leastOf (y : LaneTy) : Int := if y.isSigned then -((2 ^ (y.width - 1) : Nat) : Int) else 0
def greatestOf (y : LaneTy) : Int := if y.isSigned then ((2 ^ (y.width - 1) : Nat) : Int) - 1 else ((2 ^ y.width : Nat) : Int) - 1

/-- sat of a type, raising NS on a clamp. -/
def satTo (y : LaneTy) (x : Int) : Nat × Flags :=
  if x < leastOf y then (wrapTo y.width (leastOf y), flagNS)
  else if greatestOf y < x then (wrapTo y.width (greatestOf y), flagNS)
  else (wrapTo y.width x, 0#6)

/-- A lane of all ones, or zero. -/
def onesIf (y : LaneTy) (b : Bool) : Nat := if b then 2 ^ y.width - 1 else 0

/-- The lane results of the two-operand integer forms, on the codes a and b of a type (R183 to R185). `v` is the signed or unsigned
value of a code under the type. -/
def intPairs : List (LaneForm × Option (LaneTy → Option Target → Instr) × Nat × (LaneTy → Nat → Nat → Nat × Flags)) :=
  let v := laneInt
  [(.vadd, some .vaddCompact, 1, fun y a b => (wrapTo y.width (v y a + v y b), 0#6)),
   (.vsub, some .vsubCompact, 1, fun y a b => (wrapTo y.width (v y a - v y b), 0#6)),
   (.vadds, none, 1, fun y a b => satTo y (v y a + v y b)),
   (.vsubs, none, 1, fun y a b => satTo y (v y a - v y b)),
   (.vmul, some .vmulCompact, 3, fun y a b => (wrapTo y.width (v y a * v y b), 0#6)),
   (.vmulh, none, 3, fun y a b => (wrapTo y.width (v y a * v y b / ((2 ^ y.width : Nat) : Int)), 0#6)),
   (.vmin, some .vminCompact, 1, fun y a b => (wrapTo y.width (min (v y a) (v y b)), 0#6)),
   (.vmax, some .vmaxCompact, 1, fun y a b => (wrapTo y.width (max (v y a) (v y b)), 0#6)),
   (.vand, some .vandCompact, 1, fun _ a b => (a &&& b, 0#6)),
   (.vor, some .vorCompact, 1, fun _ a b => (a ||| b, 0#6)),
   (.vxor, some .vxorCompact, 1, fun _ a b => (a ^^^ b, 0#6)),
   (.vandn, none, 1, fun y a b => (a &&& (2 ^ y.width - 1 - b), 0#6)),
   (.vshl, some .vshlCompact, 1, fun y a b => (a * 2 ^ (b % y.width) % 2 ^ y.width, 0#6)),
   (.vshr, some .vshrCompact, 1, fun y a b => (wrapTo y.width (v y a / ((2 ^ (b % y.width) : Nat) : Int)), 0#6)),
   (.vrotl, none, 1, fun y a b => (a * 2 ^ (b % y.width) % 2 ^ y.width + a / 2 ^ (y.width - b % y.width), 0#6)),
   (.vceq, some .vceqCompact, 1, fun y a b => (onesIf y (v y a = v y b), 0#6)),
   (.vcne, none, 1, fun y a b => (onesIf y (v y a ≠ v y b), 0#6)),
   (.vclt, none, 1, fun y a b => (onesIf y (v y a < v y b), 0#6)),
   (.vcle, none, 1, fun y a b => (onesIf y (v y a ≤ v y b), 0#6))]

/-- The one-operand integer forms (R184, R187). -/
def intSingles : List (LaneForm × (LaneTy → Nat → Nat)) :=
  [(.vnot, fun y a => 2 ^ y.width - 1 - a),
   (.vabs, fun y a => wrapTo y.width (laneInt y a).natAbs)]

/-- The two-operand floating-point forms that use no divide unit (R189, R190): the result under a rounding mode, on the values of the
lanes; a comparison gives all ones or zero. -/
def floatPairs : List (LaneForm × Option (LaneTy → Option Target → Instr) × Nat × (LaneTy → RMode → Nat → Nat → Nat × Flags)) :=
  let v := laneVal
  [(.fadd, some .faddCompact, 4, fun y rm a b => ieeeRound (Val.add (rm == 3#2) (v y a) (v y b)) y.fmt rm),
   (.fsub, some .fsubCompact, 4, fun y rm a b => ieeeRound (Val.add (rm == 3#2) (v y a) (v y b).negate) y.fmt rm),
   (.fmul, some .fmulCompact, 4, fun y rm a b => ieeeRound (Val.mul (v y a) (v y b)) y.fmt rm),
   (.fmin, some .fminCompact, 2, fun y rm a b => fPick true y rm a b),
   (.fmax, some .fmaxCompact, 2, fun y rm a b => fPick false y rm a b),
   (.fceq, none, 2, fun y _ a b => (onesIf y (!(v y a).isNan && !(v y b).isNan && (v y a).cmp (v y b) == .eq), snanFlag [v y a, v y b])),
   (.fclt, none, 2, fun y _ a b => (onesIf y (!(v y a).isNan && !(v y b).isNan && (v y a).cmp (v y b) == .lt),
      if (v y a).isNan || (v y b).isNan then flagNV else 0#6)),
   (.fcle, none, 2, fun y _ a b => (onesIf y (!(v y a).isNan && !(v y b).isNan && (v y a).cmp (v y b) != .gt),
      if (v y a).isNan || (v y b).isNan then flagNV else 0#6)),
   (.fcun, none, 2, fun y _ a b => (onesIf y ((v y a).isNan || (v y b).isNan), snanFlag [v y a, v y b]))]

/-- The one-operand floating-point forms that use no shared unit (R191, R192). -/
def floatSingles : List (LaneForm × (LaneTy → RMode → Nat → Nat × Flags)) :=
  [(.fabs, fun y _ a => match laneVal y a with
      | .nan sig => (nanOrZero y.fmt false, if sig then flagNV else 0#6)
      | _ => (a % 2 ^ (y.width - 1), 0#6)),
   (.fneg, fun y _ a => match laneVal y a with
      | .nan sig => (nanOrZero y.fmt false, if sig then flagNV else 0#6)
      | _ => (a ^^^ 2 ^ (y.width - 1), 0#6)),
   (.frint, fun y rm a => frintLane y rm a)]

/-- The special functions (R107, R192, Table 3-8). -/
def specials : List (LaneForm × (LaneTy → RMode → Nat → Nat × Flags)) :=
  [(.exp2, exp2Lane), (.log2, log2Lane), (.rcp, rcpLane), (.rsq, rsqLane), (.tanh, tanhLane)]

/-- A lane of a token. -/
def laneAt (y : LaneTy) (t : Token) (i : Nat) : Nat := t.data.toNat / 2 ^ (y.width * i) % 2 ^ y.width

/-- The result of a one-operand lane form in each lane. -/
def laneRes1 (p : Pred) (y : LaneTy) (c : Ctx) (x : Token) (op : Nat → Nat × Flags) (i : Nat) : Option (Nat × Flags) :=
  if liveLane p y [x] c i then some (op (laneAt y x i)) else none

/-- The result of a two-operand lane form in each lane. -/
def laneRes2 (p : Pred) (y : LaneTy) (c : Ctx) (x z : Token) (op : Nat → Nat → Nat × Flags) (i : Nat) : Option (Nat × Flags) :=
  if liveLane p y [x, z] c i then some (op (laneAt y x i) (laneAt y z i)) else none

/-- From s to t the lane form of c has sent a token whose n lanes of w bits hold `res`. -/
def SendsLanes (s t : State) (c : Ctx) (a b : Option Target) (lat w n : Nat) (res : Nat → Option (Nat × Flags)) : Prop :=
  ∃ tok f, LaneOut w n res tok f ∧ Sends s t c a b lat tok f

/-- From s to t the form of c has sent a scalar made from its lanes: null where there is none. -/
def SendsScalar (s t : State) (c : Ctx) (a b : Option Target) (lat : Nat) (v : Option Int) : Prop :=
  Sends s t c a b lat (match v with | some x => { data := (wrap64 x).setWidth 128 } | none => nullToken) 0#6

/-- The values of the live source lanes of a reduction, in order (R181). -/
def liveValues (p : Pred) (y : LaneTy) (c : Ctx) (x : Token) : List Int :=
  ((List.range y.count).filter fun i => liveLane p y [x] c i).map fun i => laneInt y (laneAt y x i)

/-- A join of two nodes of the tree of FREDADD: their sum, with the flags of both and of the addition, or the one that is there (R191). -/
def joinNodes (y : LaneTy) (rm : RMode) : Option (Nat × Flags) → Option (Nat × Flags) → Option (Nat × Flags)
  | some a, some b =>
    let r := ieeeRound (Val.add (rm == 3#2) (laneVal y a.1) (laneVal y b.1)) y.fmt rm
    some (r.1, a.2 ||| b.2 ||| r.2)
  | some a, none => some a
  | none, b => b

/-- Node j of level k of that tree: level 0 holds the leaves. -/
def treeNode (y : LaneTy) (rm : RMode) (leaf : Nat → Option (Nat × Flags)) : Nat → Nat → Option (Nat × Flags)
  | 0, j => leaf j
  | k + 1, j => joinNodes y rm (treeNode y rm leaf k (2 * j)) (treeNode y rm leaf k (2 * j + 1))

/-- A token of n packed elements of w bits, with flags (R194): an element without a result is zero bits; a byte is null when each element with bits
in it is; above the elements there is nothing; the flags are the union of the elements'. -/
structure PackedOut (w n : Nat) (res : Nat → Option (Nat × Flags)) (tok : Token) (f : Flags) : Prop where
  value : ∀ i < n, tok.data.toNat / 2 ^ (w * i) % 2 ^ w = match res i with | some r => r.1 % 2 ^ w | none => 0
  null : ∀ b < 16, tok.mask.getLsbD b = true ↔ 8 * b < w * n ∧ ∀ i < n, w * i < 8 * (b + 1) → 8 * b < w * (i + 1) → res i = none
  above : tok.data.toNat < 2 ^ (w * n)
  flags : ∀ k, f.getLsbD k = true ↔ ∃ i < n, ∃ r, res i = some r ∧ r.2.getLsbD k = true

/-- A lane form's predicate token, where it has one, has arrived (R180). -/
def HasPred (p : Pred) (c : Ctx) : Prop := p ≠ .always → ∃ k, c.inst.p = some k

/-! ### Block control, registers and faults (spec/05_block_engine.md) -/

/-- From s to t the block of c has become r, and nothing else has happened. -/
def BlockNow (s t : State) (c : Ctx) (r : Run) : Prop := t.runAt c.core c.slot = some r ∧ OnlyBlock s t c.core c.slot

/-- The block of c with its instruction done. -/
def doneRun (c : Ctx) : Run := c.run.modInst c.ix fun i => { i with st := .done }

/-- The exit forms whose target is an offset, and those whose target is in l (Table 5-1). -/
def offsetExits : List ((Pred → BitVec 3 → BitVec 19 → Instr) × ExitKind) := [(.br, .br), (.call, .call), (.susp, .susp)]
def registerExits : List ((Pred → BitVec 3 → Instr) × ExitKind) := [(.bri, .bri), (.calli, .calli), (.ret, .ret)]

/-- Whether the exit k of a block makes no lookup as it fires: the continuation ends, or the block holds an ALIGN and the exit is outside the tail
(R161, R163). -/
def NoPrefetch (k : ExitKind) (r : Run) : Bool := k == .susp || k == .retire || (r.holdsAlign && !r.tail)

/-- From s to t the first exit of the block of c has fired with a target: it is recorded, and its lookup has begun as a prefetch unless the
continuation ends or the block holds ALIGN, whose lookup is held (R158, R162, R163). -/
structure ExitFired (s t : State) (c : Ctx) (k : ExitKind) (target : W64) : Prop where
  block : ∃ r, t.runAt c.core c.slot = some r ∧ r.exit = some ⟨k, target⟩ ∧ { r with exit := none } = doneRun c
  look : (t.slotAt c.core c.slot).look = if NoPrefetch k c.run then c.sl.look else
    some { addr := target, made := s.cyc c.core, hold := if c.run.holdsAlign then some (s.cyc c.core) else none, aligned := c.run.holdsAlign }
  made : (t.slotAt c.core c.slot).looks = if NoPrefetch k c.run then c.sl.looks else
    (target, s.cyc c.core) :: c.sl.looks.filter fun e => decide (s.cyc c.core ≤ e.2 + 256)
  own : ({ t.slotAt c.core c.slot with run := none, look := none, looks := [] } : Slot) = { c.sl with run := none, look := none, looks := [] }
  fields : { t with slots := s.slots } = s
  others : ∀ k, k ≠ slotKey c.core c.slot → mget t.slots k {} = mget s.slots k {}

/-- The bytes of a token that are not null, laid over a register (R149). -/
def laidOver (old : W128) (t : Token) (new : W128) : Prop :=
  ∀ i < 16, new.toNat / 256 ^ i % 256 = if t.mask.getLsbD i then old.toNat / 256 ^ i % 256 else t.data.toNat / 256 ^ i % 256

/-- The exit that the block has fired is a call (R159). -/
def HasCalled (r : Run) : Prop := ∃ e, r.exit = some e ∧ (e.kind = .call ∨ e.kind = .calli)

/-- What RDC reads by register number (Tables 2-13, 3-3, 3-9, 3-10, 5-5; R110, R151, R415). -/
def controlValues : List (Nat × (State → Ctx → W64)) :=
  [(0, fun _ c => c.sl.ctl.fpc), (1, fun _ c => c.sl.ctl.fpf), (2, fun _ c => c.sl.ctl.nanm), (3, fun _ c => c.sl.ctl.mfmt),
   (4, fun _ c => c.sl.ctl.msca), (5, fun _ c => c.sl.ctl.mscb),
   (6, fun _ c => if coreBasin c.core < 2 then 64#64 else 32#64), (7, fun _ c => c.sl.ctl.seg), (8, fun _ c => c.sl.ctl.wlim),
   (10, fun s c => BitVec.ofNat 64 (s.basinAt (coreBasin c.core)).cyc),
   (12, fun s c => BitVec.ofNat 64 (s.basinAt (coreBasin c.core)).tick),
   (13, fun _ c => c.sl.ctl.wid), (14, fun _ c => c.sl.ctl.vcore), (15, fun _ c => c.run.lcore), (16, fun _ c => c.sl.ctl.hvc),
   (32, fun _ c => c.sl.ctl.root), (33, fun _ c => c.sl.ctl.asn), (34, fun _ c => c.sl.ctl.esave), (35, fun _ c => c.sl.ctl.imga)]

/-- A fault packet of a thread, word by word (Table 14-2), for a fault before commit. -/
def faultWords (s : State) (core slot cause ix : Nat) (repl : Bool) (blk : W64) (va info : Nat) (sl : Slot) : List W64 :=
  [BitVec.ofNat 64 (0x41 + coreSite core * 2 ^ 8 + coreNum core * 2 ^ 17 + slot * 2 ^ 21 + cause * 2 ^ 24 + ix * 2 ^ 32 + (if repl then 2 ^ 40 else 0)),
   BitVec.ofNat 64 (blk.toNat % 2 ^ 48), BitVec.ofNat 64 (va % 2 ^ 48), sl.ctl.wid, BitVec.ofNat 64 info, BitVec.ofNat 64 s.time,
   BitVec.ofNat 64 ((s.coreAt core).lcid % 2 ^ 16 + sl.ctl.vcore.toNat % 2 ^ 32 * 2 ^ 32), 0#64]

/-- From s to t an uncommitted block r has taken a fault: it is discarded, its requests are withdrawn, and the thread is frozen, or in the retry latch, with
its program counter at the block's address, its cause and its index; where no failure after commit waited to be reported, one packet has gone to the rider of the chiplet, and the thread keeps
a copy; its registers, every other thread and memory are as they were (R174, R175, R416, R417). -/
structure FaultTaken (s t : State) (core slot : Nat) (r : Run) (cause ix : Nat) (repl : Bool) (va : Nat) (info : Nat := 0) : Prop where
  thread : t.slotAt core slot =
    let sl := s.slotAt core slot
    { sl with
      run := none, look := none, pc := r.addr, replays := 0, tailBit := false
      frz := if repl then sl.frz else true
      rty := if repl then true else sl.rty
      cause := BitVec.ofNat 8 cause, index := BitVec.ofNat 7 ix, faultAt := some (s.cyc core)
      lastPkt := faultWords s core slot cause ix repl r.addr va info sl }
  packet : t.pkts = s.pkts ++ [{
    id := s.nextId, dest := coreSite core * 16 + (s.siteAt (coreSite core)).rider, site := coreSite core, core := coreNum core, slot := slot, since := s.time
    words := faultWords s core slot cause ix repl r.addr va info (s.slotAt core slot) }]
  withdrawn : ∀ q ∈ t.reqs, q ∈ s.reqs ∧ ¬(q.core = core ∧ q.slot = slot ∧ q.left = false)
  kept : ∀ q ∈ s.reqs, ¬(q.core = core ∧ q.slot = slot ∧ q.left = false) → q ∈ t.reqs
  others : ∀ k, k ≠ slotKey core slot → mget t.slots k {} = mget s.slots k {}
  memory : t.mem = s.mem

/-! ### Slice forms (spec/07_slice_engine.md Tables 7-5 and 7-5a, R217 to R224) -/

/-- A slice form with a predicate, an LSID, an offset and a target. -/
abbrev SliceForm := Pred → BitVec 4 → BitVec 6 → Option Target → Instr

/-- The forms that act before commit and deliver a token: LD by size, LOOK, FEBIT and LDACQ by scope, with their bytes. -/
def tokenForms : List (SliceForm × MemKind × Nat) :=
  [(fun p n o t => .ld p .n8 n o t, .ld .n8, 1), (fun p n o t => .ld p .n16 n o t, .ld .n16, 2), (fun p n o t => .ld p .n32 n o t, .ld .n32, 4),
   (fun p n o t => .ld p .n64 n o t, .ld .n64, 8), (fun p n o t => .ld p .s8 n o t, .ld .s8, 1), (fun p n o t => .ld p .s16 n o t, .ld .s16, 2),
   (fun p n o t => .ld p .s32 n o t, .ld .s32, 4), (fun p n o t => .ld p .q n o t, .ld .q, 16), (.look, .look, 8), (.febit, .febit, 8),
   (.ldacqCore, .ldacq .core, 8), (.ldacqBasin, .ldacq .basin, 8), (.ldacqSys, .ldacq .sys, 8)]

/-- The store-mask forms that leave their operation for commit, but for those with a reservation: ST by size, POST, VOID, STREL by scope, and LDD by
size; with their bytes and whether their r operand makes them null. -/
def commitForms : List (SliceForm × MemKind × Nat × Bool) :=
  [(fun p n o _ => .st p .n8 n o, .st 1, 1, false), (fun p n o _ => .st p .n16 n o, .st 2, 2, false), (fun p n o _ => .st p .n32 n o, .st 4, 4, false),
   (fun p n o _ => .st p .n64 n o, .st 8, 8, false), (fun p n o _ => .st p .q n o, .st 16, 16, false), (fun p n o _ => .post p n o, .post, 8, true),
   (fun p n o _ => .strelCore p n o, .strel .core, 8, true), (fun p n o _ => .strelBasin p n o, .strel .basin, 8, true),
   (fun p n o _ => .strelSys p n o, .strel .sys, 8, true)]

/-- The atomics but ACAS, by function. -/
def atomicForms : List ((Pred → Order → BitVec 4 → BitVec 6 → Option Target → Instr) × AtomOp) :=
  [(.aadd, .aadd), (.aand, .aand), (.aor, .aor), (.axor, .axor), (.amins, .amins), (.amaxs, .amaxs), (.aminn, .aminn), (.amaxn, .amaxn),
   (.aswp, .aswp)]

/-- The fills by size. -/
def fillForms : List ((Pred → BitVec 4 → BitVec 6 → BitVec 6 → Instr) × LdSize × Nat) :=
  [(fun p n r o => .ldd p .n8 n r o, .n8, 1), (fun p n r o => .ldd p .n16 n r o, .n16, 2), (fun p n r o => .ldd p .n32 n r o, .n32, 4),
   (fun p n r o => .ldd p .n64 n r o, .n64, 8), (fun p n r o => .ldd p .s8 n r o, .s8, 1), (fun p n r o => .ldd p .s16 n r o, .s16, 2),
   (fun p n r o => .ldd p .s32 n r o, .s32, 4), (fun p n r o => .ldd p .q n r o, .q, 16)]

/-- The effective address (R217). -/
def effective (x : Token) (o : BitVec 6) (size : Nat) : Nat := (wrap64 (x.lo.toNat + o.toInt * size)).toNat

/-- Every line of an access of n bytes lies in its own slice: no migration has moved it (R434). -/
def Stays (s : State) (pa n : Nat) : Prop := ∀ l ∈ linesOf pa n, s.redirect (64 * l) = 64 * l

/-- An address of a thread's form translates, with the right it needs, to a word of memory that the form may reach (R202 to R209, R212, R332),
in a slice that has not been migrated. -/
structure Reaches (s : State) (c : Ctx) (need : Need) (load : Bool) (ea pa : Nat) (rgn : Option Nat) : Prop where
  xl : ∃ w x svo, s.xlateFast (c.sl.space c.core c.slot) ea need = .ok pa w x svo rgn
  here : s.redirect pa = pa
  memory : ∀ site off, s.place (coreBasin c.core) pa ≠ .config site off
  allowed : s.checkMem (c.sl.space c.core c.slot) load pa = none

/-- From s to t only the block of a slot, the requests and the recency of the core's translation cache have changed. -/
structure OnlyRequests (s t : State) (core slot : Nat) : Prop where
  fields : { t with slots := s.slots, reqs := s.reqs, nextId := s.nextId, tlb1 := s.tlb1 } = s
  others : ∀ k, k ≠ slotKey core slot → mget t.slots k {} = mget s.slots k {}
  own : ({ t.slotAt core slot with run := none } : Slot) = { s.slotAt core slot with run := none }

/-- The request a form of c sends: its kind, place in program order, address and operands, not yet performed. -/
structure RequestOf (s : State) (c : Ctx) (q : Req) (k : MemKind) (n : BitVec 4) (ea pa size : Nat) (r : W128) : Prop where
  id : q.id = s.nextId
  who : q.core = c.core ∧ q.slot = c.slot ∧ q.ix = c.ix ∧ q.seq = c.run.seq ∧ q.lsid = n.toNat
  what : q.kind = k ∧ q.va = ea ∧ q.pa = pa ∧ q.size = size ∧ q.data = r
  standing : q.st = .sent ∧ q.left = false ∧ q.since = s.time

/-- What an operation left for commit holds. -/
structure OpOf (c : Ctx) (op : Op) (k : MemKind) (n : BitVec 4) (ea pa size : Nat) (r : W128) (mask : BitVec 16) : Prop where
  kind : op.kind = .mem k ∧ op.ix = c.ix ∧ op.lsid = n.toNat
  place : op.va = ea ∧ op.pa = pa ∧ op.size = size
  data : op.r = r ∧ op.rmask = mask

/-- From s to t a form of c has sent its request and waits for its token. -/
def Requested (s t : State) (c : Ctx) (k : MemKind) (n : BitVec 4) (ea pa size : Nat) (r : W128) : Prop :=
  (∃ q, t.reqs = s.reqs ++ [q] ∧ RequestOf s c q k n ea pa size r) ∧
    (∃ b, t.runAt c.core c.slot = some b ∧ (b.inst c.ix).st = .wait s.time) ∧ OnlyRequests s t c.core c.slot

/-- From s to t a store-mask form of c has resolved and left its operation for commit, and has sent nothing. -/
def Pending (s t : State) (c : Ctx) (k : MemKind) (n : BitVec 4) (ea pa size : Nat) (r : W128) (mask : BitVec 16) : Prop :=
  t.reqs = s.reqs ∧ (∃ b op, t.runAt c.core c.slot = some b ∧ (b.inst c.ix).st = .ready ∧ mget? b.ops n.toNat = some op ∧
    OpOf c op k n ea pa size r mask) ∧ OnlyRequests s t c.core c.slot

/-- The block of c with an instruction's standing set and an operation left for commit under its LSID. -/
def leftRun (c : Ctx) (n : BitVec 4) (st : InstSt) (op : Op) : Run :=
  ({ c.run with ops := mput c.run.ops n.toNat op } : Run).modInst c.ix fun i => { i with st := st }

/-- From s to t a form that reserves its word has sent its request, and left its operation, which names the request, for commit. -/
def Reserving (s t : State) (c : Ctx) (k : MemKind) (n : BitVec 4) (ea pa : Nat) (y : Token) : Prop :=
  Requested s t c k n ea pa 8 y.data ∧
    ∃ b op, t.runAt c.core c.slot = some b ∧ mget? b.ops n.toNat = some op ∧ OpOf c op k n ea pa 8 y.data y.mask ∧ op.req = s.nextId

/-! ### Engine, queue, weir, sluice and supervisor forms when they fire -/

/-- From s to t a form of c has resolved and left op for commit: nothing else has happened, but that the entry of a page in the first-level translation
cache may have been renewed. -/
def LeavesOp (s t : State) (c : Ctx) (n : BitVec 4) (op : Op) : Prop := ∃ tl, BlockNow { s with tlb1 := tl } t c (leftRun c n .ready op)

/-- The block of c with its instruction waiting. -/
def waitingRun (s : State) (c : Ctx) : Run := c.run.modInst c.ix fun i => { i with st := .wait s.time }

/-- The engine command forms (Tables 8-5, 9-4, 10-2), with the kind of command, and whether they have a variant and a fill register. -/
def matrixForms : List ((Pred → BitVec 4 → BitVec 4 → BitVec 6 → Instr) × CmdKind × Bool × Bool) :=
  [(fun p n _ _ => .mls p n, .mls, false, false), (fun p n v _ => .mlsc p n v, .mlsc, true, false), (fun p n _ _ => .mswap p n, .mswap, false, false),
   (fun p n _ _ => .mstream p n, .mstream, false, false), (fun p n _ _ => .mstreama p n, .mstreama, false, false),
   (fun p n v _ => .mzero p n v, .mzero, true, false), (fun p n _ _ => .mdrain p n, .mdrain, false, false),
   (fun p n _ _ => .mdrainn p n, .mdrainn, false, false), (fun p n _ _ => .mtask p n, .mtask, false, false)]

def copyForms : List ((Pred → BitVec 4 → BitVec 4 → BitVec 6 → Instr) × CmdKind × Bool × Bool) :=
  [(fun p n v _ => .cpy1 p n v, .cpy1, true, false), (fun p n v _ => .cpy2 p n v, .cpy2, true, false), (fun p n v _ => .gath p n v, .gath, true, false),
   (fun p n v _ => .scat p n v, .scat, true, false), (fun p n v _ => .fill p n v, .fill, true, false), (fun p n v _ => .cpycv p n v, .cpycv, true, false),
   (fun p n v _ => .cpymc p n v, .cpymc, true, false), (fun p n v _ => .culv p n v, .culv, true, false),
   (fun p n v _ => .pghand p n v, .pghand, true, false), (fun p n _ _ => .ctask p n, .ctask, false, false)]

def hyperForms : List ((Pred → BitVec 4 → BitVec 4 → BitVec 6 → Instr) × CmdKind × Bool × Bool) :=
  [(fun p n v _ => .hbind p n v, .hbind, true, false), (fun p n v _ => .hbund p n v, .hbund, true, false), (fun p n _ _ => .hperm p n, .hperm, false, false),
   (fun p n v _ => .hthr p n v, .hthr, true, false), (fun p n _ _ => .hld p n, .hld, false, false), (fun p n _ _ => .hst p n, .hst, false, false),
   (fun p n v _ => .hclr p n v, .hclr, true, false), (fun p n _ _ => .hphase p n, .hphase, false, false),
   (fun p n _ _ => .hbndld p n, .hbndld, false, false), (fun p n _ _ => .hbndst p n, .hbndst, false, false),
   (fun p n v _ => .hmove p n v, .hmove, true, false), (fun p n v r => .hdist p n v r, .hdist, true, true), (fun p n _ r => .hnear p n r, .hnear, false, true),
   (fun p n _ r => .hneark p n r, .hneark, false, true), (fun p n v r => .hpopc p n v r, .hpopc, true, true)]

def engineForms : List ((Pred → BitVec 4 → BitVec 4 → BitVec 6 → Instr) × CmdKind × Bool × Bool) := List.append matrixForms (List.append copyForms hyperForms)

/-- The group of a thread owns the engines of its core, alone or as a member of the fold (R265, R393). -/
def OwnsEngines (s : State) (c : Ctx) : Prop :=
  (s.coreAt c.core).owner = some c.sl.group ∨ 2 ≤ (s.coreAt c.core).foldK ∧ c.sl.group ∈ (s.coreAt c.core).members

/-- A number made of fields, each given with the place of its lowest bit. -/
def packed (l : List (Nat × Nat)) : Nat := (l.map fun f => f.1 * 2 ^ f.2).sum

/-- A Boolean as a bit. -/
def asBit (b : Bool) : Nat := if b then 1 else 0

/-- The token of MSTAT (Table 8-3): a running MSWAP busies both units, and a command counts from when it reaches the intake until it completes, with one
that halted the engine. -/
def matrixStatus (s : State) (core : Nat) : Nat :=
  let m := s.matAt core
  let swapping := m.load.any fun r => r.cmd.kind == .mswap
  packed [(asBit m.load.isSome, 0), (asBit (m.stream.isSome || swapping), 1), (asBit m.task.isSome, 2), (asBit m.halt, 3),
    ((m.intake.filter Cmd.arrived).length + m.load.toList.length + m.stream.toList.length + (if m.taskf then 0 else m.faulted.toList.length), 4), (m.tasks.length, 9), (asBit m.active.valid, 14), (asBit m.shadow.valid, 15),
    (m.flg.toNat, 16), (m.cause, 24), (if coreBasin core < 2 then 64 else 32, 32), ((s.coreAt core).foldK, 40)]

/-- The token of CSTAT on a core that is not folded (Table 9-7). -/
def copyStatusOf (s : State) (core : Nat) : Nat :=
  let m := s.copyAt core
  packed [((m.intake.filter Cmd.arrived).length + (m.active.filter fun e => !e.2.task).length, 0), (m.tasks.length, 5), (m.active.length, 10), ((mget m.flg 0 0#6).toNat, 14),
    (m.cause, 24), ((s.coreAt core).foldK, 32)]

/-- A slot waits for the result of instruction i, begun at a TIME; `c` is the context of the wait. -/
structure WaitsAt (s : State) (c : Ctx) (since : Nat) (i : Instr) : Prop where
  run : s.runAt c.core c.slot = some c.run
  slot : c.sl = s.slotAt c.core c.slot
  inst : c.inst = c.run.inst c.ix
  st : c.inst.st = .wait since
  instr : c.run.instr c.ix = some i
  sized : c.run.insts.length = c.run.words.length

/-- A queue or peerless destination word in l or r names core k of a live, reachable compute site, with no bit set that has no meaning (R340). -/
structure NamesCore (s : State) (c : Ctx) (d k : Nat) : Prop where
  core : k = 16 * (d % 2 ^ 9) + d / 2 ^ 9 % 16
  direct : d / 2 ^ 16 % 4 = 0 ∧ d / 2 ^ 19 % 2 ^ 13 = 0 ∧ d / 2 ^ 32 % 2 ^ 32 = 0 ∧ d / 2 ^ 74 % 2 ^ 54 = 0
  site : isCompute (coreSite k) = true ∧ s.reachable (coreSite c.core) (coreSite k) = true
  live : coreBasin k = coreBasin c.core → s.coreLive k = true

/-- Whether l names a thread of the issuing basin that a supervisor form may act on (R421). -/
def NamesThread (s : State) (c : Ctx) (l : Nat) : Prop :=
  l < 2 ^ 16 ∧ s.coreLive (16 * (l % 2 ^ 9) + l / 2 ^ 9 % 16) = true ∧ coreBasin (16 * (l % 2 ^ 9) + l / 2 ^ 9 % 16) = coreBasin c.core ∧
    ¬(16 * (l % 2 ^ 9) + l / 2 ^ 9 % 16 = c.core ∧ l / 2 ^ 13 % 8 = c.slot)

/-- The supervisor forms that name a thread and nothing else. -/
def threadForms : List ((Pred → Instr) × SupKind) :=
  [(.freeze, .freeze), (.thaw, .thaw), (.ackf, .ackf), (.stopt, .stopt), (.startt, .startt), (.swapout, .swapout)]

/-- The block of c with a supervisor form done and left for commit. -/
def supRun (c : Ctx) (k : SupKind) (x y z : W128) : Run := { doneRun c with sups := c.run.sups ++ [⟨k, c.ix, x, y, z⟩] }

/-! ### Fetch, commit and homes -/

/-- Request q stands at the home of its word and may perform there: nothing of its core or on its way, no missing or held route back, owned line, pending write, reservation,
error or refusal is in its way, and no request waits at a home (R115 to R132, R138, R154, R216, R231, R333). -/
structure AtHome (s : State) (q : Req) : Prop where
  found : s.reqs.find? (fun a => a.id == q.id) = some q
  memory : paSpace q.pa ≠ 3
  route : s.reqHeld q = false ∧ s.answerable q = true
  unheld : s.holdsBack q = false ∧ s.sentAhead q.core (homeOf q.pa) q.key q.id = false ∧ s.pendingAhead q = false
  back : s.replyHeld q = false ∧ ∀ e ∈ s.sites, e.2.sump = []
  unowned : (∀ o ∈ s.owned, o.line ∉ linesOf q.pa q.size) ∧ ∀ o ∈ s.ownReqs, o.line ∉ linesOf q.pa q.size
  unreserved : ∀ e ∈ s.resv, e.2 ≠ q.id → e.1 ∉ wordsOf q.pa q.size
  sound : (∀ w ∈ wordsOf q.pa q.size, mget? s.mem.errs w = none) ∧ s.retiredHome q.pa = false ∧ q.rgn = none
  quiet : s.waitq = []

/-- The machine without a request that has performed. -/
def without (s : State) (q : Req) : State :=
  { s with
    reqs := s.reqs.filter fun a => decide (a.id ≠ q.id)
    resv := s.resv.filter fun e => decide (e.2 ≠ q.id)
    withdrawals := s.withdrawals.filter fun i => decide (i ≠ q.id) }

/-- From memory m to memory m' n bytes from pa have taken those of v, but for the bytes of a mask, and no other byte has changed. -/
def Written (m m' : Memory) (pa n v mask : Nat) : Prop :=
  ∀ a, m'.byte a = if pa ≤ a ∧ a < pa + n ∧ mask.testBit (a - pa) = false then BitVec.ofNat 8 (v / 256 ^ (a - pa)) else m.byte a

/-- From m to m' the full/empty bits of the words listed have become b, and no other has changed. -/
def Marked (m m' : Memory) (ws : List Nat) (b : Bool) : Prop := ∀ w, m'.full w = if w ∈ ws then b else m.full w

/-- From s to t request q has performed: memory has changed as said, results have gone to the tail, and nothing else has happened. -/
def Performed (s t : State) (q : Req) (v mask n : Nat) (full : Option Bool) (result : Option W128) : Prop :=
  Written s.mem t.mem q.pa n v mask ∧ Marked s.mem t.mem (if full.isSome then [q.pa / 8] else []) (full.getD true) ∧ t.mem.errs = s.mem.errs ∧
    { t with mem := s.mem } = (match result with
      | some r => { without s q with nextId := s.nextId + 1, results := s.results ++ [⟨s.nextId, q.core, q.slot, q.seq, q.ix, some r, q.answerSrc, s.time⟩] }
      | none => without s q)

/-- The functions of the atomics (R222): the new word from the old one, b = r[63:0] and c = p[63:0]. -/
def atomicFunctions : List (AtomOp × (W64 → W64 → W64 → W64)) :=
  [(.aadd, fun a b _ => a + b), (.aand, fun a b _ => a &&& b), (.aor, fun a b _ => a ||| b), (.axor, fun a b _ => a ^^^ b),
   (.amins, fun a b _ => wrap64 (min a.toInt b.toInt)), (.amaxs, fun a b _ => wrap64 (max a.toInt b.toInt)),
   (.aminn, fun a b _ => wrap64 (min a.toNat b.toNat : Nat)), (.amaxn, fun a b _ => wrap64 (max a.toNat b.toNat : Nat)), (.aswp, fun _ b _ => b),
   (.acas, fun a b c => if a = b then c else a)]

/-- The value of an LD or LDD of x, extended by its size (R219). -/
def loaded (z : LdSize) (x : Nat) : W128 :=
  match z with
  | .s8 => (wrap64 (BitVec.ofNat 8 x).toInt).setWidth 128
  | .s16 => (wrap64 (BitVec.ofNat 16 x).toInt).setWidth 128
  | .s32 => (wrap64 (BitVec.ofNat 32 x).toInt).setWidth 128
  | _ => BitVec.ofNat 128 x

/-- A block is complete, with exit e (R153): its instructions have come to rest outside the tail, its store-mask forms, WRITEs and WRCs have resolved, what it writes
is full, its commands have room, and no fault of its tail, no priority and no other block of its core stands before it; its completion was found in an
earlier clk (R176), and no failure after commit waits to be reported. -/
structure Complete (s : State) (core slot : Nat) (r : Run) (e : Exit) : Prop where
  begun : r.tail = false ∧ (s.slotAt core slot).held = false ∧ r.from_ ≤ s.cyc core ∧ r.nullFlag = false ∧ (s.slotAt core slot).failed = []
  atRest : r.quiet (s.cyc core) = true
  resolved : ∀ i ∈ r.outTail, countedForm (r.shape i) = true → r.resolved (s.cyc core) i = true
  exit : r.exit = some e
  sound : r.badTail = none ∧ ∀ o ∈ r.ops, o.2.kind ≠ .mem (.joinad true)
  full : ∀ n ∈ r.needFull, (s.slotAt core slot).present.getLsbD (n / 4) = true ∧ (s.slotAt core slot).full.getLsbD n = true
  room : s.cmdRoom core (s.slotAt core slot).group r = true
  turn : ∃ m, r.met = some m ∧ m < s.cyc core
  first : (s.coreAt core).commitAt ≠ some (s.cyc core) ∧ s.outranked core slot = false ∧ s.prioHeld core slot r = false

/-- A block has neither a tail nor a performing form. -/
def Tailless (r : Run) : Prop := r.inTail = [] ∧ ∀ i, r.performsAt i = false

/-- The flags that the block raised whose enable bit, EN of FPC, is set (R112). -/
def enabledFlags (r : Run) : BitVec 6 := r.flags &&& BitVec.ofNat 6 (r.fpc.toNat / 2 ^ 8)

/-- The control registers other than FPF that WRC writes, with what each holds of the value written (Tables 2-13, 3-3, 3-9, 3-10, 5-5 and 14-1; R9, R151). -/
def writtenControls : List (Nat × (Ctl → W64) × (W64 → W64)) :=
  [(0, Ctl.fpc, (· &&& 0x3F07#64)), (2, Ctl.nanm, (· &&& 1#64)), (3, Ctl.mfmt, (· &&& 0xFFF#64)), (4, Ctl.msca, (· &&& 0x1FFFF#64)),
   (5, Ctl.mscb, (· &&& 0x1FFFF#64)), (7, Ctl.seg, (· &&& 0x3F003F0000#64)),
   (8, Ctl.wlim, fun v => BitVec.ofNat 64 (max 1000 (min (v.toNat % 2 ^ 30) (10 ^ 9)))), (16, Ctl.hvc, (· &&& 0xF#64)),
   (32, Ctl.root, (· &&& 0xFFFFFFFFFFFF#64)), (33, Ctl.asn, (· &&& 0xFFFF#64))]

/-- The value of the last WRC of a block to register n. -/
def lastWritten (r : Run) (n : Nat) : Option W64 := ((r.wrcs.filter fun w => decide (w.1 = n)).getLast?).map Prod.snd

/-- The request that a store form of a block leaves its core with as the i-th (R155 step 3). -/
def departing (s : State) (core slot : Nat) (r : Run) (k : MemKind) (op : Op) (i : Nat) : Req :=
  { id := s.nextId + i, core := core, slot := slot, ix := op.ix, seq := r.seq, lsid := op.lsid, kind := k, va := op.va, pa := op.pa, size := op.size
    data := op.r, mask := op.rmask, cmp := op.p.setWidth 64, rgn := op.rgn, ord := s.nextId + i, left := true, since := s.time, clk := s.cyc core }

/-- The commands that have left a core for an engine, in their order. -/
def intakeOf (s : State) (core : Nat) : EngineId → List Cmd
  | .matrix => (s.matAt core).intake
  | .copy => (s.copyAt core).intake
  | .hyper => (s.hvAt core).intake

/-- The words of the event message of a block that has committed with flags raised whose enable bit is set (Table 6-1). -/
def eventWords (core slot : Nat) (r : Run) (next wid fpf : W64) (time : Nat) : List W64 :=
  [BitVec.ofNat 64 (0x40 + coreSite core * 2 ^ 8 + coreNum core * 2 ^ 17 + slot * 2 ^ 21 + (enabledFlags r).toNat * 2 ^ 24),
   BitVec.ofNat 64 (r.addr.toNat % 2 ^ 48), BitVec.ofNat 64 (next.toNat % 2 ^ 48), wid, fpf, BitVec.ofNat 64 time, 0, 0]

/-- A slot stands at a boundary with nothing that holds it there (R126, R161, R174, R418). -/
structure AtBoundary (sl : Slot) (s : State) (core slot : Nat) : Prop where
  running : sl.busy = true ∧ sl.run = none ∧ sl.failed = [] ∧ sl.ending = none
  unheld : sl.stop = false ∧ sl.frz = false ∧ sl.rty = false ∧ sl.evp = false ∧ sl.deferFrz = false ∧ sl.deferStop = false ∧ sl.tlbWait = false
  fences : ∀ q ∈ s.reqs, q.core = core → q.slot = slot → q.left = true → ∀ sc, q.kind ≠ .fence sc

/-! ### Engine events -/

/-- From s to t the matrix engine of a core has become m, and nothing else has happened; likewise for the copy and the hypervector engine. -/
def MatNow (s t : State) (core : Nat) (m : MatEng) : Prop :=
  t.matAt core = m ∧ (∀ k, k ≠ core → t.matAt k = s.matAt k) ∧ { t with mats := s.mats } = s
def CopyNow (s t : State) (core : Nat) (m : CopyEng) : Prop :=
  t.copyAt core = m ∧ (∀ k, k ≠ core → t.copyAt k = s.copyAt k) ∧ { t with copies := s.copies } = s
def HvNow (s t : State) (core : Nat) (m : HvEng) : Prop :=
  t.hvAt core = m ∧ (∀ k, k ≠ core → t.hvAt k = s.hvAt k) ∧ { t with hvs := s.hvs } = s

/-- From s to t one command fewer counts on a tag of a core: the tag is set when none is left (R43, R134). A number past the tags counts nothing. -/
def TagFalls (s t : State) (core tag : Nat) : Prop :=
  { t with cores := s.cores } = s ∧ (∀ k, k ≠ core → t.coreAt k = s.coreAt k) ∧
    let k := s.coreAt core
    let n := mget k.counts tag 0
    let k' := t.coreAt core
    { k' with tags := k.tags, counts := k.counts, replay := k.replay } = k ∧ (k.replay.awaits ≠ some tag → k'.replay = k.replay) ∧ (64 ≤ tag → k' = k) ∧
      (tag < 64 → k'.tags = (if n ≤ 1 then k.tags ||| (1#64 <<< tag) else k.tags) ∧
        ∀ j, mget k'.counts j 0 = if j = tag then n - 1 else mget k.counts j 0)

/-- From s to t one command more counts on a tag of a core, and the tag is clear. -/
def TagRises (s t : State) (core tag : Nat) : Prop :=
  { t with cores := s.cores } = s ∧ (∀ k, k ≠ core → t.coreAt k = s.coreAt k) ∧
    let k := s.coreAt core
    let k' := t.coreAt core
    { k' with tags := k.tags, counts := k.counts } = k ∧ (64 ≤ tag → k' = k) ∧
      (tag < 64 → k'.tags = k.tags &&& ~~~(1#64 <<< tag) ∧ ∀ j, mget k'.counts j 0 = mget k.counts j 0 + if j = tag then 1 else 0)

/-- Accumulator rows lo to lo + n − 1 are clear in a', and every other element is as in a. -/
def RowsCleared (a a' : SMap AccEl) (lo n : Nat) : Prop :=
  ∀ k, mget a' k {} = if 64 * lo ≤ k ∧ k < 64 * (lo + n) then {} else mget a k {}

/-- The flags of the groups that a clear of rows lo to lo + n − 1 closes (R100). -/
def ClosedFlags (a : SMap AccEl) (lo n : Nat) (f : Flags) : Prop :=
  ∀ k, f.getLsbD k = true ↔ ∃ x ∈ a, 64 * lo ≤ x.1 ∧ x.1 < 64 * (lo + n) ∧ x.2.close.2.getLsbD k = true

/-- A command heads the intake of the matrix engine of a core that is not folded, and may start (R257). -/
structure MatReady (s : State) (core : Nat) (c : Cmd) (l : List Cmd) : Prop where
  intake : (s.matAt core).intake = c :: l
  here : c.core = core ∧ c.arrived = true ∧ s.threadDone c = true
  idle : (s.matAt core).halt = false ∧ (s.matAt core).task = none ∧ (s.matAt core).load = none ∧ (s.matAt core).stream = none
  plain : (s.coreAt core).foldK < 2
  fields : s.tagOk c = true ∧ c.matFields (s.foldRows core) = true

/-- The words that a command has read, from the i-th on, n of them as one number, the first lowest. -/
def wordsRead (c : Cmd) (i n : Nat) : Nat := packElems 64 ((c.feed.drop i).take n)

/-- Every word that a command has read fits 64 bits. -/
def WordsFit (c : Cmd) : Prop := ∀ x ∈ c.feed, x < 2 ^ 64

/-- An engine of a core can read n bytes of one word at an address of its command's space: it translates to pa, nothing holds the access, and no word is in error (R133). -/
structure CanRead (s : State) (c : Cmd) (va pa : Nat) : Prop where
  leads : s.engineXl c.sp va .read = (.ok pa, s)
  free : s.readWaits c pa = false ∧ s.engineHeld c.core pa = false
  sound : s.mem.errs = []

/-- What a stream of a row adds to the element in column n, out of the run of the row and its block scales (R97 to R102, R235, R241, R242). -/
def streamed (m : MatEng) (c : Cmd) (fa fb : MFmt) (kt row n run : Nat) (sA : List Nat) : AccEl × Flags :=
  (mget m.acc (64 * (c.arow + row) + n) {}).addRow fa.cls ((List.range kt).map fun i => fmtValue (packedElem run fa.width i) fa c.nanmBit)
    ((m.active.elems.take kt).map fun x => fmtValue (packedElem x fb.width n) fb m.active.nanm) sA
    (if m.active.pbs then m.active.scales.map fun x => packedElem x 16 n else List.replicate (kt / 32) m.active.usc) (kt / 32)

/-- The two streams, and the two drains with whether they clear their rows. -/
def streamKinds : List CmdKind := [.mstream, .mstreama]
def drainKinds : List (CmdKind × Bool) := [(.mdrain, true), (.mdrainn, false)]

/-- The copy forms that move words: where their row i goes, and which of the words read is its k-th (R278, R279, R282). -/
def wordForms : List (CmdKind × (Cmd → Nat → Nat) × (Cmd → Nat → Nat → Nat)) :=
  [(.cpy1, fun c _ => c.dst, fun _ _ k => k),
   (.cpy2, fun c i => (((c.dst : Int) + i * sext (c.r.toNat / 2 ^ 96) 32) % 2 ^ 64).toNat, fun c i k => i * (c.len / 8) + k),
   (.gath, fun c i => (c.dst + i * c.len) % 2 ^ 64, fun c i k => i * (c.len / 8 + 1) + 1 + k),
   (.scat, fun c i => (c.dst + c.idx.getD i 0 * c.len) % 2 ^ 64, fun c i k => i * (c.len / 8) + k),
   (.cpymc, fun c i => coreSite c.core * 2 ^ 37 + i * 2 ^ 22 + c.dst, fun _ _ k => k)]

/-- The n-th read of a copy form: its address and its bytes. An element of GATH follows its index (R278, R279, R282). -/
def copyReads : List (CmdKind × (Cmd → Nat → Nat × Nat)) :=
  [(.cpy1, fun c n => (c.src + 8 * n, 8)), (.scat, fun c n => (c.src + 8 * n, 8)), (.cpymc, fun c n => (c.src + 8 * n, 8)),
   (.cpy2, fun c n => ((((c.src : Int) + (n / (c.len / 8) : Nat) * sext (c.r.toNat / 2 ^ 64 % 2 ^ 32) 32 + (8 * (n % (c.len / 8)) : Nat)) % 2 ^ 64).toNat, 8)),
   (.gath, fun c n =>
     let k := n % (c.len / 8 + 1)
     if k = 0 then ((c.xarg % 2 ^ 48 + 4 * (n / (c.len / 8 + 1))) % 2 ^ 64, 4)
     else ((c.src + c.feed.getD (n - k) 0 * c.len + 8 * (k - 1)) % 2 ^ 64, 8))]

/-- The one line that a command has yet to write needs only its last part, w bytes from word n of it on, and nothing is in its way (R131, R154, R231). -/
structure LastPart (s : State) (core k : Nat) (r : CopyRun) (lw : LineWrite) (n w : Nat) : Prop where
  runs : mget? (s.copyAt core).active k = some r ∧ r.cmd.core = core ∧ r.stage = 0 ∧ r.out = [] ∧ r.todo = [lw]
  line : lw.bad = none ∧ lw.va % 64 = 0 ∧ lw.fe = r.cmd.fe
  part : (w = 8 ∨ w = 16 ∧ n % 2 = 0) ∧ 8 * n + w ≤ 64 ∧ lw.mask = (2 ^ w - 1) * 2 ^ (8 * n)
  read : r.cmd.readCount ≤ r.cmd.feed.length ∧ r.cmd.needs lw ≤ r.cmd.feed.length ∧ WordsFit r.cmd
  free : s.lineReady r.cmd.id lw = true ∧ s.retiredHome (64 * lw.line) = false ∧ (∀ e ∈ s.resv, e.1 / 8 ≠ lw.line) ∧ s.waitq = [] ∧ s.mem.errs = []

/-- From s to t a command has written w bytes of v from word n of its line on, with the full/empty rule of its variant, released the line, and has no line left. -/
def LastWritten (s t : State) (core k : Nat) (r : CopyRun) (lw : LineWrite) (n w v : Nat) : Prop :=
  Written s.mem t.mem (64 * lw.line + 8 * n) w v 0 ∧
    Marked s.mem t.mem (if r.cmd.fe = none then [] else (List.range (w / 8)).map (8 * lw.line + n + ·)) (decide (r.cmd.v = 1)) ∧
    t.owned = s.owned.filter (fun o => !(decide (o.line = lw.line) && decide (o.cmd = r.cmd.id))) ∧
    mget? (t.copyAt core).active k = some { r with todo := [], bdone := r.bdone + w }

/-- The second operand of a vector command: the vector read from memory for a .m variant, else register n. -/
def operandOf (m : HvEng) (c : Cmd) (n : Nat) : Hv := if c.v = 1 then BitVec.ofNat 8192 (wordsRead c 0 128) else mget m.h n 0#8192

/-- A counter after an addition: clamped to ±CMAX (R304). -/
def clamped (cmax x : Int) : Int := max (-cmax) (min cmax x)

/-- Counter i of an accumulator. -/
def counterOf (a : HvAcc) (i : Nat) : Int := a.cnt.getD i 0

/-- The bits in which two vectors differ. -/
def distanceOf (a b : Hv) : Nat := (List.range 8192).countP fun i => a.getLsbD i != b.getLsbD i

/-- Accumulator b of an engine has become a. -/
def withAcc (m : HvEng) (b : Nat) (a : HvAcc) : HvEng := if b = 0 then { m with a0 := a } else { m with a1 := a }

/-- The vector commands of one register result, on registers a = HA and b = HB, or the vector read, with shift K: each bit of HD (R312). -/
def vectorForms : List (CmdKind × Nat × (Hv → Hv → Nat → Nat → Bool)) :=
  [(.hbind, 0, fun a b _ i => a.getLsbD i != b.getLsbD i), (.hbind, 1, fun a b _ i => a.getLsbD i != b.getLsbD i),
   (.hperm, 0, fun a _ k i => a.getLsbD ((i + 8192 - k % 8192) % 8192)),
   (.hmove, 0, fun a _ _ i => a.getLsbD i), (.hmove, 1, fun a _ _ i => !a.getLsbD i), (.hclr, 0, fun _ _ _ _ => false)]

/-- The fills that compare registers, or a register with the vector read: the number of bits counted (R314). -/
def countForms : List (CmdKind × Nat × (Hv → Hv → Nat)) :=
  [(.hdist, 0, distanceOf), (.hdist, 1, distanceOf), (.hpopc, 0, fun a _ => (List.range 8192).countP fun i => a.getLsbD i)]

/-- The forms that read a vector, an image or a table: the address of their n-th word (R312 to R314). -/
def vectorReads : List (CmdKind × Nat × (Running → Nat) × Nat) :=
  [(.hbind, 1, fun r => r.cmd.addr, 128), (.hbund, 1, fun r => r.cmd.addr, 128), (.hdist, 1, fun r => r.cmd.addr, 128), (.hld, 0, fun r => r.cmd.addr, 128),
   (.hbndld, 0, fun r => r.cmd.addr, 2048), (.hnear, 0, fun r => r.cmd.addr + r.entry * r.cmd.hStride, 128),
   (.hneark, 0, fun r => r.cmd.addr + r.entry * r.cmd.hStride, 128)]


/-! ### Queue, table and weir events -/

/-- From s to t queue q of a core has become v, and nothing else has happened. -/
def QueueNow (s t : State) (core q : Nat) (v : RecvQ) : Prop :=
  { t with cores := s.cores } = s ∧ (∀ k, k ≠ core → t.coreAt k = s.coreAt k) ∧ t.coreAt core = { s.coreAt core with queues := (s.coreAt core).queues.set q v }

/-- From s to t message m has become m', and nothing else has happened. -/
def MsgNow (s t : State) (m m' : QMsg) : Prop := { t with qmsgs := s.qmsgs } = s ∧ m' ∈ t.qmsgs ∧ ∀ a ∈ s.qmsgs, a.id ≠ m.id → a ∈ t.qmsgs

/-- From s to t a site, a basin or a core has become v, and nothing else has happened. -/
def SiteNow (s t : State) (n : Nat) (v : Site) : Prop := { t with sites := s.sites } = s ∧ t.siteAt n = v ∧ ∀ k, k ≠ n → t.siteAt k = s.siteAt k
def BasinNow (s t : State) (b : Nat) (v : Basin) : Prop := { t with basins := s.basins } = s ∧ t.basinAt b = v ∧ ∀ k, k ≠ b → t.basinAt k = s.basinAt k
def CoreNow (s t : State) (core : Nat) (v : Core) : Prop := { t with cores := s.cores } = s ∧ t.coreAt core = v ∧ ∀ k, k ≠ core → t.coreAt k = s.coreAt k

/-- From s to t a thread at a block boundary has stopped for a failure after commit (R226): FRZ and TAIL are set, its cause is held, one packet has gone to its
rider, and memory and every other thread are as they were. -/
structure StoppedLate (s t : State) (core slot cause : Nat) : Prop where
  thread : (t.slotAt core slot).frz = true ∧ (t.slotAt core slot).tailBit = true ∧ (t.slotAt core slot).cause = BitVec.ofNat 8 cause ∧
    (t.slotAt core slot).pc = (s.slotAt core slot).pc
  packet : ∃ p, t.pkts = s.pkts ++ [p] ∧ p.core = coreNum core ∧ p.slot = slot ∧ (p.words.getD 0 0#64).toNat / 2 ^ 24 % 2 ^ 8 = cause
  others : ∀ k, k ≠ slotKey core slot → mget t.slots k {} = mget s.slots k {}
  memory : t.mem = s.mem

/-- A message of a thread of the module, of a head alone (R338). -/
structure HeadMessage (s : State) (m : QMsg) : Prop where
  found : s.qmsgs.find? (fun a => a.id == m.id) = some m
  here : m.sender = none ∧ m.peer = none ∧ m.core < 8192 ∧ m.slot < 8 ∧ m.smod < 2 ^ 16 ∧ m.len = 0 ∧ m.body = []

/-- The part has come to TIME t: no clk has begun after it, and every clk that begins before it has begun (R351, R354). -/
def AtInstant (s : State) (t : Nat) : Prop := s.time ≤ t ∧ ∀ i < 4, let v := s.basinAt i
  v.on = true → v.epoch * v.m + 10 * v.edges ≤ t * v.m ∧ t * v.m ≤ v.epoch * v.m + 10 * (v.edges + 1)

/-- The releases of the generations that an abort of a cell ends (R362): one for a basin cell, and for a part of a module cell also those it has completed that
are not released, the latest first. -/
def abortedBy (c : Cell) (rtime : Nat) : List Release :=
  (List.range ((c.gen + 65536 - c.nextRel) % 65536 + 1)).reverse.map fun i => { gen := (c.nextRel + i) % 65536, rtime := rtime, abort := true }

/-- Cell n of a basin with v in place of its cell. -/
def withCell (v : Basin) (n : Nat) (c : Cell) : Basin := { v with cells := mput v.cells n c }

/-! ### The sluice -/

/-- From s to t ditch d of a basin has become q, and nothing else has happened. -/
def DitchNow (s t : State) (b d : Nat) (q : Ditch) : Prop := BasinNow s t b { s.basinAt b with ditches := mput (s.basinAt b).ditches d q }

/-- Eight words as the bytes of a line. -/
def eightWords (ws : List W64) : Nat := packed ((List.range 8).map fun i => ((ws.getD i 0#64).toNat, 64 * i))

/-- Record r has been appended at the tail of ditch d, whose last segment had room, and a pass is called for (R35, R380, R387). -/
structure Appended (s t : State) (b d : Nat) (r : List W64) : Prop where
  place : Written s.mem t.mem (s.ditchAt b d).tail 64 (eightWords r) 0
  ditch : t.ditchAt b d = { s.ditchAt b d with recs := (s.ditchAt b d).recs ++ [(s.ditchAt b d).tail], tail := (s.ditchAt b d).tail + 64 }
  called : (t.basinAt b).passDue = true
  gone : t.appends = []

/-- A basin whose one ditch with records is d, placing, with the record at a as its only one, which is a readable thread continuation placed by its key, of a
group that has a continuation on core k, of a launch that has started; the core has a slot n for it and the pool an image (R36, R387, R388). -/
structure PlacesOn (s : State) (b d a k n img : Nat) (q : Ditch) (l : Launch) : Prop where
  due : (s.basinAt b).hold = false ∧ (s.basinAt b).passDue = false
  ditches : (s.basinAt b).ditches = [(d, q)] ∧ q.en = true ∧ q.mode = false ∧ q.aged = false ∧ q.recs = [a] ∧ q.segs.length = 1
  record : recBad (s.recAt a) = false ∧ recKind (s.recAt a) = 1 ∧ recState (s.recAt a) = 0 ∧ recPlace (s.recAt a) = 2 ∧ s.recLaunched b (s.recAt a) = true
  launch : s.launchOf b (recHdr (s.recAt a)) = some l ∧ l.started = true
  bound : s.groupCore b (s.recGroup b (s.recAt a)) = some k ∧ s.boundOk d k (s.recGroup b (s.recAt a)) l.words = true ∧ (s.eligible d k).head? = some n
  image : (s.basinAt b).images.head? = some img
  engines : (s.coreAt k).owner = some (s.recGroup b (s.recAt a)) ∧ (s.coreAt k).members = [] ∧ (s.coreAt k).awaiting = [] ∧ (s.coreAt k).foldK < 2
  quiet : s.mem.errs = [] ∧ s.pops = [] ∧ s.reqs = [] ∧ s.asleep = [] ∧ s.foldImgs = []

/-! ### The ditch-rider -/

/-- From s to t slot n of a core has become sl, and nothing else has happened. -/
def SlotNow (s t : State) (core n : Nat) (sl : Slot) : Prop :=
  t.slotAt core n = sl ∧ (∀ k, k ≠ slotKey core n → mget t.slots k {} = mget s.slots k {}) ∧ { t with slots := s.slots } = s

/-- FREEZE and STOPT as commands and as writes of the debug window, and what they make of a slot at a boundary (R419, R427). -/
def HaltCommand (core n : Nat) (k : SupKind) (i : Instr) (f : Slot → Slot) : Prop :=
  k = .freeze ∧ i = .slotFrzw core n ∧ f = (fun x => { x with frz := true, look := none }) ∨
  k = .stopt ∧ i = .slotStopw core n ∧ f = (fun x => { x with stop := true, look := none })

/-- THAW, STARTT and ACKF likewise, with the bit each clears, and whether the command ungates the core as a debug access does (R364). -/
def ResumeCommand (core n : Nat) (k : SupKind) (i : Instr) (f : Slot → Slot) (wakes : Bool) : Prop :=
  k = .thaw ∧ i = .slotFrzClear core n ∧ f = (fun x => { x with frz := false }) ∧ wakes = true ∨
  k = .startt ∧ i = .slotStartw core n ∧ f = (fun x => { x with stop := false }) ∧ wakes = true ∨
  k = .ackf ∧ i = .slotAckClear core n ∧ f = (fun x => { x with rty := false }) ∧ wakes = false

/-- A slot with half of a register written: word w of its context image (R423). -/
def RegWordSet (x y : Slot) (w : Nat) (v : W64) (full : Bool) : Prop :=
  (∀ m < 64, mget y.g m 0#128 = if m = w / 2 then
      (if w % 2 = 0 then (mget x.g m 0#128 >>> 64 <<< 64) ||| v.setWidth 128 else ((mget x.g m 0#128).setWidth 64).setWidth 128 ||| (v.setWidth 128 <<< 64))
    else mget x.g m 0#128) ∧
  (∀ m < 64, y.full.getLsbD m = if m = w / 2 ∧ w % 2 = 0 then full else x.full.getLsbD m) ∧ { y with g := x.g, full := x.full } = x

/-- From s to t one packet has been sent: kind, cause and INFO (Table 14-2). -/
def PacketSent (s t : State) (dest kind cause info : Nat) : Prop :=
  ∃ p, t.pkts = s.pkts ++ [p] ∧ p.dest = dest ∧ (p.words.getD 0 0#64).toNat % 2 ^ 8 = kind ∧ (p.words.getD 0 0#64).toNat / 2 ^ 24 % 2 ^ 8 = cause ∧
    (p.words.getD 4 0#64).toNat = info

/-- Condition i of R434: MIGR of a group on a core to the core with a logical ID is refused. Condition 1 is that the ID names no live core of the basin, and the
others are of the core d that it names. -/
def MoveRefused (s : State) (core : Nat) (g : Group) (id i : Nat) : Prop :=
  let b := coreBasin core
  let held := fun (k : Nat) (p : Slot → Prop) => ∃ n < 7, (s.slotAt k n).busy = true ∧ p (s.slotAt k n)
  match i, s.logicalCoreIn b (s.coreAt core).gen id with
  | 1, none => True
  | 2, some d => promptBasin (coreBasin d) ≠ promptBasin b
  | 3, some d => held d (fun _ => True) ∨ (s.coreAt d).owner ≠ none ∨ (s.coreAt d).members ≠ []
  | 4, some _ => s.riderCore (coreSite core) = core
  | 5, some _ => held core fun x => x.group ≠ g
  | 6, some _ => hdrKlev (s.hdrWords b g.hdr) ≠ 0 ∨ 2 ≤ (s.coreAt core).foldK
  | 7, some _ => ∃ e ∈ s.cores, coreBasin e.1 = b ∧ e.2.mig ≠ none
  | 8, some d => ∃ q < 7, (s.queueAt d q).en = true
  | _, _ => False

/-! ### Bring-up and configuration space -/

/-- Site n was CONFIGURED at the end of the slot before slot h of the wavefront (R441). -/
def OffersAt (s : State) (h n : Nat) : Prop :=
  n < 484 ∧ siteExists n = true ∧ (s.basinAt (basinOf n)).phase = 1 ∧ (s.siteAt n).bst = 3 ∧
    (s.siteAt n).tcfg = (s.basinAt (basinOf n)).tstart + 4096 * (h - 1)

/-- A headgate comes up: its copy of the image passes, its clock locks and its configuration check passes; else the code with which it fails (R438, R443, R461). -/
def GateUp (s : State) (n : Nat) : Prop := Config.fwPasses (s.imageAt n) = true ∧ n ∉ s.part.noLock ∧ mget s.part.fails n 0 = 0
def GateFails (s : State) (n c : Nat) : Prop :=
  Config.fwPasses (s.imageAt n) = false ∧ c = 0 ∨
  Config.fwPasses (s.imageAt n) = true ∧ n ∈ s.part.noLock ∧ c = 1 ∨
  Config.fwPasses (s.imageAt n) = true ∧ n ∉ s.part.noLock ∧ mget s.part.fails n 0 ≠ 0 ∧ c = if mget s.part.fails n 0 = 3 then 3 else 2

/-! ### The leat, links and health -/

/-- From s to t a leat port, or a scale-up port, has become p, and nothing else has happened. -/
def LeatNow (s t : State) (n : Nat) (p : LeatPort) : Prop := { t with leats := s.leats } = s ∧ t.leatAt n = p ∧ ∀ k, k ≠ n → t.leatAt k = s.leatAt k
def LinkNow (s t : State) (n : Nat) (p : LinkPort) : Prop := { t with links := s.links } = s ∧ t.linkAt n = p ∧ ∀ k, k ≠ n → t.linkAt k = s.linkAt k

/-- A port holds one request, whose first k bytes have been accessed, and of which words ws have been read. -/
def AskedUpTo (s : State) (n op : Nat) (f : Frame) (k : Nat) (ws : List W64) : Prop :=
  (s.leatAt n).jobs = [{ seq := f.seq, frame := f, at_ := k, words := ws }] ∧ f.op = op

/-- A port holds one request, which has not run. -/
def AskedOf (s : State) (n op : Nat) (f : Frame) : Prop := AskedUpTo s n op f 0 []

/-- A frame as it leaves a port, in the form that MODE selects (R450). -/
def carried (s : State) (n : Nat) (f : Frame) : Frame := { f with carrier := if (s.leatAt n).mode then .udp6 19524 else .ethernet 0x88B5 }

/-- From s to t the one request of a port has been answered. -/
def Answered (s t : State) (n : Nat) (a : Frame) : Prop := t.leatOut = s.leatOut ++ [(n, carried s n a)] ∧ (t.leatAt n).jobs = []

/-- From s to t the one request of a port, which is n bytes long, has come to byte k, with words ws read: it is answered where that is its end. -/
def CameTo (s t : State) (n op : Nat) (f : Frame) (len k : Nat) (ws : List W64) (a : Frame) : Prop :=
  (k < len → t.leatOut = s.leatOut ∧ AskedUpTo t n op f k ws) ∧ (len ≤ k → Answered s t n a)

/-- Words as consecutive bytes. -/
def wordsAsBytes (ws : List W64) : Nat := packed ((List.range ws.length).map fun i => ((ws.getD i 0#64).toNat, 64 * i))

/-- A sent flit on the link: numbered, under its key slot, with the last SEQ accepted (R457). -/
def onWire (p : LinkPort) (f : SentFlit) : LinkFlit := ⟨BitVec.ofNat 12 f.seq, f.ks, BitVec.ofNat 12 (p.rxSeq + 4095), false, f.crc, f.tag, f.words⟩

/-! ### The whole machine -/

/-- The forms marked SV (Tables 2-8 to 2-12), and RDC and WRC of control registers 32 to 47 (R66). -/
def SupervisorOnly (i : Instr) : Prop :=
  (∃ r t u, i = .rdc r t u ∧ 32 ≤ r.toNat) ∨ (∃ r, i = .wrc r ∧ 32 ≤ r.toNat) ∨ (∃ p n, i = .wcfg p n ∨ i = .wstep p n ∨ i = .dweight p n) ∨
    (∃ p, i = .freeze p ∨ i = .thaw p ∨ i = .ackf p ∨ i = .stopt p ∨ i = .startt p ∨ i = .tlbinv p ∨ i = .swapout p ∨ i = .swapin p ∨ i = .migr p) ∨
    (∃ p t u, i = .rdctx p t u ∨ i = .idle p t u) ∨ i = .wrctx

/-- Words that the manual's worked encodings give, with the instructions it says they are (Tables 2-17, 5-11, 11-6, 12-5, 13-5, 14-5a; R61, R196, R273). -/
def workedWords : List (Nat × Instr) :=
  [(0x44411441, .read 5#6 (some ⟨.l, 1#6⟩) (some ⟨.l, 4#6⟩)), (0x0108C301, .ld .always .n64 0#4 0#6 (some ⟨.l, 2#6⟩)),
   (0x00050CA1, .addi .always 1#14 (some ⟨.l, 3#6⟩)), (0x45840469, .mov .always (some ⟨.r, 4#6⟩) (some ⟨.l, 5#6⟩)), (0x0000C709, .st .always .n64 1#4 0#6),
   (0x00001851, .write 6#6), (0x00000031, .retire .always 0#3), (0x4540, .vaddCompact .s32 (some ⟨.l, 5#6⟩)), (0x45F6, .faddCompact .f32 (some ⟨.l, 5#6⟩)),
   (0x00010CE9, .cltsi .always 0#14 (some ⟨.l, 3#6⟩)), (0x4988046D, .mov .onFalse (some ⟨.r, 8#6⟩) (some ⟨.l, 9#6⟩)),
   (0x00022073, .movi .onTrue 0#14 (some ⟨.r, 8#6⟩)), (0x0000006B, .null .onTrue), (0x000053A1, .cpy2 .always 4#4 0#4), (0x20010BA1, .fill .always 2#4 2#4),
   (0x04508FD9, .qrecv .always 3#4 (some ⟨.l, 5#6⟩)), (0x0090CFD9, .qrecvd .always 3#4 9#6), (0x142103E1, .wsleep .always 0#4 1#4 (some ⟨.l, 2#6⟩)),
   (0x0001C7E1, .wstep .always 1#4), (0x1000C7E9, .joinad .always 1#4 1#4), (0x00014FE9, .spawn .always 3#4), (0x004523F1, .rdctx .always (some ⟨.l, 5#6⟩) none),
   (0x000027F1, .wrctx), (0x00412FF1, .idle .always (some ⟨.l, 1#6⟩) none)]

/-- The body of block bump, as halfwords (Table 2-17). -/
def bumpBody : List Nat := [0x1441, 0x4441, 0xC301, 0x0108, 0x0CA1, 0x0005, 0x0469, 0x4584, 0xC709, 0x0000, 0x1851, 0x0000, 0x0031, 0x0000]
end Sys2Proof.Claims

open Sys2Proof Sys2Proof.Machine Sys2Proof.Claims

/-! ### Scalar forms -/

/-- Every two-operand scalar form but a division, fired with its operands there and its predicate admitting it, sends the result of
Tables 5-2 to 5-4 to its targets with the latency of Table 5-10, raises no flag, and changes nothing else. -/
def Sys2Proof.Claims.ScalarPairResults : Prop :=
  ∀ e ∈ scalarPairs, ∀ (p : Pred) (a b : Option Target) (s : State) (c : Ctx) (x y : Token), Fires s c → Admits p c →
    c.inst.l = some x → c.inst.r = some y → Room c a b →
    ∃ t, exec (e.1 p a b) s = .next t ∧ Sends s t c a b e.2.1 (scalarOut [x, y] (e.2.2 x.lo y.lo)) 0#6

/-- The division forms send their results after 20 clk and take the core's divider for 20 clk (R164, R171, R176). -/
def Sys2Proof.Claims.DivisionResults : Prop :=
  ∀ e ∈ divisions, ∀ (p : Pred) (a b : Option Target) (s : State) (c : Ctx) (x y : Token), Fires s c → Admits p c →
    c.inst.l = some x → c.inst.r = some y → Room c a b →
    ∃ t, exec (e.1 p a b) s = .next t ∧
      Sends (s.modCore c.core fun k => { k with divFree := s.cyc c.core + 20 }) t c a b 20 (scalarOut [x, y] (e.2 x.lo y.lo)) 0#6

/-- The one-operand scalar forms. -/
def Sys2Proof.Claims.ScalarSingleResults : Prop :=
  ∀ e ∈ scalarSingles, ∀ (p : Pred) (a b : Option Target) (s : State) (c : Ctx) (x : Token), Fires s c → Admits p c →
    c.inst.l = some x → Room c a b →
    ∃ t, exec (e.1 p a b) s = .next t ∧ Sends s t c a b 1 (scalarOut [x] (e.2 x.lo)) 0#6

/-- The scalar forms with one or two operands: every form of Tables 5-2 to 5-4 but the immediates, MOV, MOVI and SEL. -/
def Obligations.ScalarForms : Prop := Sys2Proof.Claims.ScalarPairResults ∧ Sys2Proof.Claims.DivisionResults ∧ Sys2Proof.Claims.ScalarSingleResults

/-- The immediate forms, for every well-formed immediate (a shift by 0 to 63). -/
def Obligations.ScalarImmediateResults : Prop :=
  ∀ e ∈ scalarImms, ∀ (p : Pred) (i : BitVec 14) (a : Option Target) (s : State) (c : Ctx) (x : Token), Fires s c → Admits p c →
    (e.1 p i a).wf = true → c.inst.l = some x → Room c a none →
    ∃ t, exec (e.1 p i a) s = .next t ∧ Sends s t c a none e.2.1 (scalarOut [x] (e.2.2 x.lo i)) 0#6
/-! ### Lane forms -/

/-- The two-operand integer lane forms, and the compact forms that stand for them with predicate mode 00, send a token that holds the
result of R183 to R185 in each live lane. -/
def Obligations.LanePairResults : Prop :=
  ∀ e ∈ intPairs, ∀ (p : Pred) (y : LaneTy) (a b : Option Target) (s : State) (c : Ctx) (x z : Token), Fires s c →
    y.isInt = true → HasPred p c → c.inst.l = some x → c.inst.r = some z → Room c a b →
    (∃ t, exec (e.1 p y a b) s = .next t ∧ SendsLanes s t c a b e.2.2.1 y.width y.count (laneRes2 p y c x z (e.2.2.2 y))) ∧
    ∀ k, e.2.1 = some k → p = .always → b = none →
      ∃ t, exec (k y a) s = .next t ∧ SendsLanes s t c a b e.2.2.1 y.width y.count (laneRes2 p y c x z (e.2.2.2 y))

/-- VNOT and VABS. -/
def Sys2Proof.Claims.LaneSingleResults : Prop :=
  ∀ e ∈ intSingles, ∀ (p : Pred) (y : LaneTy) (a b : Option Target) (s : State) (c : Ctx) (x : Token), Fires s c →
    y.isInt = true → HasPred p c → c.inst.l = some x → Room c a b →
    ∃ t, exec (e.1 p y a b) s = .next t ∧ SendsLanes s t c a b 1 y.width y.count (laneRes1 p y c x fun v => (e.2 y v, 0#6))

/-- The forms that move or choose lanes, and those that give a scalar of the lanes (R186, R187). -/
def Sys2Proof.Claims.LaneMoveResults : Prop :=
  ∀ (p : Pred) (y : LaneTy) (a b : Option Target) (s : State) (c : Ctx) (x : Token), Fires s c → y.isInt = true → HasPred p c →
    c.inst.l = some x → Room c a b →
    (∃ t, exec (.vsplat p y a b) s = .next t ∧ SendsLanes s t c a b 1 y.width y.count fun i =>
      if !laneNull x y 0 && predLane p c.inst.p y i then some (laneAt y x 0, 0#6) else none) ∧
    (∃ t, exec (.vredadd p y a b) s = .next t ∧ SendsScalar s t c a b 3
      (if liveValues p y c x = [] then none else some (liveValues p y c x).sum)) ∧
    (∃ t, exec (.vredmin p y a b) s = .next t ∧ SendsScalar s t c a b 3 (liveValues p y c x).min?) ∧
    (∃ t, exec (.vredmax p y a b) s = .next t ∧ SendsScalar s t c a b 3 (liveValues p y c x).max?) ∧
    ∀ z, c.inst.r = some z →
      (∃ t, exec (.vextr p y a b) s = .next t ∧ SendsScalar s t c a b 1
        (if z.nullIn 8 || !liveLane p y [x] c (z.lo.toNat % y.count) then none else some (laneInt y (laneAt y x (z.lo.toNat % y.count))))) ∧
      (∃ t, exec (.vperm p y a b) s = .next t ∧ SendsLanes s t c a b 1 y.width y.count fun i =>
        if !laneNull z y i && !laneNull x y (laneAt y z i % y.count) && predLane p c.inst.p y i then
          some (laneAt y x (laneAt y z i % y.count), 0#6) else none) ∧
      ∀ k, c.inst.p = some k → ∃ t, exec (.vsel y a b) s = .next t ∧ SendsLanes s t c a b 1 y.width y.count fun i =>
        if laneNull k y i then none
        else if laneTrue k.data y i then (if laneNull x y i then none else some (laneAt y x i, 0#6))
        else if laneNull z y i then none else some (laneAt y z i, 0#6)

/-- The integer lane forms of one operand, and those that move, choose or reduce lanes. -/
def Obligations.LaneUnaryForms : Prop := Sys2Proof.Claims.LaneSingleResults ∧ Sys2Proof.Claims.LaneMoveResults

/-- The forms that change the width of lanes (R188): a destination lane comes from one source lane, and the predicate is read per
destination lane under the destination type. -/
def Obligations.LaneWidthResults : Prop :=
  ∀ (p : Pred) (y : LaneTy) (a b : Option Target) (s : State) (c : Ctx) (x : Token), Fires s c → HasPred p c → c.inst.l = some x → Room c a b →
    (y.canWiden = true →
      (∃ t, exec (.vwidenlo p y a b) s = .next t ∧ SendsLanes s t c a b 1 (2 * y.width) (y.count / 2) fun i =>
        if !laneNull x y i && predLane p c.inst.p y.wider i then some (wrapTo (2 * y.width) (laneInt y (laneAt y x i)), 0#6) else none) ∧
      ∃ t, exec (.vwidenhi p y a b) s = .next t ∧ SendsLanes s t c a b 1 (2 * y.width) (y.count / 2) fun i =>
        if !laneNull x y (i + y.count / 2) && predLane p c.inst.p y.wider i then
          some (wrapTo (2 * y.width) (laneInt y (laneAt y x (i + y.count / 2))), 0#6) else none) ∧
    (y.canNarrow = true → ∀ z, c.inst.r = some z →
      let src := fun (i : Nat) => if i < y.count then x else z
      (∃ t, exec (.vnarrow p y a b) s = .next t ∧ SendsLanes s t c a b 1 (y.width / 2) (2 * y.count) fun i =>
        if !laneNull (src i) y (i % y.count) && predLane p c.inst.p y.narrower i then
          some (wrapTo (y.width / 2) (laneInt y (laneAt y (src i) (i % y.count))), 0#6) else none) ∧
      ∃ t, exec (.vnarrows p y a b) s = .next t ∧ SendsLanes s t c a b 1 (y.width / 2) (2 * y.count) fun i =>
        if !laneNull (src i) y (i % y.count) && predLane p c.inst.p y.narrower i then
          some (satTo y.narrower (laneInt y (laneAt y (src i) (i % y.count)))) else none)

/-- The two-operand floating-point forms and their compact forms round each live lane under FPC.RM as it stood when the block
began (R110, R189, R190). -/
def Obligations.FloatPairResults : Prop :=
  ∀ e ∈ floatPairs, ∀ (p : Pred) (y : LaneTy) (a b : Option Target) (s : State) (c : Ctx) (x z : Token), Fires s c →
    y.isFloat = true → HasPred p c → c.inst.l = some x → c.inst.r = some z → Room c a b →
    (∃ t, exec (e.1 p y a b) s = .next t ∧
      SendsLanes s t c a b e.2.2.1 y.width y.count (laneRes2 p y c x z (e.2.2.2 y (c.run.fpc.setWidth 2)))) ∧
    ∀ k, e.2.1 = some k → p = .always → b = none →
      ∃ t, exec (k y a) s = .next t ∧
        SendsLanes s t c a b e.2.2.1 y.width y.count (laneRes2 p y c x z (e.2.2.2 y (c.run.fpc.setWidth 2)))

/-- FABS, FNEG and FRINT; the special functions, which take the core's special-function unit for 1 clk; FDIV and FSQRT, which take the
lane divide unit for 7 or 5 clk (R189, R191, R192, R201). -/
def Obligations.FloatSingleResults : Prop :=
  ∀ (p : Pred) (y : LaneTy) (a b : Option Target) (s : State) (c : Ctx) (x : Token), Fires s c → y.isFloat = true → HasPred p c →
    c.inst.l = some x → Room c a b →
    let rm : RMode := c.run.fpc.setWidth 2
    let sd := s.modCore c.core fun k => { k with ldivFree := s.cyc c.core + if y = .f32 then 7 else 5 }
    (∀ e ∈ floatSingles, ∃ t, exec (e.1 p y a b) s = .next t ∧ SendsLanes s t c a b 2 y.width y.count (laneRes1 p y c x (e.2 y rm))) ∧
    (∀ e ∈ specials, (e.1 p y a b).wf = true → ∃ t, exec (e.1 p y a b) s = .next t ∧
      SendsLanes (s.modCore c.core fun k => { k with sfuFree := s.cyc c.core + 1 }) t c a b 6 y.width y.count (laneRes1 p y c x (e.2 y rm))) ∧
    (∃ t, exec (.fsqrt p y a b) s = .next t ∧
      SendsLanes sd t c a b (if y = .f32 then 14 else 10) y.width y.count (laneRes1 p y c x (fSqrtLane y rm))) ∧
    ∀ z, c.inst.r = some z → ∃ t, exec (.fdiv p y a b) s = .next t ∧
      SendsLanes sd t c a b (if y = .f32 then 14 else 10) y.width y.count (laneRes2 p y c x z fun m n =>
        ((ieeeRound (Val.div (laneVal y m) (laneVal y n)) y.fmt rm).1, (ieeeRound (Val.div (laneVal y m) (laneVal y n)) y.fmt rm).2 |||
          if (laneVal y n).isZero && !(laneVal y m).isZero && !(laneVal y m).isNan && !(laneVal y m).isInf then flagDZ else 0#6))

/-- FMA and FMS round a · b ± c once (R189); FREDADD, of one operand, leaves the root of its pairwise
tree in lane 0 and +0 in the others, a NaN as the canonical one, with the flags of the tree's additions, and NV for a signalling NaN that no addition met, or a
null token when every lane is null (R104, R191). -/
def Obligations.FusedResults : Prop :=
  ∀ (y : LaneTy) (a b : Option Target) (s : State) (c : Ctx) (x : Token), Fires s c → y.isFloat = true →
    c.inst.l = some x → Room c a b →
    let rm : RMode := c.run.fpc.setWidth 2
    let res := fun (z k : Token) (neg : Bool) (i : Nat) =>
      if liveLane .always y [x, z, k] c i then
        let u := laneVal y (laneAt y k i)
        some (ieeeRound (Val.add (rm == 3#2) (Val.mul (laneVal y (laneAt y x i)) (laneVal y (laneAt y z i))) (if neg then u.negate else u)) y.fmt rm)
      else none
    (∀ z k, c.inst.r = some z → c.inst.p = some k →
      (∃ t, exec (.fma y a b) s = .next t ∧ SendsLanes s t c a b 4 y.width y.count (res z k false)) ∧
      ∃ t, exec (.fms y a b) s = .next t ∧ SendsLanes s t c a b 4 y.width y.count (res z k true)) ∧
    ∀ p, HasPred p c → ∃ t, exec (.fredadd p y a b) s = .next t ∧
      match treeNode y rm (fun i => if liveLane p y [x] c i then some (laneAt y x i, 0#6) else none) (if y = .f32 then 2 else 3) 0 with
      | some r => Sends s t c a b (if y = .f32 then 8 else 12)
          { data := BitVec.ofNat 128 (if (laneVal y r.1).isNan then nanOrZero y.fmt false else r.1) } (r.2 ||| snanFlag [laneVal y r.1])
      | none => Sends s t c a b (if y = .f32 then 8 else 12) nullToken 0#6

/-- CVT, SNARROW and SWIDEN (R193 to R195): lane i of the destination is lane i of the source converted, with the predicate read under the
destination type for CVT and SWIDEN. -/
def Obligations.ConversionResults : Prop :=
  ∀ (p : Pred) (d y : LaneTy) (f : MFmt) (a b : Option Target) (s : State) (c : Ctx) (x : Token), Fires s c → HasPred p c →
    c.inst.l = some x → Room c a b →
    let rm : RMode := c.run.fpc.setWidth 2
    let conv := fun (op : Nat → Nat × Flags) (i : Nat) =>
      if !laneNull x y i && predLane p c.inst.p d i then some (op (laneAt y x i)) else none
    ((Instr.cvtFloatSource p d y a b).wf = true → ∃ t, exec (.cvtFloatSource p d y a b) s = .next t ∧
      SendsLanes s t c a b 3 d.width (min y.count d.count) (conv fun v =>
        if d.isInt then cvtToInt (laneVal y v) d.isSigned d.width rm else ieeeRound (laneVal y v) d.fmt rm)) ∧
    ((Instr.cvtIntegerSource p d y a b).wf = true → ∃ t, exec (.cvtIntegerSource p d y a b) s = .next t ∧
      SendsLanes s t c a b 3 d.width (min y.count d.count) (conv fun v => ieeeRound (.ofInt (laneInt y v)) d.fmt rm)) ∧
    ∀ z, c.inst.r = some z →
      ((Instr.swiden p d f a b).wf = true → ∃ t, exec (.swiden p d f a b) s = .next t ∧
        SendsLanes s t c a b 4 d.width d.count fun i =>
          if bits x.mask.toNat ((f.width * (i + 1) - 1) / 8) (f.width * i / 8) = 0 ∧ z.nullIn 2 = false ∧ predLane p c.inst.p d i = true then
            some (widenScaled (x.data.toNat / 2 ^ (f.width * i) % 2 ^ f.width) f (z.data.toNat % 65536) d.fmt rm (c.run.nanm.getLsbD 0))
          else none) ∧
      ((Instr.snarrow p f y a b).wf = true → ∃ t tok fl, exec (.snarrow p f y a b) s = .next t ∧ Sends s t c a b 4 tok fl ∧
        PackedOut f.width y.count (fun i => if liveLane p y [x] c i ∧ z.nullIn 2 = false then
            some (narrowScaled (laneVal y (laneAt y x i)) (z.data.toNat % 65536) f rm (c.run.fpc.getLsbD 2) (c.run.nanm.getLsbD 0))
          else none) tok fl)

/-! ### Block control, registers, exits and faults -/

/-- MOV sends the token of l, data and mask; MOVI its immediate; SEL the token of l or r that p chooses, or a null token when p is null
(R166, Table 5-4). -/
def Obligations.MoveResults : Prop :=
  ∀ (p : Pred) (a b : Option Target) (i : BitVec 14) (s : State) (c : Ctx), Fires s c →
    (∀ x, Admits p c → Room c a b → c.inst.l = some x → ∃ t, exec (.mov p a b) s = .next t ∧ Sends s t c a b 1 x 0#6) ∧
    (Admits p c → Room c a none → ∃ t, exec (.movi p i a) s = .next t ∧ Sends s t c a none 1 { data := (wrap64 i.toInt).setWidth 128 } 0#6) ∧
    (∀ x y k, Room c a b → c.inst.l = some x → c.inst.r = some y → c.inst.p = some k → ∃ t, exec (.sel a b) s = .next t ∧
      Sends s t c a b 1 (if k.nullIn 8 then nullToken else if k.data.getLsbD 0 then x else y) 0#6)

/-- NULL sets the block's NULL flag; ALIGN, a hint the block gives by holding it, only resolves; WRITE and WRC outside the tail only resolve, their effects being the commit's
(R149, R151, R163, R166). -/
def Obligations.ResolvingForms : Prop :=
  ∀ (p : Pred) (n : BitVec 6) (s : State) (c : Ctx), Fires s c →
    (Admits p c → ∃ t, exec (.null p) s = .next t ∧ BlockNow s t c { doneRun c with nullFlag := true }) ∧
    (∃ t, exec .align s = .next t ∧ BlockNow s t c (doneRun c)) ∧
    (∀ x, c.inst.l = some x → c.run.tail = false → ∃ t, exec (.write n) s = .next t ∧ BlockNow s t c (doneRun c)) ∧
    (∀ x, c.inst.l = some x → ∃ t, exec (.wrc n) s = .next t ∧ BlockNow s t c (doneRun c))

/-- A WRITE in the tail fills its register at once with the bytes of its token that are not null, if the register's line is present, and
leaves every other register and the rest of the machine (R155 step 4); in a block that has called, g63 takes the link, the address of the
16-byte granule after the block, in place of the token (R159). -/
def Obligations.TailWriteFills : Prop :=
  ∀ (n : BitVec 6) (s : State) (c : Ctx) (x : Token), Fires s c → c.inst.l = some x → c.run.tail = true →
    c.sl.present.getLsbD (n.toNat / 4) = true →
    ∃ t, exec (.write n) s = .next t ∧ t.runAt c.core c.slot = some (doneRun c) ∧
      let sl' := t.slotAt c.core c.slot
      (n = 63#6 ∧ HasCalled c.run →
        mget sl'.g 63 0#128 = BitVec.ofNat 128 ((c.run.addr.toNat + 8 + 2 * (c.run.hd / 2 ^ 40 % 2 ^ 8) + 15) / 16 * 16 % 2 ^ 64)) ∧
      (¬(n = 63#6 ∧ HasCalled c.run) → laidOver (mget c.sl.g n.toNat 0#128) x (mget sl'.g n.toNat 0#128)) ∧ sl'.full.getLsbD n.toNat = true ∧
      (∀ m < 64, m ≠ n.toNat → mget sl'.g m 0#128 = mget c.sl.g m 0#128 ∧ sl'.full.getLsbD m = c.sl.full.getLsbD m) ∧
      ({ sl' with g := [], full := 0#64, run := none } : Slot) = { c.sl with g := [], full := 0#64, run := none } ∧
      { t with slots := s.slots } = s

/-- READ and READT of a full register whose line is present send its 128 bits; READ of an empty one waits; READT of an empty one raises
the empty-register fault 0x23 (R148). -/
def Sys2Proof.Claims.ReadForms : Prop :=
  ∀ (n : BitVec 6) (a b : Option Target) (s : State) (c : Ctx), Fires s c → c.sl.present.getLsbD (n.toNat / 4) = true →
    (c.sl.full.getLsbD n.toNat = true → Room c a b →
      (∃ t, exec (.read n a b) s = .next t ∧ Sends s t c a b 2 { data := mget c.sl.g n.toNat 0#128 } 0#6) ∧
      ∃ t, exec (.readt n a b) s = .next t ∧ Sends s t c a b 2 { data := mget c.sl.g n.toNat 0#128 } 0#6) ∧
    (c.sl.full.getLsbD n.toNat = false →
      (∃ t, exec (.read n a b) s = .next t ∧ BlockNow s t c (c.run.modInst c.ix fun i => { i with st := .wait s.time })) ∧
      (c.run.tail = false → c.sl.failed = [] → ∃ t, exec (.readt n a b) s = .next t ∧ FaultTaken s t c.core c.slot c.run 0x23 c.ix false 0))

/-- The first access to a register whose line is not present loads the line from its home in the context image (R147), here one with
no word in error and on a slice that has not been migrated. -/
def Sys2Proof.Claims.ReadLoadsLine : Prop :=
  ∀ (n : BitVec 6) (a b : Option Target) (s : State) (c : Ctx), Fires s c → c.sl.present.getLsbD (n.toNat / 4) = false →
    s.mem.errs = [] → Stays s c.sl.ctl.imga.toNat 2048 →
    ∃ t, exec (.read n a b) s = .next t ∧ (t.slotAt c.core c.slot).present.getLsbD (n.toNat / 4) = true ∧
      (Room c a b → (∀ k < 4,
        mget (t.slotAt c.core c.slot).g (4 * (n.toNat / 4) + k) 0#128 =
          BitVec.ofNat 128 (s.mem.read (c.sl.ctl.imga.toNat + 64 * (n.toNat / 4) + 16 * k) 16) ∧
        (t.slotAt c.core c.slot).full.getLsbD (4 * (n.toNat / 4) + k) = s.mem.full ((c.sl.ctl.imga.toNat + 64 * (n.toNat / 4) + 16 * k) / 8)) ∧
        t.mem = s.mem)

/-- RDC sends the control register it names in bits [63:0] with latency 2: TAGS as the thread of a core that is not folded sees them, NCYC in whole
clocks, and every other register of Tables 2-13 and 14-1 (R151, R167, R415). -/
def Sys2Proof.Claims.RdcResults : Prop :=
  ∀ (a b : Option Target) (s : State) (c : Ctx), Fires s c → Room c a b →
    (∀ e ∈ controlValues, ∃ t, exec (.rdc (BitVec.ofNat 6 e.1) a b) s = .next t ∧
      Sends s t c a b 2 { data := (e.2 s c).setWidth 128 } 0#6) ∧
    ((s.coreAt c.core).foldK < 2 → ∃ t, exec (.rdc 9#6 a b) s = .next t ∧
      Sends s t c a b 2 { data := (s.coreAt c.core).tags.setWidth 128 } 0#6) ∧
    ∃ t, exec (.rdc 11#6 a b) s = .next t ∧
      Sends s t c a b 2 { data := (BitVec.ofNat 64 ((s.basinAt (coreBasin c.core)).ncyc / 2 ^ 16)).setWidth 128 } 0#6

/-- READ, READT and RDC. -/
def Obligations.RegisterReads : Prop := Sys2Proof.Claims.ReadForms ∧ Sys2Proof.Claims.ReadLoadsLine ∧ Sys2Proof.Claims.RdcResults

/-- The exit forms: the first exit of a block that fires is recorded with its target, A + 16·off19 or l[63:0], and its lookup starts as a
prefetch (R158). -/
def Obligations.ExitForms : Prop :=
  ∀ (p : Pred) (x : BitVec 3) (o : BitVec 19) (s : State) (c : Ctx), Fires s c → Admits p c → c.run.exit = none →
    (∀ e ∈ offsetExits, ∃ t, exec (e.1 p x o) s = .next t ∧ ExitFired s t c e.2 (wrap64 (c.run.addr.toNat + 16 * o.toInt))) ∧
    (∀ e ∈ registerExits, ∀ k, c.inst.l = some k → k.nullIn 8 = false → ∃ t, exec (e.1 p x) s = .next t ∧ ExitFired s t c e.2 k.lo) ∧
    ∃ t, exec (.retire p x) s = .next t ∧ ExitFired s t c .retire 0#64

/-- An instruction under a predicate token k: one that is a value and fails the mode resolves it without firing, and nothing happens; a null one makes it send
a null token (R145). -/
def Predicated (s : State) (c : Ctx) (i : Instr) (p : Pred) (a b : Option Target) (k : Token) : Prop :=
  (k.nullIn 8 = false → k.data.getLsbD 0 ≠ (p == .onTrue) → exec i s = .next s) ∧
    (k.nullIn 8 = true → Room c a b → ∃ t s' lat, exec i s = .next t ∧ Sends s' t c a b lat nullToken 0#6 ∧ { s' with cores := s.cores } = s)

/-- The scalar forms of two operands and of one, MOV, MOVI and the immediate forms under a predicate (R145). -/
def Obligations.PredicatedScalars : Prop :=
  ∀ (p : Pred) (a b : Option Target) (i : BitVec 14) (s : State) (c : Ctx) (k : Token), Fires s c → c.inst.p = some k → p ≠ .always →
    Predicated s c (.movi p i a) p a none k ∧
    ∀ x, c.inst.l = some x →
      (∀ f ∈ scalarSingles.map (·.1) ++ [.mov], Predicated s c (f p a b) p a b k) ∧
      (∀ e ∈ scalarImms, (e.1 p i a).wf = true → Predicated s c (e.1 p i a) p a none k) ∧
      ∀ f ∈ scalarPairs.map (·.1) ++ divisions.map (·.1), ∀ y, c.inst.r = some y → Predicated s c (f p a b) p a b k

/-- The faults that a firing form raises in an uncommitted block: a token sent to a filled slot 0x20, with the consumer's index; a second exit
0x21 (R146, Table 5-9). -/
def Obligations.BlockFaults : Prop :=
  ∀ (p : Pred) (i : BitVec 14) (g : Target) (x : BitVec 3) (o : BitVec 19) (s : State) (c : Ctx), Fires s c → Admits p c → c.run.tail = false → c.sl.failed = [] →
    (((c.run.inst g.idx.toNat).slot g.slot).isSome = true →
      ∃ t, exec (.movi p i (some g)) s = .next t ∧ FaultTaken s t c.core c.slot c.run 0x20 g.idx.toNat false 0) ∧
    (c.run.exit.isSome = true → ∃ t, exec (.br p x o) s = .next t ∧ FaultTaken s t c.core c.slot c.run 0x21 c.ix false 0)

/-! ### Slice forms when they fire -/

/-- LD, LOOK, FEBIT, LDACQ and PROBE send their requests when they fire, at the effective address l[63:0] + off6·size, PROBE at the byte of l[63:0],
aligned or not (R217, R218, R221, R224); the word of a load enters the block's load-watch set (R156). -/
def Obligations.LoadRequests : Prop :=
  ∀ (p : Pred) (n : BitVec 4) (o : BitVec 6) (a : Option Target) (s : State) (c : Ctx) (x : Token), Fires s c → Admits p c →
    c.inst.l = some x → x.nullIn 8 = false →
    (∀ e ∈ tokenForms, ∀ pa rgn, effective x o e.2.2 % e.2.2 = 0 → Reaches s c .read true (effective x o e.2.2) pa rgn →
      ∃ t, exec (e.1 p n o a) s = .next t ∧ Requested s t c e.2.1 n (effective x o e.2.2) pa e.2.2 ((c.inst.r.getD {}).data) ∧
        ∀ b, t.runAt c.core c.slot = some b → ((∃ z, e.2.1 = .ld z) ∨ e.2.1 = .look ∨ ∃ z, e.2.1 = .ldacq z) → ∀ w ∈ wordsOf pa e.2.2, w ∈ b.watch) ∧
    ∀ pa rgn, Reaches s c .probe true x.lo.toNat pa rgn → ∃ t, exec (.probe p n a) s = .next t ∧
      Requested s t c .probe n x.lo.toNat pa 1 ((c.inst.r.getD {}).data)

/-- ST, POST, STREL, VOID, LDD and the atomics resolve when they fire and leave their operation for commit: no request goes out before
(R118, R152, R153, R220 to R222). An ST keeps the null bytes of r, so that they are not written. -/
def Obligations.PendingForms : Prop :=
  ∀ (p : Pred) (n : BitVec 4) (o : BitVec 6) (a : Option Target) (s : State) (c : Ctx) (x : Token) (pa : Nat) (rgn : Option Nat), Fires s c → Admits p c →
    c.inst.l = some x → x.nullIn 8 = false →
    let z := c.inst.r.getD {}
    (∀ e ∈ commitForms, ∀ y, c.inst.r = some y → effective x o e.2.2.1 % e.2.2.1 = 0 → Reaches s c .write false (effective x o e.2.2.1) pa rgn →
      (if e.2.2.2 then y.nullIn 8 = false else y.mask.toNat % 2 ^ e.2.2.1 ≠ 2 ^ e.2.2.1 - 1) →
      ∃ t, exec (e.1 p n o a) s = .next t ∧ Pending s t c e.2.1 n (effective x o e.2.2.1) pa e.2.2.1 y.data y.mask) ∧
    (effective x o 8 % 8 = 0 → Reaches s c .write false (effective x o 8) pa rgn →
      (∃ t, exec (.void p n o) s = .next t ∧ Pending s t c .void n (effective x o 8) pa 8 z.data z.mask) ∧
      ∀ y, c.inst.r = some y → y.nullIn 8 = false →
        (∀ m, ∀ e ∈ atomicForms, ∃ t, exec (e.1 p m n o a) s = .next t ∧
          Pending s t c (.atomic e.2 m) n (effective x o 8) pa 8 y.data y.mask) ∧
        ∀ m k, c.inst.p = some k → k.nullIn 8 = false → ∃ t, exec (.acas m n o a) s = .next t ∧
          Pending s t c (.atomic .acas m) n (effective x o 8) pa 8 y.data y.mask) ∧
    ∀ e ∈ fillForms, ∀ g, effective x o e.2.2 % e.2.2 = 0 → Reaches s c .read true (effective x o e.2.2) pa rgn →
      ∃ t, exec (e.1 p n g o) s = .next t ∧ Pending s t c (.ldd e.2.1 g.toNat) n (effective x o e.2.2) pa e.2.2 z.data z.mask

/-- TAKE, GIVE and AMEND: when they fire, in whatever mode, their request for the reservation goes out and their operation is left for commit with its
address, data and request; memory is as it was (R154, R221). A FENCE of any scope resolves when it fires and leaves its operation for commit,
asking nothing (R126, R223), unless reads it stands between have performed out of order already (log entry 76). -/
def Obligations.ReservingForms : Prop :=
  ∀ (p : Pred) (n : BitVec 4) (o : BitVec 6) (a : Option Target) (s : State) (c : Ctx), Fires s c → Admits p c →
    (∀ x pa rgn, c.inst.l = some x → x.nullIn 8 = false → effective x o 8 % 8 = 0 →
      (Reaches s c .read false (effective x o 8) pa rgn →
        ∃ t, exec (.take p n o a) s = .next t ∧ Reserving s t c .take n (effective x o 8) pa (c.inst.r.getD {})) ∧
      ∀ y, c.inst.r = some y → y.nullIn 8 = false → Reaches s c .write false (effective x o 8) pa rgn →
        (∃ t, exec (.give p n o) s = .next t ∧ Reserving s t c .give n (effective x o 8) pa y) ∧
        ∃ t, exec (.amend p n o) s = .next t ∧ Reserving s t c .amend n (effective x o 8) pa y) ∧
    ∀ e ∈ ([(.fenceCore, .core), (.fenceBasin, .basin), (.fenceSys, .sys)] : List ((Pred → BitVec 4 → Instr) × Scope)),
      (leftRun c n .ready { kind := .mem (.fence e.2), ix := c.ix, lsid := n.toNat }).disordered = false →
      ∃ t, exec (e.1 p n) s = .next t ∧ BlockNow s t c (leftRun c n .ready { kind := .mem (.fence e.2), ix := c.ix, lsid := n.toNat })

/-- An effective address that is not a multiple of the size raises the alignment fault 0x30 with that address, and a page the first-level cache does
not hold makes the form wait for its second-level home (R210, R218); a null address makes a token form send a null token and a store-mask
form resolve as null. -/
def Obligations.SliceFormStops : Prop :=
  ∀ (p : Pred) (n : BitVec 4) (o : BitVec 6) (a : Option Target) (s : State) (c : Ctx) (x : Token), Fires s c → Admits p c →
    c.inst.l = some x →
    (∀ e ∈ tokenForms,
      (x.nullIn 8 = false → effective x o e.2.2 % e.2.2 ≠ 0 → c.run.tail = false → c.sl.failed = [] →
        ∃ t, exec (e.1 p n o a) s = .next t ∧ FaultTaken s t c.core c.slot c.run 0x30 c.ix false (effective x o e.2.2)) ∧
      (x.nullIn 8 = false → effective x o e.2.2 % e.2.2 = 0 → s.xlateFast (c.sl.space c.core c.slot) (effective x o e.2.2) .read = .miss →
        ∃ t, exec (e.1 p n o a) s = .next t ∧ t.reqs = s.reqs ∧
          t.misses = s.misses ++ [{ core := c.core, slot := c.slot, ix := c.ix, va := effective x o e.2.2, need := .read }]) ∧
      (x.nullIn 8 = true → Room c a none → ∃ t lat, exec (e.1 p n o a) s = .next t ∧ Sends s t c a none lat nullToken 0#6)) ∧
    ∀ e ∈ commitForms, ∀ y, c.inst.r = some y → x.nullIn 8 = true →
      ∃ t, exec (e.1 p n o a) s = .next t ∧ BlockNow s t c (c.run.modInst c.ix fun i => { i with st := .null })

/-! ### Engine, queue, weir, sluice and supervisor forms when they fire -/

/-- An engine command form of a thread whose group owns its core's engines leaves its command for commit with l and r; one with a null byte in l or r
resolves as null; one of another thread raises 0x94 with the ditch of its record (R243, R274, R308, R393). -/
def Sys2Proof.Claims.EngineCommands : Prop :=
  ∀ e ∈ engineForms, ∀ (p : Pred) (n v : BitVec 4) (r : BitVec 6) (s : State) (c : Ctx) (x y : Token), Fires s c → Admits p c →
    c.inst.l = some x → c.inst.r = some y →
    (x.mask = 0#16 → y.mask = 0#16 → OwnsEngines s c → ∃ t, exec (e.1 p n v r) s = .next t ∧
      LeavesOp s t c n { kind := .cmd e.2.1, ix := c.ix, lsid := n.toNat, l := x.data, r := y.data
                         v := if e.2.2.1 then v.toNat else 0, reg := if e.2.2.2 then r.toNat else 0 }) ∧
    (x.mask ≠ 0#16 ∨ y.mask ≠ 0#16 → ∃ t, exec (e.1 p n v r) s = .next t ∧ BlockNow s t c (c.run.modInst c.ix fun i => { i with st := .null })) ∧
    (x.mask = 0#16 → y.mask = 0#16 → ¬OwnsEngines s c → c.run.tail = false → c.sl.failed = [] →
      ∃ t, exec (e.1 p n v r) s = .next t ∧ FaultTaken s t c.core c.slot c.run 0x94 c.ix false 0 ((c.sl.record.getD 0 0#64).toNat / 2 ^ 16 % 2 ^ 8))

/-- MSTAT and CSTAT send the status of the core's engines (R252, R297, Tables 8-6 and 9-7). -/
def Sys2Proof.Claims.EngineStatus : Prop :=
  ∀ (p : Pred) (n : BitVec 4) (a : Option Target) (s : State) (c : Ctx), Fires s c → Admits p c → Room c a none → OwnsEngines s c →
    (∃ t, exec (.mstat p n a) s = .next t ∧ Sends s t c a none 2 { data := (BitVec.ofNat 64 (matrixStatus s c.core)).setWidth 128 } 0#6) ∧
    ((s.coreAt c.core).foldK < 2 → ∃ t, exec (.cstat p n a) s = .next t ∧
      Sends s t c a none 2 { data := (BitVec.ofNat 64 (copyStatusOf s c.core)).setWidth 128 } 0#6)

/-- The engine command forms and the engine status forms when they fire. -/
def Obligations.EngineForms : Prop := Sys2Proof.Claims.EngineCommands ∧ Sys2Proof.Claims.EngineStatus

/-- TWANY, TWALL and TFFR begin a wait when they fire; the wait delivers, on a core that is not folded, once TAGS at the start of the clk meets its mask: the tags set in it, the mask
itself, or the number of the first, 64 for an empty mask (R271). -/
def Obligations.TagWaits : Prop :=
  ∀ (p : Pred) (n : BitVec 4) (a : Option Target) (s : State) (c : Ctx),
    (∀ f ∈ ([.twany, .twall, .tffr] : List (Pred → BitVec 4 → Option Target → Instr)), ∀ x, Fires s c → Admits p c → c.inst.l = some x →
      x.nullIn 8 = false → (s.coreAt c.core).foldK < 2 → ∃ t, exec (f p n a) s = .next t ∧ BlockNow s t c (waitingRun s c)) ∧
    ∀ since x, c.inst.l = some x → (s.coreAt c.core).foldK < 2 → Room c a none →
      let tags := (s.coreAt c.core).tagsAt &&& x.lo
      let gives := fun (v : W64) => ∃ t, exec (.tagWaitDeliver c.core c.slot c.ix) s = .next t ∧ Sends s t c a none 2 { data := v.setWidth 128 } 0#6
      (WaitsAt s c since (.twany p n a) → tags ≠ 0#64 ∨ x.lo = 0#64 → gives tags) ∧
      (WaitsAt s c since (.twall p n a) → tags = x.lo → gives x.lo) ∧
      (WaitsAt s c since (.tffr p n a) → tags ≠ 0#64 ∨ x.lo = 0#64 →
        gives (wrap64 (((List.range 64).find? fun i => tags.getLsbD i).getD 64)))

/-- QSEND and QSENDV to a core leave their message for commit, a QSENDV with its body's address and length; QRECV asks its queue for a reservation and waits;
QRECVD leaves its operation for commit (R340, R341, R343, R344). -/
def Sys2Proof.Claims.QueueForms : Prop :=
  ∀ (p : Pred) (n : BitVec 4) (r : BitVec 6) (a : Option Target) (s : State) (c : Ctx) (x : Token), Fires s c → Admits p c → c.inst.l = some x →
    x.mask = 0#16 →
    (∀ y k, c.inst.r = some y → y.mask = 0#16 → NamesCore s c y.data.toNat k →
      let len := y.data.toNat / 2 ^ 64 % 2 ^ 10
      let va := x.data.toNat % 2 ^ 48
      (len = 0 → ∃ t, exec (.qsend p n) s = .next t ∧
        LeavesOp s t c n { kind := .qsend, ix := c.ix, lsid := n.toNat, l := x.data, r := y.data, v := k }) ∧
      ∀ pa rgn, 8 ≤ len → len ≤ 512 → len % 8 = 0 → x.data.toNat / 2 ^ 48 % 2 ^ 16 = 0 → va % 8 = 0 → Reaches s c .read false va pa rgn →
        ∃ t, exec (.qsendv p n) s = .next t ∧
          LeavesOp s t c n { kind := .qsendv, ix := c.ix, lsid := n.toNat, l := x.data, r := y.data, v := k, va := va, pa := pa, size := len }) ∧
    ∀ q, q < 8 → x.data.toNat = q * 2 ^ 64 →
      (∃ t, exec (.qrecv p n a) s = .next t ∧
        BlockNow { s with
            nextId := s.nextId + 1
            recvs := s.recvs ++ [{ id := s.nextId, core := c.core, slot := c.slot, ix := c.ix, seq := c.run.seq, lsid := n.toNat, qn := q, bufVa := 0, bufPa := 0
                                   nanm := c.run.nanm.getLsbD 0, since := s.time }] } t c
          (leftRun c n (.wait s.time) { kind := .qrecv, ix := c.ix, lsid := n.toNat, l := x.data, req := s.nextId, size := q })) ∧
      ∃ t, exec (.qrecvd p n r) s = .next t ∧
        LeavesOp s t c n { kind := .qrecvd r.toNat, ix := c.ix, lsid := n.toNat, l := x.data, reg := r.toNat, req := s.nextId, size := q }

/-- QPOLL sends a queue's count, room and EN with word 0 of the head message; QSTAT of a core its route entry, hops and seam crossing, here for a route by the
direct legs from a site with an empty sump and no marker outstanding (R345, R346). -/
def Sys2Proof.Claims.QueueStatus : Prop :=
  ∀ (p : Pred) (n : BitVec 4) (a : Option Target) (s : State) (c : Ctx) (x : Token), Fires s c → Admits p c → Room c a none → c.inst.l = some x → x.mask = 0#16 →
    (∀ q, q < 8 → x.data.toNat = q →
      let v := (s.coreAt c.core).queues.getD q {}
      let line := slicePa c.core + 64 * (v.base + v.head % v.size)
      v.size < 2 ^ 15 → v.count < 2 ^ 16 → 0 < v.size →
      (v.count = 0 → ∃ t, exec (.qpoll p n a) s = .next t ∧
        Sends s t c a none 6 { data := BitVec.ofNat 128 (packed [(v.size, 16), (asBit v.en, 32)]) } 0#6) ∧
      (v.count ≠ 0 → ∃ t, exec (.qpoll p n a) s = .next t ∧
        Sends s t c a none 6 { data := BitVec.ofNat 128 (packed [(v.count, 0),
          (if v.head < v.tail then v.size - (v.tail - v.head) else v.size - (v.tail + v.size - v.head), 16),
          (asBit v.en, 32), (s.mem.read line 8 % 2 ^ 64, 64)]) } 0#6)) ∧
    ∀ k, NamesCore s c x.data.toNat k → x.data.toNat / 2 ^ 64 % 2 ^ 10 = 0 →
      (s.siteAt (coreSite c.core)).sump = [] → (s.siteAt (coreSite c.core)).marks = [] → s.nstEntry (coreSite c.core) (coreSite k) ≠ 2 →
      let pos := fun k => ((meshX (coreSite k) (coreNum k) : Int), (meshY (coreSite k) (coreNum k) : Int))
      let hops := ((pos c.core).1 - (pos k).1).natAbs + ((pos c.core).2 - (pos k).2).natAbs
      let seam := decide ((pos c.core).1 / 44 ≠ (pos k).1 / 44) || decide ((pos c.core).2 / 44 ≠ (pos k).2 / 44)
      ∃ t, exec (.qstat p n a) s = .next t ∧
        Sends s t c a none 6 { data := BitVec.ofNat 128 (packed [(s.nstEntry (coreSite c.core) (coreSite k), 0), (hops, 16), (asBit seam, 32)]) } 0#6

/-- The queue forms when they fire. -/
def Obligations.QueueInstructions : Prop := Sys2Proof.Claims.QueueForms ∧ Sys2Proof.Claims.QueueStatus

/-- The weir forms: WBAR, WARR, WCFG and WSTEP leave their effect for commit; WWAIT and WSLEEP begin their wait; a reserved operand bit set raises 0x80
(R368 to R374). -/
def Sys2Proof.Claims.WeirForms : Prop :=
  ∀ (p : Pred) (n v : BitVec 4) (a : Option Target) (s : State) (c : Ctx) (x : Token), Fires s c → Admits p c → c.inst.l = some x → x.mask = 0#16 →
    let l := x.data.toNat
    (∀ f ∈ ([(fun p n a => .wbar p n a, .wbar), (fun p n _ => .warr p n, .warr)] : List ((Pred → BitVec 4 → Option Target → Instr) × OpKind)),
      (l < 64 → ∃ t, exec (f.1 p n a) s = .next t ∧
        LeavesOp s t c n { kind := f.2, ix := c.ix, lsid := n.toNat, l := x.data, r := (c.inst.r.getD {}).data, v := l }) ∧
      (64 ≤ l → c.run.tail = false → c.sl.failed = [] → ∃ t, exec (f.1 p n a) s = .next t ∧ FaultTaken s t c.core c.slot c.run 0x80 c.ix false 0)) ∧
    (l / 2 ^ 6 % 2 ^ 10 = 0 → l < 2 ^ 32 → ∃ t, exec (.wwait p n a) s = .next t ∧ BlockNow s t c (waitingRun s c)) ∧
    (∃ t, exec (.wsleep p n v a) s = .next t ∧ BlockNow s t c (waitingRun s c)) ∧
    ∀ y, c.inst.r = some y → y.mask = 0#16 → y.data.toNat < 2 ^ 64 →
      (l < 64 → ∃ t, exec (.wcfg p n) s = .next t ∧
        LeavesOp s t c n { kind := .wcfg, ix := c.ix, lsid := n.toNat, l := x.data, r := y.data, v := l }) ∧
      ∀ b m, b < 4 → 8 ≤ m → m ≤ 20 → l = b + m * 2 ^ 8 → ∃ t, exec (.wstep p n) s = .next t ∧
        LeavesOp s t c n { kind := .wstep, ix := c.ix, lsid := n.toNat, l := x.data, r := y.data, v := b }

/-- WTIME sends TIME, as it was at the start of the basin's clk, in bits [63:0] and CYC of its basin in bits [127:64] (R371). -/
def Obligations.TimeReads : Prop :=
  ∀ (p : Pred) (n : BitVec 4) (a : Option Target) (s : State) (c : Ctx), Fires s c → Admits p c → Room c a none →
    ∃ t, exec (.wtime p n a) s = .next t ∧
      Sends s t c a none 2 { data := BitVec.ofNat 128 ((s.basinAt (coreBasin c.core)).tick % 2 ^ 64 + (s.basinAt (coreBasin c.core)).cyc % 2 ^ 64 * 2 ^ 64) } 0#6

/-- WSTAT sends the state of a barrier cell, or the clock state of the issuing basin, RELOCK of which says that a seam of the basin relocks after a step on either
side (R372, Tables 12-2 and 12-6; log entry 90). -/
def Sys2Proof.Claims.WeirStatus : Prop :=
  ∀ (p : Pred) (n : BitVec 4) (a : Option Target) (s : State) (c : Ctx), Fires s c → Admits p c → Room c a none →
    let b := s.basinAt (coreBasin c.core)
    ∀ x, c.inst.l = some x → x.mask = 0#16 →
      (∀ k, k < 64 → x.data.toNat = k →
        let e := mget b.cells k {}
        let last := e.rels.find? fun r => decide (r.rtime ≤ b.tick)
        ∃ t, exec (.wstat p n a) s = .next t ∧
          Sends s t c a none 6 { data := BitVec.ofNat 128 (packed [(match last with | some r => (r.gen + 1) % 65536 | none => 0, 0), (asBit e.en, 16),
            (asBit e.mod, 17), (match last with | some r => asBit r.late | none => 0, 18), (match last with | some r => r.rtime | none => 0, 64)]) } 0#6) ∧
      (x.data.toNat = 256 → ∃ t, exec (.wstat p n a) s = .next t ∧
        Sends s t c a none 6 { data := BitVec.ofNat 128 (packed [(b.m, 0), (if b.stepPend then b.pm else 0, 8), (asBit b.stepPend, 13), (asBit (s.relocking (coreBasin c.core)), 14),
          (asBit (b.stepPend && b.pboost), 15), (b.bmax, 16), (if b.stepPend then b.pts else 0, 64)]) } 0#6)

/-- The weir forms when they fire. -/
def Obligations.WeirInstructions : Prop := Sys2Proof.Claims.WeirForms ∧ Sys2Proof.Claims.WeirStatus

/-- DSTAT sends the summary of the ditch that l names: COUNT, EN, MODE, AGED, WEIGHT, NSEG, DEF and NFREE (R408). -/
def Obligations.DitchSummaries : Prop :=
  ∀ (p : Pred) (n : BitVec 4) (a : Option Target) (s : State) (c : Ctx) (x : Token), Fires s c → Admits p c → Room c a none → c.inst.l = some x → x.mask = 0#16 →
    x.data.toNat < 256 →
    let b := s.basinAt (coreBasin c.core)
    let q := mget b.ditches x.data.toNat {}
    ∃ t, exec (.dstat p n a) s = .next t ∧
      Sends s t c a none 6 { data := BitVec.ofNat 128 (packed [(q.recs.length % 2 ^ 32, 0), (asBit q.en, 32), (asBit q.mode, 33), (asBit q.aged, 34),
        (q.weight, 40), (q.segs.length % 2 ^ 16, 48), (q.deficit % 2 ^ 32, 64), (b.free.length % 2 ^ 32, 96)]) } 0#6

/-- The sluice forms: LAUNCH, DPUSH, SPAWN, DWEIGHT and JOINAD leave their effect for commit; DPOP asks its ditch for a record and JOINW its counter, and wait
(R402 to R409). -/
def Obligations.SluiceForms : Prop :=
  ∀ (p : Pred) (n v : BitVec 4) (a : Option Target) (s : State) (c : Ctx) (x : Token), Fires s c → Admits p c → c.inst.l = some x → x.mask = 0#16 →
    let l := x.data.toNat
    (∀ pa rgn, l < 2 ^ 48 → l % 128 = 0 → Reaches s c .read false l pa rgn → ∃ t, exec (.launch p n) s = .next t ∧
      LeavesOp s t c n { kind := .launch, ix := c.ix, lsid := n.toNat, l := x.data, r := (c.inst.r.getD {}).data, va := l, pa := pa }) ∧
    (∀ d, d < 256 → l = d * 2 ^ 64 → ∃ t, exec (.dpop p n a) s = .next t ∧
      BlockNow { s with
          nextId := s.nextId + 1
          pops := s.pops ++ [{ id := s.nextId, core := c.core, slot := c.slot, ix := c.ix, seq := c.run.seq, lsid := n.toNat, ditch := d, bufVa := 0, bufPa := 0
                               since := s.time }] } t c
        (leftRun c n (.wait s.time) { kind := .dpop, ix := c.ix, lsid := n.toNat, l := x.data, v := d, req := s.nextId })) ∧
    (∀ pa rgn, l < 2 ^ 48 → l % 16 = 0 → Reaches s c .read false l pa rgn → ∃ t, exec (.joinw p n a) s = .next t ∧
      Requested s t c .joinw n l pa 8 ((c.inst.r.getD {}).data)) ∧
    ∀ y, c.inst.r = some y → y.mask = 0#16 →
      let z := y.data.toNat
      (∀ pa rgn, l < 2 ^ 48 → l % 64 = 0 → (z < 256 ∨ z < 512 ∧ c.slot = 7) → Reaches s c .read false l pa rgn → ∃ t, exec (.dpush p n) s = .next t ∧
        LeavesOp s t c n { kind := .dpush, ix := c.ix, lsid := n.toNat, l := x.data, r := y.data, v := z, va := l, pa := pa }) ∧
      (∀ pa rgn, l < 2 ^ 48 → l % 16 = 0 → z < 2 ^ 64 → Reaches s c .write false l pa rgn → ∃ t, exec (.joinad p n v) s = .next t ∧
        Pending s t c (.joinad (decide (v = 1#4))) n l pa 16 y.data y.mask) ∧
      (l / 2 ^ 48 % 2 ^ 16 = 0 → l % 16 = 0 → z < 2 ^ 64 → c.slot ≠ 7 →
        (∃ k ∈ s.launches, k.basin = coreBasin c.core ∧ k.hdr = c.sl.group.hdr) → ∃ t, exec (.spawn p n) s = .next t ∧
        LeavesOp s t c n { kind := .spawn, ix := c.ix, lsid := n.toNat, l := x.data, r := y.data, va := l % 2 ^ 48 }) ∧
      (l < 256 → z < 256 → ∃ t, exec (.dweight p n) s = .next t ∧
        LeavesOp s t c n { kind := .dweight, ix := c.ix, lsid := n.toNat, l := x.data, r := y.data, v := l })

/-- The supervisor forms that act at another slot are done when they fire and leave their command for commit; RDCTX sends a word of the image of a busy slot
with its full/empty bit; IDLE begins its wait; a name that the form may not use raises 0xA0 (R421 to R426, R431, R434). -/
def Obligations.SupervisorForms : Prop :=
  ∀ (p : Pred) (a b : Option Target) (s : State) (c : Ctx), Fires s c → Admits p c →
    (∃ t, exec (.idle p a b) s = .next t ∧ BlockNow s t c (waitingRun s c)) ∧
    ∀ x, c.inst.l = some x → x.mask = 0#16 →
      let l := x.data.toNat
      let y := c.inst.r.getD {}
      let z := c.inst.p.getD {}
      (∀ f ∈ threadForms,
        (NamesThread s c l → ∃ t, exec (f.1 p) s = .next t ∧ BlockNow s t c (supRun c f.2 x.data y.data z.data)) ∧
        (¬NamesThread s c l → c.run.tail = false → c.sl.failed = [] → ∃ t, exec (f.1 p) s = .next t ∧ FaultTaken s t c.core c.slot c.run 0xA0 c.ix false 0)) ∧
      (l / 2 ^ 18 % 2 ^ 46 = 0 → l < 2 ^ 112 → (l / 2 ^ 17 % 2 = 1 ∨ l / 2 ^ 64 % 2 ^ 48 = 0) → ∃ t, exec (.tlbinv p) s = .next t ∧ BlockNow s t c (supRun c .tlbinv x.data y.data z.data)) ∧
      (l / 2 ^ 19 % 2 ^ 13 = 0 → l < 2 ^ 112 → l / 2 ^ 16 % 8 ≠ 0 → l / 2 ^ 64 % 2 ^ 7 = 0 →
        ∃ t, exec (.swapin p) s = .next t ∧ BlockNow s t c (supRun c .swapin x.data y.data z.data)) ∧
      (c.inst.r = some y → y.mask = 0#16 → NamesThread s c l →
        (y.data.toNat < 2 ^ 16 → ∃ t, exec (.migr p) s = .next t ∧ BlockNow s t c (supRun c .migr x.data y.data z.data)) ∧
        (y.data.toNat < 256 → c.inst.p = some z → z.mask = 0#16 → z.data.toNat < 2 ^ 65 →
          ∃ t, exec .wrctx s = .next t ∧ BlockNow s t c (supRun c .wrctx x.data y.data z.data)) ∧
        let k := 16 * (l % 2 ^ 9) + l / 2 ^ 9 % 16
        let sl := s.slotAt k (l / 2 ^ 13 % 8)
        Room c a b → sl.busy = true → ∀ g, g < 64 → y.data.toNat = 2 * g → sl.present.getLsbD (g / 4) = true →
          ∃ t, exec (.rdctx p a b) s = .next t ∧
            Sends s t c a b 10 { data := BitVec.ofNat 128 ((mget sl.g g 0#128).toNat % 2 ^ 64 + asBit (sl.full.getLsbD g) * 2 ^ 64) } 0#6)

/-! ### Fetch, commit and homes -/

/-- A lookup whose block lies in the quad's store loads it: the block starts with every operand slot empty, and a lookup of a block that the store does
not hold is a miss (R144, R162); a block that was a miss begins later by its length (Table 5-10): the quad's port takes one lookup a clk, of its cores in turn, each core's in order (R162). A held ALIGN lookup is let go
256 clk later, with those held with it (R163). -/
def Obligations.BlockLookups : Prop :=
  ∀ (s : State) (core slot : Nat) (k : Lookup), (s.slotAt core slot).look = some k →
    let sl := s.slotAt core slot
    let port := s.portPick (core / 4) = some (core, slot) ∧ (mget s.ports (core / 4) {}).clk ≠ some (s.cyc core)
    let taken := fun (t : State) => t.ports = mput s.ports (core / 4) { last := core % 4, clk := some (s.cyc core) }
    (k.got = .asked → k.hold = none → k.aligned = false → port → s.fencePending core slot = false → k.addr.toNat % 16 = 0 → k.addr.toNat < 2 ^ 48 →
      (∀ e ∈ mget s.stores (core / 4) [], ¬(e.addr = k.addr.toNat ∧ e.root = sl.ctl.root.toNat)) →
      ∃ t, exec (.blockLookup core slot) s = .next t ∧ taken t ∧ { t with slots := s.slots, ports := s.ports } = s ∧
        t.slots = mput s.slots (slotKey core slot) { sl with look := some { k with got := .missing, missed := true } }) ∧
    (∀ e h ws is, k.got = .asked → k.hold = none → k.aligned = false → port → k.addr.toNat % 16 = 0 → k.addr.toNat < 2 ^ 48 → AtBoundary sl s core slot →
      (mget s.stores (core / 4) []).find? (fun e => decide (e.addr = k.addr.toNat) && decide (e.root = sl.ctl.root.toNat)) = some e →
      decodeBlock (decide (slot = 7)) e.hd e.body = .ok (h, ws, is) →
      ∃ t r, exec (.blockLookup core slot) s = .next t ∧ taken t ∧ t.runAt core slot = some r ∧ r.addr = k.addr ∧ r.words = ws ∧ r.insts = ws.map (fun _ => {}) ∧
        r.exit = none ∧ r.ops = [] ∧ r.flags = 0#6 ∧ r.tail = false ∧ r.from_ = max (s.cyc core + 1) (k.made + 3 + if k.missed then (8 + 2 * h.blen + 31) / 32 - 1 else 0) ∧
        r.fpc = sl.ctl.fpc ∧ r.nanm = sl.ctl.nanm) ∧
    (∀ n, k.hold = some n → n + 256 ≤ s.cyc core → ∃ t, exec (.alignHoldTimeout core slot) s = .next t ∧ { t with slots := s.slots } = s ∧
      (t.slotAt core slot).look = some { k with hold := none } ∧ ∀ c q, ({ t.slotAt c q with look := none } : Slot) = { s.slotAt c q with look := none })

/-- The fill of a missed block, for a rider in the untranslated supervisor space: the block's header and halfwords, as memory holds them, enter the quad's store
as its most recent block; of a block whose header breaks a rule of its own only the header is read (R69, R160, R162, R207). -/
def Obligations.BlockFills : Prop :=
  ∀ (s : State) (core : Nat) (k : Lookup), (s.slotAt core 7).look = some k → k.got = .missing → (s.slotAt core 7).ctl.root = 0#64 →
    let a := k.addr.toNat
    let hd := s.mem.read a 8
    let code := fun (x n : Nat) => s.redirect x = x ∧ Stays s x n ∧ (∀ site off, s.place (coreBasin core) x ≠ .config site off) ∧
      s.checkMem ⟨core, true, (s.slotAt core 7).ctl.asn.toNat, 0, (s.slotAt core 7).ctl.seg.toNat⟩ true x = none
    a % 16 = 0 → a < 2 ^ 48 → a / 2 ^ 32 ≠ 0x7FFF → s.mem.errs = [] → s.owned = [] → s.fencePending core 7 = false → code a 8 →
    (∀ h, decodeHeader hd = .ok h → a % 0x10000 + 8 + 2 * h.blen ≤ 0x10000 → code (a + 8) (2 * h.blen) →
      ∃ t body, exec (.blockMissFill core 7) s = .next t ∧ (mget t.stores (core / 4) []).head? = some ⟨a, 0, hd, body⟩ ∧ body.length = h.blen ∧
        ∀ i < h.blen, body[i]? = some (s.mem.read (a + 8 + 2 * i) 2)) ∧
    ∀ e, decodeHeader hd = .error e → ∃ t, exec (.blockMissFill core 7) s = .next t ∧ (mget t.stores (core / 4) []).head? = some ⟨a, 0, hd, []⟩

/-- A complete block without tail, stores or commands commits: every register written takes its token's bytes that are not null and is full (R149), the link
of a call stands in g63 over every WRITE (R159), every control register holds the last value a WRC gave it, as far as it is writable (R151), FPF takes the
flags after its WRC (R110), and the thread goes on at the target (R153, R155, R176). The flags raise no event here. -/
def Sys2Proof.Claims.BlockCommits : Prop :=
  ∀ (s : State) (core slot : Nat) (r : Run) (e : Exit), s.runAt core slot = some r → Complete s core slot r e → Tailless r → r.ops = [] → r.sups = [] →
    e.kind ≠ .susp → e.kind ≠ .retire → (r.writes.map Prod.fst).Nodup → enabledFlags r = 0#6 →
    ∃ t, exec (.blockCommit core slot) s = .next t ∧
      let old := s.slotAt core slot
      let sl := t.slotAt core slot
      let linked := e.kind = .call ∨ e.kind = .calli
      (∀ w ∈ r.writes, ¬(w.1 = 63 ∧ linked) → laidOver (mget old.g w.1 0#128) w.2 (mget sl.g w.1 0#128) ∧ (w.2.mask ≠ 0xFFFF#16 → sl.full.getLsbD w.1 = true)) ∧
      (linked → mget sl.g 63 0#128 = BitVec.ofNat 128 ((r.addr.toNat + 8 + 2 * (r.hd / 2 ^ 40 % 2 ^ 8) + 15) / 16 * 16 % 2 ^ 64) ∧ sl.full.getLsbD 63 = true) ∧
      (∀ m < 64, (∀ w ∈ r.writes, w.1 ≠ m) → ¬(m = 63 ∧ linked) → mget sl.g m 0#128 = mget old.g m 0#128 ∧ sl.full.getLsbD m = old.full.getLsbD m) ∧
      sl.ctl.fpf = (match lastWritten r 1 with | some v => v &&& 0x3F#64 | none => old.ctl.fpf) ||| r.flags.setWidth 64 ∧
      (∀ x ∈ writtenControls, (x.1 = 7 → old.ctl.imga.toNat ∉ s.foldImgs) →
        x.2.1 sl.ctl = match lastWritten r x.1 with | some v => x.2.2 v | none => x.2.1 old.ctl) ∧
      sl.pc = e.target ∧ t.mem = s.mem

/-- What leaves the core as a block commits: its plain stores go as requests to memory, in the order of their LSIDs, by which the block holds them; an engine command
joins the commands of its engine, its tag is pending with one command more that counts on it, and the register of a fill form is empty (R43, R150, R155 step 3). -/
def Sys2Proof.Claims.BlockDeparts : Prop :=
  ∀ (s : State) (core slot : Nat) (r : Run) (e : Exit), s.runAt core slot = some r → Complete s core slot r e → Tailless r → r.sups = [] →
    (∀ n, n < 8 → n ≠ slot → s.runAt core n = none) → enabledFlags r = 0#6 →
    ((∀ o ∈ r.ops, ∃ n, o.2.kind = .mem (.st n)) → ∃ t, exec (.blockCommit core slot) s = .next t ∧
      t.reqs = s.reqs ++ r.ops.zipIdx.map fun o => departing s core slot r (match o.1.2.kind with | .mem k => k | _ => .probe) o.1.2 o.2) ∧
    ∀ n op k, r.ops = [(n, op)] → op.kind = .cmd k → ∃ t c, exec (.blockCommit core slot) s = .next t ∧
      intakeOf t core k.engine = intakeOf s core k.engine ++ [c] ∧
      c.kind = k ∧ c.core = core ∧ c.slot = slot ∧ c.lsid = op.lsid ∧ c.l = op.l ∧ c.r = op.r ∧ c.fpc = r.fpc ∧ c.nanm = r.nanm ∧ c.arrived = false ∧
      (c.tag < 64 → (t.coreAt core).tags.getLsbD c.tag = false ∧ mget (t.coreAt core).counts c.tag 0 = mget (s.coreAt core).counts c.tag 0 + 1) ∧
      (k.isFill = true → op.reg < 64 → (t.slotAt core slot).full.getLsbD op.reg = false)

/-- The commit of a block with performing forms that resolved with an effect begins its tail: those forms await their results, the registers that the tail writes
are empty, the load-watch set is dropped, and the block stays in its slot with its address (R152, R155 steps 2, 4 and 5). -/
def Sys2Proof.Claims.TailStarts : Prop :=
  ∀ (s : State) (core slot : Nat) (r : Run) (e : Exit), s.runAt core slot = some r → Complete s core slot r e → r.sups = [] →
    (∀ n, n < 8 → n ≠ slot → s.runAt core n = none) → (∀ o ∈ r.ops, ∃ k, o.2.kind = .mem k) → (∃ i, r.performsAt i = true) →
    (∀ i, r.performsAt i = true → (r.inst i).st = .ready) → enabledFlags r = 0#6 →
    ∃ t r', exec (.blockCommit core slot) s = .next t ∧ t.runAt core slot = some r' ∧ r'.tail = true ∧ r'.watch = [] ∧ r'.addr = r.addr ∧ r'.exit = r.exit ∧
      (∀ i, r.performsAt i = true → (r'.inst i).st = .wait s.time) ∧ (∀ n ∈ r.tailRegs, n < 64 → (t.slotAt core slot).full.getLsbD n = false) ∧
      (t.slotAt core slot).pc = (s.slotAt core slot).pc ∧ t.mem = s.mem

/-- A block that commits with flags raised whose enable bit is set sends one event message to the rider of its chiplet, and the thread parks at the boundary
with EVP set; after SUSP the park goes with the suspended continuation, and after RETIRE the message has NEXT 0 and no park is taken (R112, R199). -/
def Sys2Proof.Claims.FloatEvents : Prop :=
  ∀ (s : State) (core slot : Nat) (r : Run) (e : Exit), s.runAt core slot = some r → Complete s core slot r e → Tailless r → r.ops = [] → r.sups = [] →
    enabledFlags r ≠ 0#6 → r.told = false → r.park = false →
    ∃ t, exec (.blockCommit core slot) s = .next t ∧
      let sl := t.slotAt core slot
      let next := if e.kind = .retire then 0#64 else e.target
      t.pkts = s.pkts ++ [{
        id := s.nextId, dest := coreSite core * 16 + (s.siteAt (coreSite core)).rider, site := coreSite core, core := coreNum core, slot := slot, since := s.time
        words := eventWords core slot r next (s.slotAt core slot).ctl.wid sl.ctl.fpf s.time }] ∧
      sl.evp = (e.kind ≠ .retire) ∧ sl.run = none ∧ sl.pc = (if e.kind = .retire then r.addr else e.target) ∧
      sl.ending = if e.kind = .susp then some .susp else if e.kind = .retire then some .retire else (s.slotAt core slot).ending

/-- A block in which nothing outside the tail can fire any more, with no exit fired and none in its tail, raises the incomplete-block fault 0x22, index 127 (R153,
Table 5-9). -/
def Sys2Proof.Claims.BlockIncomplete : Prop :=
  ∀ (s : State) (core slot : Nat) (r : Run), s.runAt core slot = some r → r.nullFlag = false → r.tail = false → (s.slotAt core slot).held = false → (s.slotAt core slot).failed = [] →
    r.from_ ≤ s.cyc core → r.quiet (s.cyc core) = true → r.exit = none → r.inTail = [] →
    ∃ t, exec (.blockCommit core slot) s = .next t ∧ FaultTaken s t core slot r 0x22 127 false 0

/-- How a block ends: by commit, or incomplete. -/
def Obligations.BlockEnds : Prop := Sys2Proof.Claims.BlockCommits ∧ Sys2Proof.Claims.BlockDeparts ∧ Sys2Proof.Claims.TailStarts ∧ Sys2Proof.Claims.FloatEvents ∧ Sys2Proof.Claims.BlockIncomplete

/-- What the end of a wait brings: a performing form's result feeds its tail, and the tail is looked at; a deferred fill is written, leaves its
register full and goes to a READ of it that waits; a READ that has waited to the limit raises 0x24; a GIVE withdrawn from its home raises 0x38 (R148, R150, R155, R229). -/
def Obligations.WaitsEnd : Prop :=
  ∀ (s : State),
    (∀ (q : Result) (c : Ctx) (since : Nat) (i : Instr) (v : W128), s.results.find? (fun x => x.id == q.id) = some q → q.val = some v → q.flight.any s.wayHeld = false →
      WaitsAt s c since i → q.core = c.core → q.slot = c.slot → q.ix = c.ix → q.seq = c.run.seq → c.run.tail = true → Room c i.shape.t none →
      ∃ m, Sends { s with results := s.results.filter fun x => decide (x.id ≠ q.id) } m c i.shape.t none 1 { data := v } 0#6 ∧
        exec (.performingResult q.id) s = .next ((m.ungate c.core).tailSettle c.core c.slot)) ∧
    (∀ f : Fill, s.fills.find? (fun x => x.id == f.id) = some f → f.reg < 64 → f.tag = 64 → f.flight.any s.wayHeld = false →
      (s.slotAt f.core f.slot).present.getLsbD (f.reg / 4) = true →
      (∀ (c : Ctx) (since : Nat) (n : BitVec 6) (a b : Option Target), WaitsAt s c since (.read n a b) → f.core = c.core → f.slot = c.slot → n.toNat = f.reg → c.sl.ending = none →
        Room c a b → (∀ j x, j ≠ c.ix → (c.run.inst j).st ≠ .wait x) → f.hv = false →
        ∃ m, exec (.fillArrival f.id) s = .next (m.ungate c.core) ∧
          Sends ({ s with fills := s.fills.filter fun x => decide (x.id ≠ f.id) }.modSlot c.core c.slot fun sl =>
            { sl with g := mset 0#128 sl.g f.reg f.val, full := sl.full ||| (1#64 <<< f.reg) }) m c a b 1 { data := f.val } 0#6) ∧
      ∃ t, exec (.fillArrival f.id) s = .next t ∧ t.fills = s.fills.filter (fun x => decide (x.id ≠ f.id)) ∧ t.mem = s.mem ∧
        ∀ m < 64, mget (t.slotAt f.core f.slot).g m 0#128 = (if m = f.reg then f.val else mget (s.slotAt f.core f.slot).g m 0#128) ∧
          (t.slotAt f.core f.slot).full.getLsbD m = (decide (m = f.reg) || (s.slotAt f.core f.slot).full.getLsbD m)) ∧
    (∀ (c : Ctx) (since : Nat) (n : BitVec 6) (a b : Option Target), WaitsAt s c since (.read n a b) → c.run.tail = false →
      since + c.sl.ctl.wlim.toNat ≤ s.time → (∀ j t, j ≠ c.ix → (c.run.inst j).st ≠ .wait t) → c.sl.failed = [] → s.reqs = [] → s.recvs = [] → s.appends = [] →
      ∃ t, exec (.waitLimitExpiry c.core c.slot) s = .next t ∧ FaultTaken s t c.core c.slot c.run 0x24 c.ix false 0) ∧
    ∀ (q : Req) (r : Run), s.reqs.find? (fun a => a.id == q.id) = some q → s.withdrawals.contains q.id = true → q.left = false → q.st ≠ .reserved →
      q.kind = .give → s.runAt q.core q.slot = some r → r.tail = false → (s.slotAt q.core q.slot).failed = [] → (∀ i ∈ s.waitq, i = q.id) → (∀ a ∈ s.reqs, a.id = q.id → a = q) →
      ∃ t, exec (.withdrawal q.id) s = .next t ∧ FaultTaken s t q.core q.slot r 0x38 q.ix false q.va

/-- A TLB miss whose leaf the second-level home holds takes it into the first-level cache of its core; one it does not hold joins the walk of its page or
begins one of the home's four, and waits while four other pages are walked; a walk that reads three well-formed entries leaves its leaf in the
first-level cache of the core and in the second-level store of its home (R208 to R210). -/
def Obligations.TranslationMisses : Prop :=
  ∀ (s : State) (core slot ix : Nat) (m : Miss), s.misses.find? (fun x => decide (x.core = core) && decide (x.slot = slot) && decide (x.ix = ix) && x.walk == m.walk) = some m →
    let asn := (s.slotAt core slot).ctl.asn.toNat
    let b := coreBasin core
    let vpn := m.va / 0x10000
    (∀ leaf, s.findL2 b asn vpn = some leaf → leaf < 2 ^ 64 → m.walk = false → s.missHeld core b asn vpn = false → ∃ t, exec (.tlbMissRequest core slot ix) s = .next t ∧
      tlbFind (mget t.tlb1 core []) asn vpn = some leaf) ∧
    (s.findL2 b asn vpn = none → m.walk = false → s.missHeld core b asn vpn = false →
      let ws := s.walksAt (tlbHome b asn vpn)
      (((b, asn, vpn) ∈ ws ∨ ws.length < 4) → ∃ t, exec (.tlbMissRequest core slot ix) s = .next t ∧
        t = { s with misses := s.misses.map fun x => if x = m then { m with walk := true } else x }) ∧
      ((b, asn, vpn) ∉ ws → 4 ≤ ws.length → exec (.tlbMissRequest core slot ix) s = .next s)) ∧
    (m.walk = true → (∀ x ∈ s.misses, x.stale = false) →
      let root := (s.slotAt core slot).ctl.root.toNat
      s.walkHeld b asn root m.va = false → ∀ e1 e2 e3, s.tableWord b (root + 8 * (m.va / 2 ^ 37 % 2 ^ 11)) = .ok e1 → e1 % 2 ^ 14 = 1 → e1 < 2 ^ 48 →
        s.tableWord b (e1 / 2 ^ 14 * 2 ^ 14 + 8 * (m.va / 2 ^ 26 % 2 ^ 11)) = .ok e2 → e2 % 2 ^ 13 = 1 → e2 < 2 ^ 48 →
        s.tableWord b (e2 / 2 ^ 13 * 2 ^ 13 + 8 * (m.va / 2 ^ 16 % 2 ^ 10)) = .ok e3 → e3 % 2 = 1 → e3 / 2 ^ 4 % 2 ^ 12 = 0 → e3 < 2 ^ 48 →
        ∃ t, exec (.pageWalk core slot ix) s = .next t ∧ tlbFind (mget t.tlb1 core []) asn vpn = some e3 ∧
          tlbFind (mget t.tlb2 (tlbHome b asn vpn) []) asn vpn = some e3)

/-- The stores, atomics and full/empty forms that have left their core perform at their home at one instant: the bytes they name and no other, the
full/empty bit of Table 7-5a, and the old word to the tail (R115, R152, R219 to R222). -/
def Sys2Proof.Claims.StoresPerform : Prop :=
  ∀ (s : State) (q : Req), AtHome s q → q.left = true →
    let does := fun v mask n full result => ∃ t, exec (.homeAccess q.id) s = .next t ∧ Performed s t q v mask n full result
    let b := q.data.toNat
    (q.st = .sent → (∀ n, q.kind = .st n → does b q.mask.toNat n none none) ∧ (∀ sc, q.kind = .strel sc → does b 0 8 none none) ∧
      (q.kind = .post → does b 0 8 (some true) none) ∧ (q.kind = .void → does b 0 0 (some false) none) ∧
      ∀ e ∈ atomicFunctions, ∀ m, q.kind = .atomic e.1 m → q.size = 8 →
        let old := BitVec.ofNat 64 (s.mem.read q.pa 8)
        does (e.2 old (q.data.setWidth 64) q.cmp).toNat 0 8 none (some (old.setWidth 128))) ∧
    (q.st = .reserved → (q.kind = .give ∨ q.kind = .amend → does b 0 8 (some true) none) ∧
      (q.kind = .take → q.size = 8 → does b 0 0 (some false) (some (BitVec.ofNat 128 (s.mem.read q.pa 8)))))

/-- TAKE, GIVE and AMEND are granted their reservation at the home once the word passes their gate, full, empty and full: the word is kept for the block, and
the form has resolved; memory stands until the block has committed (R154, R221). -/
def Sys2Proof.Claims.ReservationsGranted : Prop :=
  ∀ (s : State) (q : Req), AtHome s q → q.left = false → q.st = .sent →
    (q.kind = .take ∧ s.mem.full (q.pa / 8) = true ∨ q.kind = .give ∧ s.mem.full (q.pa / 8) = false ∨ q.kind = .amend ∧ s.mem.full (q.pa / 8) = true) →
    exec (.homeAccess q.id) s = .next (({ s with
      resv := s.resv ++ [(q.pa / 8, q.id)]
      reqs := s.reqs.map fun a => if a.id = q.id then { a with st := .reserved } else a } : State).setSt q.core q.slot q.ix .ready)

/-- A FENCE of basin or system scope completes once no access of its thread that left before it, no receive, pop, body read, append or message remains; a
thread that stands at its boundary then looks its next block up (R126, R223). -/
def Sys2Proof.Claims.FencesComplete : Prop :=
  ∀ (s : State) (q : Req) (sc : Scope), s.reqs.find? (fun a => a.id == q.id) = some q → q.kind = .fence sc →
    (∀ a ∈ s.reqs, a.left = true → a.core = q.core → a.slot = q.slot → q.ord ≤ a.ord) → s.recvs = [] → s.pops = [] → s.qmsgs = [] → s.appends = [] → s.waitq = [] →
    AtBoundary (s.slotAt q.core q.slot) (without s q) q.core q.slot → (s.slotAt q.core q.slot).look = none →
    let now := s.cyc q.core
    exec (.homeAccess q.id) s = .next ((without s q).modSlot q.core q.slot fun sl =>
      { sl with look := some { addr := sl.pc, made := now }, looks := (sl.pc, now) :: sl.looks.filter fun e => decide (now ≤ e.2 + 256) })

/-- The forms that read before commit deliver their word from its home, LOOK only from a full word, and leave memory as it was, here where the reads of the
block have performed in an order it may have; LDD sends its value to its register (R115, R116, R119, R219 to R223). -/
def Sys2Proof.Claims.LoadsPerform : Prop :=
  ∀ (s : State) (q : Req), AtHome s q → q.st = .sent → s.forwarded q = (0, 0) → 0 < q.size →
    let x := s.mem.read q.pa q.size
    (q.left = false → ∀ (c : Ctx) (since : Nat) (p : Pred) (n : BitVec 4) (o : BitVec 6) (a : Option Target), q.core = c.core → q.slot = c.slot → q.ix = c.ix →
      Room c a none → ∀ e ∈ tokenForms, WaitsAt s c since (e.1 p n o a) → q.kind = e.2.1 → q.size = e.2.2 → (q.kind = .look → s.mem.full (q.pa / 8) = true) →
        let r := { c.run with seen := c.run.seen ++ (wordsOf q.pa q.size).map fun w => (c.ix, w) }
        r.disordered = false → ∃ t, exec (.homeAccess q.id) s = .next t ∧
          Sends ((without s q).modRun c.core c.slot fun _ => r) t { c with run := r } a none 1 { data := match e.2.1 with
            | .ld z => loaded z x
            | .febit => if s.mem.full (q.pa / 8) then 1#128 else 0#128
            | _ => BitVec.ofNat 128 x } 0#6) ∧
    (∀ z reg, q.left = true → q.kind = .ldd z reg → ∃ t, exec (.homeAccess q.id) s = .next t ∧
      t = { without s q with nextId := s.nextId + 1, fills := s.fills ++ [{ id := s.nextId, core := q.core, slot := q.slot, reg := reg, val := loaded z x, src := q.answerSrc, since := s.time }] }) ∧
    (q.left = false → q.kind = .look → s.mem.full (q.pa / 8) = false → ∃ t, exec (.homeAccess q.id) s = .next t ∧
      t = { s with
        nextId := s.nextId + 1, waitq := [q.id], reqs := s.reqs.map fun a => if a.id = q.id then { a with st := .waiting, arr := s.nextId } else a })

/-- Accesses at their homes. -/
def Obligations.HomeAccesses : Prop := Sys2Proof.Claims.StoresPerform ∧ Sys2Proof.Claims.ReservationsGranted ∧ Sys2Proof.Claims.FencesComplete ∧ Sys2Proof.Claims.LoadsPerform

/-- The other events at homes: a refused request is sent again after 64 clk; an ownership request is granted behind the line's earlier ones; the patrol scrub corrects a
single-bit error and counts it; a soft error leaves its word correctable or poisoned; two identical deferred loads of a chiplet, no more than 16 clk apart, are served by one read
(R131, R143, R228, R231, R336). -/
def Obligations.HomeEvents : Prop :=
  ∀ (s : State),
    (∀ (q : Req) (n : Nat), q ∈ s.reqs → q.st = .refused n → n + 64 ≤ s.cyc q.core → ∃ t, exec (.waitlistResend q.id) s = .next t ∧
      { t with reqs := s.reqs } = s ∧ { q with st := .sent } ∈ t.reqs ∧ ∀ a ∈ s.reqs, a.id ≠ q.id → a ∈ t.reqs) ∧
    (∀ o : OwnReq, s.ownReqs.find? (fun x => x.id == o.id) = some o → s.reqs = [] → s.recvs = [] → s.pops = [] → s.qmsgs = [] → s.appends = [] →
      (s.copyAt o.core).intake = [] → homeOf (64 * o.line) = homeOf (slicePa o.core) ∨ s.wayHeld o.flight = false →
      (∀ x ∈ s.ownReqs, x.core = o.core → homeOf (64 * x.line) = homeOf (64 * o.line) → o.id ≤ x.id ∧ o.ord ≤ x.ord) →
      ∃ t, exec (.ownershipRequest o.id) s = .next t ∧
        t = { s with
          nextId := s.nextId + 1, ownReqs := s.ownReqs.filter (fun x => decide (x.id ≠ o.id)), owned := s.owned ++ [⟨o.line, o.cmd, o.core, s.nextId, 0⟩] }) ∧
    (∀ (a core off : Nat), core < 16 → isCompute (a / 2 ^ 37) = true → a % 2 ^ 37 = core * 2 ^ 22 + off → off < 2 ^ 22 → mget? s.mem.errs (a / 8) = some false →
      ∃ t, exec (.patrolScrub a) s = .next t ∧ (∀ w, mget? t.mem.errs w = if w = a / 8 then none else mget? s.mem.errs w) ∧
        t.mem.cells = s.mem.cells ∧ (t.coreAt (16 * (a / 2 ^ 37) + core)).ce = min ((s.coreAt (16 * (a / 2 ^ 37) + core)).ce + 1) (2 ^ 32 - 1)) ∧
    (∀ (a : Nat) (d : Bool), mget? s.mem.errs (a / 8) = none → ∃ t, exec (.softError a d) s = .next t ∧
      t = { s with mem := { s.mem with errs := mput s.mem.errs (a / 8) d } }) ∧
    ∀ (q u : Req) (z : LdSize) (g h : Nat), AtHome s q → AtHome s u → q.st = .sent → u.st = .sent → q.left = true → u.left = true →
      q.kind = .ldd z g → u.kind = .ldd z h → q.core ≠ u.core → coreSite q.core = coreSite u.core → q.pa = u.pa → q.size = u.size → 0 < q.size →
      q.clk ≤ u.clk + 16 → u.clk ≤ q.clk + 16 →
      s.forwarded q = (0, 0) → s.forwarded u = (0, 0) →
      ∃ t, exec (.combinedRead q.id u.id) s = .next t ∧ t = { without (without s q) u with
        nextId := s.nextId + 2
        fills := s.fills ++ [{ id := s.nextId, core := q.core, slot := q.slot, reg := g, val := loaded z (s.mem.read q.pa q.size), src := q.answerSrc, since := s.time },
          { id := s.nextId + 1, core := u.core, slot := u.slot, reg := h, val := loaded z (s.mem.read u.pa u.size), src := u.answerSrc, since := s.time }] }

/-! ### Engine events -/

/-- The matrix engine: a command reaches the intake, or faults there where it breaks a rule; it starts and completes, here MSWAP, MZERO, MLS and MSTREAM; groups
that a clear closes raise their flags; a task starts; RETRY, SKIP and FLUSH take a halted engine on (R100, R244, R246 to R250, R256, R257, R259,
R262). -/
def Sys2Proof.Claims.MatrixCommands : Prop :=
  ∀ (s : State) (core : Nat),
    let m := s.matAt core
    (∀ c l, m.intake = c :: l → c.core = core → c.arrived = false → (s.basinAt (coreBasin c.core)).traces = [] → (s.copyAt core).intake = [] →
      s.commandHeld core c.slot c.seq c.lsid = false →
      (s.matCheck c = none → ∃ t, exec (.matrixIntakeArrival core) s = .next t ∧ MatNow s t core { m with intake := { c with arrived := true } :: l }) ∧
      (s.tagOk c = false ∨ c.matFields (s.foldRows core) = false → s.waitq = [] → ∃ t, exec (.matrixIntakeArrival core) s = .next t ∧
        (t.matAt core).cause = 0x44 ∧ (t.matAt core).halt = true ∧ ∀ x ∈ (t.matAt core).intake, x.id ≠ c.id)) ∧
    (∀ c l, MatReady s core c l →
      (c.kind = .mswap → ∃ t, exec (.matrixCommandStart core) s = .next t ∧ MatNow s t core { m with intake := l, load := some { cmd := c } }) ∧
      (c.kind = .mzero → ∃ t, exec (.matrixCommandStart core) s = .next t ∧ MatNow s t core { m with intake := l, stream := some { cmd := c } }) ∧
      (c.kind = .mls → (∃ f, c.fb = some f ∧ f ≠ .c8) → ∃ t, exec (.matrixCommandStart core) s = .next t ∧
        MatNow s t core { m with intake := l, load := some { cmd := c }, shadow := { m.shadow with valid := false } }) ∧
      (c.kind = .mstream → c.row = none → s.streamCheck c false = none → ∃ t acc f, exec (.matrixCommandStart core) s = .next t ∧
        MatNow s t core { m with intake := l, stream := some { cmd := { c with row := some 0 } }, acc := acc, flg := m.flg ||| f } ∧
        RowsCleared m.acc acc c.arow c.nrow ∧ ClosedFlags m.acc c.arow c.nrow f)) ∧
    (∀ r, r.cmd.core = core → r.cmd.rp = false → (s.coreAt core).foldK < 2 →
      (r.cmd.kind = .mswap → m.load = some r → ∃ t u, exec (.matrixCommandComplete core 0) s = .next t ∧
        MatNow s u core { m with active := m.shadow, shadow := m.active, load := none } ∧ TagFalls u t core r.cmd.tag) ∧
      (r.cmd.kind = .mzero → m.stream = some r → ∃ t u acc f, exec (.matrixCommandComplete core 1) s = .next t ∧
        MatNow s u core { m with acc := acc, flg := if r.cmd.v = 1 then 0#6 else m.flg ||| f, stream := none } ∧
        RowsCleared m.acc acc r.cmd.arow r.cmd.nrow ∧ ClosedFlags m.acc r.cmd.arow r.cmd.nrow f ∧
        TagFalls u t core r.cmd.tag)) ∧
    (∀ k, m.halt = false → m.intake = [] → m.load = none → m.stream = none → m.task = none → m.tasks = [k] → k.core = core → k.ditch = false → s.taskReady k = true →
      (s.coreAt core).foldK < 2 → k.taskDrains = false → ∃ t, exec (.matrixTaskStart core) s = .next t ∧
        MatNow { s with nextId := s.nextId + 1 } t core { m with
          tasks := [], task := some { cmd := { k with id := s.nextId, row := none, feed := [] } }, shadow := { m.shadow with valid := false } }) ∧
    (m.halt = true → ∀ r, m.faulted = some r → r.isTask = false →
      (∃ t u, exec (.matrixRetry core) s = .next t ∧ TagRises s u core r.cmd.tag ∧
        MatNow u t core { m with halt := false, faulted := none, intake := { r.cmd with
          arrived := true, feed := [], row := if r.cmd.kind = .mls ∨ r.cmd.kind = .mlsc then none else r.cmd.row } :: m.intake }) ∧
      (∃ t, exec (.matrixSkip core) s = .next t ∧ MatNow s t core { m with halt := false, faulted := none }) ∧
      ∀ c, m.intake = [c] → m.tasks = [] → c.core = core → c.rp = false → s.waitq = [] →
        (∀ o ∈ s.owned, o.cmd ≠ c.id) → (∀ o ∈ s.ownReqs, o.cmd ≠ c.id) →
        ∃ t u, exec (.matrixFlush core) s = .next t ∧ MatNow s u core { m with halt := false, faulted := none, intake := [] } ∧ TagFalls u t core c.tag)

/-- What the matrix commands compute, on a core that is not folded. MLS reads its rows word by word, row k at ADDR + k·PITCH, and then loads the shadow plane with them;
MLSC loads it with the blocks it has decoded, column by column, from the upper 32 rows where .u says so; MSTREAM and MSTREAMA add row after row through the active
plane to the accumulator, and end with the last; MDRAIN and MDRAINN close the groups of a row and form its codes, write them, and MDRAIN clears the row with its last
write (R97 to R102, R235, R241, R242, R247, R249 to R251, R259). -/
def Sys2Proof.Claims.MatrixResults : Prop :=
  ∀ (s : State) (core : Nat) (r : Running), r.cmd.core = core → r.cmd.rp = false → (s.coreAt core).foldK < 2 →
    let m := s.matAt core
    let c := r.cmd
    let ends := fun (unit : Nat) (m' : MatEng) => ∃ t u, exec (.matrixCommandComplete core unit) s = .next t ∧ MatNow s u core m' ∧ TagFalls u t core c.tag
    let goes := fun (unit : Nat) (m' : MatEng) => ∃ t, exec (.matrixCommandComplete core unit) s = .next t ∧ MatNow s t core m'
    let loaded := fun (fb : MFmt) (elems : List Nat) => ends 0 { m with
      load := none
      shadow := {
        valid := true, fmt := fb.code, nanm := c.nanmBit, pbs := pbsOf c.mscb, usc := uscOf c.mscb, ktl := matrixRows core * fb.density, elems := elems } }
    (∀ fb, m.load = some r → c.fb = some fb → (pbsOf c.mscb && fb.cls == .scaled) = false → WordsFit c →
      (c.kind = .mls → fb ≠ .c8 → c.addr % 8 = 0 → c.pitch % 8 = 0 →
        (c.feed.length = matrixRows core * fb.density * fb.width →
          loaded fb ((List.range (matrixRows core * fb.density)).map fun k => wordsRead c (k * fb.width) fb.width)) ∧
        ∀ pa, c.feed.length < matrixRows core * fb.density * fb.width →
          CanRead s c (c.addr + c.feed.length / fb.width * c.pitch + 8 * (c.feed.length % fb.width)) pa →
          goes 0 { m with load := some { r with cmd := { c with feed := c.feed ++ [s.mem.read pa 8] } } }) ∧
      (c.kind = .mlsc → ∀ cols rest, fedC8 0 c.addr c.feed 64 = .ok (cols, rest) →
        loaded fb ((List.range (matrixRows core)).map fun k =>
          packElems 8 (cols.map fun col => col.getD ((if matrixRows core = 32 ∧ c.v = 1 then 32 else 0) + k) 0)))) ∧
    (∀ fa fb row run sA, m.stream = some r → c.kind ∈ streamKinds → c.fa = some fa → MFmt.ofCode m.active.fmt = some fb → c.row = some row → row < c.nrow →
      let kt := ktOf (matrixRows core) fa fb
      c.streamWords fa kt fa.cls row = .ok (run, sA) → ∃ (acc : SMap AccEl) (f : Flags),
        (∀ n < 64, mget acc (64 * (c.arow + row) + n) {} = (streamed m c fa fb kt row n run sA).1) ∧
        (∀ k, k / 64 ≠ c.arow + row → mget acc k {} = mget m.acc k {}) ∧
        (∀ k < 6, f.getLsbD k = true ↔ ∃ n < 64, (streamed m c fa fb kt row n run sA).2.getLsbD k = true) ∧
        (row + 1 = c.nrow → ends 1 { m with acc := acc, flg := m.flg ||| f, stream := none }) ∧
        (row + 1 < c.nrow → goes 1 { m with acc := acc, flg := m.flg ||| f, stream := some { r with cmd := { c with row := some (row + 1), feed := [] } } })) ∧
    ∀ e ∈ drainKinds, ∀ fo lw l, m.stream = some r → c.kind = e.1 → c.fo = some fo → r.todo = lw :: l →
      let row := fun (n : Nat) => drainEl (mget m.acc (64 * (c.arow + lw.row) + n) {}) c fo
      (r.planned = false → ∃ (acc : SMap AccEl) (f : Flags) (todo : List LineWrite), goes 1 { m with acc := acc, flg := m.flg ||| f, stream := some { r with todo := todo, planned := true } } ∧
        (∀ n < 64, mget acc (64 * (c.arow + lw.row) + n) {} = (row n).1) ∧ (∀ k, k / 64 ≠ c.arow + lw.row → mget acc k {} = mget m.acc k {}) ∧
        (∀ k < 6, f.getLsbD k = true ↔ ∃ n < 64, (row n).2.2.getLsbD k = true) ∧ todo.length = r.todo.length ∧
        ∀ (i : Nat) (x : LineWrite), r.todo[i]? = some x → ∃ y : LineWrite, todo[i]? = some y ∧ { y with data := x.data } = x ∧
          ∀ p ∈ rowPieces (c.addr + lw.row * c.pitch) (8 * fo.width) (packElems fo.width ((List.range 64).map fun n => (row n).2.1)) lw.row none,
            x.row = lw.row → x.va = p.va → y.data = p.data) ∧
      ∀ j < 4, r.planned = true → l = [] → lw.bad = none → lw.fe = none → lw.mask = 65535 * 2 ^ (16 * j) → s.lineReady c.id lw = true →
        s.retiredHome (64 * lw.line) = false → (∀ x ∈ s.resv, x.1 / 8 ≠ lw.line) → s.waitq = [] → s.mem.errs = [] →
        ∃ t u acc, exec (.matrixCommandComplete core 1) s = .next t ∧ TagFalls u t core c.tag ∧ u.cores = s.cores ∧
          Written s.mem t.mem (64 * lw.line + 16 * j) 16 (lw.data / 2 ^ (128 * j)) 0 ∧ t.matAt core = { m with acc := acc, stream := none } ∧
          RowsCleared m.acc acc (c.arow + lw.row) (if e.2 then 1 else 0)

/-- The matrix engine: its commands, and what they compute. -/
def Obligations.MatrixEvents : Prop := Sys2Proof.Claims.MatrixCommands ∧ Sys2Proof.Claims.MatrixResults

/-- When no continuation of the owner of a core's engines is left, they are cleared and given up, and a pass is called for (R263, R393). -/
def Sys2Proof.Claims.EnginesGivenUp : Prop :=
  ∀ (s : State) (core : Nat) (g : Group), (s.coreAt core).owner = some g → (s.coreAt core).foldK < 2 → (s.coreAt core).swap = none → (s.coreAt core).mig = none →
    s.enginesIdle core = true → s.holdsGroup core g = false → s.waitq = [] → (∀ l ∈ s.launches, l.basin = coreBasin core → l.hdr ≠ g.hdr) →
    ∃ t, exec (.engineSave core) s = .next t ∧ (t.coreAt core).owner = none ∧ t.matAt core = {} ∧ t.hvAt core = {} ∧
      t.copyAt core = { clim := (s.copyAt core).clim } ∧ (t.basinAt (coreBasin core)).passDue = true ∧ t.mem = s.mem

/-- An engine takes a task record of a ditch's window: the task is queued, its tag counted and the record gone from the ditch (R255, R296). -/
def Sys2Proof.Claims.DitchTasks : Prop :=
  ∀ (s : State) (b d n core a : Nat),
    let q := mget (s.basinAt b).ditches d {}
    let r := s.recAt a
    q.recs[n]? = some a → q.en = true → q.mode = false → s.pops = [] → (s.basinAt b).hold = false → n ≤ q.win → q.aged = false → recBad r = false → recPlace r = 1 ∨ recPlace r = 2 →
    s.taskCore b d r = some core → (s.coreAt core).foldK < 2 → s.waitq = [] →
    let tag := fun i => (r.getD i 0#64).toNat % 64
    (recKind r = 2 → taskFields r 64 (tag 7) = true → ∃ t c, exec (.matrixTaskTake b d n core) s = .next t ∧
      (t.matAt core).tasks = (s.matAt core).tasks ++ [c] ∧ c.desc = r ∧ c.tag = tag 7 ∧ a ∉ (mget (t.basinAt b).ditches d {}).recs ∧
      mget (t.coreAt core).counts (tag 7) 0 = mget (s.coreAt core).counts (tag 7) 0 + 1) ∧
    (recKind r = 3 → ({ id := s.nextId, kind := .ctask, core := core, slot := 8, sp := (s.taskSpace b d core).1, grp := (s.taskSpace b d core).2, desc := r } : Cmd).recordOk 64 (tag 3) = true →
      ∃ t c, exec (.copyTaskAccept b d n core) s = .next t ∧
        (t.copyAt core).tasks = (s.copyAt core).tasks ++ [c] ∧ c.desc = r ∧ c.tag = tag 3 ∧ a ∉ (mget (t.basinAt b).ditches d {}).recs ∧
        mget (t.coreAt core).counts (tag 3) 0 = mget (s.coreAt core).counts (tag 3) 0 + 1)

/-- Engines given up, and tasks taken from ditches. -/
def Obligations.EngineOwnership : Prop := Sys2Proof.Claims.EnginesGivenUp ∧ Sys2Proof.Claims.DitchTasks

/-- The copy engine: a command reaches the intake; starts in an active entry; writes a line of a FILL 16 bytes at a time, in an order left open, and gives
the line up with the last; completes for its tag; a culvert's flag and a page handover's release are sent, and posted at their homes; an acknowledgement
that outlasts CLIM fails with 0x57; FCLR clears the flags (R114, R131, R134, R276, R278, R285, R286, R290 to R292, R299). -/
def Sys2Proof.Claims.CopyCommands : Prop :=
  ∀ (s : State) (core : Nat),
    let m := s.copyAt core
    (∀ c, m.intake = [c] → c.core = core → c.arrived = false → c.kind ≠ .scat → c.kind.isDesc = false → (s.basinAt (coreBasin c.core)).traces = [] →
      s.commandHeld core c.slot c.seq c.lsid = false →
      ∃ t, exec (.copyIntakeArrival core) s = .next t ∧ CopyNow s t core { m with intake := [{ c with arrived := true }] }) ∧
    (∀ c l, m.intake = c :: l → c.core = core → c.arrived = true → c.kind ≠ .ctask → s.threadDone c = true → m.tasks = [] → m.active = [] → s.copyCheck c = none →
      c.copyZero = false → s.mem.errs = [] → ∃ t r, exec (.copyCommandStart core) s = .next t ∧ t.copyAt core = { m with intake := l, active := [(0, r)] } ∧ r.cmd = c ∧ r.stage = 0 ∧
        r.task = false ∧ t.mem = s.mem) ∧
    (∀ k r lw, mget? m.active k = some r → r.cmd.core = core → r.stage = 0 → r.out = [] → r.todo = [lw] → lw.bad = none → r.cmd.kind = .fill → lw.va % 64 = 0 →
      r.cmd.dst ≤ lw.va → lw.va + 64 ≤ r.cmd.dst + r.cmd.len → r.cmd.v < 3 → lw.fe = (if r.cmd.v = 0 then none else some (decide (r.cmd.v = 1))) → lw.row = 0 →
      s.lineReady r.cmd.id lw = true → s.retiredHome (64 * lw.line) = false → (∀ e ∈ s.resv, e.1 / 8 ≠ lw.line) → s.waitq = [] → s.mem.errs = [] →
      let mine := fun (o : Own) => decide (o.line = lw.line) && decide (o.cmd = r.cmd.id)
      let wrote := fun (t : State) (j : Nat) =>
        Written s.mem t.mem (64 * lw.line + 16 * j) 16 (packed [(r.cmd.xarg, 0), (r.cmd.xarg, 64)]) 0 ∧
        Marked s.mem t.mem (if r.cmd.v = 0 then [] else [8 * lw.line + 2 * j, 8 * lw.line + 2 * j + 1]) (decide (r.cmd.v = 1))
      (lw.mask = 2 ^ 64 - 1 → ∃ t j, exec (.copyLineWrite core k) s = .next t ∧ j < 4 ∧ wrote t j ∧
        t.owned = s.owned.map (fun o => if mine o then { o with wrote := Nat.lor o.wrote (2 ^ j) } else o) ∧
        mget? (t.copyAt core).active k = some { r with todo := [{ lw with mask := 2 ^ 64 - 1 - 65535 * 2 ^ (16 * j) }], bdone := r.bdone + 16 }) ∧
      ∀ j < 4, lw.mask = 65535 * 2 ^ (16 * j) → ∃ t, exec (.copyLineWrite core k) s = .next t ∧ wrote t j ∧ t.owned = s.owned.filter (fun o => !mine o) ∧
        mget? (t.copyAt core).active k = some { r with todo := [], bdone := r.bdone + 16 }) ∧
    (∀ k r, mget? m.active k = some r → r.cmd.core = core → r.cmd.kind.isCulvert = false → r.stage = 0 → r.todo = [] → r.out = [] → r.cmd.readCount ≤ r.cmd.feed.length →
      r.bad = none → r.cmd.rp = false →
      ∃ t u, exec (.copyCommandComplete core k) s = .next t ∧ CopyNow s u core { m with active := mdel m.active k } ∧ TagFalls u t core r.cmd.tag) ∧
    (∀ k r, mget? m.active k = some r → r.cmd.core = core → s.waitq = [] → s.mem.errs = [] →
      let free := fun (pa : Nat) => s.waferRefuse pa = none ∧ s.retiredHome pa = false ∧ (∀ o ∈ s.owned, o.line ≠ pa / 64) ∧ ∀ e ∈ s.resv, e.1 ≠ pa / 8
      let sent := fun (t : State) (va : Nat) (st : Nat) =>
        CopyNow { s with nextId := s.nextId + 1 } t core { m with active := mput m.active k { r with stage := st, out := [⟨s.nextId, va, s.time, 0⟩] } }
      let posted := fun (t : State) (pa : Nat) (v : W64) => Written s.mem t.mem pa 8 v.toNat 0 ∧ Marked s.mem t.mem [pa / 8] true ∧
        mget? (t.copyAt core).active k = some { r with out := [] }
      let f := r.cmd.culvFlag
      (r.cmd.kind = .culv ∨ r.cmd.kind = .pghand → f ≠ 0 → paSpace f = 0 →
        (r.stage = 0 → r.todo = [] → r.out = [] → r.cmd.readCount ≤ r.cmd.feed.length → ∃ t, exec (.culvertDataAck core k) s = .next t ∧ sent t f 1) ∧
        ∀ w, r.stage = 1 → r.out = [w] → s.comes w = true → s.redirect f = f → free f →
          ∃ t, exec (.culvertDataAck core k) s = .next t ∧ posted t f (r.cmd.desc.getD 4 0#64)) ∧
      (r.cmd.kind = .pghand → ∀ pa, s.engineXl r.cmd.sp (r.cmd.dw 5 47 0) .write = (.ok pa, s) →
        (r.stage = 1 → r.out = [] → ∃ t, exec (.pghandFlagAck core k) s = .next t ∧ sent t (r.cmd.dw 5 47 0) 2) ∧
        ∀ w, r.stage = 2 → r.out = [w] → free pa → ∃ t, exec (.pghandFlagAck core k) s = .next t ∧ posted t pa (r.cmd.desc.getD 6 0#64))) ∧
    (∀ k r w, mget? m.active k = some r → r.cmd.core = core → r.cmd.kind = .culv → r.stage = 1 → r.out = [w] → w.va < 2 ^ 48 → w.sentAt + m.clim * 1000 < s.time →
      (∀ e ∈ s.links, e.2.waiting = []) → s.waitq = [] →
      ∃ t, exec (.culvertLimitExpiry core k) s = .next t ∧ (t.copyAt core).cause = 0x57 ∧ (t.copyAt core).flagq = true ∧ (t.copyAt core).faddr = w.va ∧
        ∀ e ∈ (t.copyAt core).active, e.2.cmd.id ≠ r.cmd.id) ∧
    ∃ t, exec (.copyFclr core) s = .next t ∧ CopyNow s t core { m with flg := [] }

/-- The data of the copy forms, each read and written as events of their own: CPY1, CPY2, GATH, SCAT and CPYMC read their next source word, GATH each
element's index before it, and write each word where its row, its element's index or its target's slice says; CPYCV writes its elements converted one by one
(R114, R278 to R282). -/
def Sys2Proof.Claims.CopyData : Prop :=
  ∀ (s : State) (core k : Nat) (r : CopyRun),
    let c := r.cmd
    (∀ e ∈ copyReads, ∀ pa, c.kind = e.1 → mget? (s.copyAt core).active k = some r → c.core = core → r.stage = 0 → (∀ lw ∈ r.todo, c.feed.length < c.needs lw) →
      c.feed.length < c.readCount → 8 ≤ c.len → c.len % 8 = 0 → CanRead s c (e.2 c c.feed.length).1 pa → ∃ t, exec (.copyLineWrite core k) s = .next t ∧
        CopyNow s t core { s.copyAt core with
          active := mput (s.copyAt core).active k { r with cmd := { c with feed := c.feed ++ [s.mem.read pa (e.2 c c.feed.length).2] } } }) ∧
    (∀ e ∈ wordForms, ∀ lw n w, c.kind = e.1 → LastPart s core k r lw n w → c.len % 8 = 0 → e.2.1 c lw.row % 8 = 0 → (c.kind = .cpymc → lw.row < 16) →
      e.2.1 c lw.row ≤ lw.va + 8 * n → lw.va + 8 * n + w ≤ e.2.1 c lw.row + c.len →
      let word := fun (i : Nat) => c.feed.getD (e.2.2 c lw.row ((lw.va + 8 * i - e.2.1 c lw.row) / 8)) 0
      ∃ t, exec (.copyLineWrite core k) s = .next t ∧ LastWritten s t core k r lw n w (word n + 2 ^ 64 * word (n + 1))) ∧
    ∀ lw n w sf df, c.kind = .cpycv → MFmt.ofCode c.sf = some sf → MFmt.ofCode c.df = some df → LastPart s core k r lw n w → c.dst % 8 = 0 →
      c.dst ≤ lw.va + 8 * n → lw.va + 8 * n + w ≤ c.dst + c.len * df.width / 8 →
      let codes := (List.range c.len).map fun i => let x := c.cvSource sf i; (cvElem x.1 x.2 sf df c).1
      ∃ t, exec (.copyLineWrite core k) s = .next t ∧ LastWritten s t core k r lw n w (packElems df.width codes / 2 ^ (8 * (lw.va + 8 * n - c.dst)))

/-- The copy engine: its commands, and the data they move. -/
def Obligations.CopyEvents : Prop := Sys2Proof.Claims.CopyCommands ∧ Sys2Proof.Claims.CopyData

/-- The hypervector engine of a core that is not folded: a command reaches the intake and starts; a vector command leaves its result in HD; HPHASE sets the phase bit; a
comparison sends its count to its register, and is complete, its tag counted down, once it is written there (R310, R312, R314, R317). -/
def Sys2Proof.Claims.VectorCommands : Prop :=
  ∀ (s : State) (core : Nat), (s.coreAt core).foldK < 2 →
    let m := s.hvAt core
    (∀ c l, m.intake = c :: l → c.arrived = false → (s.basinAt (coreBasin c.core)).traces = [] → (s.copyAt core).intake = [] →
      s.commandHeld core c.slot c.seq c.lsid = false → ∃ t, exec (.hvIntakeArrival core) s = .next t ∧
      HvNow s t core { m with intake := { c with arrived := true } :: l }) ∧
    (∀ c l, m.intake = c :: l → c.core = core → c.arrived = true → m.run = none → s.threadDone c = true → s.tagOk c = true → c.hvFields (s.coreAt core).qh = true →
      ∃ t, exec (.hvCommandStart core) s = .next t ∧ HvNow s t core { m with intake := l, run := some { cmd := c } }) ∧
    (∀ r, m.run = some r → r.cmd.core = core → r.cmd.rp = false → r.phase = 0 →
      let c := r.cmd
      let a := mget m.h c.ha 0#8192
      let b := operandOf m c c.hb
      (c.v = 1 → c.kind = .hbind ∨ c.kind = .hdist → c.addr % 64 = 0 ∧ c.feed.length = 128 ∧ WordsFit c) →
      (∀ e ∈ vectorForms, c.kind = e.1 → c.v = e.2.1 → ∃ t u h, exec (.hvCommandComplete core) s = .next t ∧ HvNow s u core { m with h := h, run := none } ∧
        (∀ i < 8192, (mget h c.hd 0#8192).getLsbD i = e.2.2 a b c.hk i) ∧ (∀ n, n ≠ c.hd → mget h n 0#8192 = mget m.h n 0#8192) ∧ TagFalls u t core c.tag) ∧
      (c.kind = .hphase → ∃ t u, exec (.hvCommandComplete core) s = .next t ∧ TagFalls u t core c.tag ∧
        HvNow s u core { withAcc m c.ba { m.acc c.ba with ph := decide (c.hk % 2 = 1) } with run := none }) ∧
      (c.kind = .hclr → c.v = 1 → ∃ t u, exec (.hvCommandComplete core) s = .next t ∧ TagFalls u t core c.tag ∧
        HvNow s u core { withAcc m c.ba { m.acc c.ba with cnt := [], sat := false } with run := none }) ∧
      (c.kind = .hpopc → c.v = 1 → ∀ n, s.threadSlot c = some n → ∃ t, exec (.hvCommandComplete core) s = .next t ∧
        HvNow { s with
          nextId := s.nextId + 1
          fills := s.fills ++ [{
            id := s.nextId, core := core, slot := n, reg := c.reg, tag := c.tag, hv := true
            val := BitVec.ofNat 128 (packed [((m.intake.filter Cmd.arrived).length + 1, 0), (1, 5), (asBit m.a0.sat, 6), (asBit m.a1.sat, 7), (asBit m.a0.ph, 8),
              (asBit m.a1.ph, 9), (m.cause, 16), ((s.coreAt core).foldK, 24), ((s.coreAt core).qh, 27)]) }] } t core { m with run := some { r with phase := 1 } }) ∧
      ∀ e ∈ countForms, c.kind = e.1 → c.v = e.2.1 → ∀ n, s.threadSlot c = some n → ∃ t, exec (.hvCommandComplete core) s = .next t ∧
        HvNow { s with
          nextId := s.nextId + 1
          fills := s.fills ++ [{ id := s.nextId, core := core, slot := n, reg := c.reg, val := BitVec.ofNat 128 (e.2.2 a b * 2 ^ 32), tag := c.tag, hv := true }] } t core
          { m with run := some { r with phase := 1 } }) ∧
    ∀ f : Fill, s.fills.find? (fun x => x.id == f.id) = some f → f.hv = true → f.core = core → f.src = none → f.reg < 64 → f.tag < 64 →
      (s.slotAt core f.slot).present.getLsbD (f.reg / 4) = true → ∃ t, exec (.fillArrival f.id) s = .next t ∧ t.hvAt core = { m with run := none } ∧
        mget (t.slotAt core f.slot).g f.reg 0#128 = f.val ∧ (t.slotAt core f.slot).full.getLsbD f.reg = true ∧
        mget (t.coreAt core).counts f.tag 0 = mget (s.coreAt core).counts f.tag 0 - 1 ∧
        (mget (s.coreAt core).counts f.tag 0 ≤ 1 → (t.coreAt core).tags.getLsbD f.tag = true)

/-- What the vector commands that bundle, threshold, load, store and search compute, on a core that is not folded: each reads its next word; HBUND adds ±WT to every counter,
clamped; HTHR gives each bit the sign of its counter, a tie as TIE says; HLD and HBNDLD take what they have read; HST and HBNDST write the vector or the
counters' image, line by line; HNEAR and HNEARK keep the least distance, its first index and how many share it, and send them (R304, R312 to R317). -/
def Sys2Proof.Claims.VectorResults : Prop :=
  ∀ (s : State) (core : Nat) (r : Running), (s.coreAt core).foldK < 2 → (s.hvAt core).run = some r → r.cmd.core = core → r.cmd.rp = false → r.phase = 0 →
    WordsFit r.cmd → r.cmd.addr % 64 = 0 →
    let m := s.hvAt core
    let c := r.cmd
    let acc := m.acc c.ba
    let ends := fun (m' : HvEng) => ∃ t u, exec (.hvCommandComplete core) s = .next t ∧ HvNow s u core { m' with run := none } ∧ TagFalls u t core c.tag
    let goes := fun (r' : Running) => ∃ t, exec (.hvCommandComplete core) s = .next t ∧ HvNow s t core { m with run := some r' }
    (∀ e ∈ vectorReads, ∀ pa, c.kind = e.1 → c.v = e.2.1 → c.feed.length < e.2.2.2 → e.2.2.1 r % 64 = 0 → CanRead s c (e.2.2.1 r + 8 * c.feed.length) pa →
      goes { r with cmd := { c with feed := c.feed ++ [s.mem.read pa 8] } }) ∧
    (c.kind = .hbund → (c.v = 1 → c.feed.length = 128) → (acc.cnt = [] ∨ acc.cnt.length = 8192) → c.wt ≠ 0 → ∃ a : HvAcc,
      let sum := fun (i : Nat) => counterOf acc i + if (operandOf m c c.ha).getLsbD i then c.wt else -c.wt
      ends (withAcc m c.ba a) ∧ a.ph = acc.ph ∧ (a.sat = true ↔ acc.sat = true ∨ ∃ i < 8192, clamped c.cmax (sum i) ≠ sum i) ∧
        ∀ i < 8192, counterOf a i = clamped c.cmax (sum i)) ∧
    (c.kind = .hthr → (acc.cnt = [] ∨ acc.cnt.length = 8192) → ∃ h,
      (let a := { acc with ph := if c.tie = 2 then !acc.ph else acc.ph }
       ends { withAcc m c.ba (if c.v = 1 then { a with cnt := [], sat := false } else a) with h := h }) ∧
      (∀ n, n ≠ c.hd → mget h n 0#8192 = mget m.h n 0#8192) ∧ ∀ i < 8192,
        let tie := if c.tie = 0 then false else if c.tie = 1 then true else if c.tie = 2 then acc.ph != decide (i % 2 = 1) else (mget m.h c.hb 0#8192).getLsbD i
        (mget h c.hd 0#8192).getLsbD i = if counterOf acc i = 0 then tie else decide (0 < counterOf acc i)) ∧
    (c.kind = .hld → c.feed.length = 128 → ∃ h, ends { m with h := h } ∧ mget h c.hd 0#8192 = BitVec.ofNat 8192 (wordsRead c 0 128) ∧
      ∀ n, n ≠ c.hd → mget h n 0#8192 = mget m.h n 0#8192) ∧
    (c.kind = .hbndld → c.feed.length = 2048 → ∃ a : HvAcc,
      let read := fun (i : Nat) => (BitVec.ofNat 16 (wordsRead c 0 2048 / 2 ^ (16 * i))).toInt
      ends (withAcc m c.ba a) ∧ a.ph = acc.ph ∧ (a.sat = true ↔ ∃ i < 8192, clamped c.cmax (read i) ≠ read i) ∧ ∀ i < 8192, counterOf a i = clamped c.cmax (read i)) ∧
    (∀ n v, (c.kind = .hst ∧ n = 16 ∧ v = (mget m.h c.ha 0#8192).toNat) ∨
        (c.kind = .hbndst ∧ (acc.cnt = [] ∨ acc.cnt.length = 8192) ∧ n = 256 ∧ v = packElems 16 ((List.range 8192).map fun i => (counterOf acc i % 2 ^ 16).toNat)) →
      (r.planned = false → ∃ t r', exec (.hvCommandComplete core) s = .next t ∧ t.hvAt core = { m with run := some r' } ∧ r'.planned = true ∧ r'.todo.length = n ∧
        ∀ l < n, ∃ lw, r'.todo[l]? = some lw ∧ lw.va = c.addr + 64 * l ∧ lw.mask = 2 ^ 64 - 1 ∧ lw.data = v / 2 ^ (512 * l) % 2 ^ 512) ∧
      (r.planned = true → r.todo = [] → ends m) ∧
      ∀ lw, ∀ j < 4, r.planned = true → r.todo = [lw] → lw.bad = none → lw.fe = none → lw.mask = 65535 * 2 ^ (16 * j) → s.lineReady c.id lw = true →
        s.retiredHome (64 * lw.line) = false → (∀ x ∈ s.resv, x.1 / 8 ≠ lw.line) → s.waitq = [] → s.mem.errs = [] →
        ∃ t, exec (.hvCommandComplete core) s = .next t ∧ t.hvAt core = { m with run := some { r with todo := [] } } ∧
          Written s.mem t.mem (64 * lw.line + 16 * j) 16 (lw.data / 2 ^ (128 * j)) 0) ∧
    ((c.kind = .hnear ∨ c.kind = .hneark) → c.feed.length = 128 → (c.addr + r.entry * c.hStride) % 8 = 0 →
      let d := distanceOf (mget m.h c.ha 0#8192) (BitVec.ofNat 8192 (wordsRead c 0 128))
      let r' := { r with
        dist := min d r.dist, index := if d < r.dist then r.entry else r.index, neq := if d < r.dist then 1 else if d = r.dist then r.neq + 1 else r.neq
        entry := r.entry + 1, cmd := { c with feed := [] } }
      (r.entry + 1 < c.hCount → goes r') ∧
      ∀ n, r.entry + 1 = c.hCount → s.threadSlot c = some n → ∃ t, exec (.hvCommandComplete core) s = .next t ∧
        HvNow { s with
          nextId := s.nextId + 1
          fills := s.fills ++ [{
            id := s.nextId, core := core, slot := n, reg := c.reg, tag := c.tag, hv := true
            val := BitVec.ofNat 128 ((if c.kind = .hneark ∧ c.hLimit < r'.dist then 2 ^ 32 - 1 else r'.index % 2 ^ 32) + r'.dist * 2 ^ 32 +
              min r'.neq 65535 * 2 ^ 48) }] } t core
          { m with run := some { r' with phase := 1 } })

/-- The hypervector engine: its commands, and what they compute. -/
def Obligations.HypervectorEvents : Prop := Sys2Proof.Claims.VectorCommands ∧ Sys2Proof.Claims.VectorResults

/-! ### Queue, table and weir events -/

/-- A message reaches its queue: its line is written at the tail in the layout of Table 11-5; a disabled queue refuses it, the sender then stops with 0x74, and with 0x71
where it could not be delivered; the oldest request of a queue is granted its head message; descriptors are written, and a queue drops its head
or is emptied; a message that has stood still for 20 µs, or that follows one spilled, goes into the sump, flit by flit, and the oldest leaves it; an
acknowledged message is forgotten (R204, R334, R335, R337, R338, R342, R343, R347). -/
def Sys2Proof.Claims.QueueEvents : Prop :=
  ∀ (s : State),
    (∀ m : QMsg, HeadMessage s m →
      (m.st = .sent → s.msgReady m = true → ∀ v, m.qn < 7 → (s.coreAt m.dest).phase ≠ 3 → (s.coreAt m.dest).phase ≠ 4 → (s.coreAt m.dest).rdir = false → s.reachable (coreSite m.dest) (coreSite m.core) = true →
        (s.coreAt m.dest).queues[m.qn]? = some v →
        (v.en = false → ∃ t, exec (.queueMessageArrival m.id) s = .next t ∧ MsgNow s t m { m with st := .refused, since := s.time }) ∧
        (v.en = true → 1 ≤ v.room → s.waitq = [] → s.mem.errs = [] → (s.basinAt (coreBasin m.dest)).traces = [] →
          let pa := slicePa m.dest + 64 * (v.base + v.tail % v.size)
          s.redirect pa = pa → s.retiredHome pa = false → ∃ t, exec (.queueMessageArrival m.id) s = .next t ∧
            Written s.mem t.mem pa 64 (packed [(coreSite m.core, 0), (coreNum m.core, 9), (m.slot, 13), (asBit m.nanm, 16), (asBit m.typed, 17), (asBit m.vec, 18),
              (asBit m.peerf, 19), (m.qn, 20), (m.vc.toNat % 2 ^ 32, 64), (m.smod, 96), (m.head.toNat, 128)]) 0 ∧
            (t.coreAt m.dest).queues = (s.coreAt m.dest).queues.set m.qn { v with tail := (v.tail + 1) % v.size, count := v.count + 1 } ∧
            { m with st := .delivered, since := s.time } ∈ t.qmsgs)) ∧
      (AtBoundary (s.slotAt m.core m.slot) s m.core m.slot → (s.slotAt m.core m.slot).ctl.wid = m.wid → (s.slotAt m.core m.slot).ctl.vcore = m.vc →
        (m.st = .refused → s.wayHeld (s.msgFlight m) = false → ∃ t, exec (.queueRefusal m.id) s = .next t ∧ StoppedLate s t m.core m.slot 0x74 ∧ m ∉ t.qmsgs) ∧
        (m.st = .sent → s.msgReady m = true → ∃ t, exec (.undeliverableReturn m.id) s = .next t ∧ StoppedLate s t m.core m.slot 0x71 ∧ m ∉ t.qmsgs)) ∧
      (m.st = .delivered → s.wayHeld (s.msgFlight m) = false → ∃ t, exec (.deliveryAck m.id) s = .next t ∧ t = { s with qmsgs := s.qmsgs.filter fun a => decide (a.id ≠ m.id) })) ∧
    (∀ (f : Flight) (n : Nat), s.flightOf f.id = some f → s.travels f.id = true → siteExists n = true → (∃ l ∈ linksOf (s.path f).2, meshSite l.1 = n) →
      (20000 ≤ s.stalled f ∨ s.spillsAt n f = true) →
      (∀ g ∈ s.flights, g.chan = f.chan → g.src = f.src → g.dst = f.dst → g.ord < f.ord ∨ (g.ord = f.ord ∧ g.id < f.id) → s.travels g.id = false) →
      s.sumpFlits n + f.flits + s.sumpLost n ≤ 1820 → s.waitq = [] → s.mem.errs = [] → (s.coreAt (s.riderCore n)).rdir = false → (∀ x, s.retiredHome x = false) →
      (∀ j < f.flits, (s.sumpFlit n f.id j).length = 9) →
      ∃ t, exec (.sumpSpill n f.id) s = .next t ∧ (t.siteAt n).sump = (s.siteAt n).sump ++ [(f.id, s.sumpNext n)] ∧
        (∀ a, s.sumpPa n = some a → SiteNow { s with mem := t.mem } t n { s.siteAt n with sump := (t.siteAt n).sump } ∧
          ∀ j < f.flits, t.memWords (a + 72 * ((s.sumpNext n + j) % 1820)) 9 = s.sumpFlit n f.id j) ∧
        (s.sumpPa n = none → SiteNow s t n { s.siteAt n with sump := (t.siteAt n).sump, sumpw := (t.siteAt n).sumpw } ∧
          ∀ j < f.flits, ∀ k < 9, mget (t.siteAt n).sumpw (9 * ((s.sumpNext n + j) % 1820) + k) 0#64 = (s.sumpFlit n f.id j).getD k 0#64)) ∧
    (∀ n, ∃ t, exec (.sumpDrain n) s = .next t ∧ SiteNow s t n { s.siteAt n with sump := (s.siteAt n).sump.drop 1 }) ∧
    (∀ (c : Ctx) (since : Nat) (i : Instr) (q : RecvReq), WaitsAt s c since i → s.recvs = [q] → q.core = c.core → q.slot = c.slot → q.ix = c.ix → q.left = false →
      q.granted = false → q.taken = none → (s.queueAt c.core q.qn).count ≠ 0 → c.run.heldByWait (s.cyc c.core) q.lsid = false → (s.ringWord c.core q.qn 0).getLsbD 17 = false →
      ∃ t, exec (.queueReservationGrant c.core q.qn) s = .next t ∧
        BlockNow { s with recvs := [{ q with granted := true }] } t c (c.run.modInst c.ix fun i => { i with st := .ready })) ∧
    ∀ (core n : Nat) (v : RecvQ), s.answers (coreSite core) = true → n < 8 → (s.coreAt core).queues[n]? = some v →
      (∀ w : W64, v.en = false → let size := w.toNat / 2 ^ 32 % 2 ^ 15
        let base := w.toNat / 2 ^ 6 % 2 ^ 16
        ∃ t, exec (.queueEnWrite core n w) s = .next t ∧ QueueNow s t core n { v with
          base := base, size := size
          en := w.getLsbD 0 && decide (16 ≤ size ∧ size ≤ 16384 ∧ 64 * (base + size) ≤ sliceBytes core) }) ∧
      (s.recvs = [] → v.count ≠ 0 → ∃ t, exec (.queueDisc core n) s = .next t ∧
        QueueNow s t core n { v with head := (v.head + 1 + (s.headLen core n + 63) / 64) % max 1 v.size, count := v.count - 1 }) ∧
      (s.recvs = [] → (s.basinAt (coreBasin core)).traces = [] → ∃ t, exec (.queueReset core n) s = .next t ∧
        QueueNow s t core n { v with head := 0, tail := 0, count := 0 })

/-- The network-select table: a write of body word k, 1 to 16, sets the entries of 32 sites and sends a marker for each that changes; a write of DETOUR sets the
waypoint, unless it names a corner; a marker comes back once the messages before it have arrived, and is done (R331, R333). The site answers (R444). -/
def Sys2Proof.Claims.RouteTables : Prop :=
  ∀ (s : State) (n : Nat), s.answers n = true → (s.siteAt n).nstWait = [] →
    (∀ (k : Nat) (v : W64), 1 ≤ k → k ≤ 16 → (s.siteAt n).marks = [] → ∃ t, exec (.nstWrite n k v) s = .next t ∧
      (∀ d, siteExists d = true → t.nstEntry n d = if d / 32 = k - 1 then v.toNat / 4 ^ (d % 32) % 4 else s.nstEntry n d) ∧
      ∀ d, (∃ m ∈ (t.siteAt n).marks, m.dst = d) ↔ siteExists d = true ∧ t.nstEntry n d ≠ s.nstEntry n d) ∧
    (∀ v : W64, (s.siteAt n).marks = [] →
      let x := v.toNat % 2 ^ 7
      let y := v.toNat / 2 ^ 8 % 2 ^ 7
      (¬(x < 88 ∧ y < 88 ∧ siteKind (siteAtXY (x / 4) (y / 4)) = .corner) → ∃ t, exec (.nstWrite n 0 v) s = .next t ∧ (t.siteAt n).wx = x ∧ (t.siteAt n).wy = y) ∧
      (x < 88 ∧ y < 88 ∧ siteKind (siteAtXY (x / 4) (y / 4)) = .corner → exec (.nstWrite n 0 v) s = .next s)) ∧
    ∀ m, (s.siteAt n).marks = [m] → (∀ i ∈ s.sentTo n m.dst, i ∉ m.keys) → (s.siteAt n).wayWait = none → ∃ t, exec (.markerAck n) s = .next t ∧ SiteNow s t n { s.siteAt n with marks := [] }

/-- The events of queues and of the network-select tables. -/
def Obligations.MessageEvents : Prop := Sys2Proof.Claims.QueueEvents ∧ Sys2Proof.Claims.RouteTables

/-- Barrier cells and waits: a cell is configured and aborted; an arrival counts, and the last of a generation releases it at the second beat start after its own; a
module cell is released by its last report, 128 ns after the last completion; a released WBAR or WWAIT is woken and sends its token; a WSLEEP ends at its deadline; an idle core is
gated, and reported to the power arbiter (R358 to R364, R367 to R370). -/
def Obligations.WeirEvents : Prop :=
  ∀ (s : State),
    (∀ (b n : Nat) (v : W64), b < 4 → n < 64 → s.basinAnswers b = true →
      let c := s.cellAt b n
      let x := v.toNat
      (c.en = false → (v.getLsbD 1 = true → 48 ≤ n) → ∃ t, exec (.barrierCellWrite b (4 * n) v) s = .next t ∧ BasinNow s t b (withCell (s.basinAt b) n { c with
        en := v.getLsbD 0 && decide (x / 2 ^ 8 % 2 ^ 16 ≠ 0), mod := v.getLsbD 1, bmask := x / 4 % 16, boost := v.getLsbD 6, expect := x / 2 ^ 8 % 2 ^ 16 })) ∧
      (c.en = true → c.count ≠ 0 → v.getLsbD 0 = false → c.gen < 65536 → (c.mod = false → c.nextRel = c.gen) → ∃ t, exec (.barrierCellWrite b (4 * n) v) s = .next t ∧ BasinNow s t b (withCell (s.basinAt b) n { c with
        en := false, count := 0, gen := (c.gen + 1) % 65536, rels := abortedBy c ((s.time + 64) / 64 * 64) ++ c.rels }))) ∧
    (∀ (a : Arrival) (n : Nat), s.arrivals.find? (fun x => x.id == a.id) = some a → a.beat = some n → AtInstant s (64 * (n + 2)) →
      (∀ f ∈ a.flight, s.wayHeld f = false) →
      let b := coreBasin a.core
      let c := s.cellAt b a.cell
      let waits := s.modSlot a.core a.slot fun sl => { sl with barWait := BitVec.ofNat 64 (packed [(a.cell, 0), (1, 6), (c.gen, 16)]) }
      (a.wbar = true → s.barWaits a.core a.slot a.seq a.ix = true ∧ (s.slotAt a.core a.slot).barWait.getLsbD 6 = false) →
      c.en = true → c.mod = false → c.nextRel = c.gen → ∃ t, exec (.barrierArrival a.id) s = .next t ∧
        BasinNow { (if a.wbar then waits else s) with arrivals := s.arrivals.filter fun x => decide (x.id ≠ a.id), time := 64 * (n + 2) } t b (withCell (s.basinAt b) a.cell
          (if c.count + 1 < c.expect then { c with count := c.count + 1 } else { c with
            count := 0, gen := (c.gen + 1) % 65536, rels := { gen := c.gen, rtime := 64 * (n + 2) } :: c.rels }))) ∧
    (∀ r : Report, s.reports.find? (fun x => x.id == r.id) = some r → s.wayHeld r.flight = false →
      let c := s.cellAt r.root r.cell
      r.src < 4 → c.bmask.testBit r.src = true → r.gen = c.mgen → (∀ i < 4, c.bmask.testBit i = true → i = r.src ∨ i ∈ c.reported) →
      (∀ i < 4, (s.basinAt i).on = true → (s.basinAt i).epoch * (s.basinAt i).m + 10 * (s.basinAt i).edges ≤ (r.act + 128) * (s.basinAt i).m) →
      (∀ i < 4, c.bmask.testBit i = true → (s.cellAt i r.cell).nextRel = c.mgen) →
      let late := if c.ract < r.act + 128 then r.late else if r.act + 128 < c.ract then c.rlate else r.late && c.rlate
      ∃ t, exec (.moduleCompletionReport r.id) s = .next t ∧
        (t.cellAt r.root r.cell).mgen = (c.mgen + 1) % 65536 ∧ (t.cellAt r.root r.cell).reported = [] ∧
        ∀ b < 4, (t.cellAt b r.cell).rels = if c.bmask.testBit b then { gen := c.mgen, rtime := max c.ract (r.act + 128), late := late } :: (s.cellAt b r.cell).rels
          else (s.cellAt b r.cell).rels) ∧
    (∀ (c : Ctx) (since : Nat) (p : Pred) (n : BitVec 4) (a : Option Target) (q : Release),
      let b := coreBasin c.core
      let out : W128 := BitVec.ofNat 128 (packed [(q.gen, 0), (asBit q.abort, 16), (asBit q.late, 17), (q.rtime, 64)])
      (∀ j t, j ≠ c.ix → (c.run.inst j).st ≠ .wait t) → c.run.bars = [] → q.rtime ≤ s.tick c.core → q.gen < 65536 →
      (WaitsAt s c since (.wwait p n a) → Room c a none → ∀ x, c.inst.l = some x → (s.cellAt b (x.data.toNat % 64)).en = true →
        (s.cellAt b (x.data.toNat % 64)).rels = [q] → x.data.toNat / 2 ^ 16 % 2 ^ 16 = q.gen →
        ∃ t, exec (.waiterWake c.core c.slot) s = .next t ∧ Sends (s.ungate c.core) t c a none 2 { data := out } 0#6) ∧
      (WaitsAt s c since (.wbar p n a) → Room c a none → c.sl.barWait.getLsbD 6 = true → (s.cellAt b (c.sl.barWait.toNat % 64)).rels = [q] →
        c.sl.barWait.toNat / 2 ^ 16 % 2 ^ 16 = q.gen →
        (∀ x ∈ s.arrivals, ¬(x.core = c.core ∧ x.slot = c.slot ∧ x.seq = c.run.seq ∧ x.ix = c.ix)) →
        (∀ x ∈ s.results, ¬(x.core = c.core ∧ x.slot = c.slot ∧ x.seq = c.run.seq ∧ x.ix = c.ix)) → ∃ t, exec (.waiterWake c.core c.slot) s = .next t ∧
          Sends ((s.modSlot c.core c.slot fun sl => { sl with barWait := 0#64 }).ungate c.core) t c a none 2 { data := out } 0#6)) ∧
    (∀ (c : Ctx) (since : Nat) (p : Pred) (n v : BitVec 4) (a : Option Target) (x : Token), WaitsAt s c since (.wsleep p n v a) → Room c a none →
      c.inst.l = some x → x.lo.toNat ≤ (if v = 1#4 then s.cyc c.core else s.tick c.core) ∨ since + c.sl.ctl.wlim.toNat ≤ s.tick c.core →
      ∃ t, exec (.sleepDeadline c.core c.slot c.ix) s = .next t ∧ Sends (s.ungate c.core) t c a none 2
        { data := BitVec.ofNat 128 (packed [(s.tick c.core % 2 ^ 64, 0), ((s.basinAt (coreBasin c.core)).ncyc / 2 ^ 16 % 2 ^ 64, 64)]) } 0#6) ∧
    ∀ core, 16 ≤ (s.coreAt core).idleClk → s.enginesIdle core = true → (s.coreAt core).gated = false → ∃ t, exec (.coreGate core) s = .next t ∧
      CoreNow { s with gateReports := (core, s.time) :: s.gateReports } t core { s.coreAt core with gated := true }

/-- Clocks: an edge ends a clk, whose waits and limits are met first, counts CYC and NCYC, moves TIME on, gives the tags and the TIME of its start to the clk
that begins, gates a core that has slept for 16 clk, and moves a line of a slice that is being migrated; a step request becomes the pending step, or is refused and counted; a pending step lands at its Ts
and the seams of its basin resume 1,500 ns later (R271, R351 to R356, R364, R434). -/
def Obligations.ClockEvents : Prop :=
  ∀ (s : State) (b : Nat),
    let v := s.basinAt b
    let inc := fun (v : Basin) => (2 * 1114112 + v.m) / (2 * v.m)
    let e := s.endClk b
    let w := e.basinAt b
    let quiet := (∀ x ∈ w.cells, x.2.boost = false) ∧ ∀ x ∈ e.cores, coreBasin x.1 = b → x.2.phase ≠ 3
    ((∀ k n, (s.slotAt k n).busy = false) → s.withdrawals = [] → s.replies = [] → e = s) ∧
    (b < 4 → s.edgeNext b = true → s.turnsDone b = true → quiet → ∃ t, exec (.basinClockEdge b) s = .next t ∧
      (let now := (w.epoch * w.m + 10 * (w.edges + 1)) / w.m
      t.basinAt b = { w with cyc := w.cyc + 1, ncyc := w.ncyc + inc w, edges := w.edges + 1, tick := now } ∧ t.time = max e.time now) ∧
      (w.phase ≠ 3 → ∀ k ∈ e.liveCores b, (t.coreAt k).tagsAt = (e.coreAt k).tags ∧ (16 ≤ (e.coreAt k).idleClk → e.enginesIdle k = true → (t.coreAt k).gated = true)) ∧
      (∀ k, k ≠ b → t.basinAt k = e.basinAt k) ∧ { t with basins := e.basins, cores := e.cores, slots := e.slots, time := e.time, gateReports := e.gateReports } = e) ∧
    (∀ k y, b < 4 → s.edgeNext b = true → s.turnsDone b = true → (∀ x ∈ w.cells, x.2.boost = false) →
      e.cores.filter (fun x => decide (x.2.phase = 3 ∧ coreBasin x.1 = b)) = [(k, y)] → e.coreAt k = y → y.mig ≠ none → ∃ t, exec (.basinClockEdge b) s = .next t ∧
        t.mem = e.mem.copySlice (slicePa k + 64 * y.lmoved) (slicePa y.target + 64 * y.lmoved) 64 ∧ (t.coreAt k).lmoved = y.lmoved + 1 ∧
        (t.coreAt k).rdir = true ∧ (t.coreAt k).phase = if y.lmoved + 1 = sliceBytes k / 64 then 4 else 3) ∧
    (∀ r : StepReq, s.stepReqs.find? (fun x => x.id == r.id) = some r → r.basin = b → r.kind = .ask → v.on = true → s.wayHeld r.flight = false →
      let u := { s with stepReqs := s.stepReqs.filter fun x => decide (x.id ≠ r.id) }
      let unboosted := { u with stepReqs := u.stepReqs.filter fun x => decide (x.basin ≠ b ∨ x.kind = .ask ∨ x.kind = .power) }
      (r.m < 8 ∨ 20 < r.m → ∃ t, exec (.stepRequest r.id) s = .next t ∧ BasinNow u t b { v with nref := min (v.nref + 1) (2 ^ 32 - 1) }) ∧
      (8 ≤ r.m → r.m ≤ 20 → v.stepPend = true → v.pts < s.time + 2048 → ∃ t, exec (.stepRequest r.id) s = .next t ∧ BasinNow unboosted t b { v with
        boost := none, back := false, stepPend := !v.pboost, pboost := false, nref := min (v.nref + 1) (2 ^ 32 - 1) }) ∧
      (8 ≤ r.m → r.m ≤ 20 → v.stepPend = false → s.links = [] → r.ts ≠ 0 → r.ts % 1024 = 0 → s.time + 4096 ≤ r.ts →
        ∃ t, exec (.stepRequest r.id) s = .next t ∧ BasinNow unboosted t b { v with
          pm := min r.m v.bmax, clamp := decide (v.bmax < r.m), pts := r.ts, moved := false, stepPend := true, pboost := false, boost := none, back := false })) ∧
    (∀ w : W64, s.basinAnswers b = true → ∃ t, exec (.clockStsWrite b w) s = .next t ∧ BasinNow { s with
      nextId := s.nextId + 1
      stepReqs := s.stepReqs ++ [⟨s.nextId, v.sreq.toNat % 4, v.sreq.toNat / 2 ^ 8 % 2 ^ 5, w.toNat, .ask, gatePos b, s.time⟩] } t b { v with sts := w }) ∧
    (v.on = true → v.stepPend = true → v.pts * v.m ≤ v.epoch * v.m + 10 * (v.edges + 1) → s.turnsDone b = true →
      (∀ i < 4, i ≠ b → (s.basinAt i).on = true → v.pts * (s.basinAt i).m ≤ (s.basinAt i).epoch * (s.basinAt i).m + 10 * ((s.basinAt i).edges + 1)) →
      e.pbusy ≠ some b → w.back = false → quiet →
      ∃ t, exec (.frequencyStep b) s = .next t ∧
        t.basinAt b = { w with
          cyc := w.cyc + 1, ncyc := w.ncyc + inc w, m := w.pm, base := if w.pboost then w.base else w.pm, stepPend := false, pboost := false, lts := w.pts
          nstep := min (w.nstep + 1) (2 ^ 32 - 1), relock := w.relock || decide (w.pm ≠ w.m), relocks := if w.pm = w.m then w.relocks else (w.pts :: w.relocks).take 16, epoch := w.pts, edges := 0, tick := w.pts } ∧
        t.time = max e.time w.pts ∧ (∀ k, k ≠ b → t.basinAt k = e.basinAt k) ∧
        { t with basins := e.basins, cores := e.cores, slots := e.slots, time := e.time, gateReports := e.gateReports } = e) ∧
    (v.relock = true → v.lts + 1500 ≤ s.time → ∃ t, exec (.relockEnd b) s = .next t ∧ BasinNow s t b { v with relock := false })

/-! ### The sluice -/

/-- Descriptors and pools: a disabled ditch takes its fields, and its first segment as it is enabled, unless it has no home or no segment; an enabled one takes
EN, WIN and WEIGHT alone; the other words of a descriptor; a reset ditch is empty; a segment, an image or a save area joins its pool; HOLD; a region lies in the
grid; a ring is published, and adopted core by core and sluice unit by sluice unit (R25 to R30, R379 to R383, R387, Tables 13-1 and 13-2). The model's choices
stand in it: either headgate of the basin takes the writes (log entry 65), clearing EN ends the age of the head gang, and the free list is taken from and returned
to at its head (log entry 91). -/
def Obligations.SluiceControl : Prop :=
  ∀ (s : State) (b : Nat), b < 4 →
    let v := s.basinAt b
    (∀ (d : Nat), d < 256 →
      let q := s.ditchAt b d
      (s.basinAnswers b = true → ∀ w : W64,
        let x := w.toNat
        let mine := { q with win := x / 2 ^ 4 % 2 ^ 4, weight := x / 2 ^ 8 % 2 ^ 8 }
        let all := { mine with mode := w.getLsbD 1, share := w.getLsbD 2, asn := x / 2 ^ 16 % 2 ^ 16, home := x / 2 ^ 32 % 2 ^ 7 }
        (w.getLsbD 0 = false → ∃ t, exec (.ditchDescriptorWrite b d 0 w) s = .next t ∧
          DitchNow s t b d { (if q.en then mine else all) with en := false, age := none, aged := false, held := none }) ∧
        (w.getLsbD 0 = true → q.en = true → ∃ t, exec (.ditchDescriptorWrite b d 0 w) s = .next t ∧ DitchNow s t b d mine) ∧
        (w.getLsbD 0 = true → q.en = false → chipletsOf b ≤ all.home ∨ q.segs = [] ∧ v.free = [] → ∃ t, exec (.ditchDescriptorWrite b d 0 w) s = .next t ∧
          DitchNow s t b d all) ∧
        (w.getLsbD 0 = true → q.en = false → all.home < chipletsOf b → q.segs ≠ [] → ∃ t, exec (.ditchDescriptorWrite b d 0 w) s = .next t ∧
          DitchNow s t b d { all with en := true }) ∧
        ∀ a l, w.getLsbD 0 = true → q.en = false → all.home < chipletsOf b → q.segs = [] → v.free = a :: l → ∃ t, exec (.ditchDescriptorWrite b d 0 w) s = .next t ∧
          BasinNow s t b { v with ditches := mput v.ditches d { all with en := true, segs := [a], tail := a }, free := l }) ∧
      (∀ w : W64, s.basinAnswers b = true → q.en = false → ∃ t, exec (.ditchDescriptorWrite b d 1 w) s = .next t ∧ DitchNow s t b d { q with root := w.toNat % 2 ^ 48 }) ∧
      (∀ w : W64, s.basinAnswers b = true → ∃ t, exec (.ditchDescriptorWrite b d 4 w) s = .next t ∧ DitchNow s t b d { q with maxseg := w.toNat / 2 ^ 48 }) ∧
      (∀ w : W64, s.basinAnswers b = true → ∃ t, exec (.ditchDescriptorWrite b d 5 w) s = .next t ∧
        DitchNow s t b d { q with agelim := max 1000 (min (w.toNat % 2 ^ 30) 1000000000) }) ∧
      (∀ a, q.en = false → q.segs = [a] → v.traces = [] → ∃ t, exec (.ditchRst b d) s = .next t ∧
        DitchNow s t b d { q with recs := [], hinted := [], pushed := [], tail := a, age := none, aged := false, held := none })) ∧
    (∀ w : W64,
      let a := w.toNat % 2 ^ 48
      (a % 4096 = 0 → s.memoryOf b a 4096 = true → a ∉ v.free → (∀ e ∈ v.ditches, a ∉ e.2.segs) → s.waitq = [] → Stays s (a + 4032) 64 →
        s.retiredHome (a + 4032) = false → ∃ t, exec (.addseg b w) s = .next t ∧ t.basinAt b = { v with free := a :: v.free } ∧
          Written s.mem t.mem (a + 4032) 64 (eightWords [4#64, BitVec.ofNat 64 (v.free.headD 0)]) 0) ∧
      (a % 2048 = 0 → s.memoryOf b a 2048 = true → a ∉ v.images → (∀ e ∈ s.slots, e.2.busy = true → e.2.ctl.imga.toNat ≠ a) →
        a ∉ s.armedImgs → (∀ r ∈ s.awayRecs b, (r.getD 6 0#64).toNat ≠ a) →
        ∃ t, exec (.addimg b w) s = .next t ∧ BasinNow s t b { v with images := v.images ++ [a], passDue := true }) ∧
      (a % 2 ^ 16 = 0 → s.memoryOf b a (2 ^ 18) = true → ∃ t, exec (.addsave b w) s = .next t ∧ BasinNow s t b { v with savePool := v.savePool ++ [a] })) ∧
    (∀ w : W64, s.basinAnswers b = true → ∃ t, exec (.sluiceHoldWrite b w) s = .next t ∧ BasinNow s t b { v with
      hold := w.getLsbD 0, quant := w.toNat / 2 ^ 8 % 2 ^ 8, passDue := v.passDue || (v.hold && !w.getLsbD 0) }) ∧
    (∀ (k : Nat) (w : W64), s.basinAnswers b = true → 1 ≤ k → k < 16 →
      let r : Rect := ⟨w.toNat % 2 ^ 6, w.toNat / 2 ^ 8 % 2 ^ 6, w.toNat / 2 ^ 16 % 2 ^ 6, w.toNat / 2 ^ 24 % 2 ^ 6⟩
      ∃ t, exec (.regionWrite b k w) s = .next t ∧ BasinNow s t b { v with
        regions := mput v.regions k ⟨r, w.getLsbD 31 && decide (r.x + r.w ≤ gridW b) && decide (r.y + r.h ≤ gridH b)⟩ }) ∧
    (∀ w : W64, s.basinAnswers b = true → v.pend = false → w.toNat = (v.gen + 1) % 2 ^ 32 → ∃ t, exec (.rpubWrite b w) s = .next t ∧
      BasinNow s t b { v with gen := w.toNat, pend := true, passDue := true }) ∧
    let all := fun (core n : Nat) => (∀ k ∈ s.liveCores b, k = core ∨ (s.coreAt k).gen = v.gen) ∧ ∀ k ∈ computeSites b, k = n ∨ (s.siteAt k).gen = v.gen
    (∀ n, isCompute n = true → basinOf n = b → v.pend = true → s.awayRecs b = [] → ∃ t, exec (.generationAdopt (8192 + n)) s = .next t ∧ (t.siteAt n).gen = v.gen ∧
      (t.basinAt b).passDue = true ∧ ((t.basinAt b).pend = false ↔ all 8192 n)) ∧
    ∀ core, core < 8192 → coreBasin core = b → v.pend = true → s.awayRecs b = [] → s.coreLive core = true → ∃ t, exec (.generationAdopt core) s = .next t ∧
      t.coreAt core = { s.coreAt core with gen := v.gen, lcid := (s.logicalId core).getD (s.coreAt core).lcid } ∧
      (∀ n < 8, t.slotAt core n = if (s.slotAt core n).busy then { s.slotAt core n with route := List.replicate 8 0#64 } else s.slotAt core n) ∧
      ((t.basinAt b).pend = false ↔ all core 512)

/-- The sluice at work: a record is appended, at once or after a wait; a header that meets the conditions of Table 1-7 is accepted and leaves one record for each item, gang by
gang, once HOLD is 0; a dependant is submitted; a pass starts a new continuation of a bound group in a slot of its core; a share boundary frees the idle slots where no ditch has
records; a continuation that has retired leaves its slot idle and returns its image (R34, R380, R384, R386 to R388, R394, R397). -/
def Obligations.SluiceWork : Prop :=
  ∀ (s : State) (b : Nat),
    (∀ (a : Append) (r : List W64) (seg : Nat),
      let q := s.ditchAt b a.ditch
      s.appends = [a] → a.basin = b → a.kind = .launch ∨ a.kind = .writeback → a.recs = [r] → r.length = 8 → q.en = true → q.segs = [seg] → q.tail % 4096 ≠ 4032 →
      Stays s q.tail 64 → s.retiredHome q.tail = false → (a.kind = .launch → a.begun = true ∨ (s.basinAt b).hold = false) → (s.basinAt b).traces = [] → s.waitq = [] → s.leats = [] →
      (a.waiting = false → ∃ t, exec (.ditchAppend a.id) s = .next t ∧ Appended s t b a.ditch r) ∧
      (a.waiting = true → ∃ t, exec (.appendWaitResume b a.ditch) s = .next t ∧ Appended s t b a.ditch r)) ∧
    (∀ p : Submit,
      let h := s.memWords p.hdr 16
      s.submits = [p] → p.basin = b → p.accepted = false → p.leat = none → p.slot = 8 → p.sv = true → s.owned = [] → s.resv = [] →
      s.mem.errs = [] → s.retiredHome p.hdr = false → s.hdrRefusal b h = none → (s.ditchAt b (hdrDitch h)).en = true → s.launches = [] → hdrItems h ≠ 0 →
      ((s.basinAt b).hold = true → ∃ t, exec (.launchExpansion b) s = .next t ∧ t = { s with submits := [{ p with accepted := true, words := h }] }) ∧
      ((s.basinAt b).hold = false → ∃ t, exec (.launchExpansion b) s = .next t ∧ t.submits = [] ∧ t.launches = [⟨b, p.hdr, h, hdrItems h, false, []⟩] ∧ t.mem = s.mem ∧
        t.appends.map Append.recs = s.appends.map Append.recs ++ (List.range (hdrItems h / max 1 (hdrChunk h))).map (fun i =>
          (List.range (hdrChunk h)).map fun j => launchRecord h p.hdr (hdrChunk h * i + j)) ∧
        ∀ x ∈ t.appends, x ∈ s.appends ∨ x.ditch = hdrDitch h ∧ x.basin = b ∧ x.kind = .launch)) ∧
    (∀ (g : Signal) (pa e qa : Nat), s.signals = [g] → g.basin = b → g.req = none → g.next < g.count → (g.list + 8 * g.next) % 8 = 0 → s.mem.errs = [] →
      s.ditchXl b g.ditch (g.list + 8 * g.next) .read = (.ok pa, s) → s.retiredHome pa = false → s.mem.read pa 8 = e → e % 2 ^ 7 = 1 → e < 2 ^ 48 →
      inWindow (e - 1) = false → s.engineAt (unitSpace (s.unitCore b g.ditch) (s.ditchAt b g.ditch).asn (s.ditchAt b g.ditch).root) (e - 1) .read = (.ok qa, s) →
      ∃ t p, exec (.dependantSignal b) s = .next t ∧ t.signals = [{ g with next := g.next + 1 }] ∧ t.submits = s.submits ++ [p] ∧ p.hdr = qa ∧ p.basin = b ∧
        p.sv = false ∧ p.asn = (s.ditchAt b g.ditch).asn ∧ t.mem = s.mem) ∧
    (∀ (d a k n img : Nat) (q : Ditch) (l : Launch), (s.basinAt b).passDue = true →
      let u := s.setBasin b { s.basinAt b with passDue := false }
      let r := s.recAt a
      PlacesOn u b d a k n img q l → ∃ t, exec (.placementPass b) s = .next t ∧ t.mem = s.mem ∧ (t.ditchAt b d).recs = [] ∧
        (t.basinAt b).images = (s.basinAt b).images.drop 1 ∧
        let sl := t.slotAt k n
        sl.busy = true ∧ sl.pc = r.getD 2 0#64 ∧ sl.owner = d ∧ sl.record.drop 1 = r.drop 1 ∧ sl.ctl.wid = r.getD 1 0#64 ∧ sl.ctl.imga = BitVec.ofNat 64 img ∧
        sl.ctl.asn = BitVec.ofNat 64 q.asn ∧ sl.ctl.root = BitVec.ofNat 64 q.root ∧ sl.ctl.vcore = BitVec.ofNat 64 (u.recGroup b r).vc ∧
        sl.full = BitVec.allOnes 64 ∧ ∀ m < 64, mget sl.g m 0#128 =
          if m = 0 then (r.getD 1 0#64).setWidth 128 else if m < 4 then (r.getD (m + 2) 0#64).setWidth 128 else 0#128) ∧
    (b < 4 → (s.basinAt b).shared < s.time / 4096 * 4096 → (∀ e ∈ (s.basinAt b).ditches, e.2.recs = [] ∧ e.2.held = none) →
      ∃ t, exec (.shareBoundary b) s = .next t ∧ (t.basinAt b).shared = s.time / 4096 * 4096 ∧ (t.basinAt b).passDue = true ∧ t.mem = s.mem ∧
        ∀ core ∈ basinCores b, ∀ n < 7, t.slotAt core n = if (s.slotAt core n).busy then s.slotAt core n else { s.slotAt core n with owner := 0x100 }) ∧
    ∀ (core n : Nat) (l : Launch), n < 7 →
      let sl := s.slotAt core n
      sl.busy = true → sl.run = none → sl.failed = [] → sl.ending = some .retire → s.quiesced core n = true → s.heldFor core = none →
      s.launchOf (coreBasin core) sl.group.hdr = some l → 2 ≤ l.live →
      ∃ t l', exec (.suspensionComplete core n) s = .next t ∧ t.slotAt core n = { seq := sl.seq + 1, account := sl.account, owner := sl.owner } ∧
        (t.basinAt (coreBasin core)).images = (s.basinAt (coreBasin core)).images ++ [sl.ctl.imga.toNat] ∧
        t.launchOf (coreBasin core) sl.group.hdr = some l' ∧ l'.live = l.live - 1

/-! ### The ditch-rider -/

/-- Commands and the debug window at a slot that stands at a boundary: FREEZE and STOPT stop it, THAW, STARTT and ACKF let it go on at its program counter, at their
arrival and by the slot control word alike, whose accesses ungate the core as THAW and STARTT do; WRCTX and the context mirror write a word of a stopped slot; TLBINV drops the leaves it names; IDLE delivers the
count of queue 7; a packet enters the fault ring or is counted; the sump's window writes memory (R335, R364, R416, R417, R419, R420, R423, R424, R426, R427). -/
def Obligations.SlotCommands : Prop :=
  ∀ (s : State),
    (∀ (core n : Nat),
      let sl := s.slotAt core n
      let arrives := fun (c : SupCmd) => s.supCmds.find? (fun x => x.id == c.id) = some c ∧ s.supBehind c = false ∧ s.supLate c = false ∧ c.core = core ∧ c.slot = n
      let u := fun (c : SupCmd) => { s with supCmds := s.supCmds.filter fun x => decide (x.id ≠ c.id) }
      sl.busy = true → sl.run = none →
      (∀ k i f, HaltCommand core n k i f →
        (slotExists core n = true → ∃ t, exec i s = .next t ∧ SlotNow (s.ungate core) t core n (f sl)) ∧
        ∀ c, arrives c → c.kind = k → ∃ t, exec (.supervisorCommandArrival c.id) s = .next t ∧ SlotNow (u c) t core n (f sl)) ∧
      (∀ k i f w, ResumeCommand core n k i f w → AtBoundary (f sl) s core n → sl.look = none → sl.tailBit = false →
        let now := { (f sl) with
          look := some { addr := sl.pc, made := s.cyc core }
          looks := (sl.pc, s.cyc core) :: sl.looks.filter fun e => decide (s.cyc core ≤ e.2 + 256) }
        (slotExists core n = true → ∃ t, exec i s = .next t ∧ SlotNow (s.ungate core) t core n now) ∧
        ∀ c, arrives c → c.kind = k → ∃ t, exec (.supervisorCommandArrival c.id) s = .next t ∧
          SlotNow (if w then (u c).ungate core else u c) t core n now) ∧
      (sl.frz = true → ∀ w, w < 128 → sl.present.getLsbD (w / 8) = true →
        (∀ c, arrives c → c.kind = .wrctx → c.word = w → ∃ t sl', exec (.supervisorCommandArrival c.id) s = .next t ∧ SlotNow (u c) t core n sl' ∧
          RegWordSet sl sl' w c.val c.fe) ∧
        ∀ v, slotExists core n = true → s.answers (coreSite core) = true → ∃ t sl', exec (.contextMirrorWrite core n w v) s = .next t ∧ SlotNow (s.ungate core) t core n sl' ∧
          RegWordSet sl sl' w v (sl.full.getLsbD (w / 2))) ∧
      ∀ c, arrives c → c.kind = .tlbinv → ∃ t, exec (.supervisorCommandArrival c.id) s = .next t ∧
        ∀ k, coreBasin k = coreBasin core → ∀ e, e ∈ mget t.tlb1 k [] ↔ e ∈ mget s.tlb1 k [] ∧
          ¬(c.word.testBit 16 = true ∨ e.asn = c.word % 2 ^ 16 ∧ (c.word.testBit 17 = false ∨ e.vpn = c.word / 2 ^ 64 % 2 ^ 48 / 2 ^ 16))) ∧
    (∀ (c : Ctx) (since : Nat) (p : Pred) (a b : Option Target), WaitsAt s c since (.idle p a b) → Room c a b → (s.queueAt c.core 7).count ≠ 0 →
      ∃ t, exec (.idleDeliver c.core c.slot c.ix) s = .next t ∧
        Sends (s.ungate c.core) t c a b 2 { data := BitVec.ofNat 128 ((s.queueAt c.core 7).count % 2 ^ 16) } 0#6) ∧
    (∀ (p : Packet) (v : RecvQ), s.pkts = [p] → (∀ f, s.flightOf p.id = some f → s.wayHeld f = false) → (s.coreAt p.dest).queues[7]? = some v →
      (v.en = false ∨ v.room < 2 → ∃ t, exec (.faultPacketArrival p.id) s = .next t ∧
        QueueNow { s with pkts := [] } t p.dest 7 { v with nfull := min (v.nfull + 1) (2 ^ 32 - 1) }) ∧
      (v.en = true → 2 ≤ v.room → s.waitq = [] → (s.basinAt (coreBasin p.dest)).traces = [] →
        let line := fun i => slicePa p.dest + 64 * (v.base + (v.tail + i) % v.size)
        s.redirect (line 0) = line 0 → s.redirect (line 1) = line 1 → ∃ t, exec (.faultPacketArrival p.id) s = .next t ∧ t.pkts = [] ∧
          (t.coreAt p.dest).queues = (s.coreAt p.dest).queues.set 7 { v with tail := (v.tail + 2) % v.size, count := v.count + 1 } ∧
          ∀ k < 8, t.mem.read (line 1 + 8 * k) 8 = (p.words.getD k 0#64).toNat)) ∧
    ∀ (n off a : Nat) (v : W64), isCompute n = true → off < 0x20000 → off % 8 = 0 → (s.siteAt n).sump = [] → s.answers n = true → s.sumpPa n = some a →
      s.redirect (a + off) = a + off → s.mem.errs = [] → s.waitq = [] → ∃ t, exec (.sumpWindowWrite n off v) s = .next t ∧
      Written s.mem t.mem (a + off) 8 v.toNat 0 ∧ { t with mem := s.mem } = s

/-- Groups on the move: a group swapped out leaves its records with its ditch and a notice with the rider; a migration is refused by the number of the
first condition of R434 that holds, or goes through its
phases to the new core, line by line (the lines move at clock edges, see ClockEvents), and its redirection ends (R398, R434 to R436, Table 14-9a). -/
def Obligations.GroupMoves : Prop :=
  ∀ (s : State) (core : Nat), core < 8192 →
    let k := s.coreAt core
    (∀ (j : SwapJob) (w : Nat) (r : List W64), k.swap = some j → j.recs = [(w, r)] → s.holdsGroup core j.grp = false → s.enginesRest core = true →
      k.owns j.grp = false → hdrPlace (s.hdrWords (coreBasin core) j.grp.hdr) = 3 → j.slot < 8 →
      ∃ t a, exec (.swapoutComplete core) s = .next t ∧ (t.coreAt core).swap = none ∧ t.appends = s.appends ++ [a] ∧ a.recs = [r] ∧ a.ditch = recDitch r ∧
        a.kind = .writeback ∧ PacketSent s t (s.riderCore (coreSite j.src)) 0x42 0xB0 0 ∧ (t.basinAt (coreBasin core)).passDue = true) ∧
    (∀ c : SupCmd, s.supCmds = [c] → c.kind = .migr → c.core = core → c.slot < 7 → k.swap = none → (s.slotAt core c.slot).busy = true →
      let g := (s.slotAt core c.slot).group
      let refused := MoveRefused s core g (c.word % 2 ^ 16)
      (∀ i, refused i → (∀ j < i, ¬ refused j) → ∃ t, exec (.migrArrival c.id) s = .next t ∧ t.supCmds = [] ∧
        PacketSent s t (s.riderCore (coreSite c.src)) 0x42 0xA4 i) ∧
      (∀ d, s.logicalCoreIn (coreBasin core) k.gen (c.word % 2 ^ 16) = some d → (∀ i, ¬ refused i) → ∃ t, exec (.migrArrival c.id) s = .next t ∧
        (t.coreAt core).mig = some { grp := g, src := c.src, slot := c.slot } ∧ (t.coreAt core).phase = 1 ∧ (t.coreAt core).target = d ∧ (t.coreAt core).tgtId = c.word % 2 ^ 16 ∧
        ∀ n < 7, (s.slotAt core n).busy = true → (s.slotAt core n).group = g → (t.slotAt core n).ending.isSome = true)) ∧
    ∀ j : MigJob, k.mig = some j →
      (k.phase = 1 → s.enginesRest core = true →
        (∀ n < 7, (s.slotAt core n).busy = true → (s.slotAt core n).group = j.grp → (s.slotAt core n).run = none ∧ (s.slotAt core n).failed = [] ∧
          s.quiesced core n = true) →
        ∃ t, exec (.migrationQuiesce core) s = .next t ∧ CoreNow s t core { k with phase := 2 }) ∧
      (k.phase = 2 → k.owns j.grp = false → ∀ n, s.groupSlots core j.grp = [n] → ∃ t, exec (.migrationSave core) s = .next t ∧
        CoreNow (s.saveImage core n) t core { k with phase := 3 }) ∧
      (k.phase = 4 → k.target ≠ core → ∃ t, exec (.migrationCopy core) s = .next t ∧ (t.coreAt core).phase = 5 ∧ (t.coreAt core).rdir = k.rdir ∧
        (t.coreAt core).lmoved = k.lmoved ∧ (t.coreAt k.target).queues = k.queues.take 7 ++ (s.coreAt k.target).queues.drop 7) ∧
      (k.phase = 5 → k.target ≠ core → k.owns j.grp = false → ∀ n, s.groupSlots core j.grp = [n] →
        let a := s.slotAt core n
        a.run = none → a.failed = [] → a.deferFrz = false → a.deferStop = false → s.heldFor core = none → (s.slotAt k.target 0).busy = false → j.slot < 8 → ∃ t, exec (.migrationRestore core) s = .next t ∧
          (t.coreAt core).phase = 6 ∧ t.slotAt core n = { seq := a.seq + 1, account := a.account, owner := a.owner } ∧
          PacketSent s t (s.riderCore (coreSite j.src)) 0x42 0xB1 0 ∧
          let x := t.slotAt k.target 0
          x.busy = true ∧ x.pc = a.pc ∧ x.g = a.g ∧ x.full = a.full ∧ x.ctl = a.ctl ∧ x.record = a.record ∧ x.route = List.replicate 8 0#64) ∧
      (k.phase = 6 → ∃ t, exec (.rdirClear core) s = .next t ∧ t.coreAt core = { k with rdir := false, phase := 0, mig := none } ∧
        (t.basinAt (coreBasin core)).passDue = true ∧ t.mem = s.mem)

/-! ### Bring-up and configuration space -/

/-- Bring-up: power good, the end of phase 0, the wavefront's offers, the acceptance of one, clock lock, CONFIGURED, the memory clear, the seam pass, the tables
and the ring, and the start of the riders (R429, R440 to R448). -/
def Obligations.BringUp : Prop :=
  ∀ (s : State),
    (s.powered = false → ∃ t, exec .powerGood s = .next t ∧ t.powered = true ∧ t.time = 0 ∧ t.mem = s.mem ∧
      ∀ n < 484, siteExists n = true → t.siteAt n = { s.siteAt n with dbm := Nat.lor (s.siteAt n).dbm (Nat.lor (mget s.part.record n 0) (borderDead n)) }) ∧
    (∀ b < 4, s.powered = true → (s.basinAt b).phase = 0 → (s.basinAt b).tstart = 0 →
      let now := max 65536 s.time
      let g := s.part.grade.getD b 17
      s.upTo now = true → ∃ t, exec (.phase0End b) s = .next t ∧ t.time = now ∧
        (∀ n ∈ headgates b, (GateUp s n → (t.siteAt n).bst = 3 ∧ (t.siteAt n).hop = 0 ∧ (t.siteAt n).origin = n ∧ (t.siteAt n).tcfg = now) ∧
          ∀ c, GateFails s n c → (t.siteAt n).bst = 6 ∧ (t.siteAt n).fcode = c) ∧
        ((∃ n ∈ headgates b, GateUp s n) → t.basinAt b = { s.basinAt b with
          phase := 1, tstart := now, on := true, m := g, epoch := now, edges := 0, tick := now }) ∧
        ((∀ n ∈ headgates b, ¬ GateUp s n) → (∃ n ∈ headgates b, GateFails s n 0) → t.basinAt b = { s.basinAt b with phase := 5 }) ∧
        ((∀ n ∈ headgates b, ¬ GateUp s n) → (∀ n ∈ headgates b, ¬ GateFails s n 0) → t.basinAt b = { s.basinAt b with tstart := now })) ∧
    (∀ h, 0 < h → s.phase0Over = true → (∀ n, OffersAt s h n → s.upTo (s.siteAt n).tcfg = true) → (∀ n < 484, (s.siteAt n).bst ≠ 1 ∧ (s.siteAt n).bst ≠ 2 ∧ (s.siteAt n).offers = []) → ∃ t, exec (.wavefrontSlotStart h) s = .next t ∧
      ∀ n, OffersAt s h n → (t.siteAt n).bst = 4 ∧ ∀ e m, e < 4 → acrossEdge n e = some m → seamEdge n e = false → (s.siteAt m).bst = 0 →
        edgeBits (Nat.lor (s.siteAt n).dbm (mget s.part.defect n 0)) e ≠ 255 →
        ((s.siteAt n).hop + 1, (s.siteAt n).origin, facing e) ∈ (t.siteAt m).offers) ∧
    (∀ (n : Nat),
      let v := s.siteAt n
      let start := (s.basinAt (basinOf n)).tstart
      (∀ o ∈ v.offers, v.bst = 0 → (∀ b ∈ v.offers, b ≠ o → offerBefore o b = true) → s.upTo (start + 4096 * (o.1 - 1) + 256) = true → ∃ t, exec (.offerWindowClose n) s = .next t ∧
        SiteNow { s with time := max s.time (start + 4096 * (o.1 - 1) + 256) } t n { v with
          bst := 1, hop := o.1, origin := o.2.1, pedge := o.2.2, offers := [] }) ∧
      (v.bst = 1 → n ∉ s.part.noLock → ∃ t, exec (.clockLock n) s = .next t ∧ SiteNow s t n { v with bst := 2 }) ∧
      (v.bst = 1 → n ∈ s.part.noLock → ∃ t, exec (.clockLock n) s = .next t ∧ (t.siteAt n).bst = 6 ∧ (t.siteAt n).fcode = 1) ∧
      (v.bst = 2 → s.upTo (start + 4096 * v.hop) = true → mget s.part.fails n 0 ≠ 0 → ∃ t, exec (.siteConfigured n) s = .next t ∧
        (t.siteAt n).bst = 6 ∧ (t.siteAt n).fcode = if mget s.part.fails n 0 = 3 then 3 else 2) ∧
      (v.bst = 2 → s.upTo (start + 4096 * v.hop) = true → mget s.part.fails n 0 = 0 → ∃ t, exec (.siteConfigured n) s = .next t ∧
        SiteNow { s with time := max s.time (start + 4096 * v.hop) } t n { v with bst := 3, tcfg := start + 4096 * v.hop }) ∧
      (v.bst = 4 → s.upTo (v.tcfg + 4096 * clearSlots n) = true → s.badOf n = [] → ∃ t, exec (.memoryClearDone n) s = .next t ∧ (t.siteAt n).bst = 5 ∧ (t.siteAt n).trdy = v.tcfg + 4096 * clearSlots n ∧
        (∀ a, t.mem.byte a = if n * 2 ^ 37 ≤ a ∧ a < (n + 1) * 2 ^ 37 then 0#8 else s.mem.byte a) ∧
        ∀ w, t.mem.full w = if n * 2 ^ 34 ≤ w ∧ w < (n + 1) * 2 ^ 34 then true else s.mem.full w)) ∧
    (s.powered = true → (∀ b < 4, s.phase1Over b = true) → (∃ b, b < 4 ∧ (s.basinAt b).phase = 1) → s.upTo s.phase1End = true →
      ∃ t, exec .seamPass s = .next t ∧ t.time = max s.time s.phase1End ∧
      (∀ b < 4, (t.basinAt b).phase = if (s.basinAt b).phase = 1 then 2 else (s.basinAt b).phase) ∧
      ∀ n e m, n < 484 → siteExists n = true → e < 4 → acrossEdge n e = some m → seamEdge n e = true → ¬((s.siteAt n).bst = 5 ∧ (s.siteAt m).bst = 5) →
        edgeBits (t.siteAt n).dbm e = 255) ∧
    (∀ b, (s.basinAt b).phase = 2 → s.waitq = [] → s.upTo (s.phase1End + 4096) = true → ∃ t, exec (.tablesPhase b) s = .next t ∧
      t.time = max s.time (s.phase1End + 4096) ∧
      (let v := s.basinAt b
      let g := s.part.grade.getD b 17
      t.basinAt b = { v with
        bank0 := (t.liveCores b).length :: (t.liveCores b).map physIndex, gen := 0, pend := false, phase := 3, m := g, base := g, bmax := g
        epoch := if v.m = g then v.epoch else v.tick, edges := if v.m = g then v.edges else 0 }) ∧
      ∀ n < 484, basinOf n = b → siteExists n = true → (s.siteAt n).bst = 5 → (t.siteAt n).nst = (s.nstTable n).1 ∧
        (isCompute n = true → (t.siteAt n).live = s.liveOf n ∧ (t.siteAt n).rider = riderOf (s.liveOf n))) ∧
    ∀ b, (s.basinAt b).phase = 3 → ∃ t, exec (.coresRelease b) s = .next t ∧
      t.basinAt b = { s.basinAt b with phase := 4, tdone := s.time } ∧
      ∀ k ∈ s.liveCores b, (t.slotAt k 7).busy = true ∧ (t.slotAt k 7).pc.toNat = s.mem.read (s.redirect (s.riderImage k + 1024)) 8 % 2 ^ 48

/-- Configuration space: an offset without a register takes no write; a register that only reads keeps its value; dead-bond maps, hint ditches, interleave descriptors
and the state of an M chiplet are written; a test port reads and writes as a supervisor does (R44, R203, R213, R216, R438, R444). -/
def Obligations.ConfigurationSpace : Prop :=
  ∀ (s : State),
    (∀ (n off : Nat) (v : W64),
      (s.answers n = false ∨ regAt n off = none ∨ regAt n off = some .header ∨ regAt n off = some .compute → exec (.configWrite n off v) s = .next s) ∧
      (s.answers n = true → regAt n off = some (.bringUp 1) → ∃ t, exec (.configWrite n off v) s = .next t ∧
        SiteNow s t n { s.siteAt n with dbm := Nat.lor (v.toNat % 2 ^ 32) (borderDead n) }) ∧
      (s.answers n = true → regAt n off = some (.siteSluice 0) → ∃ t, exec (.configWrite n off v) s = .next t ∧
        SiteNow s t n { s.siteAt n with hditch := v.toNat % 2 ^ 8 })) ∧
    (∀ (n a : Nat) (v : W64), siteKind n = .headgate → paSpace a = 3 → a < 2 ^ 48 → basinOf (paSite a) = basinOf n → siteExists (paSite a) = true →
      let tap := fun (w : Bool) (v : W64) => mput s.taps n { ir := 0x40#8, dr := BitVec.ofNat 129 (packed [(a, 0), (asBit w, 64), (v.toNat, 65)]) }
      (∃ u, exec (.configWrite (paSite a) (paOff a) v) s = .next u ∧ exec (.cfgacc n a true v) s = .next { u with taps := tap true v }) ∧
      ∃ t, exec (.cfgacc n a false v) s = .next t ∧ t = { s.cfgTouch (paSite a) (paOff a) with taps := tap false (s.cfgRead (paSite a) (paOff a)) }) ∧
    (∀ (b d : Nat) (v : W64), b < 4 → d < 16 → s.basinAnswers b = true → (∀ q ∈ s.reqs, q.id ∈ s.waitq → q.rgn ≠ some d) →
      let i := mget (s.basinAt b).interleave d {}
      let x := v.toNat
      let becomes := fun (k : Nat) (j : Interleave) => ∃ t, exec (.interleaveDescriptorWrite b (0x80 * d + 8 * k) v) s = .next t ∧
        BasinNow s t b { s.basinAt b with interleave := mput (s.basinAt b).interleave d j }
      (i.valid = false → becomes 0 { i with
        valid := v.getLsbD 0 && decide (1 ≤ x / 2 % 32 ∧ x / 2 % 32 ≤ 30), div := x / 2 % 32, lbase := x / 2 ^ 16 % 2 ^ 32 }) ∧
      (i.valid = false → becomes 1 { i with lsize := x % 2 ^ 32 }) ∧
      (i.valid = true → v.getLsbD 0 = false → becomes 0 { i with valid := false, div := x / 2 % 32, lbase := x / 2 ^ 16 % 2 ^ 32 })) ∧
    ∀ (n : Nat) (v : W64), siteKind n = .memory → s.answers n = true → v.toNat % 4 ≠ 3 → (s.siteAt n).mstate ≠ 2 → (∀ q ∈ s.reqs, q.id ∈ s.waitq → paSite q.pa ≠ n) → ∃ t, exec (.mChipletStateWrite n v) s = .next t ∧
      SiteNow s t n { s.siteAt n with mstate := v.toNat % 4 }

/-! ### The leat, links and health -/

/-- The leat: a frame in the form that MODE selects is taken, or refused with NAK, and any other counted as bad; WRITE and READ perform their accesses of up to 16 bytes in turn and are answered at the last;
DITCHW and LAUNCH act and are answered; host writes are acknowledged and sent
again; LINK follows the cable (R450 to R453, Tables 16-1 and 16-2). -/
def Obligations.LeatRequests : Prop :=
  ∀ (s : State) (n : Nat) (f : Frame),
    let p := s.leatAt n
    (siteKind n = .hostLink → p.en = true →
      (f.good p.mode = false → ∃ t, exec (.leatFrameReceive n f) s = .next t ∧ LeatNow s t n { p with badf := min (p.badf + 1) (2 ^ 32 - 1) }) ∧
      (f.good p.mode = true → f.op ≠ 8 → f.seq = p.expseq → ∃ t, exec (.leatFrameReceive n f) s = .next t ∧
        LeatNow s t n { p with expseq := (p.expseq + 1) % 2 ^ 32, jobs := p.jobs ++ [{ seq := f.seq, frame := f }] }) ∧
      (f.good p.mode = true → f.op ≠ 8 → p.expseq < 2 ^ 32 → f.seq = (p.expseq + 1) % 2 ^ 32 → ∃ t, exec (.leatFrameReceive n f) s = .next t ∧
        LeatNow { s with leatOut := s.leatOut ++ [(n, carried s n (replyFrame 0xA p.expseq 0 0 0 []))] } t n { p with naks := min (p.naks + 1) (2 ^ 32 - 1) })) ∧
    (siteKind n = .hostLink → ∀ w, ∃ t, exec (.leatLinkChange n w) s = .next t ∧ LeatNow s t n { p with link := w }) ∧
    (∀ (k : Nat) (ws : List W64),
      let a := f.addr + k
      (AskedUpTo s n 1 f k ws →
        let m := min (16 - a % 16) (f.len - k)
        let put := (f.payload.drop (k / 8)).take (m / 8)
        (f.fe = 3 → ∃ t, exec (.leatWrite n f) s = .next t ∧ Answered s t n (f.compl 6)) ∧
        (f.fe ≠ 3 → s.leatAddrOk true n a (max 8 (f.len - k)) = false → ∃ t, exec (.leatWrite n f) s = .next t ∧ Answered s t n (f.compl 1) ∧ t.mem = s.mem) ∧
        (f.fe ≠ 3 → s.leatAddrOk true n a (max 8 (f.len - k)) = true → s.leatHeld n a m = false → paSpace a = 0 → s.waitq = [] → s.mem.errs = [] →
          s.redirect a = a → ∃ t, exec (.leatWrite n f) s = .next t ∧ CameTo s t n 1 f f.len (k + m) [] (f.compl 0) ∧
            Written s.mem t.mem a (8 * put.length) (wordsAsBytes put) 0 ∧
            Marked s.mem t.mem (if f.fe = 0 then [] else (List.range put.length).map fun k => a / 8 + k) (decide (f.fe = 1)))) ∧
      (AskedUpTo s n 2 f k ws → k < f.rlen → 8 ≤ f.rlen → f.rlen ≤ 4096 → f.rlen % 8 = 0 →
        let m := min (16 - a % 16) (f.rlen - k)
        (s.leatAddrOk false n a (f.rlen - k) = false → ∃ t, exec (.leatRead n f) s = .next t ∧ Answered s t n (f.compl 1) ∧ t.mem = s.mem) ∧
        (s.leatAddrOk false n a (f.rlen - k) = true → s.leatHeld n a m = false → paSpace a = 0 → s.mem.errs = [] → s.redirect a = a →
          let got := ws ++ (List.range (m / 8)).map fun k => BitVec.ofNat 64 (s.mem.read (a + 8 * k) 8)
          ∃ t, exec (.leatRead n f) s = .next t ∧ t.mem = s.mem ∧ CameTo s t n 2 f f.rlen (k + m) got (f.rdata got)))) ∧
    (AskedOf s n 3 f →
      ((s.ditchAt f.basin f.ditch).en = false → ∃ t, exec (.leatDitchw n f) s = .next t ∧ Answered s t n (f.compl 4)) ∧
      ((s.ditchAt f.basin f.ditch).en = true → ∃ t a, exec (.leatDitchw n f) s = .next t ∧ t.appends = s.appends ++ [a] ∧ a.basin = f.basin ∧ a.ditch = f.ditch ∧
        a.kind = .leat ∧ a.recs = (List.range (f.payload.length / 8)).map (fun k => (f.payload.drop (8 * k)).take 8) ∧ t.leatOut = s.leatOut)) ∧
    (AskedOf s n 4 f → paSpace f.addr = 0 → s.leatAddrOk false n f.addr 8 = true → ∃ t q, exec (.leatLaunch n f) s = .next t ∧ t.submits = s.submits ++ [q] ∧
      q.hdr = f.addr ∧ q.basin = basinOf (paSite f.addr) ∧ q.leat = some (n, f.seq, f.tag)) ∧
    ∀ h : HostWrite, s.hostWrites = [h] → h.port = n →
      (∃ t, exec (.hostComplArrival n h.seq) s = .next t ∧ t.hostWrites = [] ∧
        ∀ k r, mget? (s.copyAt h.core).active k = some r → mget? (t.copyAt h.core).active k =
          some (if r.cmd.id = h.cmd then { r with
            out := r.out.filter fun x => decide (x.id ≠ h.id), bdone := r.bdone + ((r.out.filter fun x => decide (x.id = h.id)).map Sent.bytes).sum } else r)) ∧
      (h.sentAt + 100000 ≤ s.time → ∃ t, exec (.hostWriteRetransmit n h.seq) s = .next t ∧
        t = { s with leatOut := s.leatOut ++ [(n, carried s n h.frame)], hostWrites := [{ h with sentAt := s.time }] })

/-- Management over the leat: STATUS, ATTEST, IDENT, FWCHUNK, FWCOMMIT and RESTART are answered and act, and a restart ends by clearing HOLD in every basin (R454, R461,
Table 16-2a). -/
def Obligations.Management : Prop :=
  ∀ (s : State) (n : Nat) (f : Frame),
    (AskedOf s n 5 f → s.restart = false → s.waitq = [] →
      (f.sub = 1 → ∃ t, exec (.mgmtStatus n f) s = .next t ∧ t.mem = s.mem ∧
        Answered s t n (f.rdata ((List.range 4).map fun b => BitVec.ofNat 64 (s.basinAt b).phase))) ∧
      (f.sub = 2 → f.payload.length = 5 → ∃ t, exec (.mgmtAttest n f) s = .next t ∧
        let m := s.measurement n
        Answered s t n (f.rdata (m ++ Config.sm2Sign (Config.sm3 (wordBytes (f.payload.drop 1 ++ m)))))) ∧
      (f.sub = 3 → ∃ t, exec (.mgmtIdent n f) s = .next t ∧ Answered s t n (f.rdata Config.moduleIdentity)) ∧
      (f.sub = 4 → 2 ≤ f.payload.length → ∃ t, exec (.mgmtFwchunk n f) s = .next t ∧ Answered s t n (f.compl 0) ∧
        let a := (f.payload.getD 1 0#64).toNat
        ∀ i, mget t.stage i 0#8 = if a ≤ i ∧ i < a + 8 * (f.payload.length - 2) then
            BitVec.ofNat 8 ((f.payload.getD (2 + (i - a) / 8) 0#64).toNat / 256 ^ ((i - a) % 8))
          else mget s.stage i 0#8) ∧
      (f.sub = 5 → ∃ t, exec (.mgmtFwcommit n f) s = .next t ∧
        (Config.fwPasses (storeBytes s.stage) = false → Answered s t n (f.compl 6) ∧ t.boots = s.boots) ∧
        (Config.fwPasses (storeBytes s.stage) = true → Answered s t n (f.compl 0) ∧ (∀ b < 4, ∀ h ∈ headgates b, mget t.boots h [] = s.stage) ∧
          (s.halted = true → ∀ b < 4, (t.basinAt b).phase = 0 ∧ (t.basinAt b).tstart = 0) ∧
          (s.halted = false → t.restart = true ∧ ∀ b < 4, (t.basinAt b).hold = true))) ∧
      (f.sub = 6 → ∃ t, exec (.mgmtRestart n f) s = .next t ∧ Answered s t n (f.compl 0) ∧ t.restart = true ∧ ∀ b < 4, (t.basinAt b).hold = true)) ∧
    (s.restart = true → ∃ t, exec .restartComplete s = .next t ∧ t.restart = false ∧ ∀ b < 4, (t.basinAt b).hold = false ∧ (t.basinAt b).passDue = true)

/-- Scale-up links: a flit that passes its checks is kept, one that fails them is answered with NAK and counts towards eight; ACK frees the flits up to its SEQ and
NAK those before its own, whose successors go on the link again unchanged; keys, width, training and EN; what waits is encrypted, numbered, sent and kept (R457 to R460, Table 16-4). -/
def Obligations.ScaleUpLinks : Prop :=
  ∀ (s : State) (n : Nat), n < 128 →
    let p := s.linkAt n
    (s.linkUp n = true →
      (∀ fl : LinkFlit, fl.seq.toNat = p.rxSeq →
        let key := if fl.ks then p.key1 else p.key0
        let salt := BitVec.ofNat 64 (if fl.ks then p.salt1 else p.salt0)
        let ctr := if fl.ks then p.rx1 else p.rx0
        let w := Config.linkDecrypt key salt ctr fl.words
        (Config.linkCrc w ≠ fl.crc ∨ Config.linkTag key salt ctr fl.words ≠ fl.tag → p.rxNak < 7 → ∃ t, exec (.linkFlitReceive n fl) s = .next t ∧
          LinkNow s t n { p with rxNak := p.rxNak + 1, naksOut := p.naksOut ++ [p.rxSeq] }) ∧
        (Config.linkCrc w = fl.crc → Config.linkTag key salt ctr fl.words = fl.tag → fl.nak = false → p.replay = [] → ∃ t, exec (.linkFlitReceive n fl) s = .next t ∧
          ((w.headD 0#64).toNat / 2 ^ 50 % 2 ^ 4 + 1 < (w.headD 0#64).toNat / 2 ^ 46 % 2 ^ 4 → LinkNow s t n { p with
            rxSeq := (p.rxSeq + 1) % 4096, rxNak := 0, rx0 := if fl.ks then p.rx0 else p.rx0 + 1, rx1 := if fl.ks then p.rx1 + 1 else p.rx1
            part := p.part ++ [w] }))) ∧
      (∀ q, (∃ g ∈ p.replay, g.seq = q) → p.waiting = [] → ∃ t, exec (.linkAckReceive n q) s = .next t ∧
        LinkNow s t n { p with replay := p.replay.filter (fun g => decide (g.seq ≠ q) && !seqBefore g.seq q), nakRun := 0 }) ∧
      (∀ q, (∃ g ∈ p.replay, g.seq = q) → p.nakRun = 0 ∨ p.nakSeq ≠ q → p.waiting = [] → ∃ t, exec (.linkNakReceive n q) s = .next t ∧
        let left := p.replay.filter fun g => !seqBefore g.seq q
        LinkNow s t n { p with
          replay := left, out := p.out ++ left.map (onWire p), nakr := min (p.nakr + 1) (2 ^ 32 - 1), nakSeq := q, nakRun := 1 })) ∧
    (s.answers (portSite n) = true → ∀ v : W64,
      (p.txks = true → (∀ g ∈ p.replay, g.ks = true) → ∃ t, exec (.keySlotWrite n 1 v) s = .next t ∧
        LinkNow s t n { p with key0 := p.key0.set 0 v, tx0 := 0, rx0 := 0 }) ∧
      (p.txks = false → ∃ t, exec (.keySlotWrite n 1 v) s = .next t ∧ t = s) ∧
      (∃ t, exec (.txksWrite n v) s = .next t ∧ LinkNow s t n { p with txks := v.getLsbD 0 })) ∧
    (∀ v : W64, s.answers (portSite n) = true → v.getLsbD 0 = true → p.width = 2 → p.tw = none → (s.basinAt (basinOf (portSite n))).stepPend = false → ∃ t, exec (.wreqWrite n v) s = .next t ∧
      LinkNow s t n { p with wreq := true, tw := some ((s.time + 4096 + 1023) / 1024 * 1024), twWidth := 1 }) ∧
    (p.width = 2 → p.lost = false → p.tw = none → (s.basinAt (basinOf (portSite n))).stepPend = false → ∃ t, exec (.laneLockLoss n) s = .next t ∧
      LinkNow s t n { p with lost := true, tw := some ((s.time + 4096 + 1023) / 1024 * 1024), twWidth := 1 }) ∧
    (∀ a, p.tw = some a → s.upTo a = true → ∃ t, exec (.widthChange n) s = .next t ∧ t.time = max s.time a ∧ t.linkAt n = { p with width := p.twWidth, tw := none, stopTo := a + 512 }) ∧
    (∀ v : W64, s.answers (portSite n) = true → p.en = false → v.getLsbD 0 = true → ∃ t, exec (.portEnWrite n v) s = .next t ∧ LinkNow s t n { p with en := true, training := true }) ∧
    (∀ v : W64, s.answers (portSite n) = true → p.en = true → v.getLsbD 0 = false → p.waiting = [] → s.waitq = [] → ∃ t, exec (.portEnWrite n v) s = .next t ∧ (t.linkAt n).en = false ∧ (t.linkAt n).width = 0 ∧
      (t.linkAt n).replay = [] ∧ ∀ m ∈ t.peerOut, m.port ≠ n) ∧
    ∀ two k, p.training = true →
      let up := { p with training := false, width := if two then 2 else 1, lost := !two, rmod := k % 65536 }
      (p.waiting = [] → ∃ t, exec (.linkTrainingDone n two k) s = .next t ∧ LinkNow s t n up) ∧
      ∀ m w, p.waiting = [m] → m.flits = [w] → p.en = true → p.replay.length < 512 → ∃ t, exec (.linkTrainingDone n two k) s = .next t ∧
        let key := if p.txks then p.key1 else p.key0
        let salt := BitVec.ofNat 64 (if p.txks then p.salt1 else p.salt0)
        let ctr := if p.txks then p.tx1 else p.tx0
        let c := Config.linkEncrypt key salt ctr w
        let f : SentFlit := ⟨p.txSeq, p.txks, ctr, m.id, c, Config.linkCrc w, Config.linkTag key salt ctr c⟩
        LinkNow s t n { up with
          waiting := [], replay := p.replay ++ [f], out := p.out ++ [onWire p f], txSeq := (p.txSeq + 1) % 4096
          tx0 := if p.txks then p.tx0 else p.tx0 + 1, tx1 := if p.txks then p.tx1 + 1 else p.tx1 }

/-- The power arbiter, margin monitors, trace sessions and the replay port: an average above PLIM steps the fastest basin down, a step to BMAX that waits first; a sample is kept, and low ones are counted; a
session opens empty; a traced command runs again (R462, R463, R465 to R468). -/
def Obligations.HealthUnits : Prop :=
  ∀ (s : State),
    (∀ (a b : Nat), (s.pwin + 1) * 64000 ≤ s.time → s.pbusy = none → s.pdue ≤ s.time → a < 65536 →
      let asks := fun (m : Nat) (lower : List Nat) => ∃ t, exec (.powerWindow a) s = .next t ∧
        t = { s with
          pavg := a, pwin := s.pwin + 1, nextId := s.nextId + 1, pbusy := some b, plower := lower
          stepReqs := s.stepReqs ++ [⟨s.nextId, b, m, 0, .power, gatePos b, s.time⟩] }
      (s.plower = [b] → (s.basinAt b).bmax < (s.basinAt b).m → asks (s.basinAt b).bmax []) ∧
      (s.plower = [] → s.plim * 10 < a → s.fastest = some b → asks ((s.basinAt b).m - 1) [])) ∧
    (∀ (b a : Nat), b < 4 → (s.basinAt b).msamp * 1000000 + 1000000 ≤ s.time → (s.basinAt b).mrow < 1023 → ∃ t, exec (.marginSample b a) s = .next t ∧
      let v := s.basinAt b
      BasinNow s t b { v with mmin := min a 63, mrow := if min a 63 < v.mthr then v.mrow + 1 else 0, msamp := v.msamp + 1 }) ∧
    (∀ (b n : Nat) (v : W64), b < 4 → n < 4 → s.basinAnswers b = true →
      let x := v.toNat
      let e := mget (s.basinAt b).traces n {}
      e.en = false → v.getLsbD 0 = true → x / 2 % 8 ≤ 4 → ∃ t, exec (.traceSessionWrite b n 0 v) s = .next t ∧
        BasinNow s t b { s.basinAt b with traces := mput (s.basinAt b).traces n { e with
          en := true, src := x / 2 % 8, snum := x / 2 ^ 4 % 2 ^ 8, site := x / 2 ^ 12 % 2 ^ 9, core := x / 2 ^ 21 % 2 ^ 4
          head := 0, tail := 0, count := 0, owed := [] } }) ∧
    ∀ (core : Nat), s.coreLive core = true → (s.coreAt core).replay.busy = false → (s.coreAt core).owner = none → (∀ n < 7, (s.slotAt core n).busy = false) →
      let k := s.coreAt core
      let ws := s.memWords k.replay.ent 16
      ((ws.getD 0 0#64).toNat % 2 ^ 4 ≠ 2 → ∃ t, exec (.replayGo core) s = .next t ∧ CoreNow s t core { k with replay := { k.replay with cause := 1 } }) ∧
      ∀ c, (ws.getD 0 0#64).toNat % 2 ^ 4 = 2 → s.cmdOfEntry core ⟨core, false, k.replay.asn, k.replay.root, 0⟩ (ws.drop 8) = some c → c.kind.engine = .matrix →
        s.engineEmpty core .matrix = true → s.tagRoom core [c.tag] = true → ∃ t, exec (.replayGo core) s = .next t ∧
          (t.matAt core).intake = [{ c with id := s.nextId, slot := 8, rp := true }] ∧ (t.coreAt core).replay.busy = true ∧ (t.coreAt core).replay.cause = 0 ∧
          (t.coreAt core).replay.done = false

/-! ### The whole machine -/

/-- What the Reset columns give: TIME, CYC and NCYC 0; every site DARK and basin in phase 0; TAGS all ones; the thread controls of Table 5-5; disabled queues, cells,
ditches with their windows and ageing limits, interleave descriptors and trace sessions; CLIM; the limits of health; every word of memory full. -/
def Obligations.ResetValues : Prop :=
  let s := State.reset
  s.time = 0 ∧
  (∀ n, (s.siteAt n).bst = 0 ∧ (s.siteAt n).trdy = 0 ∧ (s.siteAt n).nbad = 0 ∧ (s.siteAt n).hditch = 0 ∧ (s.siteAt n).mstate = 0 ∧ ∀ d, s.nstEntry n d = 3) ∧
  (∀ b, (s.basinAt b).phase = 0 ∧ (s.basinAt b).cyc = 0 ∧ (s.basinAt b).ncyc = 0 ∧ (s.basinAt b).stepPend = false ∧ (s.basinAt b).lts = 0 ∧
    (s.basinAt b).nstep = 0 ∧ (s.basinAt b).nref = 0 ∧ (s.basinAt b).free = [] ∧ (s.basinAt b).images = [] ∧ (s.basinAt b).resv = 64 ∧
    (s.basinAt b).hold = false ∧ (s.basinAt b).quant = 1 ∧ (s.basinAt b).mthr = 4 ∧ (s.basinAt b).mmin = 63 ∧ (s.basinAt b).nrpl = 0 ∧
    (∀ n, (s.cellAt b n).en = false ∧ (s.cellAt b n).count = 0 ∧ (s.cellAt b n).gen = 0) ∧
    (∀ d, (s.ditchAt b d).en = false ∧ (s.ditchAt b d).win = 7 ∧ (s.ditchAt b d).weight = 0 ∧ (s.ditchAt b d).agelim = 100000 ∧ (s.ditchAt b d).recs = []) ∧
    (∀ d, (mget (s.basinAt b).interleave d {}).valid = false) ∧ ∀ n, (mget (s.basinAt b).traces n {}).en = false) ∧
  (∀ k, (s.coreAt k).tags = BitVec.allOnes 64 ∧ (s.coreAt k).ce = 0 ∧ (s.coreAt k).ue = 0 ∧ (s.copyAt k).clim = 1000 ∧ (s.copyAt k).cause = 0 ∧
    (s.matAt k).halt = false ∧ (s.matAt k).flg = 0#6 ∧ (∀ j, mget (s.matAt k).acc j {} = {}) ∧ ∀ q, (s.queueAt k q).en = false ∧ (s.queueAt k q).count = 0) ∧
  (∀ k n, let c := (s.slotAt k n).ctl
    c.fpc = 0#64 ∧ c.fpf = 0#64 ∧ c.nanm = 0#64 ∧ c.mfmt = 0x33#64 ∧ c.msca = 0x3F80#64 ∧ c.mscb = 0x3F80#64 ∧ c.seg = 0#64 ∧ c.wlim = 0x186A0#64 ∧
      c.hvc = 6#64) ∧
  s.plim = 220 ∧ (∀ n, (s.linkAt n).en = false ∧ (s.linkAt n).nakr = 0) ∧ (∀ n, (s.leatAt n).expseq = 0 ∧ (s.leatAt n).badf = 0) ∧ (∀ w, s.mem.full w = true) ∧
  ∀ w, mget? s.mem.errs w = none

/-- Memory after reset is in its canonical form. -/
def Obligations.ResetMemoryInv : Prop := MemoryInv State.reset

/-- Every step keeps memory in its canonical form, from every state that has it: addresses strictly rise, and nothing listed equals what an unlisted address
reads as. -/
def Obligations.StepKeepsMemoryInv : Prop := ∀ s t, MemoryInv s → step s = .next t → MemoryInv t

/-- Decoding and encoding agree: the word of every well-formed instruction with an encoding decodes to it, and every word that decodes to an instruction is
the word of a well-formed one, of the length its bit 0 gives (R49, R52 to R62). -/
def Obligations.EncodedDecodes : Prop :=
  (∀ i nbits w, i.wf = true → encode i = some (nbits, w) → w < 2 ^ nbits ∧ decodeWord w = .ok i ∧ decodeTableWord nbits w = some i) ∧
  ∀ w i, w < (if w % 2 = 0 then 2 ^ 16 else 2 ^ 32) → decodeWord w = .ok i → i.wf = true ∧ encode i = some (if w % 2 = 0 then 16 else 32, w)

/-- The words of the manual's worked encodings decode to the instructions it gives, and block bump (Table 2-17) passes every check. -/
def Obligations.WorkedEncodings : Prop :=
  (∀ e ∈ workedWords, decodeWord e.1 = .ok e.2 ∧ decodeTableWord (if e.1 % 2 = 0 then 16 else 32) e.1 = some e.2) ∧
  decodeBlock false 0x00000E210002006A bumpBody = .ok (⟨6, 2, 1, 1, 14⟩, [0x44411441, 0x0108C301, 0x00050CA1, 0x45840469, 0x0000C709, 0x00001851, 0x00000031],
    [.read 5#6 (some ⟨.l, 1#6⟩) (some ⟨.l, 4#6⟩), .ld .always .n64 0#4 0#6 (some ⟨.l, 2#6⟩), .addi .always 1#14 (some ⟨.l, 3#6⟩),
      .mov .always (some ⟨.r, 4#6⟩) (some ⟨.l, 5#6⟩), .st .always .n64 1#4 0#6, .write 6#6, .retire .always 0#3])

/-- A step takes the first act of the agenda. An event acts as exec of it. A firing acts as exec of the instruction that the word of its index decodes to, in the
state that names it, and then the tail of its block is looked at; one that the turn of its core does not hold changes nothing. An empty
agenda changes nothing. (The agenda is the model's own: log entry 1.) -/
def Obligations.StepRunsActs : Prop :=
  ∀ (s : State) (l : List Act),
    (s.agenda = [] → step s = .next s) ∧
    (∀ i, s.agenda = .ev i :: l → step s = exec i { s with agenda := l }) ∧
    ∀ core slot ix, s.agenda = .fire core slot ix :: l →
      let u := { s with agenda := l }
      (u.mayFire core slot ix = false → step s = .next u) ∧
      ∀ r w i, u.mayFire core slot ix = true → u.runAt core slot = some r → r.words[ix]? = some w → decodeWord w = .ok i →
        let v := u.atFire core slot ix
        (∀ t, exec i v = .next t → step s = .next (t.fired core slot)) ∧ (∀ f, exec i v = .fault f → step s = .fault f) ∧
          (∀ f, exec i v = .refused f → step s = .refused f) ∧
          v.cur = some ⟨core, slot, ix⟩ ∧ v.runAt core slot = some r ∧ v.mem = s.mem ∧ v.reqs = s.reqs ∧ v.time = s.time

/-- Firing never touches memory or a register of any thread, but for the register of a WRITE in the tail: stores, atomics and commands act at their homes and
engines, and other register writes at commit (R149, R152, R155). -/
def Obligations.FiringKeepsState : Prop :=
  ∀ (i : Instr) (s t : State), encode i ≠ none → exec i s = .next t →
    t.mem.cells = s.mem.cells ∧ t.mem.empties = s.mem.empties ∧
    ∀ core slot m, m < 64 → (s.slotAt core slot).present.getLsbD (m / 4) = true → (∀ n f, i = .write n → s.cur = some f → slotKey f.core f.slot = slotKey core slot → m ≠ n.toNat) →
      mget (t.slotAt core slot).g m 0#128 = mget (s.slotAt core slot).g m 0#128 ∧ (t.slotAt core slot).full.getLsbD m = (s.slotAt core slot).full.getLsbD m

/-- In user mode a block with a supervisor form, or with RDC or WRC of a control register from 32 to 47, is illegal with cause 0x0A at such an instruction; every
other block is legal or illegal in both modes alike (R66, R69). -/
def Obligations.SupervisorRefused : Prop :=
  ∀ (hd : Nat) (body : List Nat) (h : Header) (ws : List Nat) (is : List Instr),
    (decodeBlock false hd body = .ok (h, ws, is) ↔ decodeBlock true hd body = .ok (h, ws, is) ∧ ∀ i ∈ is, ¬SupervisorOnly i) ∧
    (decodeBlock true hd body = .ok (h, ws, is) → (∃ i ∈ is, SupervisorOnly i) →
      ∃ n i, decodeBlock false hd body = .error (.privileged, n) ∧ is[n]? = some i ∧ SupervisorOnly i ∧ ∀ m < n, ∀ j, is[m]? = some j → ¬SupervisorOnly j)
end

