-- ==== Sys2Proof/Laws/Map.lean ====
section
/-! SUPPORT. Laws of sparse maps and sorted sets: reading after writing, and that the canonical form is kept. -/

namespace Sys2Proof.Machine

variable {α : Type}

/-! ### Reading after writing -/

theorem mget?_mput (m : SMap α) (k j : Nat) (v : α) : mget? (mput m k v) j = if k = j then some v else mget? m j := by
  induction m with
  | nil => simp [mput, mget?]
  | cons e m ih =>
    obtain ⟨a, x⟩ := e
    simp only [mput]
    split
    · subst_vars; simp only [mget?]; split <;> simp_all
    · split
      · simp only [mget?]
      · simp only [mget?, ih]; split <;> split <;> simp_all

theorem mget?_mdel (m : SMap α) (k j : Nat) : mget? (mdel m k) j = if k = j then none else mget? m j := by
  induction m with
  | nil => simp [mdel, mget?]
  | cons e m ih =>
    obtain ⟨a, x⟩ := e
    simp only [mdel]
    split
    · subst_vars; simp only [ih, mget?]; split <;> simp_all
    · simp only [mget?, ih]; split <;> split <;> simp_all

@[simp] theorem mget?_mput_same (m : SMap α) (k : Nat) (v : α) : mget? (mput m k v) k = some v := by simp [mget?_mput]

@[simp] theorem mget_mput_same (m : SMap α) (k : Nat) (v d : α) : mget (mput m k v) k d = v := by simp [mget]

theorem mget_mput_ne (m : SMap α) {k j : Nat} (v d : α) (h : k ≠ j) : mget (mput m k v) j d = mget m j d := by
  simp [mget, mget?_mput, h]

theorem mget_mput (m : SMap α) (k j : Nat) (v d : α) : mget (mput m k v) j d = if k = j then v else mget m j d := by
  by_cases h : k = j
  · simp [h]
  · simp [h, mget_mput_ne]

@[simp] theorem mget_nil (k : Nat) (d : α) : mget ([] : SMap α) k d = d := rfl

theorem mget_mset [DecidableEq α] (d : α) (m : SMap α) (k j : Nat) (v : α) :
    mget (mset d m k v) j d = if k = j then v else mget m j d := by
  unfold mset
  by_cases hv : v = d
  · subst hv; by_cases h : k = j <;> simp [mget, mget?_mdel, h]
  · simp [hv, mget_mput]

/-! ### Keys rising -/

theorem mrising_iff (m : SMap α) : mrising m = true ↔ m.Pairwise fun a b => a.1 < b.1 := by
  induction m with
  | nil => simp [mrising]
  | cons a m ih =>
    cases m with
    | nil => simp [mrising]
    | cons b m =>
      simp only [mrising, Bool.and_eq_true, decide_eq_true_eq, ih, List.pairwise_cons]
      constructor
      · rintro ⟨h, hb, hm⟩
        refine ⟨?_, hb, hm⟩
        intro c hc
        rcases List.mem_cons.1 hc with rfl | hc
        · exact h
        · exact Nat.lt_trans h (hb c hc)
      · rintro ⟨ha, hb, hm⟩
        exact ⟨ha b (by simp), hb, hm⟩

theorem mem_mput {m : SMap α} {k : Nat} {v : α} {e : Nat × α} (h : e ∈ mput m k v) : e = (k, v) ∨ e ∈ m := by
  induction m with
  | nil => simpa [mput] using h
  | cons a m ih =>
    simp only [mput] at h
    split at h
    · rcases List.mem_cons.1 h with h | h <;> simp_all
    · split at h
      · rcases List.mem_cons.1 h with h | h <;> simp_all
      · rcases List.mem_cons.1 h with h | h
        · simp [h]
        · rcases ih h with h | h <;> simp [h]

theorem mem_mdel {m : SMap α} {k : Nat} {e : Nat × α} (h : e ∈ mdel m k) : e ∈ m := by
  induction m with
  | nil => simp [mdel] at h
  | cons a m ih =>
    simp only [mdel] at h
    split at h
    · exact List.mem_cons_of_mem _ (ih h)
    · rcases List.mem_cons.1 h with h | h
      · simp [h]
      · simp [ih h]

theorem mrising_mput {m : SMap α} (k : Nat) (v : α) (h : mrising m = true) : mrising (mput m k v) = true := by
  rw [mrising_iff] at *
  induction m with
  | nil => simp [mput]
  | cons e m ih =>
    obtain ⟨a, x⟩ := e
    obtain ⟨ha, hm⟩ := List.pairwise_cons.1 h
    simp only [mput]
    split
    · rename_i hk; subst hk; exact List.pairwise_cons.2 ⟨ha, hm⟩
    · split
      · rename_i hk
        refine List.pairwise_cons.2 ⟨?_, h⟩
        intro c hc
        rcases List.mem_cons.1 hc with rfl | hc
        · exact hk
        · exact Nat.lt_trans hk (ha c hc)
      · refine List.pairwise_cons.2 ⟨?_, ih hm⟩
        intro c hc
        rcases mem_mput hc with rfl | hc
        · show a < k; omega
        · exact ha c hc

theorem mrising_mdel {m : SMap α} (k : Nat) (h : mrising m = true) : mrising (mdel m k) = true := by
  rw [mrising_iff] at *
  induction m with
  | nil => simp [mdel]
  | cons e m ih =>
    obtain ⟨ha, hm⟩ := List.pairwise_cons.1 h
    simp only [mdel]
    split
    · exact ih hm
    · exact List.pairwise_cons.2 ⟨fun c hc => ha c (mem_mdel hc), ih hm⟩

theorem mrising_filter {m : SMap α} (p : Nat × α → Bool) (h : mrising m = true) : mrising (m.filter p) = true := by
  rw [mrising_iff] at *; exact h.filter p

/-! ### Sorted sets -/

theorem srising_iff (l : List Nat) : srising l = true ↔ l.Pairwise (· < ·) := by
  induction l with
  | nil => simp [srising]
  | cons a l ih =>
    cases l with
    | nil => simp [srising]
    | cons b l =>
      simp only [srising, Bool.and_eq_true, decide_eq_true_eq, ih, List.pairwise_cons]
      constructor
      · rintro ⟨h, hb, hl⟩
        refine ⟨?_, hb, hl⟩
        intro c hc
        rcases List.mem_cons.1 hc with rfl | hc
        · exact h
        · exact Nat.lt_trans h (hb c hc)
      · rintro ⟨ha, hb, hl⟩
        exact ⟨ha b (by simp), hb, hl⟩

@[simp] theorem mem_sins (l : List Nat) (k j : Nat) : j ∈ sins l k ↔ j = k ∨ j ∈ l := by
  induction l with
  | nil => simp [sins]
  | cons a l ih =>
    simp only [sins]
    split
    · subst_vars; simp
    · split
      · simp
      · simp only [List.mem_cons, ih]; tauto

@[simp] theorem mem_sdel (l : List Nat) (k j : Nat) : j ∈ sdel l k ↔ j ≠ k ∧ j ∈ l := by
  induction l with
  | nil => simp [sdel]
  | cons a l ih =>
    simp only [sdel]
    split
    · subst_vars; simp only [ih, List.mem_cons]; tauto
    · simp only [List.mem_cons, ih]
      constructor
      · rintro (rfl | h)
        · exact ⟨by assumption, .inl rfl⟩
        · exact ⟨h.1, .inr h.2⟩
      · rintro ⟨h, rfl | h'⟩
        · exact .inl rfl
        · exact .inr ⟨h, h'⟩

theorem srising_sins {l : List Nat} (k : Nat) (h : srising l = true) : srising (sins l k) = true := by
  rw [srising_iff] at *
  induction l with
  | nil => simp [sins]
  | cons a l ih =>
    obtain ⟨ha, hl⟩ := List.pairwise_cons.1 h
    simp only [sins]
    split
    · exact h
    · split
      · rename_i hk
        refine List.pairwise_cons.2 ⟨?_, h⟩
        intro c hc
        rcases List.mem_cons.1 hc with rfl | hc
        · exact hk
        · exact Nat.lt_trans hk (ha c hc)
      · refine List.pairwise_cons.2 ⟨?_, ih hl⟩
        intro c hc
        rcases (mem_sins l k c).1 hc with rfl | hc
        · omega
        · exact ha c hc

theorem srising_sdel {l : List Nat} (k : Nat) (h : srising l = true) : srising (sdel l k) = true := by
  rw [srising_iff] at *
  induction l with
  | nil => simp [sdel]
  | cons a l ih =>
    obtain ⟨ha, hl⟩ := List.pairwise_cons.1 h
    simp only [sdel]
    split
    · exact ih hl
    · exact List.pairwise_cons.2 ⟨fun c hc => ha c ((mem_sdel l k c).1 hc).2, ih hl⟩

theorem srising_filter {l : List Nat} (p : Nat → Bool) (h : srising l = true) : srising (l.filter p) = true := by
  rw [srising_iff] at *; exact h.filter p

/-- A property of lists kept by each insertion is kept by a fold of insertions. -/
theorem foldl_keeps {β γ : Type} (P : γ → Prop) (f : γ → β → γ) (hf : ∀ c b, P c → P (f c b)) (l : List β) (c : γ) (h : P c) :
    P (l.foldl f c) := by
  induction l generalizing c with
  | nil => exact h
  | cons b l ih => exact ih _ (hf c b h)

/-! ### Lists -/

theorem getElem?_lset (l : List α) (n j : Nat) (v : α) : (lset l n v)[j]? = if n = j then (l[j]?).map fun _ => v else l[j]? := by
  induction l generalizing n j with
  | nil => simp [lset]
  | cons x l ih =>
    cases n with
    | zero => cases j <;> simp [lset]
    | succ n => cases j <;> simp [lset, ih]

@[simp] theorem length_lset (l : List α) (n : Nat) (v : α) : (lset l n v).length = l.length := by
  induction l generalizing n with
  | nil => simp [lset]
  | cons x l ih => cases n <;> simp [lset, ih]

theorem getD_lset_ne (l : List α) {n j : Nat} (v d : α) (h : n ≠ j) : (lset l n v).getD j d = l.getD j d := by
  simp [List.getD, getElem?_lset, h]

theorem getD_lset_same (l : List α) {n : Nat} (v d : α) (h : n < l.length) : (lset l n v).getD n d = v := by
  rw [List.getD, getElem?_lset]; simp [h]

end Sys2Proof.Machine
end

