-- ==== Sys2Proof/Laws/State.lean ====
section
/-! SUPPORT. What each update of the state leaves of each field, and what it changes, one lemma per field and update. -/

namespace Sys2Proof.Machine

variable (s : State)

theorem slotKey_inj {c q c' q' : Nat} (h : q < 8) (h' : q' < 8) (e : slotKey c q = slotKey c' q') : c = c' ∧ q = q' := by
  simp only [slotKey] at e; omega

/-! ### setSlot -/

@[simp] theorem State.setSlot_agenda (c q : Nat) (v : Slot) : (s.setSlot c q v).agenda = s.agenda := rfl
@[simp] theorem State.setSlot_cur (c q : Nat) (v : Slot) : (s.setSlot c q v).cur = s.cur := rfl
@[simp] theorem State.setSlot_nextId (c q : Nat) (v : Slot) : (s.setSlot c q v).nextId = s.nextId := rfl
@[simp] theorem State.setSlot_powered (c q : Nat) (v : Slot) : (s.setSlot c q v).powered = s.powered := rfl
@[simp] theorem State.setSlot_time (c q : Nat) (v : Slot) : (s.setSlot c q v).time = s.time := rfl
@[simp] theorem State.setSlot_mem (c q : Nat) (v : Slot) : (s.setSlot c q v).mem = s.mem := rfl
@[simp] theorem State.setSlot_slots (c q : Nat) (v : Slot) : (s.setSlot c q v).slots = mput s.slots (slotKey c q) v := rfl
@[simp] theorem State.setSlot_cores (c q : Nat) (v : Slot) : (s.setSlot c q v).cores = s.cores := rfl
@[simp] theorem State.setSlot_sites (c q : Nat) (v : Slot) : (s.setSlot c q v).sites = s.sites := rfl
@[simp] theorem State.setSlot_basins (c q : Nat) (v : Slot) : (s.setSlot c q v).basins = s.basins := rfl
@[simp] theorem State.setSlot_stores (c q : Nat) (v : Slot) : (s.setSlot c q v).stores = s.stores := rfl
@[simp] theorem State.setSlot_ports (c q : Nat) (v : Slot) : (s.setSlot c q v).ports = s.ports := rfl
@[simp] theorem State.setSlot_tlb1 (c q : Nat) (v : Slot) : (s.setSlot c q v).tlb1 = s.tlb1 := rfl
@[simp] theorem State.setSlot_tlb2 (c q : Nat) (v : Slot) : (s.setSlot c q v).tlb2 = s.tlb2 := rfl
@[simp] theorem State.setSlot_misses (c q : Nat) (v : Slot) : (s.setSlot c q v).misses = s.misses := rfl
@[simp] theorem State.setSlot_reqs (c q : Nat) (v : Slot) : (s.setSlot c q v).reqs = s.reqs := rfl
@[simp] theorem State.setSlot_waitq (c q : Nat) (v : Slot) : (s.setSlot c q v).waitq = s.waitq := rfl
@[simp] theorem State.setSlot_replies (c q : Nat) (v : Slot) : (s.setSlot c q v).replies = s.replies := rfl
@[simp] theorem State.setSlot_resv (c q : Nat) (v : Slot) : (s.setSlot c q v).resv = s.resv := rfl
@[simp] theorem State.setSlot_owned (c q : Nat) (v : Slot) : (s.setSlot c q v).owned = s.owned := rfl
@[simp] theorem State.setSlot_ownReqs (c q : Nat) (v : Slot) : (s.setSlot c q v).ownReqs = s.ownReqs := rfl
@[simp] theorem State.setSlot_withdrawals (c q : Nat) (v : Slot) : (s.setSlot c q v).withdrawals = s.withdrawals := rfl
@[simp] theorem State.setSlot_results (c q : Nat) (v : Slot) : (s.setSlot c q v).results = s.results := rfl
@[simp] theorem State.setSlot_fills (c q : Nat) (v : Slot) : (s.setSlot c q v).fills = s.fills := rfl
@[simp] theorem State.setSlot_pkts (c q : Nat) (v : Slot) : (s.setSlot c q v).pkts = s.pkts := rfl
@[simp] theorem State.setSlot_supCmds (c q : Nat) (v : Slot) : (s.setSlot c q v).supCmds = s.supCmds := rfl
@[simp] theorem State.setSlot_qmsgs (c q : Nat) (v : Slot) : (s.setSlot c q v).qmsgs = s.qmsgs := rfl
@[simp] theorem State.setSlot_recvs (c q : Nat) (v : Slot) : (s.setSlot c q v).recvs = s.recvs := rfl
@[simp] theorem State.setSlot_appends (c q : Nat) (v : Slot) : (s.setSlot c q v).appends = s.appends := rfl
@[simp] theorem State.setSlot_pops (c q : Nat) (v : Slot) : (s.setSlot c q v).pops = s.pops := rfl
@[simp] theorem State.setSlot_submits (c q : Nat) (v : Slot) : (s.setSlot c q v).submits = s.submits := rfl
@[simp] theorem State.setSlot_launches (c q : Nat) (v : Slot) : (s.setSlot c q v).launches = s.launches := rfl
@[simp] theorem State.setSlot_signals (c q : Nat) (v : Slot) : (s.setSlot c q v).signals = s.signals := rfl
@[simp] theorem State.setSlot_arrivals (c q : Nat) (v : Slot) : (s.setSlot c q v).arrivals = s.arrivals := rfl
@[simp] theorem State.setSlot_reports (c q : Nat) (v : Slot) : (s.setSlot c q v).reports = s.reports := rfl
@[simp] theorem State.setSlot_stepReqs (c q : Nat) (v : Slot) : (s.setSlot c q v).stepReqs = s.stepReqs := rfl
@[simp] theorem State.setSlot_gateReports (c q : Nat) (v : Slot) : (s.setSlot c q v).gateReports = s.gateReports := rfl
@[simp] theorem State.setSlot_asleep (c q : Nat) (v : Slot) : (s.setSlot c q v).asleep = s.asleep := rfl
@[simp] theorem State.setSlot_saves (c q : Nat) (v : Slot) : (s.setSlot c q v).saves = s.saves := rfl
@[simp] theorem State.setSlot_foldImgs (c q : Nat) (v : Slot) : (s.setSlot c q v).foldImgs = s.foldImgs := rfl
@[simp] theorem State.setSlot_armedImgs (c q : Nat) (v : Slot) : (s.setSlot c q v).armedImgs = s.armedImgs := rfl
@[simp] theorem State.setSlot_mymod (c q : Nat) (v : Slot) : (s.setSlot c q v).mymod = s.mymod := rfl
@[simp] theorem State.setSlot_links (c q : Nat) (v : Slot) : (s.setSlot c q v).links = s.links := rfl
@[simp] theorem State.setSlot_leats (c q : Nat) (v : Slot) : (s.setSlot c q v).leats = s.leats := rfl
@[simp] theorem State.setSlot_hostWrites (c q : Nat) (v : Slot) : (s.setSlot c q v).hostWrites = s.hostWrites := rfl
@[simp] theorem State.setSlot_leatOut (c q : Nat) (v : Slot) : (s.setSlot c q v).leatOut = s.leatOut := rfl
@[simp] theorem State.setSlot_peerOut (c q : Nat) (v : Slot) : (s.setSlot c q v).peerOut = s.peerOut := rfl
@[simp] theorem State.setSlot_taps (c q : Nat) (v : Slot) : (s.setSlot c q v).taps = s.taps := rfl
@[simp] theorem State.setSlot_plim (c q : Nat) (v : Slot) : (s.setSlot c q v).plim = s.plim := rfl
@[simp] theorem State.setSlot_pavg (c q : Nat) (v : Slot) : (s.setSlot c q v).pavg = s.pavg := rfl
@[simp] theorem State.setSlot_pbusy (c q : Nat) (v : Slot) : (s.setSlot c q v).pbusy = s.pbusy := rfl
@[simp] theorem State.setSlot_pdown (c q : Nat) (v : Slot) : (s.setSlot c q v).pdown = s.pdown := rfl
@[simp] theorem State.setSlot_plower (c q : Nat) (v : Slot) : (s.setSlot c q v).plower = s.plower := rfl
@[simp] theorem State.setSlot_pdue (c q : Nat) (v : Slot) : (s.setSlot c q v).pdue = s.pdue := rfl
@[simp] theorem State.setSlot_pwin (c q : Nat) (v : Slot) : (s.setSlot c q v).pwin = s.pwin := rfl
@[simp] theorem State.setSlot_part (c q : Nat) (v : Slot) : (s.setSlot c q v).part = s.part := rfl
@[simp] theorem State.setSlot_boots (c q : Nat) (v : Slot) : (s.setSlot c q v).boots = s.boots := rfl
@[simp] theorem State.setSlot_stage (c q : Nat) (v : Slot) : (s.setSlot c q v).stage = s.stage := rfl
@[simp] theorem State.setSlot_restart (c q : Nat) (v : Slot) : (s.setSlot c q v).restart = s.restart := rfl
@[simp] theorem State.setSlot_mats (c q : Nat) (v : Slot) : (s.setSlot c q v).mats = s.mats := rfl
@[simp] theorem State.setSlot_copies (c q : Nat) (v : Slot) : (s.setSlot c q v).copies = s.copies := rfl
@[simp] theorem State.setSlot_hvs (c q : Nat) (v : Slot) : (s.setSlot c q v).hvs = s.hvs := rfl
@[simp] theorem State.setSlot_coreAt (c q : Nat) (v : Slot) (j : Nat) : (s.setSlot c q v).coreAt j = s.coreAt j := rfl
@[simp] theorem State.setSlot_siteAt (c q : Nat) (v : Slot) (j : Nat) : (s.setSlot c q v).siteAt j = s.siteAt j := rfl
@[simp] theorem State.setSlot_basinAt (c q : Nat) (v : Slot) (j : Nat) : (s.setSlot c q v).basinAt j = s.basinAt j := rfl
@[simp] theorem State.setSlot_matAt (c q : Nat) (v : Slot) (j : Nat) : (s.setSlot c q v).matAt j = s.matAt j := rfl
@[simp] theorem State.setSlot_copyAt (c q : Nat) (v : Slot) (j : Nat) : (s.setSlot c q v).copyAt j = s.copyAt j := rfl
@[simp] theorem State.setSlot_hvAt (c q : Nat) (v : Slot) (j : Nat) : (s.setSlot c q v).hvAt j = s.hvAt j := rfl

/-! ### setCore -/

@[simp] theorem State.setCore_agenda (k : Nat) (v : Core) : (s.setCore k v).agenda = s.agenda := rfl
@[simp] theorem State.setCore_cur (k : Nat) (v : Core) : (s.setCore k v).cur = s.cur := rfl
@[simp] theorem State.setCore_nextId (k : Nat) (v : Core) : (s.setCore k v).nextId = s.nextId := rfl
@[simp] theorem State.setCore_powered (k : Nat) (v : Core) : (s.setCore k v).powered = s.powered := rfl
@[simp] theorem State.setCore_time (k : Nat) (v : Core) : (s.setCore k v).time = s.time := rfl
@[simp] theorem State.setCore_mem (k : Nat) (v : Core) : (s.setCore k v).mem = s.mem := rfl
@[simp] theorem State.setCore_slots (k : Nat) (v : Core) : (s.setCore k v).slots = s.slots := rfl
@[simp] theorem State.setCore_cores (k : Nat) (v : Core) : (s.setCore k v).cores = mput s.cores k v := rfl
@[simp] theorem State.setCore_sites (k : Nat) (v : Core) : (s.setCore k v).sites = s.sites := rfl
@[simp] theorem State.setCore_basins (k : Nat) (v : Core) : (s.setCore k v).basins = s.basins := rfl
@[simp] theorem State.setCore_stores (k : Nat) (v : Core) : (s.setCore k v).stores = s.stores := rfl
@[simp] theorem State.setCore_ports (k : Nat) (v : Core) : (s.setCore k v).ports = s.ports := rfl
@[simp] theorem State.setCore_tlb1 (k : Nat) (v : Core) : (s.setCore k v).tlb1 = s.tlb1 := rfl
@[simp] theorem State.setCore_tlb2 (k : Nat) (v : Core) : (s.setCore k v).tlb2 = s.tlb2 := rfl
@[simp] theorem State.setCore_misses (k : Nat) (v : Core) : (s.setCore k v).misses = s.misses := rfl
@[simp] theorem State.setCore_reqs (k : Nat) (v : Core) : (s.setCore k v).reqs = s.reqs := rfl
@[simp] theorem State.setCore_waitq (k : Nat) (v : Core) : (s.setCore k v).waitq = s.waitq := rfl
@[simp] theorem State.setCore_replies (k : Nat) (v : Core) : (s.setCore k v).replies = s.replies := rfl
@[simp] theorem State.setCore_resv (k : Nat) (v : Core) : (s.setCore k v).resv = s.resv := rfl
@[simp] theorem State.setCore_owned (k : Nat) (v : Core) : (s.setCore k v).owned = s.owned := rfl
@[simp] theorem State.setCore_ownReqs (k : Nat) (v : Core) : (s.setCore k v).ownReqs = s.ownReqs := rfl
@[simp] theorem State.setCore_withdrawals (k : Nat) (v : Core) : (s.setCore k v).withdrawals = s.withdrawals := rfl
@[simp] theorem State.setCore_results (k : Nat) (v : Core) : (s.setCore k v).results = s.results := rfl
@[simp] theorem State.setCore_fills (k : Nat) (v : Core) : (s.setCore k v).fills = s.fills := rfl
@[simp] theorem State.setCore_pkts (k : Nat) (v : Core) : (s.setCore k v).pkts = s.pkts := rfl
@[simp] theorem State.setCore_supCmds (k : Nat) (v : Core) : (s.setCore k v).supCmds = s.supCmds := rfl
@[simp] theorem State.setCore_qmsgs (k : Nat) (v : Core) : (s.setCore k v).qmsgs = s.qmsgs := rfl
@[simp] theorem State.setCore_recvs (k : Nat) (v : Core) : (s.setCore k v).recvs = s.recvs := rfl
@[simp] theorem State.setCore_appends (k : Nat) (v : Core) : (s.setCore k v).appends = s.appends := rfl
@[simp] theorem State.setCore_pops (k : Nat) (v : Core) : (s.setCore k v).pops = s.pops := rfl
@[simp] theorem State.setCore_submits (k : Nat) (v : Core) : (s.setCore k v).submits = s.submits := rfl
@[simp] theorem State.setCore_launches (k : Nat) (v : Core) : (s.setCore k v).launches = s.launches := rfl
@[simp] theorem State.setCore_signals (k : Nat) (v : Core) : (s.setCore k v).signals = s.signals := rfl
@[simp] theorem State.setCore_arrivals (k : Nat) (v : Core) : (s.setCore k v).arrivals = s.arrivals := rfl
@[simp] theorem State.setCore_reports (k : Nat) (v : Core) : (s.setCore k v).reports = s.reports := rfl
@[simp] theorem State.setCore_stepReqs (k : Nat) (v : Core) : (s.setCore k v).stepReqs = s.stepReqs := rfl
@[simp] theorem State.setCore_gateReports (k : Nat) (v : Core) : (s.setCore k v).gateReports = s.gateReports := rfl
@[simp] theorem State.setCore_asleep (k : Nat) (v : Core) : (s.setCore k v).asleep = s.asleep := rfl
@[simp] theorem State.setCore_saves (k : Nat) (v : Core) : (s.setCore k v).saves = s.saves := rfl
@[simp] theorem State.setCore_foldImgs (k : Nat) (v : Core) : (s.setCore k v).foldImgs = s.foldImgs := rfl
@[simp] theorem State.setCore_armedImgs (k : Nat) (v : Core) : (s.setCore k v).armedImgs = s.armedImgs := rfl
@[simp] theorem State.setCore_mymod (k : Nat) (v : Core) : (s.setCore k v).mymod = s.mymod := rfl
@[simp] theorem State.setCore_links (k : Nat) (v : Core) : (s.setCore k v).links = s.links := rfl
@[simp] theorem State.setCore_leats (k : Nat) (v : Core) : (s.setCore k v).leats = s.leats := rfl
@[simp] theorem State.setCore_hostWrites (k : Nat) (v : Core) : (s.setCore k v).hostWrites = s.hostWrites := rfl
@[simp] theorem State.setCore_leatOut (k : Nat) (v : Core) : (s.setCore k v).leatOut = s.leatOut := rfl
@[simp] theorem State.setCore_peerOut (k : Nat) (v : Core) : (s.setCore k v).peerOut = s.peerOut := rfl
@[simp] theorem State.setCore_taps (k : Nat) (v : Core) : (s.setCore k v).taps = s.taps := rfl
@[simp] theorem State.setCore_plim (k : Nat) (v : Core) : (s.setCore k v).plim = s.plim := rfl
@[simp] theorem State.setCore_pavg (k : Nat) (v : Core) : (s.setCore k v).pavg = s.pavg := rfl
@[simp] theorem State.setCore_pbusy (k : Nat) (v : Core) : (s.setCore k v).pbusy = s.pbusy := rfl
@[simp] theorem State.setCore_pdown (k : Nat) (v : Core) : (s.setCore k v).pdown = s.pdown := rfl
@[simp] theorem State.setCore_plower (k : Nat) (v : Core) : (s.setCore k v).plower = s.plower := rfl
@[simp] theorem State.setCore_pdue (k : Nat) (v : Core) : (s.setCore k v).pdue = s.pdue := rfl
@[simp] theorem State.setCore_pwin (k : Nat) (v : Core) : (s.setCore k v).pwin = s.pwin := rfl
@[simp] theorem State.setCore_part (k : Nat) (v : Core) : (s.setCore k v).part = s.part := rfl
@[simp] theorem State.setCore_boots (k : Nat) (v : Core) : (s.setCore k v).boots = s.boots := rfl
@[simp] theorem State.setCore_stage (k : Nat) (v : Core) : (s.setCore k v).stage = s.stage := rfl
@[simp] theorem State.setCore_restart (k : Nat) (v : Core) : (s.setCore k v).restart = s.restart := rfl
@[simp] theorem State.setCore_mats (k : Nat) (v : Core) : (s.setCore k v).mats = s.mats := rfl
@[simp] theorem State.setCore_copies (k : Nat) (v : Core) : (s.setCore k v).copies = s.copies := rfl
@[simp] theorem State.setCore_hvs (k : Nat) (v : Core) : (s.setCore k v).hvs = s.hvs := rfl
@[simp] theorem State.setCore_slotAt (k : Nat) (v : Core) (j p : Nat) : (s.setCore k v).slotAt j p = s.slotAt j p := rfl
@[simp] theorem State.setCore_siteAt (k : Nat) (v : Core) (j : Nat) : (s.setCore k v).siteAt j = s.siteAt j := rfl
@[simp] theorem State.setCore_basinAt (k : Nat) (v : Core) (j : Nat) : (s.setCore k v).basinAt j = s.basinAt j := rfl
@[simp] theorem State.setCore_matAt (k : Nat) (v : Core) (j : Nat) : (s.setCore k v).matAt j = s.matAt j := rfl
@[simp] theorem State.setCore_copyAt (k : Nat) (v : Core) (j : Nat) : (s.setCore k v).copyAt j = s.copyAt j := rfl
@[simp] theorem State.setCore_hvAt (k : Nat) (v : Core) (j : Nat) : (s.setCore k v).hvAt j = s.hvAt j := rfl

/-! ### setSite -/

@[simp] theorem State.setSite_agenda (n : Nat) (v : Site) : (s.setSite n v).agenda = s.agenda := rfl
@[simp] theorem State.setSite_cur (n : Nat) (v : Site) : (s.setSite n v).cur = s.cur := rfl
@[simp] theorem State.setSite_nextId (n : Nat) (v : Site) : (s.setSite n v).nextId = s.nextId := rfl
@[simp] theorem State.setSite_powered (n : Nat) (v : Site) : (s.setSite n v).powered = s.powered := rfl
@[simp] theorem State.setSite_time (n : Nat) (v : Site) : (s.setSite n v).time = s.time := rfl
@[simp] theorem State.setSite_mem (n : Nat) (v : Site) : (s.setSite n v).mem = s.mem := rfl
@[simp] theorem State.setSite_slots (n : Nat) (v : Site) : (s.setSite n v).slots = s.slots := rfl
@[simp] theorem State.setSite_cores (n : Nat) (v : Site) : (s.setSite n v).cores = s.cores := rfl
@[simp] theorem State.setSite_sites (n : Nat) (v : Site) : (s.setSite n v).sites = mput s.sites n v := rfl
@[simp] theorem State.setSite_basins (n : Nat) (v : Site) : (s.setSite n v).basins = s.basins := rfl
@[simp] theorem State.setSite_stores (n : Nat) (v : Site) : (s.setSite n v).stores = s.stores := rfl
@[simp] theorem State.setSite_ports (n : Nat) (v : Site) : (s.setSite n v).ports = s.ports := rfl
@[simp] theorem State.setSite_tlb1 (n : Nat) (v : Site) : (s.setSite n v).tlb1 = s.tlb1 := rfl
@[simp] theorem State.setSite_tlb2 (n : Nat) (v : Site) : (s.setSite n v).tlb2 = s.tlb2 := rfl
@[simp] theorem State.setSite_misses (n : Nat) (v : Site) : (s.setSite n v).misses = s.misses := rfl
@[simp] theorem State.setSite_reqs (n : Nat) (v : Site) : (s.setSite n v).reqs = s.reqs := rfl
@[simp] theorem State.setSite_waitq (n : Nat) (v : Site) : (s.setSite n v).waitq = s.waitq := rfl
@[simp] theorem State.setSite_replies (n : Nat) (v : Site) : (s.setSite n v).replies = s.replies := rfl
@[simp] theorem State.setSite_resv (n : Nat) (v : Site) : (s.setSite n v).resv = s.resv := rfl
@[simp] theorem State.setSite_owned (n : Nat) (v : Site) : (s.setSite n v).owned = s.owned := rfl
@[simp] theorem State.setSite_ownReqs (n : Nat) (v : Site) : (s.setSite n v).ownReqs = s.ownReqs := rfl
@[simp] theorem State.setSite_withdrawals (n : Nat) (v : Site) : (s.setSite n v).withdrawals = s.withdrawals := rfl
@[simp] theorem State.setSite_results (n : Nat) (v : Site) : (s.setSite n v).results = s.results := rfl
@[simp] theorem State.setSite_fills (n : Nat) (v : Site) : (s.setSite n v).fills = s.fills := rfl
@[simp] theorem State.setSite_pkts (n : Nat) (v : Site) : (s.setSite n v).pkts = s.pkts := rfl
@[simp] theorem State.setSite_supCmds (n : Nat) (v : Site) : (s.setSite n v).supCmds = s.supCmds := rfl
@[simp] theorem State.setSite_qmsgs (n : Nat) (v : Site) : (s.setSite n v).qmsgs = s.qmsgs := rfl
@[simp] theorem State.setSite_recvs (n : Nat) (v : Site) : (s.setSite n v).recvs = s.recvs := rfl
@[simp] theorem State.setSite_appends (n : Nat) (v : Site) : (s.setSite n v).appends = s.appends := rfl
@[simp] theorem State.setSite_pops (n : Nat) (v : Site) : (s.setSite n v).pops = s.pops := rfl
@[simp] theorem State.setSite_submits (n : Nat) (v : Site) : (s.setSite n v).submits = s.submits := rfl
@[simp] theorem State.setSite_launches (n : Nat) (v : Site) : (s.setSite n v).launches = s.launches := rfl
@[simp] theorem State.setSite_signals (n : Nat) (v : Site) : (s.setSite n v).signals = s.signals := rfl
@[simp] theorem State.setSite_arrivals (n : Nat) (v : Site) : (s.setSite n v).arrivals = s.arrivals := rfl
@[simp] theorem State.setSite_reports (n : Nat) (v : Site) : (s.setSite n v).reports = s.reports := rfl
@[simp] theorem State.setSite_stepReqs (n : Nat) (v : Site) : (s.setSite n v).stepReqs = s.stepReqs := rfl
@[simp] theorem State.setSite_gateReports (n : Nat) (v : Site) : (s.setSite n v).gateReports = s.gateReports := rfl
@[simp] theorem State.setSite_asleep (n : Nat) (v : Site) : (s.setSite n v).asleep = s.asleep := rfl
@[simp] theorem State.setSite_saves (n : Nat) (v : Site) : (s.setSite n v).saves = s.saves := rfl
@[simp] theorem State.setSite_foldImgs (n : Nat) (v : Site) : (s.setSite n v).foldImgs = s.foldImgs := rfl
@[simp] theorem State.setSite_armedImgs (n : Nat) (v : Site) : (s.setSite n v).armedImgs = s.armedImgs := rfl
@[simp] theorem State.setSite_mymod (n : Nat) (v : Site) : (s.setSite n v).mymod = s.mymod := rfl
@[simp] theorem State.setSite_links (n : Nat) (v : Site) : (s.setSite n v).links = s.links := rfl
@[simp] theorem State.setSite_leats (n : Nat) (v : Site) : (s.setSite n v).leats = s.leats := rfl
@[simp] theorem State.setSite_hostWrites (n : Nat) (v : Site) : (s.setSite n v).hostWrites = s.hostWrites := rfl
@[simp] theorem State.setSite_leatOut (n : Nat) (v : Site) : (s.setSite n v).leatOut = s.leatOut := rfl
@[simp] theorem State.setSite_peerOut (n : Nat) (v : Site) : (s.setSite n v).peerOut = s.peerOut := rfl
@[simp] theorem State.setSite_taps (n : Nat) (v : Site) : (s.setSite n v).taps = s.taps := rfl
@[simp] theorem State.setSite_plim (n : Nat) (v : Site) : (s.setSite n v).plim = s.plim := rfl
@[simp] theorem State.setSite_pavg (n : Nat) (v : Site) : (s.setSite n v).pavg = s.pavg := rfl
@[simp] theorem State.setSite_pbusy (n : Nat) (v : Site) : (s.setSite n v).pbusy = s.pbusy := rfl
@[simp] theorem State.setSite_pdown (n : Nat) (v : Site) : (s.setSite n v).pdown = s.pdown := rfl
@[simp] theorem State.setSite_plower (n : Nat) (v : Site) : (s.setSite n v).plower = s.plower := rfl
@[simp] theorem State.setSite_pdue (n : Nat) (v : Site) : (s.setSite n v).pdue = s.pdue := rfl
@[simp] theorem State.setSite_pwin (n : Nat) (v : Site) : (s.setSite n v).pwin = s.pwin := rfl
@[simp] theorem State.setSite_part (n : Nat) (v : Site) : (s.setSite n v).part = s.part := rfl
@[simp] theorem State.setSite_boots (n : Nat) (v : Site) : (s.setSite n v).boots = s.boots := rfl
@[simp] theorem State.setSite_stage (n : Nat) (v : Site) : (s.setSite n v).stage = s.stage := rfl
@[simp] theorem State.setSite_restart (n : Nat) (v : Site) : (s.setSite n v).restart = s.restart := rfl
@[simp] theorem State.setSite_mats (n : Nat) (v : Site) : (s.setSite n v).mats = s.mats := rfl
@[simp] theorem State.setSite_copies (n : Nat) (v : Site) : (s.setSite n v).copies = s.copies := rfl
@[simp] theorem State.setSite_hvs (n : Nat) (v : Site) : (s.setSite n v).hvs = s.hvs := rfl
@[simp] theorem State.setSite_slotAt (n : Nat) (v : Site) (j p : Nat) : (s.setSite n v).slotAt j p = s.slotAt j p := rfl
@[simp] theorem State.setSite_coreAt (n : Nat) (v : Site) (j : Nat) : (s.setSite n v).coreAt j = s.coreAt j := rfl
@[simp] theorem State.setSite_basinAt (n : Nat) (v : Site) (j : Nat) : (s.setSite n v).basinAt j = s.basinAt j := rfl
@[simp] theorem State.setSite_matAt (n : Nat) (v : Site) (j : Nat) : (s.setSite n v).matAt j = s.matAt j := rfl
@[simp] theorem State.setSite_copyAt (n : Nat) (v : Site) (j : Nat) : (s.setSite n v).copyAt j = s.copyAt j := rfl
@[simp] theorem State.setSite_hvAt (n : Nat) (v : Site) (j : Nat) : (s.setSite n v).hvAt j = s.hvAt j := rfl

/-! ### setBasin -/

@[simp] theorem State.setBasin_agenda (b : Nat) (v : Basin) : (s.setBasin b v).agenda = s.agenda := rfl
@[simp] theorem State.setBasin_cur (b : Nat) (v : Basin) : (s.setBasin b v).cur = s.cur := rfl
@[simp] theorem State.setBasin_nextId (b : Nat) (v : Basin) : (s.setBasin b v).nextId = s.nextId := rfl
@[simp] theorem State.setBasin_powered (b : Nat) (v : Basin) : (s.setBasin b v).powered = s.powered := rfl
@[simp] theorem State.setBasin_time (b : Nat) (v : Basin) : (s.setBasin b v).time = s.time := rfl
@[simp] theorem State.setBasin_mem (b : Nat) (v : Basin) : (s.setBasin b v).mem = s.mem := rfl
@[simp] theorem State.setBasin_slots (b : Nat) (v : Basin) : (s.setBasin b v).slots = s.slots := rfl
@[simp] theorem State.setBasin_cores (b : Nat) (v : Basin) : (s.setBasin b v).cores = s.cores := rfl
@[simp] theorem State.setBasin_sites (b : Nat) (v : Basin) : (s.setBasin b v).sites = s.sites := rfl
@[simp] theorem State.setBasin_basins (b : Nat) (v : Basin) : (s.setBasin b v).basins = mput s.basins b v := rfl
@[simp] theorem State.setBasin_stores (b : Nat) (v : Basin) : (s.setBasin b v).stores = s.stores := rfl
@[simp] theorem State.setBasin_ports (b : Nat) (v : Basin) : (s.setBasin b v).ports = s.ports := rfl
@[simp] theorem State.setBasin_tlb1 (b : Nat) (v : Basin) : (s.setBasin b v).tlb1 = s.tlb1 := rfl
@[simp] theorem State.setBasin_tlb2 (b : Nat) (v : Basin) : (s.setBasin b v).tlb2 = s.tlb2 := rfl
@[simp] theorem State.setBasin_misses (b : Nat) (v : Basin) : (s.setBasin b v).misses = s.misses := rfl
@[simp] theorem State.setBasin_reqs (b : Nat) (v : Basin) : (s.setBasin b v).reqs = s.reqs := rfl
@[simp] theorem State.setBasin_waitq (b : Nat) (v : Basin) : (s.setBasin b v).waitq = s.waitq := rfl
@[simp] theorem State.setBasin_replies (b : Nat) (v : Basin) : (s.setBasin b v).replies = s.replies := rfl
@[simp] theorem State.setBasin_resv (b : Nat) (v : Basin) : (s.setBasin b v).resv = s.resv := rfl
@[simp] theorem State.setBasin_owned (b : Nat) (v : Basin) : (s.setBasin b v).owned = s.owned := rfl
@[simp] theorem State.setBasin_ownReqs (b : Nat) (v : Basin) : (s.setBasin b v).ownReqs = s.ownReqs := rfl
@[simp] theorem State.setBasin_withdrawals (b : Nat) (v : Basin) : (s.setBasin b v).withdrawals = s.withdrawals := rfl
@[simp] theorem State.setBasin_results (b : Nat) (v : Basin) : (s.setBasin b v).results = s.results := rfl
@[simp] theorem State.setBasin_fills (b : Nat) (v : Basin) : (s.setBasin b v).fills = s.fills := rfl
@[simp] theorem State.setBasin_pkts (b : Nat) (v : Basin) : (s.setBasin b v).pkts = s.pkts := rfl
@[simp] theorem State.setBasin_supCmds (b : Nat) (v : Basin) : (s.setBasin b v).supCmds = s.supCmds := rfl
@[simp] theorem State.setBasin_qmsgs (b : Nat) (v : Basin) : (s.setBasin b v).qmsgs = s.qmsgs := rfl
@[simp] theorem State.setBasin_recvs (b : Nat) (v : Basin) : (s.setBasin b v).recvs = s.recvs := rfl
@[simp] theorem State.setBasin_appends (b : Nat) (v : Basin) : (s.setBasin b v).appends = s.appends := rfl
@[simp] theorem State.setBasin_pops (b : Nat) (v : Basin) : (s.setBasin b v).pops = s.pops := rfl
@[simp] theorem State.setBasin_submits (b : Nat) (v : Basin) : (s.setBasin b v).submits = s.submits := rfl
@[simp] theorem State.setBasin_launches (b : Nat) (v : Basin) : (s.setBasin b v).launches = s.launches := rfl
@[simp] theorem State.setBasin_signals (b : Nat) (v : Basin) : (s.setBasin b v).signals = s.signals := rfl
@[simp] theorem State.setBasin_arrivals (b : Nat) (v : Basin) : (s.setBasin b v).arrivals = s.arrivals := rfl
@[simp] theorem State.setBasin_reports (b : Nat) (v : Basin) : (s.setBasin b v).reports = s.reports := rfl
@[simp] theorem State.setBasin_stepReqs (b : Nat) (v : Basin) : (s.setBasin b v).stepReqs = s.stepReqs := rfl
@[simp] theorem State.setBasin_gateReports (b : Nat) (v : Basin) : (s.setBasin b v).gateReports = s.gateReports := rfl
@[simp] theorem State.setBasin_asleep (b : Nat) (v : Basin) : (s.setBasin b v).asleep = s.asleep := rfl
@[simp] theorem State.setBasin_saves (b : Nat) (v : Basin) : (s.setBasin b v).saves = s.saves := rfl
@[simp] theorem State.setBasin_foldImgs (b : Nat) (v : Basin) : (s.setBasin b v).foldImgs = s.foldImgs := rfl
@[simp] theorem State.setBasin_armedImgs (b : Nat) (v : Basin) : (s.setBasin b v).armedImgs = s.armedImgs := rfl
@[simp] theorem State.setBasin_mymod (b : Nat) (v : Basin) : (s.setBasin b v).mymod = s.mymod := rfl
@[simp] theorem State.setBasin_links (b : Nat) (v : Basin) : (s.setBasin b v).links = s.links := rfl
@[simp] theorem State.setBasin_leats (b : Nat) (v : Basin) : (s.setBasin b v).leats = s.leats := rfl
@[simp] theorem State.setBasin_hostWrites (b : Nat) (v : Basin) : (s.setBasin b v).hostWrites = s.hostWrites := rfl
@[simp] theorem State.setBasin_leatOut (b : Nat) (v : Basin) : (s.setBasin b v).leatOut = s.leatOut := rfl
@[simp] theorem State.setBasin_peerOut (b : Nat) (v : Basin) : (s.setBasin b v).peerOut = s.peerOut := rfl
@[simp] theorem State.setBasin_taps (b : Nat) (v : Basin) : (s.setBasin b v).taps = s.taps := rfl
@[simp] theorem State.setBasin_plim (b : Nat) (v : Basin) : (s.setBasin b v).plim = s.plim := rfl
@[simp] theorem State.setBasin_pavg (b : Nat) (v : Basin) : (s.setBasin b v).pavg = s.pavg := rfl
@[simp] theorem State.setBasin_pbusy (b : Nat) (v : Basin) : (s.setBasin b v).pbusy = s.pbusy := rfl
@[simp] theorem State.setBasin_pdown (b : Nat) (v : Basin) : (s.setBasin b v).pdown = s.pdown := rfl
@[simp] theorem State.setBasin_plower (b : Nat) (v : Basin) : (s.setBasin b v).plower = s.plower := rfl
@[simp] theorem State.setBasin_pdue (b : Nat) (v : Basin) : (s.setBasin b v).pdue = s.pdue := rfl
@[simp] theorem State.setBasin_pwin (b : Nat) (v : Basin) : (s.setBasin b v).pwin = s.pwin := rfl
@[simp] theorem State.setBasin_part (b : Nat) (v : Basin) : (s.setBasin b v).part = s.part := rfl
@[simp] theorem State.setBasin_boots (b : Nat) (v : Basin) : (s.setBasin b v).boots = s.boots := rfl
@[simp] theorem State.setBasin_stage (b : Nat) (v : Basin) : (s.setBasin b v).stage = s.stage := rfl
@[simp] theorem State.setBasin_restart (b : Nat) (v : Basin) : (s.setBasin b v).restart = s.restart := rfl
@[simp] theorem State.setBasin_mats (b : Nat) (v : Basin) : (s.setBasin b v).mats = s.mats := rfl
@[simp] theorem State.setBasin_copies (b : Nat) (v : Basin) : (s.setBasin b v).copies = s.copies := rfl
@[simp] theorem State.setBasin_hvs (b : Nat) (v : Basin) : (s.setBasin b v).hvs = s.hvs := rfl
@[simp] theorem State.setBasin_slotAt (b : Nat) (v : Basin) (j p : Nat) : (s.setBasin b v).slotAt j p = s.slotAt j p := rfl
@[simp] theorem State.setBasin_coreAt (b : Nat) (v : Basin) (j : Nat) : (s.setBasin b v).coreAt j = s.coreAt j := rfl
@[simp] theorem State.setBasin_siteAt (b : Nat) (v : Basin) (j : Nat) : (s.setBasin b v).siteAt j = s.siteAt j := rfl
@[simp] theorem State.setBasin_matAt (b : Nat) (v : Basin) (j : Nat) : (s.setBasin b v).matAt j = s.matAt j := rfl
@[simp] theorem State.setBasin_copyAt (b : Nat) (v : Basin) (j : Nat) : (s.setBasin b v).copyAt j = s.copyAt j := rfl
@[simp] theorem State.setBasin_hvAt (b : Nat) (v : Basin) (j : Nat) : (s.setBasin b v).hvAt j = s.hvAt j := rfl

/-! ### setMat -/

@[simp] theorem State.setMat_agenda (k : Nat) (v : MatEng) : (s.setMat k v).agenda = s.agenda := rfl
@[simp] theorem State.setMat_cur (k : Nat) (v : MatEng) : (s.setMat k v).cur = s.cur := rfl
@[simp] theorem State.setMat_nextId (k : Nat) (v : MatEng) : (s.setMat k v).nextId = s.nextId := rfl
@[simp] theorem State.setMat_powered (k : Nat) (v : MatEng) : (s.setMat k v).powered = s.powered := rfl
@[simp] theorem State.setMat_time (k : Nat) (v : MatEng) : (s.setMat k v).time = s.time := rfl
@[simp] theorem State.setMat_mem (k : Nat) (v : MatEng) : (s.setMat k v).mem = s.mem := rfl
@[simp] theorem State.setMat_slots (k : Nat) (v : MatEng) : (s.setMat k v).slots = s.slots := rfl
@[simp] theorem State.setMat_cores (k : Nat) (v : MatEng) : (s.setMat k v).cores = s.cores := rfl
@[simp] theorem State.setMat_sites (k : Nat) (v : MatEng) : (s.setMat k v).sites = s.sites := rfl
@[simp] theorem State.setMat_basins (k : Nat) (v : MatEng) : (s.setMat k v).basins = s.basins := rfl
@[simp] theorem State.setMat_stores (k : Nat) (v : MatEng) : (s.setMat k v).stores = s.stores := rfl
@[simp] theorem State.setMat_ports (k : Nat) (v : MatEng) : (s.setMat k v).ports = s.ports := rfl
@[simp] theorem State.setMat_tlb1 (k : Nat) (v : MatEng) : (s.setMat k v).tlb1 = s.tlb1 := rfl
@[simp] theorem State.setMat_tlb2 (k : Nat) (v : MatEng) : (s.setMat k v).tlb2 = s.tlb2 := rfl
@[simp] theorem State.setMat_misses (k : Nat) (v : MatEng) : (s.setMat k v).misses = s.misses := rfl
@[simp] theorem State.setMat_reqs (k : Nat) (v : MatEng) : (s.setMat k v).reqs = s.reqs := rfl
@[simp] theorem State.setMat_waitq (k : Nat) (v : MatEng) : (s.setMat k v).waitq = s.waitq := rfl
@[simp] theorem State.setMat_replies (k : Nat) (v : MatEng) : (s.setMat k v).replies = s.replies := rfl
@[simp] theorem State.setMat_resv (k : Nat) (v : MatEng) : (s.setMat k v).resv = s.resv := rfl
@[simp] theorem State.setMat_owned (k : Nat) (v : MatEng) : (s.setMat k v).owned = s.owned := rfl
@[simp] theorem State.setMat_ownReqs (k : Nat) (v : MatEng) : (s.setMat k v).ownReqs = s.ownReqs := rfl
@[simp] theorem State.setMat_withdrawals (k : Nat) (v : MatEng) : (s.setMat k v).withdrawals = s.withdrawals := rfl
@[simp] theorem State.setMat_results (k : Nat) (v : MatEng) : (s.setMat k v).results = s.results := rfl
@[simp] theorem State.setMat_fills (k : Nat) (v : MatEng) : (s.setMat k v).fills = s.fills := rfl
@[simp] theorem State.setMat_pkts (k : Nat) (v : MatEng) : (s.setMat k v).pkts = s.pkts := rfl
@[simp] theorem State.setMat_supCmds (k : Nat) (v : MatEng) : (s.setMat k v).supCmds = s.supCmds := rfl
@[simp] theorem State.setMat_qmsgs (k : Nat) (v : MatEng) : (s.setMat k v).qmsgs = s.qmsgs := rfl
@[simp] theorem State.setMat_recvs (k : Nat) (v : MatEng) : (s.setMat k v).recvs = s.recvs := rfl
@[simp] theorem State.setMat_appends (k : Nat) (v : MatEng) : (s.setMat k v).appends = s.appends := rfl
@[simp] theorem State.setMat_pops (k : Nat) (v : MatEng) : (s.setMat k v).pops = s.pops := rfl
@[simp] theorem State.setMat_submits (k : Nat) (v : MatEng) : (s.setMat k v).submits = s.submits := rfl
@[simp] theorem State.setMat_launches (k : Nat) (v : MatEng) : (s.setMat k v).launches = s.launches := rfl
@[simp] theorem State.setMat_signals (k : Nat) (v : MatEng) : (s.setMat k v).signals = s.signals := rfl
@[simp] theorem State.setMat_arrivals (k : Nat) (v : MatEng) : (s.setMat k v).arrivals = s.arrivals := rfl
@[simp] theorem State.setMat_reports (k : Nat) (v : MatEng) : (s.setMat k v).reports = s.reports := rfl
@[simp] theorem State.setMat_stepReqs (k : Nat) (v : MatEng) : (s.setMat k v).stepReqs = s.stepReqs := rfl
@[simp] theorem State.setMat_gateReports (k : Nat) (v : MatEng) : (s.setMat k v).gateReports = s.gateReports := rfl
@[simp] theorem State.setMat_asleep (k : Nat) (v : MatEng) : (s.setMat k v).asleep = s.asleep := rfl
@[simp] theorem State.setMat_saves (k : Nat) (v : MatEng) : (s.setMat k v).saves = s.saves := rfl
@[simp] theorem State.setMat_foldImgs (k : Nat) (v : MatEng) : (s.setMat k v).foldImgs = s.foldImgs := rfl
@[simp] theorem State.setMat_armedImgs (k : Nat) (v : MatEng) : (s.setMat k v).armedImgs = s.armedImgs := rfl
@[simp] theorem State.setMat_mymod (k : Nat) (v : MatEng) : (s.setMat k v).mymod = s.mymod := rfl
@[simp] theorem State.setMat_links (k : Nat) (v : MatEng) : (s.setMat k v).links = s.links := rfl
@[simp] theorem State.setMat_leats (k : Nat) (v : MatEng) : (s.setMat k v).leats = s.leats := rfl
@[simp] theorem State.setMat_hostWrites (k : Nat) (v : MatEng) : (s.setMat k v).hostWrites = s.hostWrites := rfl
@[simp] theorem State.setMat_leatOut (k : Nat) (v : MatEng) : (s.setMat k v).leatOut = s.leatOut := rfl
@[simp] theorem State.setMat_peerOut (k : Nat) (v : MatEng) : (s.setMat k v).peerOut = s.peerOut := rfl
@[simp] theorem State.setMat_taps (k : Nat) (v : MatEng) : (s.setMat k v).taps = s.taps := rfl
@[simp] theorem State.setMat_plim (k : Nat) (v : MatEng) : (s.setMat k v).plim = s.plim := rfl
@[simp] theorem State.setMat_pavg (k : Nat) (v : MatEng) : (s.setMat k v).pavg = s.pavg := rfl
@[simp] theorem State.setMat_pbusy (k : Nat) (v : MatEng) : (s.setMat k v).pbusy = s.pbusy := rfl
@[simp] theorem State.setMat_pdown (k : Nat) (v : MatEng) : (s.setMat k v).pdown = s.pdown := rfl
@[simp] theorem State.setMat_plower (k : Nat) (v : MatEng) : (s.setMat k v).plower = s.plower := rfl
@[simp] theorem State.setMat_pdue (k : Nat) (v : MatEng) : (s.setMat k v).pdue = s.pdue := rfl
@[simp] theorem State.setMat_pwin (k : Nat) (v : MatEng) : (s.setMat k v).pwin = s.pwin := rfl
@[simp] theorem State.setMat_part (k : Nat) (v : MatEng) : (s.setMat k v).part = s.part := rfl
@[simp] theorem State.setMat_boots (k : Nat) (v : MatEng) : (s.setMat k v).boots = s.boots := rfl
@[simp] theorem State.setMat_stage (k : Nat) (v : MatEng) : (s.setMat k v).stage = s.stage := rfl
@[simp] theorem State.setMat_restart (k : Nat) (v : MatEng) : (s.setMat k v).restart = s.restart := rfl
@[simp] theorem State.setMat_mats (k : Nat) (v : MatEng) : (s.setMat k v).mats = mput s.mats k v := rfl
@[simp] theorem State.setMat_copies (k : Nat) (v : MatEng) : (s.setMat k v).copies = s.copies := rfl
@[simp] theorem State.setMat_hvs (k : Nat) (v : MatEng) : (s.setMat k v).hvs = s.hvs := rfl
@[simp] theorem State.setMat_slotAt (k : Nat) (v : MatEng) (j p : Nat) : (s.setMat k v).slotAt j p = s.slotAt j p := rfl
@[simp] theorem State.setMat_coreAt (k : Nat) (v : MatEng) (j : Nat) : (s.setMat k v).coreAt j = s.coreAt j := rfl
@[simp] theorem State.setMat_siteAt (k : Nat) (v : MatEng) (j : Nat) : (s.setMat k v).siteAt j = s.siteAt j := rfl
@[simp] theorem State.setMat_basinAt (k : Nat) (v : MatEng) (j : Nat) : (s.setMat k v).basinAt j = s.basinAt j := rfl
@[simp] theorem State.setMat_copyAt (k : Nat) (v : MatEng) (j : Nat) : (s.setMat k v).copyAt j = s.copyAt j := rfl
@[simp] theorem State.setMat_hvAt (k : Nat) (v : MatEng) (j : Nat) : (s.setMat k v).hvAt j = s.hvAt j := rfl

/-! ### setCopy -/

@[simp] theorem State.setCopy_agenda (k : Nat) (v : CopyEng) : (s.setCopy k v).agenda = s.agenda := rfl
@[simp] theorem State.setCopy_cur (k : Nat) (v : CopyEng) : (s.setCopy k v).cur = s.cur := rfl
@[simp] theorem State.setCopy_nextId (k : Nat) (v : CopyEng) : (s.setCopy k v).nextId = s.nextId := rfl
@[simp] theorem State.setCopy_powered (k : Nat) (v : CopyEng) : (s.setCopy k v).powered = s.powered := rfl
@[simp] theorem State.setCopy_time (k : Nat) (v : CopyEng) : (s.setCopy k v).time = s.time := rfl
@[simp] theorem State.setCopy_mem (k : Nat) (v : CopyEng) : (s.setCopy k v).mem = s.mem := rfl
@[simp] theorem State.setCopy_slots (k : Nat) (v : CopyEng) : (s.setCopy k v).slots = s.slots := rfl
@[simp] theorem State.setCopy_cores (k : Nat) (v : CopyEng) : (s.setCopy k v).cores = s.cores := rfl
@[simp] theorem State.setCopy_sites (k : Nat) (v : CopyEng) : (s.setCopy k v).sites = s.sites := rfl
@[simp] theorem State.setCopy_basins (k : Nat) (v : CopyEng) : (s.setCopy k v).basins = s.basins := rfl
@[simp] theorem State.setCopy_stores (k : Nat) (v : CopyEng) : (s.setCopy k v).stores = s.stores := rfl
@[simp] theorem State.setCopy_ports (k : Nat) (v : CopyEng) : (s.setCopy k v).ports = s.ports := rfl
@[simp] theorem State.setCopy_tlb1 (k : Nat) (v : CopyEng) : (s.setCopy k v).tlb1 = s.tlb1 := rfl
@[simp] theorem State.setCopy_tlb2 (k : Nat) (v : CopyEng) : (s.setCopy k v).tlb2 = s.tlb2 := rfl
@[simp] theorem State.setCopy_misses (k : Nat) (v : CopyEng) : (s.setCopy k v).misses = s.misses := rfl
@[simp] theorem State.setCopy_reqs (k : Nat) (v : CopyEng) : (s.setCopy k v).reqs = s.reqs := rfl
@[simp] theorem State.setCopy_waitq (k : Nat) (v : CopyEng) : (s.setCopy k v).waitq = s.waitq := rfl
@[simp] theorem State.setCopy_replies (k : Nat) (v : CopyEng) : (s.setCopy k v).replies = s.replies := rfl
@[simp] theorem State.setCopy_resv (k : Nat) (v : CopyEng) : (s.setCopy k v).resv = s.resv := rfl
@[simp] theorem State.setCopy_owned (k : Nat) (v : CopyEng) : (s.setCopy k v).owned = s.owned := rfl
@[simp] theorem State.setCopy_ownReqs (k : Nat) (v : CopyEng) : (s.setCopy k v).ownReqs = s.ownReqs := rfl
@[simp] theorem State.setCopy_withdrawals (k : Nat) (v : CopyEng) : (s.setCopy k v).withdrawals = s.withdrawals := rfl
@[simp] theorem State.setCopy_results (k : Nat) (v : CopyEng) : (s.setCopy k v).results = s.results := rfl
@[simp] theorem State.setCopy_fills (k : Nat) (v : CopyEng) : (s.setCopy k v).fills = s.fills := rfl
@[simp] theorem State.setCopy_pkts (k : Nat) (v : CopyEng) : (s.setCopy k v).pkts = s.pkts := rfl
@[simp] theorem State.setCopy_supCmds (k : Nat) (v : CopyEng) : (s.setCopy k v).supCmds = s.supCmds := rfl
@[simp] theorem State.setCopy_qmsgs (k : Nat) (v : CopyEng) : (s.setCopy k v).qmsgs = s.qmsgs := rfl
@[simp] theorem State.setCopy_recvs (k : Nat) (v : CopyEng) : (s.setCopy k v).recvs = s.recvs := rfl
@[simp] theorem State.setCopy_appends (k : Nat) (v : CopyEng) : (s.setCopy k v).appends = s.appends := rfl
@[simp] theorem State.setCopy_pops (k : Nat) (v : CopyEng) : (s.setCopy k v).pops = s.pops := rfl
@[simp] theorem State.setCopy_submits (k : Nat) (v : CopyEng) : (s.setCopy k v).submits = s.submits := rfl
@[simp] theorem State.setCopy_launches (k : Nat) (v : CopyEng) : (s.setCopy k v).launches = s.launches := rfl
@[simp] theorem State.setCopy_signals (k : Nat) (v : CopyEng) : (s.setCopy k v).signals = s.signals := rfl
@[simp] theorem State.setCopy_arrivals (k : Nat) (v : CopyEng) : (s.setCopy k v).arrivals = s.arrivals := rfl
@[simp] theorem State.setCopy_reports (k : Nat) (v : CopyEng) : (s.setCopy k v).reports = s.reports := rfl
@[simp] theorem State.setCopy_stepReqs (k : Nat) (v : CopyEng) : (s.setCopy k v).stepReqs = s.stepReqs := rfl
@[simp] theorem State.setCopy_gateReports (k : Nat) (v : CopyEng) : (s.setCopy k v).gateReports = s.gateReports := rfl
@[simp] theorem State.setCopy_asleep (k : Nat) (v : CopyEng) : (s.setCopy k v).asleep = s.asleep := rfl
@[simp] theorem State.setCopy_saves (k : Nat) (v : CopyEng) : (s.setCopy k v).saves = s.saves := rfl
@[simp] theorem State.setCopy_foldImgs (k : Nat) (v : CopyEng) : (s.setCopy k v).foldImgs = s.foldImgs := rfl
@[simp] theorem State.setCopy_armedImgs (k : Nat) (v : CopyEng) : (s.setCopy k v).armedImgs = s.armedImgs := rfl
@[simp] theorem State.setCopy_mymod (k : Nat) (v : CopyEng) : (s.setCopy k v).mymod = s.mymod := rfl
@[simp] theorem State.setCopy_links (k : Nat) (v : CopyEng) : (s.setCopy k v).links = s.links := rfl
@[simp] theorem State.setCopy_leats (k : Nat) (v : CopyEng) : (s.setCopy k v).leats = s.leats := rfl
@[simp] theorem State.setCopy_hostWrites (k : Nat) (v : CopyEng) : (s.setCopy k v).hostWrites = s.hostWrites := rfl
@[simp] theorem State.setCopy_leatOut (k : Nat) (v : CopyEng) : (s.setCopy k v).leatOut = s.leatOut := rfl
@[simp] theorem State.setCopy_peerOut (k : Nat) (v : CopyEng) : (s.setCopy k v).peerOut = s.peerOut := rfl
@[simp] theorem State.setCopy_taps (k : Nat) (v : CopyEng) : (s.setCopy k v).taps = s.taps := rfl
@[simp] theorem State.setCopy_plim (k : Nat) (v : CopyEng) : (s.setCopy k v).plim = s.plim := rfl
@[simp] theorem State.setCopy_pavg (k : Nat) (v : CopyEng) : (s.setCopy k v).pavg = s.pavg := rfl
@[simp] theorem State.setCopy_pbusy (k : Nat) (v : CopyEng) : (s.setCopy k v).pbusy = s.pbusy := rfl
@[simp] theorem State.setCopy_pdown (k : Nat) (v : CopyEng) : (s.setCopy k v).pdown = s.pdown := rfl
@[simp] theorem State.setCopy_plower (k : Nat) (v : CopyEng) : (s.setCopy k v).plower = s.plower := rfl
@[simp] theorem State.setCopy_pdue (k : Nat) (v : CopyEng) : (s.setCopy k v).pdue = s.pdue := rfl
@[simp] theorem State.setCopy_pwin (k : Nat) (v : CopyEng) : (s.setCopy k v).pwin = s.pwin := rfl
@[simp] theorem State.setCopy_part (k : Nat) (v : CopyEng) : (s.setCopy k v).part = s.part := rfl
@[simp] theorem State.setCopy_boots (k : Nat) (v : CopyEng) : (s.setCopy k v).boots = s.boots := rfl
@[simp] theorem State.setCopy_stage (k : Nat) (v : CopyEng) : (s.setCopy k v).stage = s.stage := rfl
@[simp] theorem State.setCopy_restart (k : Nat) (v : CopyEng) : (s.setCopy k v).restart = s.restart := rfl
@[simp] theorem State.setCopy_mats (k : Nat) (v : CopyEng) : (s.setCopy k v).mats = s.mats := rfl
@[simp] theorem State.setCopy_copies (k : Nat) (v : CopyEng) : (s.setCopy k v).copies = mput s.copies k v := rfl
@[simp] theorem State.setCopy_hvs (k : Nat) (v : CopyEng) : (s.setCopy k v).hvs = s.hvs := rfl
@[simp] theorem State.setCopy_slotAt (k : Nat) (v : CopyEng) (j p : Nat) : (s.setCopy k v).slotAt j p = s.slotAt j p := rfl
@[simp] theorem State.setCopy_coreAt (k : Nat) (v : CopyEng) (j : Nat) : (s.setCopy k v).coreAt j = s.coreAt j := rfl
@[simp] theorem State.setCopy_siteAt (k : Nat) (v : CopyEng) (j : Nat) : (s.setCopy k v).siteAt j = s.siteAt j := rfl
@[simp] theorem State.setCopy_basinAt (k : Nat) (v : CopyEng) (j : Nat) : (s.setCopy k v).basinAt j = s.basinAt j := rfl
@[simp] theorem State.setCopy_matAt (k : Nat) (v : CopyEng) (j : Nat) : (s.setCopy k v).matAt j = s.matAt j := rfl
@[simp] theorem State.setCopy_hvAt (k : Nat) (v : CopyEng) (j : Nat) : (s.setCopy k v).hvAt j = s.hvAt j := rfl

/-! ### setHv -/

@[simp] theorem State.setHv_agenda (k : Nat) (v : HvEng) : (s.setHv k v).agenda = s.agenda := rfl
@[simp] theorem State.setHv_cur (k : Nat) (v : HvEng) : (s.setHv k v).cur = s.cur := rfl
@[simp] theorem State.setHv_nextId (k : Nat) (v : HvEng) : (s.setHv k v).nextId = s.nextId := rfl
@[simp] theorem State.setHv_powered (k : Nat) (v : HvEng) : (s.setHv k v).powered = s.powered := rfl
@[simp] theorem State.setHv_time (k : Nat) (v : HvEng) : (s.setHv k v).time = s.time := rfl
@[simp] theorem State.setHv_mem (k : Nat) (v : HvEng) : (s.setHv k v).mem = s.mem := rfl
@[simp] theorem State.setHv_slots (k : Nat) (v : HvEng) : (s.setHv k v).slots = s.slots := rfl
@[simp] theorem State.setHv_cores (k : Nat) (v : HvEng) : (s.setHv k v).cores = s.cores := rfl
@[simp] theorem State.setHv_sites (k : Nat) (v : HvEng) : (s.setHv k v).sites = s.sites := rfl
@[simp] theorem State.setHv_basins (k : Nat) (v : HvEng) : (s.setHv k v).basins = s.basins := rfl
@[simp] theorem State.setHv_stores (k : Nat) (v : HvEng) : (s.setHv k v).stores = s.stores := rfl
@[simp] theorem State.setHv_ports (k : Nat) (v : HvEng) : (s.setHv k v).ports = s.ports := rfl
@[simp] theorem State.setHv_tlb1 (k : Nat) (v : HvEng) : (s.setHv k v).tlb1 = s.tlb1 := rfl
@[simp] theorem State.setHv_tlb2 (k : Nat) (v : HvEng) : (s.setHv k v).tlb2 = s.tlb2 := rfl
@[simp] theorem State.setHv_misses (k : Nat) (v : HvEng) : (s.setHv k v).misses = s.misses := rfl
@[simp] theorem State.setHv_reqs (k : Nat) (v : HvEng) : (s.setHv k v).reqs = s.reqs := rfl
@[simp] theorem State.setHv_waitq (k : Nat) (v : HvEng) : (s.setHv k v).waitq = s.waitq := rfl
@[simp] theorem State.setHv_replies (k : Nat) (v : HvEng) : (s.setHv k v).replies = s.replies := rfl
@[simp] theorem State.setHv_resv (k : Nat) (v : HvEng) : (s.setHv k v).resv = s.resv := rfl
@[simp] theorem State.setHv_owned (k : Nat) (v : HvEng) : (s.setHv k v).owned = s.owned := rfl
@[simp] theorem State.setHv_ownReqs (k : Nat) (v : HvEng) : (s.setHv k v).ownReqs = s.ownReqs := rfl
@[simp] theorem State.setHv_withdrawals (k : Nat) (v : HvEng) : (s.setHv k v).withdrawals = s.withdrawals := rfl
@[simp] theorem State.setHv_results (k : Nat) (v : HvEng) : (s.setHv k v).results = s.results := rfl
@[simp] theorem State.setHv_fills (k : Nat) (v : HvEng) : (s.setHv k v).fills = s.fills := rfl
@[simp] theorem State.setHv_pkts (k : Nat) (v : HvEng) : (s.setHv k v).pkts = s.pkts := rfl
@[simp] theorem State.setHv_supCmds (k : Nat) (v : HvEng) : (s.setHv k v).supCmds = s.supCmds := rfl
@[simp] theorem State.setHv_qmsgs (k : Nat) (v : HvEng) : (s.setHv k v).qmsgs = s.qmsgs := rfl
@[simp] theorem State.setHv_recvs (k : Nat) (v : HvEng) : (s.setHv k v).recvs = s.recvs := rfl
@[simp] theorem State.setHv_appends (k : Nat) (v : HvEng) : (s.setHv k v).appends = s.appends := rfl
@[simp] theorem State.setHv_pops (k : Nat) (v : HvEng) : (s.setHv k v).pops = s.pops := rfl
@[simp] theorem State.setHv_submits (k : Nat) (v : HvEng) : (s.setHv k v).submits = s.submits := rfl
@[simp] theorem State.setHv_launches (k : Nat) (v : HvEng) : (s.setHv k v).launches = s.launches := rfl
@[simp] theorem State.setHv_signals (k : Nat) (v : HvEng) : (s.setHv k v).signals = s.signals := rfl
@[simp] theorem State.setHv_arrivals (k : Nat) (v : HvEng) : (s.setHv k v).arrivals = s.arrivals := rfl
@[simp] theorem State.setHv_reports (k : Nat) (v : HvEng) : (s.setHv k v).reports = s.reports := rfl
@[simp] theorem State.setHv_stepReqs (k : Nat) (v : HvEng) : (s.setHv k v).stepReqs = s.stepReqs := rfl
@[simp] theorem State.setHv_gateReports (k : Nat) (v : HvEng) : (s.setHv k v).gateReports = s.gateReports := rfl
@[simp] theorem State.setHv_asleep (k : Nat) (v : HvEng) : (s.setHv k v).asleep = s.asleep := rfl
@[simp] theorem State.setHv_saves (k : Nat) (v : HvEng) : (s.setHv k v).saves = s.saves := rfl
@[simp] theorem State.setHv_foldImgs (k : Nat) (v : HvEng) : (s.setHv k v).foldImgs = s.foldImgs := rfl
@[simp] theorem State.setHv_armedImgs (k : Nat) (v : HvEng) : (s.setHv k v).armedImgs = s.armedImgs := rfl
@[simp] theorem State.setHv_mymod (k : Nat) (v : HvEng) : (s.setHv k v).mymod = s.mymod := rfl
@[simp] theorem State.setHv_links (k : Nat) (v : HvEng) : (s.setHv k v).links = s.links := rfl
@[simp] theorem State.setHv_leats (k : Nat) (v : HvEng) : (s.setHv k v).leats = s.leats := rfl
@[simp] theorem State.setHv_hostWrites (k : Nat) (v : HvEng) : (s.setHv k v).hostWrites = s.hostWrites := rfl
@[simp] theorem State.setHv_leatOut (k : Nat) (v : HvEng) : (s.setHv k v).leatOut = s.leatOut := rfl
@[simp] theorem State.setHv_peerOut (k : Nat) (v : HvEng) : (s.setHv k v).peerOut = s.peerOut := rfl
@[simp] theorem State.setHv_taps (k : Nat) (v : HvEng) : (s.setHv k v).taps = s.taps := rfl
@[simp] theorem State.setHv_plim (k : Nat) (v : HvEng) : (s.setHv k v).plim = s.plim := rfl
@[simp] theorem State.setHv_pavg (k : Nat) (v : HvEng) : (s.setHv k v).pavg = s.pavg := rfl
@[simp] theorem State.setHv_pbusy (k : Nat) (v : HvEng) : (s.setHv k v).pbusy = s.pbusy := rfl
@[simp] theorem State.setHv_pdown (k : Nat) (v : HvEng) : (s.setHv k v).pdown = s.pdown := rfl
@[simp] theorem State.setHv_plower (k : Nat) (v : HvEng) : (s.setHv k v).plower = s.plower := rfl
@[simp] theorem State.setHv_pdue (k : Nat) (v : HvEng) : (s.setHv k v).pdue = s.pdue := rfl
@[simp] theorem State.setHv_pwin (k : Nat) (v : HvEng) : (s.setHv k v).pwin = s.pwin := rfl
@[simp] theorem State.setHv_part (k : Nat) (v : HvEng) : (s.setHv k v).part = s.part := rfl
@[simp] theorem State.setHv_boots (k : Nat) (v : HvEng) : (s.setHv k v).boots = s.boots := rfl
@[simp] theorem State.setHv_stage (k : Nat) (v : HvEng) : (s.setHv k v).stage = s.stage := rfl
@[simp] theorem State.setHv_restart (k : Nat) (v : HvEng) : (s.setHv k v).restart = s.restart := rfl
@[simp] theorem State.setHv_mats (k : Nat) (v : HvEng) : (s.setHv k v).mats = s.mats := rfl
@[simp] theorem State.setHv_copies (k : Nat) (v : HvEng) : (s.setHv k v).copies = s.copies := rfl
@[simp] theorem State.setHv_hvs (k : Nat) (v : HvEng) : (s.setHv k v).hvs = mput s.hvs k v := rfl
@[simp] theorem State.setHv_slotAt (k : Nat) (v : HvEng) (j p : Nat) : (s.setHv k v).slotAt j p = s.slotAt j p := rfl
@[simp] theorem State.setHv_coreAt (k : Nat) (v : HvEng) (j : Nat) : (s.setHv k v).coreAt j = s.coreAt j := rfl
@[simp] theorem State.setHv_siteAt (k : Nat) (v : HvEng) (j : Nat) : (s.setHv k v).siteAt j = s.siteAt j := rfl
@[simp] theorem State.setHv_basinAt (k : Nat) (v : HvEng) (j : Nat) : (s.setHv k v).basinAt j = s.basinAt j := rfl
@[simp] theorem State.setHv_matAt (k : Nat) (v : HvEng) (j : Nat) : (s.setHv k v).matAt j = s.matAt j := rfl
@[simp] theorem State.setHv_copyAt (k : Nat) (v : HvEng) (j : Nat) : (s.setHv k v).copyAt j = s.copyAt j := rfl

/-! ### modSlot -/

@[simp] theorem State.modSlot_agenda (c q : Nat) (f : Slot → Slot) : (s.modSlot c q f).agenda = s.agenda := rfl
@[simp] theorem State.modSlot_cur (c q : Nat) (f : Slot → Slot) : (s.modSlot c q f).cur = s.cur := rfl
@[simp] theorem State.modSlot_nextId (c q : Nat) (f : Slot → Slot) : (s.modSlot c q f).nextId = s.nextId := rfl
@[simp] theorem State.modSlot_powered (c q : Nat) (f : Slot → Slot) : (s.modSlot c q f).powered = s.powered := rfl
@[simp] theorem State.modSlot_time (c q : Nat) (f : Slot → Slot) : (s.modSlot c q f).time = s.time := rfl
@[simp] theorem State.modSlot_mem (c q : Nat) (f : Slot → Slot) : (s.modSlot c q f).mem = s.mem := rfl
@[simp] theorem State.modSlot_slots (c q : Nat) (f : Slot → Slot) : (s.modSlot c q f).slots = mput s.slots (slotKey c q) (f (s.slotAt c q)) := rfl
@[simp] theorem State.modSlot_cores (c q : Nat) (f : Slot → Slot) : (s.modSlot c q f).cores = s.cores := rfl
@[simp] theorem State.modSlot_sites (c q : Nat) (f : Slot → Slot) : (s.modSlot c q f).sites = s.sites := rfl
@[simp] theorem State.modSlot_basins (c q : Nat) (f : Slot → Slot) : (s.modSlot c q f).basins = s.basins := rfl
@[simp] theorem State.modSlot_stores (c q : Nat) (f : Slot → Slot) : (s.modSlot c q f).stores = s.stores := rfl
@[simp] theorem State.modSlot_ports (c q : Nat) (f : Slot → Slot) : (s.modSlot c q f).ports = s.ports := rfl
@[simp] theorem State.modSlot_tlb1 (c q : Nat) (f : Slot → Slot) : (s.modSlot c q f).tlb1 = s.tlb1 := rfl
@[simp] theorem State.modSlot_tlb2 (c q : Nat) (f : Slot → Slot) : (s.modSlot c q f).tlb2 = s.tlb2 := rfl
@[simp] theorem State.modSlot_misses (c q : Nat) (f : Slot → Slot) : (s.modSlot c q f).misses = s.misses := rfl
@[simp] theorem State.modSlot_reqs (c q : Nat) (f : Slot → Slot) : (s.modSlot c q f).reqs = s.reqs := rfl
@[simp] theorem State.modSlot_waitq (c q : Nat) (f : Slot → Slot) : (s.modSlot c q f).waitq = s.waitq := rfl
@[simp] theorem State.modSlot_replies (c q : Nat) (f : Slot → Slot) : (s.modSlot c q f).replies = s.replies := rfl
@[simp] theorem State.modSlot_resv (c q : Nat) (f : Slot → Slot) : (s.modSlot c q f).resv = s.resv := rfl
@[simp] theorem State.modSlot_owned (c q : Nat) (f : Slot → Slot) : (s.modSlot c q f).owned = s.owned := rfl
@[simp] theorem State.modSlot_ownReqs (c q : Nat) (f : Slot → Slot) : (s.modSlot c q f).ownReqs = s.ownReqs := rfl
@[simp] theorem State.modSlot_withdrawals (c q : Nat) (f : Slot → Slot) : (s.modSlot c q f).withdrawals = s.withdrawals := rfl
@[simp] theorem State.modSlot_results (c q : Nat) (f : Slot → Slot) : (s.modSlot c q f).results = s.results := rfl
@[simp] theorem State.modSlot_fills (c q : Nat) (f : Slot → Slot) : (s.modSlot c q f).fills = s.fills := rfl
@[simp] theorem State.modSlot_pkts (c q : Nat) (f : Slot → Slot) : (s.modSlot c q f).pkts = s.pkts := rfl
@[simp] theorem State.modSlot_supCmds (c q : Nat) (f : Slot → Slot) : (s.modSlot c q f).supCmds = s.supCmds := rfl
@[simp] theorem State.modSlot_qmsgs (c q : Nat) (f : Slot → Slot) : (s.modSlot c q f).qmsgs = s.qmsgs := rfl
@[simp] theorem State.modSlot_recvs (c q : Nat) (f : Slot → Slot) : (s.modSlot c q f).recvs = s.recvs := rfl
@[simp] theorem State.modSlot_appends (c q : Nat) (f : Slot → Slot) : (s.modSlot c q f).appends = s.appends := rfl
@[simp] theorem State.modSlot_pops (c q : Nat) (f : Slot → Slot) : (s.modSlot c q f).pops = s.pops := rfl
@[simp] theorem State.modSlot_submits (c q : Nat) (f : Slot → Slot) : (s.modSlot c q f).submits = s.submits := rfl
@[simp] theorem State.modSlot_launches (c q : Nat) (f : Slot → Slot) : (s.modSlot c q f).launches = s.launches := rfl
@[simp] theorem State.modSlot_signals (c q : Nat) (f : Slot → Slot) : (s.modSlot c q f).signals = s.signals := rfl
@[simp] theorem State.modSlot_arrivals (c q : Nat) (f : Slot → Slot) : (s.modSlot c q f).arrivals = s.arrivals := rfl
@[simp] theorem State.modSlot_reports (c q : Nat) (f : Slot → Slot) : (s.modSlot c q f).reports = s.reports := rfl
@[simp] theorem State.modSlot_stepReqs (c q : Nat) (f : Slot → Slot) : (s.modSlot c q f).stepReqs = s.stepReqs := rfl
@[simp] theorem State.modSlot_gateReports (c q : Nat) (f : Slot → Slot) : (s.modSlot c q f).gateReports = s.gateReports := rfl
@[simp] theorem State.modSlot_asleep (c q : Nat) (f : Slot → Slot) : (s.modSlot c q f).asleep = s.asleep := rfl
@[simp] theorem State.modSlot_saves (c q : Nat) (f : Slot → Slot) : (s.modSlot c q f).saves = s.saves := rfl
@[simp] theorem State.modSlot_foldImgs (c q : Nat) (f : Slot → Slot) : (s.modSlot c q f).foldImgs = s.foldImgs := rfl
@[simp] theorem State.modSlot_armedImgs (c q : Nat) (f : Slot → Slot) : (s.modSlot c q f).armedImgs = s.armedImgs := rfl
@[simp] theorem State.modSlot_mymod (c q : Nat) (f : Slot → Slot) : (s.modSlot c q f).mymod = s.mymod := rfl
@[simp] theorem State.modSlot_links (c q : Nat) (f : Slot → Slot) : (s.modSlot c q f).links = s.links := rfl
@[simp] theorem State.modSlot_leats (c q : Nat) (f : Slot → Slot) : (s.modSlot c q f).leats = s.leats := rfl
@[simp] theorem State.modSlot_hostWrites (c q : Nat) (f : Slot → Slot) : (s.modSlot c q f).hostWrites = s.hostWrites := rfl
@[simp] theorem State.modSlot_leatOut (c q : Nat) (f : Slot → Slot) : (s.modSlot c q f).leatOut = s.leatOut := rfl
@[simp] theorem State.modSlot_peerOut (c q : Nat) (f : Slot → Slot) : (s.modSlot c q f).peerOut = s.peerOut := rfl
@[simp] theorem State.modSlot_taps (c q : Nat) (f : Slot → Slot) : (s.modSlot c q f).taps = s.taps := rfl
@[simp] theorem State.modSlot_plim (c q : Nat) (f : Slot → Slot) : (s.modSlot c q f).plim = s.plim := rfl
@[simp] theorem State.modSlot_pavg (c q : Nat) (f : Slot → Slot) : (s.modSlot c q f).pavg = s.pavg := rfl
@[simp] theorem State.modSlot_pbusy (c q : Nat) (f : Slot → Slot) : (s.modSlot c q f).pbusy = s.pbusy := rfl
@[simp] theorem State.modSlot_pdown (c q : Nat) (f : Slot → Slot) : (s.modSlot c q f).pdown = s.pdown := rfl
@[simp] theorem State.modSlot_plower (c q : Nat) (f : Slot → Slot) : (s.modSlot c q f).plower = s.plower := rfl
@[simp] theorem State.modSlot_pdue (c q : Nat) (f : Slot → Slot) : (s.modSlot c q f).pdue = s.pdue := rfl
@[simp] theorem State.modSlot_pwin (c q : Nat) (f : Slot → Slot) : (s.modSlot c q f).pwin = s.pwin := rfl
@[simp] theorem State.modSlot_part (c q : Nat) (f : Slot → Slot) : (s.modSlot c q f).part = s.part := rfl
@[simp] theorem State.modSlot_boots (c q : Nat) (f : Slot → Slot) : (s.modSlot c q f).boots = s.boots := rfl
@[simp] theorem State.modSlot_stage (c q : Nat) (f : Slot → Slot) : (s.modSlot c q f).stage = s.stage := rfl
@[simp] theorem State.modSlot_restart (c q : Nat) (f : Slot → Slot) : (s.modSlot c q f).restart = s.restart := rfl
@[simp] theorem State.modSlot_mats (c q : Nat) (f : Slot → Slot) : (s.modSlot c q f).mats = s.mats := rfl
@[simp] theorem State.modSlot_copies (c q : Nat) (f : Slot → Slot) : (s.modSlot c q f).copies = s.copies := rfl
@[simp] theorem State.modSlot_hvs (c q : Nat) (f : Slot → Slot) : (s.modSlot c q f).hvs = s.hvs := rfl
@[simp] theorem State.modSlot_coreAt (c q : Nat) (f : Slot → Slot) (j : Nat) : (s.modSlot c q f).coreAt j = s.coreAt j := rfl
@[simp] theorem State.modSlot_siteAt (c q : Nat) (f : Slot → Slot) (j : Nat) : (s.modSlot c q f).siteAt j = s.siteAt j := rfl
@[simp] theorem State.modSlot_basinAt (c q : Nat) (f : Slot → Slot) (j : Nat) : (s.modSlot c q f).basinAt j = s.basinAt j := rfl
@[simp] theorem State.modSlot_matAt (c q : Nat) (f : Slot → Slot) (j : Nat) : (s.modSlot c q f).matAt j = s.matAt j := rfl
@[simp] theorem State.modSlot_copyAt (c q : Nat) (f : Slot → Slot) (j : Nat) : (s.modSlot c q f).copyAt j = s.copyAt j := rfl
@[simp] theorem State.modSlot_hvAt (c q : Nat) (f : Slot → Slot) (j : Nat) : (s.modSlot c q f).hvAt j = s.hvAt j := rfl

/-! ### modCore -/

@[simp] theorem State.modCore_agenda (k : Nat) (f : Core → Core) : (s.modCore k f).agenda = s.agenda := rfl
@[simp] theorem State.modCore_cur (k : Nat) (f : Core → Core) : (s.modCore k f).cur = s.cur := rfl
@[simp] theorem State.modCore_nextId (k : Nat) (f : Core → Core) : (s.modCore k f).nextId = s.nextId := rfl
@[simp] theorem State.modCore_powered (k : Nat) (f : Core → Core) : (s.modCore k f).powered = s.powered := rfl
@[simp] theorem State.modCore_time (k : Nat) (f : Core → Core) : (s.modCore k f).time = s.time := rfl
@[simp] theorem State.modCore_mem (k : Nat) (f : Core → Core) : (s.modCore k f).mem = s.mem := rfl
@[simp] theorem State.modCore_slots (k : Nat) (f : Core → Core) : (s.modCore k f).slots = s.slots := rfl
@[simp] theorem State.modCore_cores (k : Nat) (f : Core → Core) : (s.modCore k f).cores = mput s.cores k (f (s.coreAt k)) := rfl
@[simp] theorem State.modCore_sites (k : Nat) (f : Core → Core) : (s.modCore k f).sites = s.sites := rfl
@[simp] theorem State.modCore_basins (k : Nat) (f : Core → Core) : (s.modCore k f).basins = s.basins := rfl
@[simp] theorem State.modCore_stores (k : Nat) (f : Core → Core) : (s.modCore k f).stores = s.stores := rfl
@[simp] theorem State.modCore_ports (k : Nat) (f : Core → Core) : (s.modCore k f).ports = s.ports := rfl
@[simp] theorem State.modCore_tlb1 (k : Nat) (f : Core → Core) : (s.modCore k f).tlb1 = s.tlb1 := rfl
@[simp] theorem State.modCore_tlb2 (k : Nat) (f : Core → Core) : (s.modCore k f).tlb2 = s.tlb2 := rfl
@[simp] theorem State.modCore_misses (k : Nat) (f : Core → Core) : (s.modCore k f).misses = s.misses := rfl
@[simp] theorem State.modCore_reqs (k : Nat) (f : Core → Core) : (s.modCore k f).reqs = s.reqs := rfl
@[simp] theorem State.modCore_waitq (k : Nat) (f : Core → Core) : (s.modCore k f).waitq = s.waitq := rfl
@[simp] theorem State.modCore_replies (k : Nat) (f : Core → Core) : (s.modCore k f).replies = s.replies := rfl
@[simp] theorem State.modCore_resv (k : Nat) (f : Core → Core) : (s.modCore k f).resv = s.resv := rfl
@[simp] theorem State.modCore_owned (k : Nat) (f : Core → Core) : (s.modCore k f).owned = s.owned := rfl
@[simp] theorem State.modCore_ownReqs (k : Nat) (f : Core → Core) : (s.modCore k f).ownReqs = s.ownReqs := rfl
@[simp] theorem State.modCore_withdrawals (k : Nat) (f : Core → Core) : (s.modCore k f).withdrawals = s.withdrawals := rfl
@[simp] theorem State.modCore_results (k : Nat) (f : Core → Core) : (s.modCore k f).results = s.results := rfl
@[simp] theorem State.modCore_fills (k : Nat) (f : Core → Core) : (s.modCore k f).fills = s.fills := rfl
@[simp] theorem State.modCore_pkts (k : Nat) (f : Core → Core) : (s.modCore k f).pkts = s.pkts := rfl
@[simp] theorem State.modCore_supCmds (k : Nat) (f : Core → Core) : (s.modCore k f).supCmds = s.supCmds := rfl
@[simp] theorem State.modCore_qmsgs (k : Nat) (f : Core → Core) : (s.modCore k f).qmsgs = s.qmsgs := rfl
@[simp] theorem State.modCore_recvs (k : Nat) (f : Core → Core) : (s.modCore k f).recvs = s.recvs := rfl
@[simp] theorem State.modCore_appends (k : Nat) (f : Core → Core) : (s.modCore k f).appends = s.appends := rfl
@[simp] theorem State.modCore_pops (k : Nat) (f : Core → Core) : (s.modCore k f).pops = s.pops := rfl
@[simp] theorem State.modCore_submits (k : Nat) (f : Core → Core) : (s.modCore k f).submits = s.submits := rfl
@[simp] theorem State.modCore_launches (k : Nat) (f : Core → Core) : (s.modCore k f).launches = s.launches := rfl
@[simp] theorem State.modCore_signals (k : Nat) (f : Core → Core) : (s.modCore k f).signals = s.signals := rfl
@[simp] theorem State.modCore_arrivals (k : Nat) (f : Core → Core) : (s.modCore k f).arrivals = s.arrivals := rfl
@[simp] theorem State.modCore_reports (k : Nat) (f : Core → Core) : (s.modCore k f).reports = s.reports := rfl
@[simp] theorem State.modCore_stepReqs (k : Nat) (f : Core → Core) : (s.modCore k f).stepReqs = s.stepReqs := rfl
@[simp] theorem State.modCore_gateReports (k : Nat) (f : Core → Core) : (s.modCore k f).gateReports = s.gateReports := rfl
@[simp] theorem State.modCore_asleep (k : Nat) (f : Core → Core) : (s.modCore k f).asleep = s.asleep := rfl
@[simp] theorem State.modCore_saves (k : Nat) (f : Core → Core) : (s.modCore k f).saves = s.saves := rfl
@[simp] theorem State.modCore_foldImgs (k : Nat) (f : Core → Core) : (s.modCore k f).foldImgs = s.foldImgs := rfl
@[simp] theorem State.modCore_armedImgs (k : Nat) (f : Core → Core) : (s.modCore k f).armedImgs = s.armedImgs := rfl
@[simp] theorem State.modCore_mymod (k : Nat) (f : Core → Core) : (s.modCore k f).mymod = s.mymod := rfl
@[simp] theorem State.modCore_links (k : Nat) (f : Core → Core) : (s.modCore k f).links = s.links := rfl
@[simp] theorem State.modCore_leats (k : Nat) (f : Core → Core) : (s.modCore k f).leats = s.leats := rfl
@[simp] theorem State.modCore_hostWrites (k : Nat) (f : Core → Core) : (s.modCore k f).hostWrites = s.hostWrites := rfl
@[simp] theorem State.modCore_leatOut (k : Nat) (f : Core → Core) : (s.modCore k f).leatOut = s.leatOut := rfl
@[simp] theorem State.modCore_peerOut (k : Nat) (f : Core → Core) : (s.modCore k f).peerOut = s.peerOut := rfl
@[simp] theorem State.modCore_taps (k : Nat) (f : Core → Core) : (s.modCore k f).taps = s.taps := rfl
@[simp] theorem State.modCore_plim (k : Nat) (f : Core → Core) : (s.modCore k f).plim = s.plim := rfl
@[simp] theorem State.modCore_pavg (k : Nat) (f : Core → Core) : (s.modCore k f).pavg = s.pavg := rfl
@[simp] theorem State.modCore_pbusy (k : Nat) (f : Core → Core) : (s.modCore k f).pbusy = s.pbusy := rfl
@[simp] theorem State.modCore_pdown (k : Nat) (f : Core → Core) : (s.modCore k f).pdown = s.pdown := rfl
@[simp] theorem State.modCore_plower (k : Nat) (f : Core → Core) : (s.modCore k f).plower = s.plower := rfl
@[simp] theorem State.modCore_pdue (k : Nat) (f : Core → Core) : (s.modCore k f).pdue = s.pdue := rfl
@[simp] theorem State.modCore_pwin (k : Nat) (f : Core → Core) : (s.modCore k f).pwin = s.pwin := rfl
@[simp] theorem State.modCore_part (k : Nat) (f : Core → Core) : (s.modCore k f).part = s.part := rfl
@[simp] theorem State.modCore_boots (k : Nat) (f : Core → Core) : (s.modCore k f).boots = s.boots := rfl
@[simp] theorem State.modCore_stage (k : Nat) (f : Core → Core) : (s.modCore k f).stage = s.stage := rfl
@[simp] theorem State.modCore_restart (k : Nat) (f : Core → Core) : (s.modCore k f).restart = s.restart := rfl
@[simp] theorem State.modCore_mats (k : Nat) (f : Core → Core) : (s.modCore k f).mats = s.mats := rfl
@[simp] theorem State.modCore_copies (k : Nat) (f : Core → Core) : (s.modCore k f).copies = s.copies := rfl
@[simp] theorem State.modCore_hvs (k : Nat) (f : Core → Core) : (s.modCore k f).hvs = s.hvs := rfl
@[simp] theorem State.modCore_slotAt (k : Nat) (f : Core → Core) (j p : Nat) : (s.modCore k f).slotAt j p = s.slotAt j p := rfl
@[simp] theorem State.modCore_siteAt (k : Nat) (f : Core → Core) (j : Nat) : (s.modCore k f).siteAt j = s.siteAt j := rfl
@[simp] theorem State.modCore_basinAt (k : Nat) (f : Core → Core) (j : Nat) : (s.modCore k f).basinAt j = s.basinAt j := rfl
@[simp] theorem State.modCore_matAt (k : Nat) (f : Core → Core) (j : Nat) : (s.modCore k f).matAt j = s.matAt j := rfl
@[simp] theorem State.modCore_copyAt (k : Nat) (f : Core → Core) (j : Nat) : (s.modCore k f).copyAt j = s.copyAt j := rfl
@[simp] theorem State.modCore_hvAt (k : Nat) (f : Core → Core) (j : Nat) : (s.modCore k f).hvAt j = s.hvAt j := rfl

/-! ### modSite -/

@[simp] theorem State.modSite_agenda (n : Nat) (f : Site → Site) : (s.modSite n f).agenda = s.agenda := rfl
@[simp] theorem State.modSite_cur (n : Nat) (f : Site → Site) : (s.modSite n f).cur = s.cur := rfl
@[simp] theorem State.modSite_nextId (n : Nat) (f : Site → Site) : (s.modSite n f).nextId = s.nextId := rfl
@[simp] theorem State.modSite_powered (n : Nat) (f : Site → Site) : (s.modSite n f).powered = s.powered := rfl
@[simp] theorem State.modSite_time (n : Nat) (f : Site → Site) : (s.modSite n f).time = s.time := rfl
@[simp] theorem State.modSite_mem (n : Nat) (f : Site → Site) : (s.modSite n f).mem = s.mem := rfl
@[simp] theorem State.modSite_slots (n : Nat) (f : Site → Site) : (s.modSite n f).slots = s.slots := rfl
@[simp] theorem State.modSite_cores (n : Nat) (f : Site → Site) : (s.modSite n f).cores = s.cores := rfl
@[simp] theorem State.modSite_sites (n : Nat) (f : Site → Site) : (s.modSite n f).sites = mput s.sites n (f (s.siteAt n)) := rfl
@[simp] theorem State.modSite_basins (n : Nat) (f : Site → Site) : (s.modSite n f).basins = s.basins := rfl
@[simp] theorem State.modSite_stores (n : Nat) (f : Site → Site) : (s.modSite n f).stores = s.stores := rfl
@[simp] theorem State.modSite_ports (n : Nat) (f : Site → Site) : (s.modSite n f).ports = s.ports := rfl
@[simp] theorem State.modSite_tlb1 (n : Nat) (f : Site → Site) : (s.modSite n f).tlb1 = s.tlb1 := rfl
@[simp] theorem State.modSite_tlb2 (n : Nat) (f : Site → Site) : (s.modSite n f).tlb2 = s.tlb2 := rfl
@[simp] theorem State.modSite_misses (n : Nat) (f : Site → Site) : (s.modSite n f).misses = s.misses := rfl
@[simp] theorem State.modSite_reqs (n : Nat) (f : Site → Site) : (s.modSite n f).reqs = s.reqs := rfl
@[simp] theorem State.modSite_waitq (n : Nat) (f : Site → Site) : (s.modSite n f).waitq = s.waitq := rfl
@[simp] theorem State.modSite_replies (n : Nat) (f : Site → Site) : (s.modSite n f).replies = s.replies := rfl
@[simp] theorem State.modSite_resv (n : Nat) (f : Site → Site) : (s.modSite n f).resv = s.resv := rfl
@[simp] theorem State.modSite_owned (n : Nat) (f : Site → Site) : (s.modSite n f).owned = s.owned := rfl
@[simp] theorem State.modSite_ownReqs (n : Nat) (f : Site → Site) : (s.modSite n f).ownReqs = s.ownReqs := rfl
@[simp] theorem State.modSite_withdrawals (n : Nat) (f : Site → Site) : (s.modSite n f).withdrawals = s.withdrawals := rfl
@[simp] theorem State.modSite_results (n : Nat) (f : Site → Site) : (s.modSite n f).results = s.results := rfl
@[simp] theorem State.modSite_fills (n : Nat) (f : Site → Site) : (s.modSite n f).fills = s.fills := rfl
@[simp] theorem State.modSite_pkts (n : Nat) (f : Site → Site) : (s.modSite n f).pkts = s.pkts := rfl
@[simp] theorem State.modSite_supCmds (n : Nat) (f : Site → Site) : (s.modSite n f).supCmds = s.supCmds := rfl
@[simp] theorem State.modSite_qmsgs (n : Nat) (f : Site → Site) : (s.modSite n f).qmsgs = s.qmsgs := rfl
@[simp] theorem State.modSite_recvs (n : Nat) (f : Site → Site) : (s.modSite n f).recvs = s.recvs := rfl
@[simp] theorem State.modSite_appends (n : Nat) (f : Site → Site) : (s.modSite n f).appends = s.appends := rfl
@[simp] theorem State.modSite_pops (n : Nat) (f : Site → Site) : (s.modSite n f).pops = s.pops := rfl
@[simp] theorem State.modSite_submits (n : Nat) (f : Site → Site) : (s.modSite n f).submits = s.submits := rfl
@[simp] theorem State.modSite_launches (n : Nat) (f : Site → Site) : (s.modSite n f).launches = s.launches := rfl
@[simp] theorem State.modSite_signals (n : Nat) (f : Site → Site) : (s.modSite n f).signals = s.signals := rfl
@[simp] theorem State.modSite_arrivals (n : Nat) (f : Site → Site) : (s.modSite n f).arrivals = s.arrivals := rfl
@[simp] theorem State.modSite_reports (n : Nat) (f : Site → Site) : (s.modSite n f).reports = s.reports := rfl
@[simp] theorem State.modSite_stepReqs (n : Nat) (f : Site → Site) : (s.modSite n f).stepReqs = s.stepReqs := rfl
@[simp] theorem State.modSite_gateReports (n : Nat) (f : Site → Site) : (s.modSite n f).gateReports = s.gateReports := rfl
@[simp] theorem State.modSite_asleep (n : Nat) (f : Site → Site) : (s.modSite n f).asleep = s.asleep := rfl
@[simp] theorem State.modSite_saves (n : Nat) (f : Site → Site) : (s.modSite n f).saves = s.saves := rfl
@[simp] theorem State.modSite_foldImgs (n : Nat) (f : Site → Site) : (s.modSite n f).foldImgs = s.foldImgs := rfl
@[simp] theorem State.modSite_armedImgs (n : Nat) (f : Site → Site) : (s.modSite n f).armedImgs = s.armedImgs := rfl
@[simp] theorem State.modSite_mymod (n : Nat) (f : Site → Site) : (s.modSite n f).mymod = s.mymod := rfl
@[simp] theorem State.modSite_links (n : Nat) (f : Site → Site) : (s.modSite n f).links = s.links := rfl
@[simp] theorem State.modSite_leats (n : Nat) (f : Site → Site) : (s.modSite n f).leats = s.leats := rfl
@[simp] theorem State.modSite_hostWrites (n : Nat) (f : Site → Site) : (s.modSite n f).hostWrites = s.hostWrites := rfl
@[simp] theorem State.modSite_leatOut (n : Nat) (f : Site → Site) : (s.modSite n f).leatOut = s.leatOut := rfl
@[simp] theorem State.modSite_peerOut (n : Nat) (f : Site → Site) : (s.modSite n f).peerOut = s.peerOut := rfl
@[simp] theorem State.modSite_taps (n : Nat) (f : Site → Site) : (s.modSite n f).taps = s.taps := rfl
@[simp] theorem State.modSite_plim (n : Nat) (f : Site → Site) : (s.modSite n f).plim = s.plim := rfl
@[simp] theorem State.modSite_pavg (n : Nat) (f : Site → Site) : (s.modSite n f).pavg = s.pavg := rfl
@[simp] theorem State.modSite_pbusy (n : Nat) (f : Site → Site) : (s.modSite n f).pbusy = s.pbusy := rfl
@[simp] theorem State.modSite_pdown (n : Nat) (f : Site → Site) : (s.modSite n f).pdown = s.pdown := rfl
@[simp] theorem State.modSite_plower (n : Nat) (f : Site → Site) : (s.modSite n f).plower = s.plower := rfl
@[simp] theorem State.modSite_pdue (n : Nat) (f : Site → Site) : (s.modSite n f).pdue = s.pdue := rfl
@[simp] theorem State.modSite_pwin (n : Nat) (f : Site → Site) : (s.modSite n f).pwin = s.pwin := rfl
@[simp] theorem State.modSite_part (n : Nat) (f : Site → Site) : (s.modSite n f).part = s.part := rfl
@[simp] theorem State.modSite_boots (n : Nat) (f : Site → Site) : (s.modSite n f).boots = s.boots := rfl
@[simp] theorem State.modSite_stage (n : Nat) (f : Site → Site) : (s.modSite n f).stage = s.stage := rfl
@[simp] theorem State.modSite_restart (n : Nat) (f : Site → Site) : (s.modSite n f).restart = s.restart := rfl
@[simp] theorem State.modSite_mats (n : Nat) (f : Site → Site) : (s.modSite n f).mats = s.mats := rfl
@[simp] theorem State.modSite_copies (n : Nat) (f : Site → Site) : (s.modSite n f).copies = s.copies := rfl
@[simp] theorem State.modSite_hvs (n : Nat) (f : Site → Site) : (s.modSite n f).hvs = s.hvs := rfl
@[simp] theorem State.modSite_slotAt (n : Nat) (f : Site → Site) (j p : Nat) : (s.modSite n f).slotAt j p = s.slotAt j p := rfl
@[simp] theorem State.modSite_coreAt (n : Nat) (f : Site → Site) (j : Nat) : (s.modSite n f).coreAt j = s.coreAt j := rfl
@[simp] theorem State.modSite_basinAt (n : Nat) (f : Site → Site) (j : Nat) : (s.modSite n f).basinAt j = s.basinAt j := rfl
@[simp] theorem State.modSite_matAt (n : Nat) (f : Site → Site) (j : Nat) : (s.modSite n f).matAt j = s.matAt j := rfl
@[simp] theorem State.modSite_copyAt (n : Nat) (f : Site → Site) (j : Nat) : (s.modSite n f).copyAt j = s.copyAt j := rfl
@[simp] theorem State.modSite_hvAt (n : Nat) (f : Site → Site) (j : Nat) : (s.modSite n f).hvAt j = s.hvAt j := rfl

/-! ### modBasin -/

@[simp] theorem State.modBasin_agenda (b : Nat) (f : Basin → Basin) : (s.modBasin b f).agenda = s.agenda := rfl
@[simp] theorem State.modBasin_cur (b : Nat) (f : Basin → Basin) : (s.modBasin b f).cur = s.cur := rfl
@[simp] theorem State.modBasin_nextId (b : Nat) (f : Basin → Basin) : (s.modBasin b f).nextId = s.nextId := rfl
@[simp] theorem State.modBasin_powered (b : Nat) (f : Basin → Basin) : (s.modBasin b f).powered = s.powered := rfl
@[simp] theorem State.modBasin_time (b : Nat) (f : Basin → Basin) : (s.modBasin b f).time = s.time := rfl
@[simp] theorem State.modBasin_mem (b : Nat) (f : Basin → Basin) : (s.modBasin b f).mem = s.mem := rfl
@[simp] theorem State.modBasin_slots (b : Nat) (f : Basin → Basin) : (s.modBasin b f).slots = s.slots := rfl
@[simp] theorem State.modBasin_cores (b : Nat) (f : Basin → Basin) : (s.modBasin b f).cores = s.cores := rfl
@[simp] theorem State.modBasin_sites (b : Nat) (f : Basin → Basin) : (s.modBasin b f).sites = s.sites := rfl
@[simp] theorem State.modBasin_basins (b : Nat) (f : Basin → Basin) : (s.modBasin b f).basins = mput s.basins b (f (s.basinAt b)) := rfl
@[simp] theorem State.modBasin_stores (b : Nat) (f : Basin → Basin) : (s.modBasin b f).stores = s.stores := rfl
@[simp] theorem State.modBasin_ports (b : Nat) (f : Basin → Basin) : (s.modBasin b f).ports = s.ports := rfl
@[simp] theorem State.modBasin_tlb1 (b : Nat) (f : Basin → Basin) : (s.modBasin b f).tlb1 = s.tlb1 := rfl
@[simp] theorem State.modBasin_tlb2 (b : Nat) (f : Basin → Basin) : (s.modBasin b f).tlb2 = s.tlb2 := rfl
@[simp] theorem State.modBasin_misses (b : Nat) (f : Basin → Basin) : (s.modBasin b f).misses = s.misses := rfl
@[simp] theorem State.modBasin_reqs (b : Nat) (f : Basin → Basin) : (s.modBasin b f).reqs = s.reqs := rfl
@[simp] theorem State.modBasin_waitq (b : Nat) (f : Basin → Basin) : (s.modBasin b f).waitq = s.waitq := rfl
@[simp] theorem State.modBasin_replies (b : Nat) (f : Basin → Basin) : (s.modBasin b f).replies = s.replies := rfl
@[simp] theorem State.modBasin_resv (b : Nat) (f : Basin → Basin) : (s.modBasin b f).resv = s.resv := rfl
@[simp] theorem State.modBasin_owned (b : Nat) (f : Basin → Basin) : (s.modBasin b f).owned = s.owned := rfl
@[simp] theorem State.modBasin_ownReqs (b : Nat) (f : Basin → Basin) : (s.modBasin b f).ownReqs = s.ownReqs := rfl
@[simp] theorem State.modBasin_withdrawals (b : Nat) (f : Basin → Basin) : (s.modBasin b f).withdrawals = s.withdrawals := rfl
@[simp] theorem State.modBasin_results (b : Nat) (f : Basin → Basin) : (s.modBasin b f).results = s.results := rfl
@[simp] theorem State.modBasin_fills (b : Nat) (f : Basin → Basin) : (s.modBasin b f).fills = s.fills := rfl
@[simp] theorem State.modBasin_pkts (b : Nat) (f : Basin → Basin) : (s.modBasin b f).pkts = s.pkts := rfl
@[simp] theorem State.modBasin_supCmds (b : Nat) (f : Basin → Basin) : (s.modBasin b f).supCmds = s.supCmds := rfl
@[simp] theorem State.modBasin_qmsgs (b : Nat) (f : Basin → Basin) : (s.modBasin b f).qmsgs = s.qmsgs := rfl
@[simp] theorem State.modBasin_recvs (b : Nat) (f : Basin → Basin) : (s.modBasin b f).recvs = s.recvs := rfl
@[simp] theorem State.modBasin_appends (b : Nat) (f : Basin → Basin) : (s.modBasin b f).appends = s.appends := rfl
@[simp] theorem State.modBasin_pops (b : Nat) (f : Basin → Basin) : (s.modBasin b f).pops = s.pops := rfl
@[simp] theorem State.modBasin_submits (b : Nat) (f : Basin → Basin) : (s.modBasin b f).submits = s.submits := rfl
@[simp] theorem State.modBasin_launches (b : Nat) (f : Basin → Basin) : (s.modBasin b f).launches = s.launches := rfl
@[simp] theorem State.modBasin_signals (b : Nat) (f : Basin → Basin) : (s.modBasin b f).signals = s.signals := rfl
@[simp] theorem State.modBasin_arrivals (b : Nat) (f : Basin → Basin) : (s.modBasin b f).arrivals = s.arrivals := rfl
@[simp] theorem State.modBasin_reports (b : Nat) (f : Basin → Basin) : (s.modBasin b f).reports = s.reports := rfl
@[simp] theorem State.modBasin_stepReqs (b : Nat) (f : Basin → Basin) : (s.modBasin b f).stepReqs = s.stepReqs := rfl
@[simp] theorem State.modBasin_gateReports (b : Nat) (f : Basin → Basin) : (s.modBasin b f).gateReports = s.gateReports := rfl
@[simp] theorem State.modBasin_asleep (b : Nat) (f : Basin → Basin) : (s.modBasin b f).asleep = s.asleep := rfl
@[simp] theorem State.modBasin_saves (b : Nat) (f : Basin → Basin) : (s.modBasin b f).saves = s.saves := rfl
@[simp] theorem State.modBasin_foldImgs (b : Nat) (f : Basin → Basin) : (s.modBasin b f).foldImgs = s.foldImgs := rfl
@[simp] theorem State.modBasin_armedImgs (b : Nat) (f : Basin → Basin) : (s.modBasin b f).armedImgs = s.armedImgs := rfl
@[simp] theorem State.modBasin_mymod (b : Nat) (f : Basin → Basin) : (s.modBasin b f).mymod = s.mymod := rfl
@[simp] theorem State.modBasin_links (b : Nat) (f : Basin → Basin) : (s.modBasin b f).links = s.links := rfl
@[simp] theorem State.modBasin_leats (b : Nat) (f : Basin → Basin) : (s.modBasin b f).leats = s.leats := rfl
@[simp] theorem State.modBasin_hostWrites (b : Nat) (f : Basin → Basin) : (s.modBasin b f).hostWrites = s.hostWrites := rfl
@[simp] theorem State.modBasin_leatOut (b : Nat) (f : Basin → Basin) : (s.modBasin b f).leatOut = s.leatOut := rfl
@[simp] theorem State.modBasin_peerOut (b : Nat) (f : Basin → Basin) : (s.modBasin b f).peerOut = s.peerOut := rfl
@[simp] theorem State.modBasin_taps (b : Nat) (f : Basin → Basin) : (s.modBasin b f).taps = s.taps := rfl
@[simp] theorem State.modBasin_plim (b : Nat) (f : Basin → Basin) : (s.modBasin b f).plim = s.plim := rfl
@[simp] theorem State.modBasin_pavg (b : Nat) (f : Basin → Basin) : (s.modBasin b f).pavg = s.pavg := rfl
@[simp] theorem State.modBasin_pbusy (b : Nat) (f : Basin → Basin) : (s.modBasin b f).pbusy = s.pbusy := rfl
@[simp] theorem State.modBasin_pdown (b : Nat) (f : Basin → Basin) : (s.modBasin b f).pdown = s.pdown := rfl
@[simp] theorem State.modBasin_plower (b : Nat) (f : Basin → Basin) : (s.modBasin b f).plower = s.plower := rfl
@[simp] theorem State.modBasin_pdue (b : Nat) (f : Basin → Basin) : (s.modBasin b f).pdue = s.pdue := rfl
@[simp] theorem State.modBasin_pwin (b : Nat) (f : Basin → Basin) : (s.modBasin b f).pwin = s.pwin := rfl
@[simp] theorem State.modBasin_part (b : Nat) (f : Basin → Basin) : (s.modBasin b f).part = s.part := rfl
@[simp] theorem State.modBasin_boots (b : Nat) (f : Basin → Basin) : (s.modBasin b f).boots = s.boots := rfl
@[simp] theorem State.modBasin_stage (b : Nat) (f : Basin → Basin) : (s.modBasin b f).stage = s.stage := rfl
@[simp] theorem State.modBasin_restart (b : Nat) (f : Basin → Basin) : (s.modBasin b f).restart = s.restart := rfl
@[simp] theorem State.modBasin_mats (b : Nat) (f : Basin → Basin) : (s.modBasin b f).mats = s.mats := rfl
@[simp] theorem State.modBasin_copies (b : Nat) (f : Basin → Basin) : (s.modBasin b f).copies = s.copies := rfl
@[simp] theorem State.modBasin_hvs (b : Nat) (f : Basin → Basin) : (s.modBasin b f).hvs = s.hvs := rfl
@[simp] theorem State.modBasin_slotAt (b : Nat) (f : Basin → Basin) (j p : Nat) : (s.modBasin b f).slotAt j p = s.slotAt j p := rfl
@[simp] theorem State.modBasin_coreAt (b : Nat) (f : Basin → Basin) (j : Nat) : (s.modBasin b f).coreAt j = s.coreAt j := rfl
@[simp] theorem State.modBasin_siteAt (b : Nat) (f : Basin → Basin) (j : Nat) : (s.modBasin b f).siteAt j = s.siteAt j := rfl
@[simp] theorem State.modBasin_matAt (b : Nat) (f : Basin → Basin) (j : Nat) : (s.modBasin b f).matAt j = s.matAt j := rfl
@[simp] theorem State.modBasin_copyAt (b : Nat) (f : Basin → Basin) (j : Nat) : (s.modBasin b f).copyAt j = s.copyAt j := rfl
@[simp] theorem State.modBasin_hvAt (b : Nat) (f : Basin → Basin) (j : Nat) : (s.modBasin b f).hvAt j = s.hvAt j := rfl

/-! ### modRun -/

@[simp] theorem State.modRun_agenda (c q : Nat) (f : Run → Run) : (s.modRun c q f).agenda = s.agenda := rfl
@[simp] theorem State.modRun_cur (c q : Nat) (f : Run → Run) : (s.modRun c q f).cur = s.cur := rfl
@[simp] theorem State.modRun_nextId (c q : Nat) (f : Run → Run) : (s.modRun c q f).nextId = s.nextId := rfl
@[simp] theorem State.modRun_powered (c q : Nat) (f : Run → Run) : (s.modRun c q f).powered = s.powered := rfl
@[simp] theorem State.modRun_time (c q : Nat) (f : Run → Run) : (s.modRun c q f).time = s.time := rfl
@[simp] theorem State.modRun_mem (c q : Nat) (f : Run → Run) : (s.modRun c q f).mem = s.mem := rfl
@[simp] theorem State.modRun_cores (c q : Nat) (f : Run → Run) : (s.modRun c q f).cores = s.cores := rfl
@[simp] theorem State.modRun_sites (c q : Nat) (f : Run → Run) : (s.modRun c q f).sites = s.sites := rfl
@[simp] theorem State.modRun_basins (c q : Nat) (f : Run → Run) : (s.modRun c q f).basins = s.basins := rfl
@[simp] theorem State.modRun_stores (c q : Nat) (f : Run → Run) : (s.modRun c q f).stores = s.stores := rfl
@[simp] theorem State.modRun_ports (c q : Nat) (f : Run → Run) : (s.modRun c q f).ports = s.ports := rfl
@[simp] theorem State.modRun_tlb1 (c q : Nat) (f : Run → Run) : (s.modRun c q f).tlb1 = s.tlb1 := rfl
@[simp] theorem State.modRun_tlb2 (c q : Nat) (f : Run → Run) : (s.modRun c q f).tlb2 = s.tlb2 := rfl
@[simp] theorem State.modRun_misses (c q : Nat) (f : Run → Run) : (s.modRun c q f).misses = s.misses := rfl
@[simp] theorem State.modRun_reqs (c q : Nat) (f : Run → Run) : (s.modRun c q f).reqs = s.reqs := rfl
@[simp] theorem State.modRun_waitq (c q : Nat) (f : Run → Run) : (s.modRun c q f).waitq = s.waitq := rfl
@[simp] theorem State.modRun_replies (c q : Nat) (f : Run → Run) : (s.modRun c q f).replies = s.replies := rfl
@[simp] theorem State.modRun_resv (c q : Nat) (f : Run → Run) : (s.modRun c q f).resv = s.resv := rfl
@[simp] theorem State.modRun_owned (c q : Nat) (f : Run → Run) : (s.modRun c q f).owned = s.owned := rfl
@[simp] theorem State.modRun_ownReqs (c q : Nat) (f : Run → Run) : (s.modRun c q f).ownReqs = s.ownReqs := rfl
@[simp] theorem State.modRun_withdrawals (c q : Nat) (f : Run → Run) : (s.modRun c q f).withdrawals = s.withdrawals := rfl
@[simp] theorem State.modRun_results (c q : Nat) (f : Run → Run) : (s.modRun c q f).results = s.results := rfl
@[simp] theorem State.modRun_fills (c q : Nat) (f : Run → Run) : (s.modRun c q f).fills = s.fills := rfl
@[simp] theorem State.modRun_pkts (c q : Nat) (f : Run → Run) : (s.modRun c q f).pkts = s.pkts := rfl
@[simp] theorem State.modRun_supCmds (c q : Nat) (f : Run → Run) : (s.modRun c q f).supCmds = s.supCmds := rfl
@[simp] theorem State.modRun_qmsgs (c q : Nat) (f : Run → Run) : (s.modRun c q f).qmsgs = s.qmsgs := rfl
@[simp] theorem State.modRun_recvs (c q : Nat) (f : Run → Run) : (s.modRun c q f).recvs = s.recvs := rfl
@[simp] theorem State.modRun_appends (c q : Nat) (f : Run → Run) : (s.modRun c q f).appends = s.appends := rfl
@[simp] theorem State.modRun_pops (c q : Nat) (f : Run → Run) : (s.modRun c q f).pops = s.pops := rfl
@[simp] theorem State.modRun_submits (c q : Nat) (f : Run → Run) : (s.modRun c q f).submits = s.submits := rfl
@[simp] theorem State.modRun_launches (c q : Nat) (f : Run → Run) : (s.modRun c q f).launches = s.launches := rfl
@[simp] theorem State.modRun_signals (c q : Nat) (f : Run → Run) : (s.modRun c q f).signals = s.signals := rfl
@[simp] theorem State.modRun_arrivals (c q : Nat) (f : Run → Run) : (s.modRun c q f).arrivals = s.arrivals := rfl
@[simp] theorem State.modRun_reports (c q : Nat) (f : Run → Run) : (s.modRun c q f).reports = s.reports := rfl
@[simp] theorem State.modRun_stepReqs (c q : Nat) (f : Run → Run) : (s.modRun c q f).stepReqs = s.stepReqs := rfl
@[simp] theorem State.modRun_gateReports (c q : Nat) (f : Run → Run) : (s.modRun c q f).gateReports = s.gateReports := rfl
@[simp] theorem State.modRun_asleep (c q : Nat) (f : Run → Run) : (s.modRun c q f).asleep = s.asleep := rfl
@[simp] theorem State.modRun_saves (c q : Nat) (f : Run → Run) : (s.modRun c q f).saves = s.saves := rfl
@[simp] theorem State.modRun_foldImgs (c q : Nat) (f : Run → Run) : (s.modRun c q f).foldImgs = s.foldImgs := rfl
@[simp] theorem State.modRun_armedImgs (c q : Nat) (f : Run → Run) : (s.modRun c q f).armedImgs = s.armedImgs := rfl
@[simp] theorem State.modRun_mymod (c q : Nat) (f : Run → Run) : (s.modRun c q f).mymod = s.mymod := rfl
@[simp] theorem State.modRun_links (c q : Nat) (f : Run → Run) : (s.modRun c q f).links = s.links := rfl
@[simp] theorem State.modRun_leats (c q : Nat) (f : Run → Run) : (s.modRun c q f).leats = s.leats := rfl
@[simp] theorem State.modRun_hostWrites (c q : Nat) (f : Run → Run) : (s.modRun c q f).hostWrites = s.hostWrites := rfl
@[simp] theorem State.modRun_leatOut (c q : Nat) (f : Run → Run) : (s.modRun c q f).leatOut = s.leatOut := rfl
@[simp] theorem State.modRun_peerOut (c q : Nat) (f : Run → Run) : (s.modRun c q f).peerOut = s.peerOut := rfl
@[simp] theorem State.modRun_taps (c q : Nat) (f : Run → Run) : (s.modRun c q f).taps = s.taps := rfl
@[simp] theorem State.modRun_plim (c q : Nat) (f : Run → Run) : (s.modRun c q f).plim = s.plim := rfl
@[simp] theorem State.modRun_pavg (c q : Nat) (f : Run → Run) : (s.modRun c q f).pavg = s.pavg := rfl
@[simp] theorem State.modRun_pbusy (c q : Nat) (f : Run → Run) : (s.modRun c q f).pbusy = s.pbusy := rfl
@[simp] theorem State.modRun_pdown (c q : Nat) (f : Run → Run) : (s.modRun c q f).pdown = s.pdown := rfl
@[simp] theorem State.modRun_plower (c q : Nat) (f : Run → Run) : (s.modRun c q f).plower = s.plower := rfl
@[simp] theorem State.modRun_pdue (c q : Nat) (f : Run → Run) : (s.modRun c q f).pdue = s.pdue := rfl
@[simp] theorem State.modRun_pwin (c q : Nat) (f : Run → Run) : (s.modRun c q f).pwin = s.pwin := rfl
@[simp] theorem State.modRun_part (c q : Nat) (f : Run → Run) : (s.modRun c q f).part = s.part := rfl
@[simp] theorem State.modRun_boots (c q : Nat) (f : Run → Run) : (s.modRun c q f).boots = s.boots := rfl
@[simp] theorem State.modRun_stage (c q : Nat) (f : Run → Run) : (s.modRun c q f).stage = s.stage := rfl
@[simp] theorem State.modRun_restart (c q : Nat) (f : Run → Run) : (s.modRun c q f).restart = s.restart := rfl
@[simp] theorem State.modRun_mats (c q : Nat) (f : Run → Run) : (s.modRun c q f).mats = s.mats := rfl
@[simp] theorem State.modRun_copies (c q : Nat) (f : Run → Run) : (s.modRun c q f).copies = s.copies := rfl
@[simp] theorem State.modRun_hvs (c q : Nat) (f : Run → Run) : (s.modRun c q f).hvs = s.hvs := rfl
@[simp] theorem State.modRun_coreAt (c q : Nat) (f : Run → Run) (j : Nat) : (s.modRun c q f).coreAt j = s.coreAt j := rfl
@[simp] theorem State.modRun_siteAt (c q : Nat) (f : Run → Run) (j : Nat) : (s.modRun c q f).siteAt j = s.siteAt j := rfl
@[simp] theorem State.modRun_basinAt (c q : Nat) (f : Run → Run) (j : Nat) : (s.modRun c q f).basinAt j = s.basinAt j := rfl
@[simp] theorem State.modRun_matAt (c q : Nat) (f : Run → Run) (j : Nat) : (s.modRun c q f).matAt j = s.matAt j := rfl
@[simp] theorem State.modRun_copyAt (c q : Nat) (f : Run → Run) (j : Nat) : (s.modRun c q f).copyAt j = s.copyAt j := rfl
@[simp] theorem State.modRun_hvAt (c q : Nat) (f : Run → Run) (j : Nat) : (s.modRun c q f).hvAt j = s.hvAt j := rfl

/-! ### modInst -/

@[simp] theorem State.modInst_agenda (c q i : Nat) (f : Inst → Inst) : (s.modInst c q i f).agenda = s.agenda := rfl
@[simp] theorem State.modInst_cur (c q i : Nat) (f : Inst → Inst) : (s.modInst c q i f).cur = s.cur := rfl
@[simp] theorem State.modInst_nextId (c q i : Nat) (f : Inst → Inst) : (s.modInst c q i f).nextId = s.nextId := rfl
@[simp] theorem State.modInst_powered (c q i : Nat) (f : Inst → Inst) : (s.modInst c q i f).powered = s.powered := rfl
@[simp] theorem State.modInst_time (c q i : Nat) (f : Inst → Inst) : (s.modInst c q i f).time = s.time := rfl
@[simp] theorem State.modInst_mem (c q i : Nat) (f : Inst → Inst) : (s.modInst c q i f).mem = s.mem := rfl
@[simp] theorem State.modInst_cores (c q i : Nat) (f : Inst → Inst) : (s.modInst c q i f).cores = s.cores := rfl
@[simp] theorem State.modInst_sites (c q i : Nat) (f : Inst → Inst) : (s.modInst c q i f).sites = s.sites := rfl
@[simp] theorem State.modInst_basins (c q i : Nat) (f : Inst → Inst) : (s.modInst c q i f).basins = s.basins := rfl
@[simp] theorem State.modInst_stores (c q i : Nat) (f : Inst → Inst) : (s.modInst c q i f).stores = s.stores := rfl
@[simp] theorem State.modInst_ports (c q i : Nat) (f : Inst → Inst) : (s.modInst c q i f).ports = s.ports := rfl
@[simp] theorem State.modInst_tlb1 (c q i : Nat) (f : Inst → Inst) : (s.modInst c q i f).tlb1 = s.tlb1 := rfl
@[simp] theorem State.modInst_tlb2 (c q i : Nat) (f : Inst → Inst) : (s.modInst c q i f).tlb2 = s.tlb2 := rfl
@[simp] theorem State.modInst_misses (c q i : Nat) (f : Inst → Inst) : (s.modInst c q i f).misses = s.misses := rfl
@[simp] theorem State.modInst_reqs (c q i : Nat) (f : Inst → Inst) : (s.modInst c q i f).reqs = s.reqs := rfl
@[simp] theorem State.modInst_waitq (c q i : Nat) (f : Inst → Inst) : (s.modInst c q i f).waitq = s.waitq := rfl
@[simp] theorem State.modInst_replies (c q i : Nat) (f : Inst → Inst) : (s.modInst c q i f).replies = s.replies := rfl
@[simp] theorem State.modInst_resv (c q i : Nat) (f : Inst → Inst) : (s.modInst c q i f).resv = s.resv := rfl
@[simp] theorem State.modInst_owned (c q i : Nat) (f : Inst → Inst) : (s.modInst c q i f).owned = s.owned := rfl
@[simp] theorem State.modInst_ownReqs (c q i : Nat) (f : Inst → Inst) : (s.modInst c q i f).ownReqs = s.ownReqs := rfl
@[simp] theorem State.modInst_withdrawals (c q i : Nat) (f : Inst → Inst) : (s.modInst c q i f).withdrawals = s.withdrawals := rfl
@[simp] theorem State.modInst_results (c q i : Nat) (f : Inst → Inst) : (s.modInst c q i f).results = s.results := rfl
@[simp] theorem State.modInst_fills (c q i : Nat) (f : Inst → Inst) : (s.modInst c q i f).fills = s.fills := rfl
@[simp] theorem State.modInst_pkts (c q i : Nat) (f : Inst → Inst) : (s.modInst c q i f).pkts = s.pkts := rfl
@[simp] theorem State.modInst_supCmds (c q i : Nat) (f : Inst → Inst) : (s.modInst c q i f).supCmds = s.supCmds := rfl
@[simp] theorem State.modInst_qmsgs (c q i : Nat) (f : Inst → Inst) : (s.modInst c q i f).qmsgs = s.qmsgs := rfl
@[simp] theorem State.modInst_recvs (c q i : Nat) (f : Inst → Inst) : (s.modInst c q i f).recvs = s.recvs := rfl
@[simp] theorem State.modInst_appends (c q i : Nat) (f : Inst → Inst) : (s.modInst c q i f).appends = s.appends := rfl
@[simp] theorem State.modInst_pops (c q i : Nat) (f : Inst → Inst) : (s.modInst c q i f).pops = s.pops := rfl
@[simp] theorem State.modInst_submits (c q i : Nat) (f : Inst → Inst) : (s.modInst c q i f).submits = s.submits := rfl
@[simp] theorem State.modInst_launches (c q i : Nat) (f : Inst → Inst) : (s.modInst c q i f).launches = s.launches := rfl
@[simp] theorem State.modInst_signals (c q i : Nat) (f : Inst → Inst) : (s.modInst c q i f).signals = s.signals := rfl
@[simp] theorem State.modInst_arrivals (c q i : Nat) (f : Inst → Inst) : (s.modInst c q i f).arrivals = s.arrivals := rfl
@[simp] theorem State.modInst_reports (c q i : Nat) (f : Inst → Inst) : (s.modInst c q i f).reports = s.reports := rfl
@[simp] theorem State.modInst_stepReqs (c q i : Nat) (f : Inst → Inst) : (s.modInst c q i f).stepReqs = s.stepReqs := rfl
@[simp] theorem State.modInst_gateReports (c q i : Nat) (f : Inst → Inst) : (s.modInst c q i f).gateReports = s.gateReports := rfl
@[simp] theorem State.modInst_asleep (c q i : Nat) (f : Inst → Inst) : (s.modInst c q i f).asleep = s.asleep := rfl
@[simp] theorem State.modInst_saves (c q i : Nat) (f : Inst → Inst) : (s.modInst c q i f).saves = s.saves := rfl
@[simp] theorem State.modInst_foldImgs (c q i : Nat) (f : Inst → Inst) : (s.modInst c q i f).foldImgs = s.foldImgs := rfl
@[simp] theorem State.modInst_armedImgs (c q i : Nat) (f : Inst → Inst) : (s.modInst c q i f).armedImgs = s.armedImgs := rfl
@[simp] theorem State.modInst_mymod (c q i : Nat) (f : Inst → Inst) : (s.modInst c q i f).mymod = s.mymod := rfl
@[simp] theorem State.modInst_links (c q i : Nat) (f : Inst → Inst) : (s.modInst c q i f).links = s.links := rfl
@[simp] theorem State.modInst_leats (c q i : Nat) (f : Inst → Inst) : (s.modInst c q i f).leats = s.leats := rfl
@[simp] theorem State.modInst_hostWrites (c q i : Nat) (f : Inst → Inst) : (s.modInst c q i f).hostWrites = s.hostWrites := rfl
@[simp] theorem State.modInst_leatOut (c q i : Nat) (f : Inst → Inst) : (s.modInst c q i f).leatOut = s.leatOut := rfl
@[simp] theorem State.modInst_peerOut (c q i : Nat) (f : Inst → Inst) : (s.modInst c q i f).peerOut = s.peerOut := rfl
@[simp] theorem State.modInst_taps (c q i : Nat) (f : Inst → Inst) : (s.modInst c q i f).taps = s.taps := rfl
@[simp] theorem State.modInst_plim (c q i : Nat) (f : Inst → Inst) : (s.modInst c q i f).plim = s.plim := rfl
@[simp] theorem State.modInst_pavg (c q i : Nat) (f : Inst → Inst) : (s.modInst c q i f).pavg = s.pavg := rfl
@[simp] theorem State.modInst_pbusy (c q i : Nat) (f : Inst → Inst) : (s.modInst c q i f).pbusy = s.pbusy := rfl
@[simp] theorem State.modInst_pdown (c q i : Nat) (f : Inst → Inst) : (s.modInst c q i f).pdown = s.pdown := rfl
@[simp] theorem State.modInst_plower (c q i : Nat) (f : Inst → Inst) : (s.modInst c q i f).plower = s.plower := rfl
@[simp] theorem State.modInst_pdue (c q i : Nat) (f : Inst → Inst) : (s.modInst c q i f).pdue = s.pdue := rfl
@[simp] theorem State.modInst_pwin (c q i : Nat) (f : Inst → Inst) : (s.modInst c q i f).pwin = s.pwin := rfl
@[simp] theorem State.modInst_part (c q i : Nat) (f : Inst → Inst) : (s.modInst c q i f).part = s.part := rfl
@[simp] theorem State.modInst_boots (c q i : Nat) (f : Inst → Inst) : (s.modInst c q i f).boots = s.boots := rfl
@[simp] theorem State.modInst_stage (c q i : Nat) (f : Inst → Inst) : (s.modInst c q i f).stage = s.stage := rfl
@[simp] theorem State.modInst_restart (c q i : Nat) (f : Inst → Inst) : (s.modInst c q i f).restart = s.restart := rfl
@[simp] theorem State.modInst_mats (c q i : Nat) (f : Inst → Inst) : (s.modInst c q i f).mats = s.mats := rfl
@[simp] theorem State.modInst_copies (c q i : Nat) (f : Inst → Inst) : (s.modInst c q i f).copies = s.copies := rfl
@[simp] theorem State.modInst_hvs (c q i : Nat) (f : Inst → Inst) : (s.modInst c q i f).hvs = s.hvs := rfl
@[simp] theorem State.modInst_coreAt (c q i : Nat) (f : Inst → Inst) (j : Nat) : (s.modInst c q i f).coreAt j = s.coreAt j := rfl
@[simp] theorem State.modInst_siteAt (c q i : Nat) (f : Inst → Inst) (j : Nat) : (s.modInst c q i f).siteAt j = s.siteAt j := rfl
@[simp] theorem State.modInst_basinAt (c q i : Nat) (f : Inst → Inst) (j : Nat) : (s.modInst c q i f).basinAt j = s.basinAt j := rfl
@[simp] theorem State.modInst_matAt (c q i : Nat) (f : Inst → Inst) (j : Nat) : (s.modInst c q i f).matAt j = s.matAt j := rfl
@[simp] theorem State.modInst_copyAt (c q i : Nat) (f : Inst → Inst) (j : Nat) : (s.modInst c q i f).copyAt j = s.copyAt j := rfl
@[simp] theorem State.modInst_hvAt (c q i : Nat) (f : Inst → Inst) (j : Nat) : (s.modInst c q i f).hvAt j = s.hvAt j := rfl

/-! ### setSt -/

@[simp] theorem State.setSt_agenda (c q i : Nat) (v : InstSt) : (s.setSt c q i v).agenda = s.agenda := rfl
@[simp] theorem State.setSt_cur (c q i : Nat) (v : InstSt) : (s.setSt c q i v).cur = s.cur := rfl
@[simp] theorem State.setSt_nextId (c q i : Nat) (v : InstSt) : (s.setSt c q i v).nextId = s.nextId := rfl
@[simp] theorem State.setSt_powered (c q i : Nat) (v : InstSt) : (s.setSt c q i v).powered = s.powered := rfl
@[simp] theorem State.setSt_time (c q i : Nat) (v : InstSt) : (s.setSt c q i v).time = s.time := rfl
@[simp] theorem State.setSt_mem (c q i : Nat) (v : InstSt) : (s.setSt c q i v).mem = s.mem := rfl
@[simp] theorem State.setSt_cores (c q i : Nat) (v : InstSt) : (s.setSt c q i v).cores = s.cores := rfl
@[simp] theorem State.setSt_sites (c q i : Nat) (v : InstSt) : (s.setSt c q i v).sites = s.sites := rfl
@[simp] theorem State.setSt_basins (c q i : Nat) (v : InstSt) : (s.setSt c q i v).basins = s.basins := rfl
@[simp] theorem State.setSt_stores (c q i : Nat) (v : InstSt) : (s.setSt c q i v).stores = s.stores := rfl
@[simp] theorem State.setSt_ports (c q i : Nat) (v : InstSt) : (s.setSt c q i v).ports = s.ports := rfl
@[simp] theorem State.setSt_tlb1 (c q i : Nat) (v : InstSt) : (s.setSt c q i v).tlb1 = s.tlb1 := rfl
@[simp] theorem State.setSt_tlb2 (c q i : Nat) (v : InstSt) : (s.setSt c q i v).tlb2 = s.tlb2 := rfl
@[simp] theorem State.setSt_misses (c q i : Nat) (v : InstSt) : (s.setSt c q i v).misses = s.misses := rfl
@[simp] theorem State.setSt_reqs (c q i : Nat) (v : InstSt) : (s.setSt c q i v).reqs = s.reqs := rfl
@[simp] theorem State.setSt_waitq (c q i : Nat) (v : InstSt) : (s.setSt c q i v).waitq = s.waitq := rfl
@[simp] theorem State.setSt_replies (c q i : Nat) (v : InstSt) : (s.setSt c q i v).replies = s.replies := rfl
@[simp] theorem State.setSt_resv (c q i : Nat) (v : InstSt) : (s.setSt c q i v).resv = s.resv := rfl
@[simp] theorem State.setSt_owned (c q i : Nat) (v : InstSt) : (s.setSt c q i v).owned = s.owned := rfl
@[simp] theorem State.setSt_ownReqs (c q i : Nat) (v : InstSt) : (s.setSt c q i v).ownReqs = s.ownReqs := rfl
@[simp] theorem State.setSt_withdrawals (c q i : Nat) (v : InstSt) : (s.setSt c q i v).withdrawals = s.withdrawals := rfl
@[simp] theorem State.setSt_results (c q i : Nat) (v : InstSt) : (s.setSt c q i v).results = s.results := rfl
@[simp] theorem State.setSt_fills (c q i : Nat) (v : InstSt) : (s.setSt c q i v).fills = s.fills := rfl
@[simp] theorem State.setSt_pkts (c q i : Nat) (v : InstSt) : (s.setSt c q i v).pkts = s.pkts := rfl
@[simp] theorem State.setSt_supCmds (c q i : Nat) (v : InstSt) : (s.setSt c q i v).supCmds = s.supCmds := rfl
@[simp] theorem State.setSt_qmsgs (c q i : Nat) (v : InstSt) : (s.setSt c q i v).qmsgs = s.qmsgs := rfl
@[simp] theorem State.setSt_recvs (c q i : Nat) (v : InstSt) : (s.setSt c q i v).recvs = s.recvs := rfl
@[simp] theorem State.setSt_appends (c q i : Nat) (v : InstSt) : (s.setSt c q i v).appends = s.appends := rfl
@[simp] theorem State.setSt_pops (c q i : Nat) (v : InstSt) : (s.setSt c q i v).pops = s.pops := rfl
@[simp] theorem State.setSt_submits (c q i : Nat) (v : InstSt) : (s.setSt c q i v).submits = s.submits := rfl
@[simp] theorem State.setSt_launches (c q i : Nat) (v : InstSt) : (s.setSt c q i v).launches = s.launches := rfl
@[simp] theorem State.setSt_signals (c q i : Nat) (v : InstSt) : (s.setSt c q i v).signals = s.signals := rfl
@[simp] theorem State.setSt_arrivals (c q i : Nat) (v : InstSt) : (s.setSt c q i v).arrivals = s.arrivals := rfl
@[simp] theorem State.setSt_reports (c q i : Nat) (v : InstSt) : (s.setSt c q i v).reports = s.reports := rfl
@[simp] theorem State.setSt_stepReqs (c q i : Nat) (v : InstSt) : (s.setSt c q i v).stepReqs = s.stepReqs := rfl
@[simp] theorem State.setSt_gateReports (c q i : Nat) (v : InstSt) : (s.setSt c q i v).gateReports = s.gateReports := rfl
@[simp] theorem State.setSt_asleep (c q i : Nat) (v : InstSt) : (s.setSt c q i v).asleep = s.asleep := rfl
@[simp] theorem State.setSt_saves (c q i : Nat) (v : InstSt) : (s.setSt c q i v).saves = s.saves := rfl
@[simp] theorem State.setSt_foldImgs (c q i : Nat) (v : InstSt) : (s.setSt c q i v).foldImgs = s.foldImgs := rfl
@[simp] theorem State.setSt_armedImgs (c q i : Nat) (v : InstSt) : (s.setSt c q i v).armedImgs = s.armedImgs := rfl
@[simp] theorem State.setSt_mymod (c q i : Nat) (v : InstSt) : (s.setSt c q i v).mymod = s.mymod := rfl
@[simp] theorem State.setSt_links (c q i : Nat) (v : InstSt) : (s.setSt c q i v).links = s.links := rfl
@[simp] theorem State.setSt_leats (c q i : Nat) (v : InstSt) : (s.setSt c q i v).leats = s.leats := rfl
@[simp] theorem State.setSt_hostWrites (c q i : Nat) (v : InstSt) : (s.setSt c q i v).hostWrites = s.hostWrites := rfl
@[simp] theorem State.setSt_leatOut (c q i : Nat) (v : InstSt) : (s.setSt c q i v).leatOut = s.leatOut := rfl
@[simp] theorem State.setSt_peerOut (c q i : Nat) (v : InstSt) : (s.setSt c q i v).peerOut = s.peerOut := rfl
@[simp] theorem State.setSt_taps (c q i : Nat) (v : InstSt) : (s.setSt c q i v).taps = s.taps := rfl
@[simp] theorem State.setSt_plim (c q i : Nat) (v : InstSt) : (s.setSt c q i v).plim = s.plim := rfl
@[simp] theorem State.setSt_pavg (c q i : Nat) (v : InstSt) : (s.setSt c q i v).pavg = s.pavg := rfl
@[simp] theorem State.setSt_pbusy (c q i : Nat) (v : InstSt) : (s.setSt c q i v).pbusy = s.pbusy := rfl
@[simp] theorem State.setSt_pdown (c q i : Nat) (v : InstSt) : (s.setSt c q i v).pdown = s.pdown := rfl
@[simp] theorem State.setSt_plower (c q i : Nat) (v : InstSt) : (s.setSt c q i v).plower = s.plower := rfl
@[simp] theorem State.setSt_pdue (c q i : Nat) (v : InstSt) : (s.setSt c q i v).pdue = s.pdue := rfl
@[simp] theorem State.setSt_pwin (c q i : Nat) (v : InstSt) : (s.setSt c q i v).pwin = s.pwin := rfl
@[simp] theorem State.setSt_part (c q i : Nat) (v : InstSt) : (s.setSt c q i v).part = s.part := rfl
@[simp] theorem State.setSt_boots (c q i : Nat) (v : InstSt) : (s.setSt c q i v).boots = s.boots := rfl
@[simp] theorem State.setSt_stage (c q i : Nat) (v : InstSt) : (s.setSt c q i v).stage = s.stage := rfl
@[simp] theorem State.setSt_restart (c q i : Nat) (v : InstSt) : (s.setSt c q i v).restart = s.restart := rfl
@[simp] theorem State.setSt_mats (c q i : Nat) (v : InstSt) : (s.setSt c q i v).mats = s.mats := rfl
@[simp] theorem State.setSt_copies (c q i : Nat) (v : InstSt) : (s.setSt c q i v).copies = s.copies := rfl
@[simp] theorem State.setSt_hvs (c q i : Nat) (v : InstSt) : (s.setSt c q i v).hvs = s.hvs := rfl
@[simp] theorem State.setSt_coreAt (c q i : Nat) (v : InstSt) (j : Nat) : (s.setSt c q i v).coreAt j = s.coreAt j := rfl
@[simp] theorem State.setSt_siteAt (c q i : Nat) (v : InstSt) (j : Nat) : (s.setSt c q i v).siteAt j = s.siteAt j := rfl
@[simp] theorem State.setSt_basinAt (c q i : Nat) (v : InstSt) (j : Nat) : (s.setSt c q i v).basinAt j = s.basinAt j := rfl
@[simp] theorem State.setSt_matAt (c q i : Nat) (v : InstSt) (j : Nat) : (s.setSt c q i v).matAt j = s.matAt j := rfl
@[simp] theorem State.setSt_copyAt (c q i : Nat) (v : InstSt) (j : Nat) : (s.setSt c q i v).copyAt j = s.copyAt j := rfl
@[simp] theorem State.setSt_hvAt (c q i : Nat) (v : InstSt) (j : Nat) : (s.setSt c q i v).hvAt j = s.hvAt j := rfl

theorem State.setCore_coreAt (k : Nat) (v : Core) (j : Nat) : (s.setCore k v).coreAt j = if k = j then v else s.coreAt j := by
  simp [State.coreAt, mget_mput]
@[simp] theorem State.setCore_coreAt_same (k : Nat) (v : Core) : (s.setCore k v).coreAt k = v := by simp [State.setCore_coreAt]
theorem State.setSite_siteAt (k : Nat) (v : Site) (j : Nat) : (s.setSite k v).siteAt j = if k = j then v else s.siteAt j := by
  simp [State.siteAt, mget_mput]
@[simp] theorem State.setSite_siteAt_same (k : Nat) (v : Site) : (s.setSite k v).siteAt k = v := by simp [State.setSite_siteAt]
theorem State.setBasin_basinAt (k : Nat) (v : Basin) (j : Nat) : (s.setBasin k v).basinAt j = if k = j then v else s.basinAt j := by
  simp [State.basinAt, mget_mput]
@[simp] theorem State.setBasin_basinAt_same (k : Nat) (v : Basin) : (s.setBasin k v).basinAt k = v := by simp [State.setBasin_basinAt]
theorem State.setMat_matAt (k : Nat) (v : MatEng) (j : Nat) : (s.setMat k v).matAt j = if k = j then v else s.matAt j := by
  simp [State.matAt, mget_mput]
@[simp] theorem State.setMat_matAt_same (k : Nat) (v : MatEng) : (s.setMat k v).matAt k = v := by simp [State.setMat_matAt]
theorem State.setCopy_copyAt (k : Nat) (v : CopyEng) (j : Nat) : (s.setCopy k v).copyAt j = if k = j then v else s.copyAt j := by
  simp [State.copyAt, mget_mput]
@[simp] theorem State.setCopy_copyAt_same (k : Nat) (v : CopyEng) : (s.setCopy k v).copyAt k = v := by simp [State.setCopy_copyAt]
theorem State.setHv_hvAt (k : Nat) (v : HvEng) (j : Nat) : (s.setHv k v).hvAt j = if k = j then v else s.hvAt j := by
  simp [State.hvAt, mget_mput]
@[simp] theorem State.setHv_hvAt_same (k : Nat) (v : HvEng) : (s.setHv k v).hvAt k = v := by simp [State.setHv_hvAt]
theorem State.modCore_coreAt (k : Nat) (f : Core → Core) (j : Nat) : (s.modCore k f).coreAt j = if k = j then f (s.coreAt k) else s.coreAt j := by
  simp [State.coreAt, mget_mput]
@[simp] theorem State.modCore_coreAt_same (k : Nat) (f : Core → Core) : (s.modCore k f).coreAt k = f (s.coreAt k) := by simp [State.modCore_coreAt]
theorem State.modSite_siteAt (k : Nat) (f : Site → Site) (j : Nat) : (s.modSite k f).siteAt j = if k = j then f (s.siteAt k) else s.siteAt j := by
  simp [State.siteAt, mget_mput]
@[simp] theorem State.modSite_siteAt_same (k : Nat) (f : Site → Site) : (s.modSite k f).siteAt k = f (s.siteAt k) := by simp [State.modSite_siteAt]
theorem State.modBasin_basinAt (k : Nat) (f : Basin → Basin) (j : Nat) : (s.modBasin k f).basinAt j = if k = j then f (s.basinAt k) else s.basinAt j := by
  simp [State.basinAt, mget_mput]
@[simp] theorem State.modBasin_basinAt_same (k : Nat) (f : Basin → Basin) : (s.modBasin k f).basinAt k = f (s.basinAt k) := by simp [State.modBasin_basinAt]
theorem State.setSlot_slotAt (c q : Nat) (v : Slot) (j p : Nat) : (s.setSlot c q v).slotAt j p = if slotKey c q = slotKey j p then v else s.slotAt j p := by
  simp [State.slotAt, mget_mput]
@[simp] theorem State.setSlot_slotAt_same (c q : Nat) (v : Slot) : (s.setSlot c q v).slotAt c q = v := by simp [State.setSlot_slotAt]
theorem State.modSlot_slotAt (c q : Nat) (f : Slot → Slot) (j p : Nat) : (s.modSlot c q f).slotAt j p = if slotKey c q = slotKey j p then f (s.slotAt c q) else s.slotAt j p := by
  simp [State.slotAt, mget_mput]
@[simp] theorem State.modSlot_slotAt_same (c q : Nat) (f : Slot → Slot) : (s.modSlot c q f).slotAt c q = f (s.slotAt c q) := by simp [State.modSlot_slotAt]

@[simp] theorem State.modRun_slotAt_same (c q : Nat) (f : Run → Run) :
    (s.modRun c q f).slotAt c q = { s.slotAt c q with run := (s.slotAt c q).run.map f } := by simp [State.modRun]
theorem State.modRun_slotAt (c q : Nat) (f : Run → Run) (j p : Nat) : (s.modRun c q f).slotAt j p =
    if slotKey c q = slotKey j p then { s.slotAt c q with run := (s.slotAt c q).run.map f } else s.slotAt j p := by
  simp [State.modRun, State.modSlot_slotAt]
@[simp] theorem State.modRun_runAt_same (c q : Nat) (f : Run → Run) : (s.modRun c q f).runAt c q = (s.runAt c q).map f := by
  simp [State.runAt]
@[simp] theorem State.modInst_runAt_same (c q i : Nat) (f : Inst → Inst) :
    (s.modInst c q i f).runAt c q = (s.runAt c q).map fun r => r.modInst i f := by simp [State.modInst]
@[simp] theorem State.setSt_runAt_same (c q i : Nat) (v : InstSt) :
    (s.setSt c q i v).runAt c q = (s.runAt c q).map fun r => r.modInst i fun x => { x with st := v } := by simp [State.setSt]

/-! ### Instructions of a loaded block -/

theorem Run.inst_modInst (r : Run) (i j : Nat) (f : Inst → Inst) (h : i < r.insts.length) :
    (r.modInst i f).inst j = if i = j then f (r.inst i) else r.inst j := by
  by_cases e : i = j
  · subst e; rw [Run.inst, Run.modInst, Run.setInst, getD_lset_same _ _ _ h, if_pos rfl]
  · rw [Run.inst, Run.modInst, Run.setInst, getD_lset_ne _ _ _ e]; simp [Run.inst, e]
@[simp] theorem Run.modInst_words (r : Run) (i : Nat) (f : Inst → Inst) : (r.modInst i f).words = r.words := rfl
@[simp] theorem Run.modInst_length (r : Run) (i : Nat) (f : Inst → Inst) : (r.modInst i f).insts.length = r.insts.length := by
  simp [Run.modInst, Run.setInst]
@[simp] theorem Run.modInst_instr (r : Run) (i : Nat) (f : Inst → Inst) : (r.modInst i f).instr = r.instr := rfl

end Sys2Proof.Machine
end

