-- ==== Sys2Proof/Laws/Block.lean ====
section
/-! SUPPORT. Laws of the shared operations of the block engine: what a firing instruction sees and what sending a token does. -/

namespace Sys2Proof

open Machine

/-! ### The context -/

theorem Fires.run {s : State} {c : Ctx} (h : Fires s c) : s.runAt c.core c.slot = some c.run := by
  have e := h.ctx
  unfold State.ctx? at e
  split at e
  · cases e
  · split at e
    · cases e
    · split at e
      · cases e; assumption
      · cases e

theorem Fires.inst {s : State} {c : Ctx} (h : Fires s c) : c.inst = c.run.inst c.ix := by
  have e := h.ctx
  unfold State.ctx? at e
  split at e
  · cases e
  · split at e
    · cases e
    · split at e
      · cases e; rfl
      · cases e

theorem Fires.slot {s : State} {c : Ctx} (h : Fires s c) : s.slotAt c.core c.slot = c.sl := by
  have e := h.ctx
  unfold State.ctx? at e
  split at e
  · cases e
  · split at e
    · cases e
    · split at e
      · cases e; rfl
      · cases e

theorem Fires.lt {s : State} {c : Ctx} (h : Fires s c) : c.ix < c.run.insts.length := by
  have e := h.ctx
  rw [h.sized]
  unfold State.ctx? at e
  split at e
  · cases e
  · split at e
    · cases e
    · split at e
      · cases e; assumption
      · cases e

/-- A change to the state outside the slots keeps the firing context. -/
theorem Fires.congr {s s' : State} {c : Ctx} (h : Fires s c) (hc : s'.cur = s.cur) (hs : s'.slots = s.slots) : Fires s' c := by
  refine ⟨?_, h.idle, h.sized⟩
  have e := h.ctx
  unfold State.ctx? at *
  rw [hc]; simpa only [State.slotAt, hs] using e

theorem predOf_admits {p : Pred} {c : Ctx} (h : Admits p c) : predOf p c.inst.p = .go := by
  cases p
  · rfl
  · obtain ⟨t, h1, h2, h3⟩ := h; simp only [h1, predOf, h2, h3]; simp
  · obtain ⟨t, h1, h2, h3⟩ := h; simp only [h1, predOf, h2, h3]; simp

/-- A firing instruction whose data slots are filled and whose predicate admits it does its act. -/
theorem firing_go {s : State} {c : Ctx} {p : Pred} {ready : Inst → Bool} (null act : Ctx → State) (h : Fires s c) (ha : Admits p c)
    (hr : ready c.inst = true) : firing p ready null act s = .next (act c) := by
  simp [firing, h.ctx, h.idle, hr, predOf_admits ha]

theorem firing_always {s : State} {c : Ctx} {ready : Inst → Bool} (null act : Ctx → State) (h : Fires s c)
    (hr : ready c.inst = true) : firing .always ready null act s = .next (act c) := firing_go null act h trivial hr

/-! ### Only the block changes -/

theorem OnlyBlock.refl (s : State) (core slot : Nat) : OnlyBlock s s core slot := ⟨rfl, fun _ _ => rfl, rfl⟩

theorem OnlyBlock.trans {s t u : State} {core slot : Nat} (h : OnlyBlock s t core slot) (h' : OnlyBlock t u core slot) : OnlyBlock s u core slot := by
  obtain ⟨a, b, c⟩ := h
  obtain ⟨a', b', c'⟩ := h'
  refine ⟨?_, fun k hk => (b' k hk).trans (b k hk), c'.trans c⟩
  rw [← a]
  conv_rhs => rw [← a']

/-- The clk a core is in is not the block's. -/
theorem OnlyBlock.cyc {s t : State} {core slot : Nat} (h : OnlyBlock s t core slot) (k : Nat) : t.cyc k = s.cyc k :=
  (congrArg (fun q : State => q.cyc k) h.fields : _)

theorem modRun_onlyBlock (s : State) (core slot : Nat) (f : Run → Run) : OnlyBlock s (s.modRun core slot f) core slot := by
  refine ⟨rfl, fun k hk => ?_, by simp⟩
  simp only [State.modRun, State.modSlot_slots]
  exact mget_mput_ne _ _ _ fun e => hk e.symm

/-! ### Sending -/

/-- A token sent to an empty operand slot of the block: the block with that slot filled, or as it was where the instruction is resolved already. -/
theorem sendTo_some {s : State} {core slot : Nat} {r : Run} {g : Target} (tok : Token) (hr : s.runAt core slot = some r)
    (he : (r.inst g.idx.toNat).slot g.slot = none) :
    s.sendTo core slot (some g) tok =
      if r.shut (s.cyc core) g.idx.toNat then s else s.modInst core slot g.idx.toNat fun i => i.put g.slot tok := by
  simp [State.sendTo, hr, he]

/-- A token that is not usable yet resolves nothing: the instruction it stands in is resolved, or not, as before it came (R176). -/
theorem resolvedUnfired_put {sh : Shape} {lane : Bool} {now : Nat} {i : Inst} {sl : OpSlot} {tok : Token} (hu : now < tok.usable)
    (he : i.slot sl = none) : resolvedUnfired sh lane now (i.put sl tok) = resolvedUnfired sh lane now i := by
  have hn : ¬ tok.usable ≤ now := by omega
  cases sl <;> simp only [Inst.slot] at he <;> simp [resolvedUnfired, Inst.put, he, hn, Option.filter]

@[simp] theorem sendTo_none (s : State) (core slot : Nat) (tok : Token) : s.sendTo core slot none tok = s := rfl

@[simp] theorem Inst.put_st (i : Inst) (sl : OpSlot) (tok : Token) : (i.put sl tok).st = i.st := by cases sl <;> rfl

theorem Inst.slot_put (i : Inst) (sl sl' : OpSlot) (tok : Token) : (i.put sl tok).slot sl' = if sl = sl' then some tok else i.slot sl' := by
  cases sl <;> cases sl' <;> rfl

/-- The block after a token has gone to a target. -/
def sentRun (now : Nat) (r : Run) (t : Option Target) (tok : Token) : Run :=
  match t with
  | some g => if r.shut now g.idx.toNat then r else r.modInst g.idx.toNat fun i => i.put g.slot tok
  | none => r

theorem sendTo_eq {s : State} {core slot : Nat} {r : Run} (t : Option Target) (tok : Token) (hr : s.runAt core slot = some r)
    (he : ∀ g, t = some g → (r.inst g.idx.toNat).slot g.slot = none) :
    (s.sendTo core slot t tok).runAt core slot = some (sentRun (s.cyc core) r t tok) ∧ OnlyBlock s (s.sendTo core slot t tok) core slot := by
  cases t with
  | none => exact ⟨hr, .refl _ _ _⟩
  | some g =>
    rw [sendTo_some tok hr (he g rfl)]
    split
    · next h => exact ⟨by simp [hr, sentRun, h], .refl _ _ _⟩
    · next h => exact ⟨by simp [hr, sentRun, h], modRun_onlyBlock _ _ _ _⟩

theorem sentRun_slot (now : Nat) (r : Run) (t : Option Target) (tok : Token) (hl : ∀ g, t = some g → g.idx.toNat < r.insts.length) (j : Nat) (sl : OpSlot) :
    ((sentRun now r t tok).inst j).slot sl = if isTarget t none j sl && !r.shut now j then some tok else (r.inst j).slot sl := by
  cases t with
  | none => simp [sentRun, isTarget]
  | some g =>
    by_cases h : g.idx.toNat = j
    · subst h
      simp only [sentRun, isTarget]
      split
      · next hs => simp [hs]
      · next hs => simp [hs, Run.inst_modInst _ _ _ _ (hl g rfl), Inst.slot_put]
    · simp only [sentRun, isTarget, h]
      split
      · simp
      · simp [Run.inst_modInst _ _ _ _ (hl g rfl), h]

theorem Run.modInst_ge (r : Run) {n : Nat} (f : Inst → Inst) (h : r.insts.length ≤ n) : r.modInst n f = r := by
  have e : ∀ (l : List Inst) (n : Nat) (v : Inst), l.length ≤ n → lset l n v = l := by
    intro l; induction l with
    | nil => intros; rfl
    | cons a l ih => intro n v h; cases n with
      | zero => simp at h
      | succ n => simp at h; simp [lset, ih n v h]
  simp [Run.modInst, Run.setInst, e _ _ _ h]

theorem sentRun_st (now : Nat) (r : Run) (t : Option Target) (tok : Token) (j : Nat) : ((sentRun now r t tok).inst j).st = (r.inst j).st := by
  cases t with
  | none => rfl
  | some g =>
    simp only [sentRun]
    split
    · rfl
    · by_cases hl : g.idx.toNat < r.insts.length
      · rw [Run.inst_modInst _ _ _ _ hl]; split
        · next h => simp [← h]
        · rfl
      · rw [Run.modInst_ge _ _ (Nat.le_of_not_lt hl)]

@[simp] theorem sentRun_words (now : Nat) (r : Run) (t : Option Target) (tok : Token) : (sentRun now r t tok).words = r.words := by
  cases t with
  | none => rfl
  | some g => simp only [sentRun]; split <;> rfl

/-- Tokens not yet usable leave each instruction of the block resolved, or not, as it was. -/
theorem sentRun_shut {now : Nat} {r : Run} {t : Option Target} {tok : Token} (hu : now < tok.usable)
    (hl : ∀ g, t = some g → g.idx.toNat < r.insts.length) (he : ∀ g, t = some g → (r.inst g.idx.toNat).slot g.slot = none) (j : Nat) :
    (sentRun now r t tok).shut now j = r.shut now j := by
  cases t with
  | none => rfl
  | some g =>
    simp only [sentRun]
    split
    · rfl
    · simp only [Run.shut, Run.inst_modInst _ _ _ _ (hl g rfl)]
      split
      · next h => subst h; exact resolvedUnfired_put hu (he g rfl)
      · rfl

@[simp] theorem sentRun_flags (now : Nat) (r : Run) (t : Option Target) (tok : Token) : (sentRun now r t tok).flags = r.flags := by
  cases t with
  | none => rfl
  | some g => simp only [sentRun]; split <;> rfl
@[simp] theorem sentRun_length (now : Nat) (r : Run) (t : Option Target) (tok : Token) : (sentRun now r t tok).insts.length = r.insts.length := by
  cases t with
  | none => rfl
  | some g => simp only [sentRun]; split <;> simp
theorem sentRun_rest (now : Nat) (r : Run) (t : Option Target) (tok : Token) :
    ({ sentRun now r t tok with insts := [], flags := 0#6 } : Run) = { r with insts := [], flags := 0#6 } := by
  cases t with
  | none => rfl
  | some g => simp only [sentRun]; split <;> rfl

/-- A form that fires and sends a token, usable in a later clk, to targets with room (R145, R146, R176). -/
theorem fireToken_sends {s : State} {c : Ctx} {a b : Option Target} {lat : Nat} (tok : Token) (f : Flags) (hlat : 0 < lat) (h : Fires s c)
    (hr : Room c a b) : Sends s (s.fireToken c a b lat tok f) c a b lat tok f := by
  have hrun := h.run
  let r1 : Run := c.run.modInst c.ix fun x => { x with st := .done }
  let r2 : Run := { r1 with flags := r1.flags ||| f }
  have l1 : r1.insts.length = c.run.insts.length := by simp [r1]
  have s1 : ∀ j sl, (r1.inst j).slot sl = (c.run.inst j).slot sl := by
    intro j sl
    simp only [r1, Run.inst_modInst _ _ _ _ h.lt]
    split
    · next e => subst e; cases sl <;> rfl
    · rfl
  have d1 : ∀ now j, r2.shut now j = c.run.shut now j := by
    intro now j
    have : (r1.inst j).p = (c.run.inst j).p ∧ (r1.inst j).l = (c.run.inst j).l := ⟨s1 j .p, s1 j .l⟩
    show resolvedUnfired (c.run.shape j) _ now (r1.inst j) = _
    simp only [resolvedUnfired, Run.shut, this]; rfl
  have e1 : (s.finish c).runAt c.core c.slot = some r1 := by simp [State.finish, hrun, r1]
  have o1 : OnlyBlock s (s.finish c) c.core c.slot := modRun_onlyBlock _ _ _ _
  have e2 : ((s.finish c).addFlags c f).runAt c.core c.slot = some r2 := by
    unfold State.addFlags; split
    · next z => subst z; rw [e1]; simp [r2]
    · simp [e1, r2]
  have o2 : OnlyBlock s ((s.finish c).addFlags c f) c.core c.slot := by
    unfold State.addFlags; split
    · exact o1
    · exact o1.trans (modRun_onlyBlock _ _ _ _)
  have y : ((s.finish c).addFlags c f).cyc c.core = s.cyc c.core := by
    unfold State.addFlags; split <;> rfl
  generalize hT : ({ tok with usable := s.cyc c.core + lat } : Token) = T
  have hu : s.cyc c.core < T.usable := by rw [← hT]; show _ < _ + _; omega
  have s2 : ∀ j sl, (r2.inst j).slot sl = (c.run.inst j).slot sl := s1
  obtain ⟨e3, o3⟩ := sendTo_eq (s := (s.finish c).addFlags c f) a T e2 (fun g hg => by rw [s2]; exact (hr.first g hg).2)
  have hl2 : ∀ (x : Option Target), (∀ g, x = some g → g.idx.toNat < c.run.words.length) → ∀ g, x = some g → g.idx.toNat < r2.insts.length := by
    intro x hx g hg; have := hx g hg; have := h.sized; show _ < r1.insts.length; omega
  rw [y] at e3
  have s3 := sentRun_slot (s.cyc c.core) r2 a T (hl2 a fun g hg => (hr.first g hg).1)
  have d3 := sentRun_shut (r := r2) hu (hl2 a fun g hg => (hr.first g hg).1) (fun g hg => by rw [s2]; exact (hr.first g hg).2)
  have y3 : (((s.finish c).addFlags c f).sendTo c.core c.slot a T).cyc c.core = s.cyc c.core := by
    rw [o3.cyc, y]
  obtain ⟨e4, o4⟩ := sendTo_eq b T e3 (fun g hg => by
    rw [s3, s2, (hr.second g hg).2]
    have : isTarget a none g.idx.toNat g.slot = false := by
      cases ha : a with
      | none => simp [isTarget]
      | some g' =>
        simp only [isTarget, Bool.or_false, Bool.and_eq_false_iff, decide_eq_false_iff_not]
        by_cases hi : g'.idx.toNat = g.idx.toNat
        · refine .inr fun hs => ?_
          have : g' = g := by cases g; cases g'; simp_all [BitVec.toNat_inj]
          exact hr.apart g' ha (by rw [this]; exact hg)
        · exact .inl hi
    simp [this])
  rw [y3] at e4
  have ht : s.fireToken c a b lat tok f = (((s.finish c).addFlags c f).sendTo c.core c.slot a T).sendTo c.core c.slot b T := by
    simp only [State.fireToken, State.deliver, y, hT]
  refine ⟨⟨_, by rw [ht]; exact e4, ?_⟩, by rw [ht]; exact (o2.trans o3).trans o4⟩
  have s4 := sentRun_slot (s.cyc c.core) (sentRun (s.cyc c.core) r2 a T) b T (by simpa using hl2 b fun g hg => (hr.second g hg).1)
  rw [hT]
  constructor
  · rw [sentRun_st, sentRun_st]; show (r1.inst c.ix).st = _; simp [r1, Run.inst_modInst _ _ _ _ h.lt]
  · intro j hj; rw [sentRun_st, sentRun_st]; show (r1.inst j).st = _
    simp only [r1, Run.inst_modInst _ _ _ _ h.lt, if_neg (Ne.symm hj)]
  · simp [r2, r1, Run.modInst, Run.setInst]
  · intro j sl
    have q : isTarget a b j sl = (isTarget b none j sl || isTarget a none j sl) := by
      simp only [isTarget, Bool.or_false]
      exact Bool.or_comm _ _
    rw [s4, d3, s3, s2, d1, q]
    cases isTarget b none j sl <;> cases isTarget a none j sl <;> cases c.run.shut (s.cyc c.core) j <;> rfl
  · rw [sentRun_rest, sentRun_rest]; rfl

end Sys2Proof
end

