-- ==== Sys2Proof/Laws/Dispatch.lean ====
section
/-! SUPPORT. exec on each constructor is its meaning. -/

namespace Sys2Proof.Machine

variable (s : State)

theorem exec_br (p : Pred) (x : BitVec 3) (o : BitVec 19) : exec (.br p x o) s = execBr p x o s := rfl
theorem exec_call (p : Pred) (x : BitVec 3) (o : BitVec 19) : exec (.call p x o) s = execCall p x o s := rfl
theorem exec_bri (p : Pred) (x : BitVec 3) : exec (.bri p x) s = execBri p x s := rfl
theorem exec_calli (p : Pred) (x : BitVec 3) : exec (.calli p x) s = execCalli p x s := rfl
theorem exec_ret (p : Pred) (x : BitVec 3) : exec (.ret p x) s = execRet p x s := rfl
theorem exec_susp (p : Pred) (x : BitVec 3) (o : BitVec 19) : exec (.susp p x o) s = execSusp p x o s := rfl
theorem exec_retire (p : Pred) (x : BitVec 3) : exec (.retire p x) s = execRetire p x s := rfl
theorem exec_read (r : BitVec 6) (t : Option Target) (u : Option Target) : exec (.read r t u) s = execRead r t u s := rfl
theorem exec_readt (r : BitVec 6) (t : Option Target) (u : Option Target) : exec (.readt r t u) s = execReadt r t u s := rfl
theorem exec_write (r : BitVec 6) : exec (.write r) s = execWrite r s := rfl
theorem exec_rdc (r : BitVec 6) (t : Option Target) (u : Option Target) : exec (.rdc r t u) s = execRdc r t u s := rfl
theorem exec_wrc (r : BitVec 6) : exec (.wrc r) s = execWrc r s := rfl
theorem exec_null (p : Pred) : exec (.null p) s = execNull p s := rfl
theorem exec_mov (p : Pred) (t : Option Target) (u : Option Target) : exec (.mov p t u) s = execMov p t u s := rfl
theorem exec_align : exec (.align) s = execAlign s := rfl
theorem exec_movi (p : Pred) (imm : BitVec 14) (t : Option Target) : exec (.movi p imm t) s = execMovi p imm t s := rfl
theorem exec_appi (p : Pred) (imm : BitVec 14) (t : Option Target) : exec (.appi p imm t) s = execAppi p imm t s := rfl
theorem exec_add (p : Pred) (t : Option Target) (u : Option Target) : exec (.add p t u) s = execAdd p t u s := rfl
theorem exec_sub (p : Pred) (t : Option Target) (u : Option Target) : exec (.sub p t u) s = execSub p t u s := rfl
theorem exec_mul (p : Pred) (t : Option Target) (u : Option Target) : exec (.mul p t u) s = execMul p t u s := rfl
theorem exec_mulhs (p : Pred) (t : Option Target) (u : Option Target) : exec (.mulhs p t u) s = execMulhs p t u s := rfl
theorem exec_mulhn (p : Pred) (t : Option Target) (u : Option Target) : exec (.mulhn p t u) s = execMulhn p t u s := rfl
theorem exec_divs (p : Pred) (t : Option Target) (u : Option Target) : exec (.divs p t u) s = execDivs p t u s := rfl
theorem exec_divn (p : Pred) (t : Option Target) (u : Option Target) : exec (.divn p t u) s = execDivn p t u s := rfl
theorem exec_rems (p : Pred) (t : Option Target) (u : Option Target) : exec (.rems p t u) s = execRems p t u s := rfl
theorem exec_remn (p : Pred) (t : Option Target) (u : Option Target) : exec (.remn p t u) s = execRemn p t u s := rfl
theorem exec_mins (p : Pred) (t : Option Target) (u : Option Target) : exec (.mins p t u) s = execMins p t u s := rfl
theorem exec_minn (p : Pred) (t : Option Target) (u : Option Target) : exec (.minn p t u) s = execMinn p t u s := rfl
theorem exec_maxs (p : Pred) (t : Option Target) (u : Option Target) : exec (.maxs p t u) s = execMaxs p t u s := rfl
theorem exec_maxn (p : Pred) (t : Option Target) (u : Option Target) : exec (.maxn p t u) s = execMaxn p t u s := rfl
theorem exec_neg (p : Pred) (t : Option Target) (u : Option Target) : exec (.neg p t u) s = execNeg p t u s := rfl
theorem exec_abs (p : Pred) (t : Option Target) (u : Option Target) : exec (.abs p t u) s = execAbs p t u s := rfl
theorem exec_and (p : Pred) (t : Option Target) (u : Option Target) : exec (.and p t u) s = execAnd p t u s := rfl
theorem exec_or (p : Pred) (t : Option Target) (u : Option Target) : exec (.or p t u) s = execOr p t u s := rfl
theorem exec_xor (p : Pred) (t : Option Target) (u : Option Target) : exec (.xor p t u) s = execXor p t u s := rfl
theorem exec_andn (p : Pred) (t : Option Target) (u : Option Target) : exec (.andn p t u) s = execAndn p t u s := rfl
theorem exec_shl (p : Pred) (t : Option Target) (u : Option Target) : exec (.shl p t u) s = execShl p t u s := rfl
theorem exec_shrn (p : Pred) (t : Option Target) (u : Option Target) : exec (.shrn p t u) s = execShrn p t u s := rfl
theorem exec_shrs (p : Pred) (t : Option Target) (u : Option Target) : exec (.shrs p t u) s = execShrs p t u s := rfl
theorem exec_rotl (p : Pred) (t : Option Target) (u : Option Target) : exec (.rotl p t u) s = execRotl p t u s := rfl
theorem exec_not (p : Pred) (t : Option Target) (u : Option Target) : exec (.not p t u) s = execNot p t u s := rfl
theorem exec_popc (p : Pred) (t : Option Target) (u : Option Target) : exec (.popc p t u) s = execPopc p t u s := rfl
theorem exec_clz (p : Pred) (t : Option Target) (u : Option Target) : exec (.clz p t u) s = execClz p t u s := rfl
theorem exec_ctz (p : Pred) (t : Option Target) (u : Option Target) : exec (.ctz p t u) s = execCtz p t u s := rfl
theorem exec_ceq (p : Pred) (t : Option Target) (u : Option Target) : exec (.ceq p t u) s = execCeq p t u s := rfl
theorem exec_cne (p : Pred) (t : Option Target) (u : Option Target) : exec (.cne p t u) s = execCne p t u s := rfl
theorem exec_clts (p : Pred) (t : Option Target) (u : Option Target) : exec (.clts p t u) s = execClts p t u s := rfl
theorem exec_cles (p : Pred) (t : Option Target) (u : Option Target) : exec (.cles p t u) s = execCles p t u s := rfl
theorem exec_cltn (p : Pred) (t : Option Target) (u : Option Target) : exec (.cltn p t u) s = execCltn p t u s := rfl
theorem exec_clen (p : Pred) (t : Option Target) (u : Option Target) : exec (.clen p t u) s = execClen p t u s := rfl
theorem exec_sel (t : Option Target) (u : Option Target) : exec (.sel t u) s = execSel t u s := rfl
theorem exec_exts8 (p : Pred) (t : Option Target) (u : Option Target) : exec (.exts8 p t u) s = execExts8 p t u s := rfl
theorem exec_exts16 (p : Pred) (t : Option Target) (u : Option Target) : exec (.exts16 p t u) s = execExts16 p t u s := rfl
theorem exec_exts32 (p : Pred) (t : Option Target) (u : Option Target) : exec (.exts32 p t u) s = execExts32 p t u s := rfl
theorem exec_extn8 (p : Pred) (t : Option Target) (u : Option Target) : exec (.extn8 p t u) s = execExtn8 p t u s := rfl
theorem exec_extn16 (p : Pred) (t : Option Target) (u : Option Target) : exec (.extn16 p t u) s = execExtn16 p t u s := rfl
theorem exec_extn32 (p : Pred) (t : Option Target) (u : Option Target) : exec (.extn32 p t u) s = execExtn32 p t u s := rfl
theorem exec_addi (p : Pred) (imm : BitVec 14) (t : Option Target) : exec (.addi p imm t) s = execAddi p imm t s := rfl
theorem exec_muli (p : Pred) (imm : BitVec 14) (t : Option Target) : exec (.muli p imm t) s = execMuli p imm t s := rfl
theorem exec_andi (p : Pred) (imm : BitVec 14) (t : Option Target) : exec (.andi p imm t) s = execAndi p imm t s := rfl
theorem exec_ori (p : Pred) (imm : BitVec 14) (t : Option Target) : exec (.ori p imm t) s = execOri p imm t s := rfl
theorem exec_xori (p : Pred) (imm : BitVec 14) (t : Option Target) : exec (.xori p imm t) s = execXori p imm t s := rfl
theorem exec_shli (p : Pred) (imm : BitVec 14) (t : Option Target) : exec (.shli p imm t) s = execShli p imm t s := rfl
theorem exec_shrni (p : Pred) (imm : BitVec 14) (t : Option Target) : exec (.shrni p imm t) s = execShrni p imm t s := rfl
theorem exec_shrsi (p : Pred) (imm : BitVec 14) (t : Option Target) : exec (.shrsi p imm t) s = execShrsi p imm t s := rfl
theorem exec_ceqi (p : Pred) (imm : BitVec 14) (t : Option Target) : exec (.ceqi p imm t) s = execCeqi p imm t s := rfl
theorem exec_cltsi (p : Pred) (imm : BitVec 14) (t : Option Target) : exec (.cltsi p imm t) s = execCltsi p imm t s := rfl
theorem exec_vadd (p : Pred) (y : LaneTy) (t : Option Target) (u : Option Target) : exec (.vadd p y t u) s = execVadd p y t u s := rfl
theorem exec_vsub (p : Pred) (y : LaneTy) (t : Option Target) (u : Option Target) : exec (.vsub p y t u) s = execVsub p y t u s := rfl
theorem exec_vadds (p : Pred) (y : LaneTy) (t : Option Target) (u : Option Target) : exec (.vadds p y t u) s = execVadds p y t u s := rfl
theorem exec_vsubs (p : Pred) (y : LaneTy) (t : Option Target) (u : Option Target) : exec (.vsubs p y t u) s = execVsubs p y t u s := rfl
theorem exec_vmul (p : Pred) (y : LaneTy) (t : Option Target) (u : Option Target) : exec (.vmul p y t u) s = execVmul p y t u s := rfl
theorem exec_vmulh (p : Pred) (y : LaneTy) (t : Option Target) (u : Option Target) : exec (.vmulh p y t u) s = execVmulh p y t u s := rfl
theorem exec_vmin (p : Pred) (y : LaneTy) (t : Option Target) (u : Option Target) : exec (.vmin p y t u) s = execVmin p y t u s := rfl
theorem exec_vmax (p : Pred) (y : LaneTy) (t : Option Target) (u : Option Target) : exec (.vmax p y t u) s = execVmax p y t u s := rfl
theorem exec_vand (p : Pred) (y : LaneTy) (t : Option Target) (u : Option Target) : exec (.vand p y t u) s = execVand p y t u s := rfl
theorem exec_vor (p : Pred) (y : LaneTy) (t : Option Target) (u : Option Target) : exec (.vor p y t u) s = execVor p y t u s := rfl
theorem exec_vxor (p : Pred) (y : LaneTy) (t : Option Target) (u : Option Target) : exec (.vxor p y t u) s = execVxor p y t u s := rfl
theorem exec_vandn (p : Pred) (y : LaneTy) (t : Option Target) (u : Option Target) : exec (.vandn p y t u) s = execVandn p y t u s := rfl
theorem exec_vshl (p : Pred) (y : LaneTy) (t : Option Target) (u : Option Target) : exec (.vshl p y t u) s = execVshl p y t u s := rfl
theorem exec_vshr (p : Pred) (y : LaneTy) (t : Option Target) (u : Option Target) : exec (.vshr p y t u) s = execVshr p y t u s := rfl
theorem exec_vrotl (p : Pred) (y : LaneTy) (t : Option Target) (u : Option Target) : exec (.vrotl p y t u) s = execVrotl p y t u s := rfl
theorem exec_vnot (p : Pred) (y : LaneTy) (t : Option Target) (u : Option Target) : exec (.vnot p y t u) s = execVnot p y t u s := rfl
theorem exec_vceq (p : Pred) (y : LaneTy) (t : Option Target) (u : Option Target) : exec (.vceq p y t u) s = execVceq p y t u s := rfl
theorem exec_vcne (p : Pred) (y : LaneTy) (t : Option Target) (u : Option Target) : exec (.vcne p y t u) s = execVcne p y t u s := rfl
theorem exec_vclt (p : Pred) (y : LaneTy) (t : Option Target) (u : Option Target) : exec (.vclt p y t u) s = execVclt p y t u s := rfl
theorem exec_vcle (p : Pred) (y : LaneTy) (t : Option Target) (u : Option Target) : exec (.vcle p y t u) s = execVcle p y t u s := rfl
theorem exec_vsplat (p : Pred) (y : LaneTy) (t : Option Target) (u : Option Target) : exec (.vsplat p y t u) s = execVsplat p y t u s := rfl
theorem exec_vextr (p : Pred) (y : LaneTy) (t : Option Target) (u : Option Target) : exec (.vextr p y t u) s = execVextr p y t u s := rfl
theorem exec_vperm (p : Pred) (y : LaneTy) (t : Option Target) (u : Option Target) : exec (.vperm p y t u) s = execVperm p y t u s := rfl
theorem exec_vsel (y : LaneTy) (t : Option Target) (u : Option Target) : exec (.vsel y t u) s = execVsel y t u s := rfl
theorem exec_vredadd (p : Pred) (y : LaneTy) (t : Option Target) (u : Option Target) : exec (.vredadd p y t u) s = execVredadd p y t u s := rfl
theorem exec_vredmin (p : Pred) (y : LaneTy) (t : Option Target) (u : Option Target) : exec (.vredmin p y t u) s = execVredmin p y t u s := rfl
theorem exec_vredmax (p : Pred) (y : LaneTy) (t : Option Target) (u : Option Target) : exec (.vredmax p y t u) s = execVredmax p y t u s := rfl
theorem exec_vabs (p : Pred) (y : LaneTy) (t : Option Target) (u : Option Target) : exec (.vabs p y t u) s = execVabs p y t u s := rfl
theorem exec_vwidenlo (p : Pred) (y : LaneTy) (t : Option Target) (u : Option Target) : exec (.vwidenlo p y t u) s = execVwidenlo p y t u s := rfl
theorem exec_vwidenhi (p : Pred) (y : LaneTy) (t : Option Target) (u : Option Target) : exec (.vwidenhi p y t u) s = execVwidenhi p y t u s := rfl
theorem exec_vnarrow (p : Pred) (y : LaneTy) (t : Option Target) (u : Option Target) : exec (.vnarrow p y t u) s = execVnarrow p y t u s := rfl
theorem exec_vnarrows (p : Pred) (y : LaneTy) (t : Option Target) (u : Option Target) : exec (.vnarrows p y t u) s = execVnarrows p y t u s := rfl
theorem exec_fadd (p : Pred) (y : LaneTy) (t : Option Target) (u : Option Target) : exec (.fadd p y t u) s = execFadd p y t u s := rfl
theorem exec_fsub (p : Pred) (y : LaneTy) (t : Option Target) (u : Option Target) : exec (.fsub p y t u) s = execFsub p y t u s := rfl
theorem exec_fmul (p : Pred) (y : LaneTy) (t : Option Target) (u : Option Target) : exec (.fmul p y t u) s = execFmul p y t u s := rfl
theorem exec_fdiv (p : Pred) (y : LaneTy) (t : Option Target) (u : Option Target) : exec (.fdiv p y t u) s = execFdiv p y t u s := rfl
theorem exec_fma (y : LaneTy) (t : Option Target) (u : Option Target) : exec (.fma y t u) s = execFma y t u s := rfl
theorem exec_fms (y : LaneTy) (t : Option Target) (u : Option Target) : exec (.fms y t u) s = execFms y t u s := rfl
theorem exec_fmin (p : Pred) (y : LaneTy) (t : Option Target) (u : Option Target) : exec (.fmin p y t u) s = execFmin p y t u s := rfl
theorem exec_fmax (p : Pred) (y : LaneTy) (t : Option Target) (u : Option Target) : exec (.fmax p y t u) s = execFmax p y t u s := rfl
theorem exec_fceq (p : Pred) (y : LaneTy) (t : Option Target) (u : Option Target) : exec (.fceq p y t u) s = execFceq p y t u s := rfl
theorem exec_fclt (p : Pred) (y : LaneTy) (t : Option Target) (u : Option Target) : exec (.fclt p y t u) s = execFclt p y t u s := rfl
theorem exec_fcle (p : Pred) (y : LaneTy) (t : Option Target) (u : Option Target) : exec (.fcle p y t u) s = execFcle p y t u s := rfl
theorem exec_fcun (p : Pred) (y : LaneTy) (t : Option Target) (u : Option Target) : exec (.fcun p y t u) s = execFcun p y t u s := rfl
theorem exec_fabs (p : Pred) (y : LaneTy) (t : Option Target) (u : Option Target) : exec (.fabs p y t u) s = execFabs p y t u s := rfl
theorem exec_fneg (p : Pred) (y : LaneTy) (t : Option Target) (u : Option Target) : exec (.fneg p y t u) s = execFneg p y t u s := rfl
theorem exec_fsqrt (p : Pred) (y : LaneTy) (t : Option Target) (u : Option Target) : exec (.fsqrt p y t u) s = execFsqrt p y t u s := rfl
theorem exec_fredadd (p : Pred) (y : LaneTy) (t : Option Target) (u : Option Target) : exec (.fredadd p y t u) s = execFredadd p y t u s := rfl
theorem exec_exp2 (p : Pred) (y : LaneTy) (t : Option Target) (u : Option Target) : exec (.exp2 p y t u) s = execExp2 p y t u s := rfl
theorem exec_log2 (p : Pred) (y : LaneTy) (t : Option Target) (u : Option Target) : exec (.log2 p y t u) s = execLog2 p y t u s := rfl
theorem exec_rcp (p : Pred) (y : LaneTy) (t : Option Target) (u : Option Target) : exec (.rcp p y t u) s = execRcp p y t u s := rfl
theorem exec_rsq (p : Pred) (y : LaneTy) (t : Option Target) (u : Option Target) : exec (.rsq p y t u) s = execRsq p y t u s := rfl
theorem exec_tanh (p : Pred) (y : LaneTy) (t : Option Target) (u : Option Target) : exec (.tanh p y t u) s = execTanh p y t u s := rfl
theorem exec_frint (p : Pred) (y : LaneTy) (t : Option Target) (u : Option Target) : exec (.frint p y t u) s = execFrint p y t u s := rfl
theorem exec_cvtFloatSource (p : Pred) (d : LaneTy) (q : LaneTy) (t : Option Target) (u : Option Target) : exec (.cvtFloatSource p d q t u) s = execCvtFloatSource p d q t u s := rfl
theorem exec_cvtIntegerSource (p : Pred) (d : LaneTy) (q : LaneTy) (t : Option Target) (u : Option Target) : exec (.cvtIntegerSource p d q t u) s = execCvtIntegerSource p d q t u s := rfl
theorem exec_snarrow (p : Pred) (f : MFmt) (q : LaneTy) (t : Option Target) (u : Option Target) : exec (.snarrow p f q t u) s = execSnarrow p f q t u s := rfl
theorem exec_swiden (p : Pred) (d : LaneTy) (f : MFmt) (t : Option Target) (u : Option Target) : exec (.swiden p d f t u) s = execSwiden p d f t u s := rfl
theorem exec_vaddCompact (y : LaneTy) (t : Option Target) : exec (.vaddCompact y t) s = execVaddCompact y t s := rfl
theorem exec_vsubCompact (y : LaneTy) (t : Option Target) : exec (.vsubCompact y t) s = execVsubCompact y t s := rfl
theorem exec_vmulCompact (y : LaneTy) (t : Option Target) : exec (.vmulCompact y t) s = execVmulCompact y t s := rfl
theorem exec_vminCompact (y : LaneTy) (t : Option Target) : exec (.vminCompact y t) s = execVminCompact y t s := rfl
theorem exec_vmaxCompact (y : LaneTy) (t : Option Target) : exec (.vmaxCompact y t) s = execVmaxCompact y t s := rfl
theorem exec_vandCompact (y : LaneTy) (t : Option Target) : exec (.vandCompact y t) s = execVandCompact y t s := rfl
theorem exec_vorCompact (y : LaneTy) (t : Option Target) : exec (.vorCompact y t) s = execVorCompact y t s := rfl
theorem exec_vxorCompact (y : LaneTy) (t : Option Target) : exec (.vxorCompact y t) s = execVxorCompact y t s := rfl
theorem exec_vshlCompact (y : LaneTy) (t : Option Target) : exec (.vshlCompact y t) s = execVshlCompact y t s := rfl
theorem exec_vshrCompact (y : LaneTy) (t : Option Target) : exec (.vshrCompact y t) s = execVshrCompact y t s := rfl
theorem exec_vceqCompact (y : LaneTy) (t : Option Target) : exec (.vceqCompact y t) s = execVceqCompact y t s := rfl
theorem exec_faddCompact (y : LaneTy) (t : Option Target) : exec (.faddCompact y t) s = execFaddCompact y t s := rfl
theorem exec_fsubCompact (y : LaneTy) (t : Option Target) : exec (.fsubCompact y t) s = execFsubCompact y t s := rfl
theorem exec_fmulCompact (y : LaneTy) (t : Option Target) : exec (.fmulCompact y t) s = execFmulCompact y t s := rfl
theorem exec_fminCompact (y : LaneTy) (t : Option Target) : exec (.fminCompact y t) s = execFminCompact y t s := rfl
theorem exec_fmaxCompact (y : LaneTy) (t : Option Target) : exec (.fmaxCompact y t) s = execFmaxCompact y t s := rfl
theorem exec_ld (p : Pred) (z : LdSize) (n : BitVec 4) (o : BitVec 6) (t : Option Target) : exec (.ld p z n o t) s = execLd p z n o t s := rfl
theorem exec_st (p : Pred) (z : StSize) (n : BitVec 4) (o : BitVec 6) : exec (.st p z n o) s = execSt p z n o s := rfl
theorem exec_ldd (p : Pred) (z : LdSize) (n : BitVec 4) (r : BitVec 6) (o : BitVec 6) : exec (.ldd p z n r o) s = execLdd p z n r o s := rfl
theorem exec_take (p : Pred) (n : BitVec 4) (o : BitVec 6) (t : Option Target) : exec (.take p n o t) s = execTake p n o t s := rfl
theorem exec_look (p : Pred) (n : BitVec 4) (o : BitVec 6) (t : Option Target) : exec (.look p n o t) s = execLook p n o t s := rfl
theorem exec_give (p : Pred) (n : BitVec 4) (o : BitVec 6) : exec (.give p n o) s = execGive p n o s := rfl
theorem exec_amend (p : Pred) (n : BitVec 4) (o : BitVec 6) : exec (.amend p n o) s = execAmend p n o s := rfl
theorem exec_post (p : Pred) (n : BitVec 4) (o : BitVec 6) : exec (.post p n o) s = execPost p n o s := rfl
theorem exec_void (p : Pred) (n : BitVec 4) (o : BitVec 6) : exec (.void p n o) s = execVoid p n o s := rfl
theorem exec_febit (p : Pred) (n : BitVec 4) (o : BitVec 6) (t : Option Target) : exec (.febit p n o t) s = execFebit p n o t s := rfl
theorem exec_aadd (p : Pred) (m : Order) (n : BitVec 4) (o : BitVec 6) (t : Option Target) : exec (.aadd p m n o t) s = execAadd p m n o t s := rfl
theorem exec_aand (p : Pred) (m : Order) (n : BitVec 4) (o : BitVec 6) (t : Option Target) : exec (.aand p m n o t) s = execAand p m n o t s := rfl
theorem exec_aor (p : Pred) (m : Order) (n : BitVec 4) (o : BitVec 6) (t : Option Target) : exec (.aor p m n o t) s = execAor p m n o t s := rfl
theorem exec_axor (p : Pred) (m : Order) (n : BitVec 4) (o : BitVec 6) (t : Option Target) : exec (.axor p m n o t) s = execAxor p m n o t s := rfl
theorem exec_amins (p : Pred) (m : Order) (n : BitVec 4) (o : BitVec 6) (t : Option Target) : exec (.amins p m n o t) s = execAmins p m n o t s := rfl
theorem exec_amaxs (p : Pred) (m : Order) (n : BitVec 4) (o : BitVec 6) (t : Option Target) : exec (.amaxs p m n o t) s = execAmaxs p m n o t s := rfl
theorem exec_aminn (p : Pred) (m : Order) (n : BitVec 4) (o : BitVec 6) (t : Option Target) : exec (.aminn p m n o t) s = execAminn p m n o t s := rfl
theorem exec_amaxn (p : Pred) (m : Order) (n : BitVec 4) (o : BitVec 6) (t : Option Target) : exec (.amaxn p m n o t) s = execAmaxn p m n o t s := rfl
theorem exec_aswp (p : Pred) (m : Order) (n : BitVec 4) (o : BitVec 6) (t : Option Target) : exec (.aswp p m n o t) s = execAswp p m n o t s := rfl
theorem exec_acas (m : Order) (n : BitVec 4) (o : BitVec 6) (t : Option Target) : exec (.acas m n o t) s = execAcas m n o t s := rfl
theorem exec_fenceCore (p : Pred) (n : BitVec 4) : exec (.fenceCore p n) s = execFenceCore p n s := rfl
theorem exec_fenceBasin (p : Pred) (n : BitVec 4) : exec (.fenceBasin p n) s = execFenceBasin p n s := rfl
theorem exec_fenceSys (p : Pred) (n : BitVec 4) : exec (.fenceSys p n) s = execFenceSys p n s := rfl
theorem exec_ldacqCore (p : Pred) (n : BitVec 4) (o : BitVec 6) (t : Option Target) : exec (.ldacqCore p n o t) s = execLdacqCore p n o t s := rfl
theorem exec_ldacqBasin (p : Pred) (n : BitVec 4) (o : BitVec 6) (t : Option Target) : exec (.ldacqBasin p n o t) s = execLdacqBasin p n o t s := rfl
theorem exec_ldacqSys (p : Pred) (n : BitVec 4) (o : BitVec 6) (t : Option Target) : exec (.ldacqSys p n o t) s = execLdacqSys p n o t s := rfl
theorem exec_strelCore (p : Pred) (n : BitVec 4) (o : BitVec 6) : exec (.strelCore p n o) s = execStrelCore p n o s := rfl
theorem exec_strelBasin (p : Pred) (n : BitVec 4) (o : BitVec 6) : exec (.strelBasin p n o) s = execStrelBasin p n o s := rfl
theorem exec_strelSys (p : Pred) (n : BitVec 4) (o : BitVec 6) : exec (.strelSys p n o) s = execStrelSys p n o s := rfl
theorem exec_probe (p : Pred) (n : BitVec 4) (t : Option Target) : exec (.probe p n t) s = execProbe p n t s := rfl
theorem exec_mls (p : Pred) (n : BitVec 4) : exec (.mls p n) s = execMls p n s := rfl
theorem exec_mlsc (p : Pred) (n : BitVec 4) (v : BitVec 4) : exec (.mlsc p n v) s = execMlsc p n v s := rfl
theorem exec_mswap (p : Pred) (n : BitVec 4) : exec (.mswap p n) s = execMswap p n s := rfl
theorem exec_mstream (p : Pred) (n : BitVec 4) : exec (.mstream p n) s = execMstream p n s := rfl
theorem exec_mstreama (p : Pred) (n : BitVec 4) : exec (.mstreama p n) s = execMstreama p n s := rfl
theorem exec_mzero (p : Pred) (n : BitVec 4) (v : BitVec 4) : exec (.mzero p n v) s = execMzero p n v s := rfl
theorem exec_mdrain (p : Pred) (n : BitVec 4) : exec (.mdrain p n) s = execMdrain p n s := rfl
theorem exec_mdrainn (p : Pred) (n : BitVec 4) : exec (.mdrainn p n) s = execMdrainn p n s := rfl
theorem exec_mtask (p : Pred) (n : BitVec 4) : exec (.mtask p n) s = execMtask p n s := rfl
theorem exec_mstat (p : Pred) (n : BitVec 4) (t : Option Target) : exec (.mstat p n t) s = execMstat p n t s := rfl
theorem exec_cpy1 (p : Pred) (n : BitVec 4) (v : BitVec 4) : exec (.cpy1 p n v) s = execCpy1 p n v s := rfl
theorem exec_cpy2 (p : Pred) (n : BitVec 4) (v : BitVec 4) : exec (.cpy2 p n v) s = execCpy2 p n v s := rfl
theorem exec_gath (p : Pred) (n : BitVec 4) (v : BitVec 4) : exec (.gath p n v) s = execGath p n v s := rfl
theorem exec_scat (p : Pred) (n : BitVec 4) (v : BitVec 4) : exec (.scat p n v) s = execScat p n v s := rfl
theorem exec_fill (p : Pred) (n : BitVec 4) (v : BitVec 4) : exec (.fill p n v) s = execFill p n v s := rfl
theorem exec_cpycv (p : Pred) (n : BitVec 4) (v : BitVec 4) : exec (.cpycv p n v) s = execCpycv p n v s := rfl
theorem exec_cpymc (p : Pred) (n : BitVec 4) (v : BitVec 4) : exec (.cpymc p n v) s = execCpymc p n v s := rfl
theorem exec_culv (p : Pred) (n : BitVec 4) (v : BitVec 4) : exec (.culv p n v) s = execCulv p n v s := rfl
theorem exec_pghand (p : Pred) (n : BitVec 4) (v : BitVec 4) : exec (.pghand p n v) s = execPghand p n v s := rfl
theorem exec_ctask (p : Pred) (n : BitVec 4) : exec (.ctask p n) s = execCtask p n s := rfl
theorem exec_twany (p : Pred) (n : BitVec 4) (t : Option Target) : exec (.twany p n t) s = execTwany p n t s := rfl
theorem exec_twall (p : Pred) (n : BitVec 4) (t : Option Target) : exec (.twall p n t) s = execTwall p n t s := rfl
theorem exec_tffr (p : Pred) (n : BitVec 4) (t : Option Target) : exec (.tffr p n t) s = execTffr p n t s := rfl
theorem exec_cstat (p : Pred) (n : BitVec 4) (t : Option Target) : exec (.cstat p n t) s = execCstat p n t s := rfl
theorem exec_hbind (p : Pred) (n : BitVec 4) (v : BitVec 4) : exec (.hbind p n v) s = execHbind p n v s := rfl
theorem exec_hbund (p : Pred) (n : BitVec 4) (v : BitVec 4) : exec (.hbund p n v) s = execHbund p n v s := rfl
theorem exec_hperm (p : Pred) (n : BitVec 4) : exec (.hperm p n) s = execHperm p n s := rfl
theorem exec_hthr (p : Pred) (n : BitVec 4) (v : BitVec 4) : exec (.hthr p n v) s = execHthr p n v s := rfl
theorem exec_hld (p : Pred) (n : BitVec 4) : exec (.hld p n) s = execHld p n s := rfl
theorem exec_hst (p : Pred) (n : BitVec 4) : exec (.hst p n) s = execHst p n s := rfl
theorem exec_hclr (p : Pred) (n : BitVec 4) (v : BitVec 4) : exec (.hclr p n v) s = execHclr p n v s := rfl
theorem exec_hphase (p : Pred) (n : BitVec 4) : exec (.hphase p n) s = execHphase p n s := rfl
theorem exec_hbndld (p : Pred) (n : BitVec 4) : exec (.hbndld p n) s = execHbndld p n s := rfl
theorem exec_hbndst (p : Pred) (n : BitVec 4) : exec (.hbndst p n) s = execHbndst p n s := rfl
theorem exec_hmove (p : Pred) (n : BitVec 4) (v : BitVec 4) : exec (.hmove p n v) s = execHmove p n v s := rfl
theorem exec_hdist (p : Pred) (n : BitVec 4) (v : BitVec 4) (r : BitVec 6) : exec (.hdist p n v r) s = execHdist p n v r s := rfl
theorem exec_hnear (p : Pred) (n : BitVec 4) (r : BitVec 6) : exec (.hnear p n r) s = execHnear p n r s := rfl
theorem exec_hneark (p : Pred) (n : BitVec 4) (r : BitVec 6) : exec (.hneark p n r) s = execHneark p n r s := rfl
theorem exec_hpopc (p : Pred) (n : BitVec 4) (v : BitVec 4) (r : BitVec 6) : exec (.hpopc p n v r) s = execHpopc p n v r s := rfl
theorem exec_qsend (p : Pred) (n : BitVec 4) : exec (.qsend p n) s = execQsend p n s := rfl
theorem exec_qsendv (p : Pred) (n : BitVec 4) : exec (.qsendv p n) s = execQsendv p n s := rfl
theorem exec_qrecv (p : Pred) (n : BitVec 4) (t : Option Target) : exec (.qrecv p n t) s = execQrecv p n t s := rfl
theorem exec_qrecvd (p : Pred) (n : BitVec 4) (r : BitVec 6) : exec (.qrecvd p n r) s = execQrecvd p n r s := rfl
theorem exec_qpoll (p : Pred) (n : BitVec 4) (t : Option Target) : exec (.qpoll p n t) s = execQpoll p n t s := rfl
theorem exec_qstat (p : Pred) (n : BitVec 4) (t : Option Target) : exec (.qstat p n t) s = execQstat p n t s := rfl
theorem exec_wbar (p : Pred) (n : BitVec 4) (t : Option Target) : exec (.wbar p n t) s = execWbar p n t s := rfl
theorem exec_warr (p : Pred) (n : BitVec 4) : exec (.warr p n) s = execWarr p n s := rfl
theorem exec_wwait (p : Pred) (n : BitVec 4) (t : Option Target) : exec (.wwait p n t) s = execWwait p n t s := rfl
theorem exec_wtime (p : Pred) (n : BitVec 4) (t : Option Target) : exec (.wtime p n t) s = execWtime p n t s := rfl
theorem exec_wsleep (p : Pred) (n : BitVec 4) (v : BitVec 4) (t : Option Target) : exec (.wsleep p n v t) s = execWsleep p n v t s := rfl
theorem exec_wstat (p : Pred) (n : BitVec 4) (t : Option Target) : exec (.wstat p n t) s = execWstat p n t s := rfl
theorem exec_wcfg (p : Pred) (n : BitVec 4) : exec (.wcfg p n) s = execWcfg p n s := rfl
theorem exec_wstep (p : Pred) (n : BitVec 4) : exec (.wstep p n) s = execWstep p n s := rfl
theorem exec_launch (p : Pred) (n : BitVec 4) : exec (.launch p n) s = execLaunch p n s := rfl
theorem exec_dpush (p : Pred) (n : BitVec 4) : exec (.dpush p n) s = execDpush p n s := rfl
theorem exec_dpop (p : Pred) (n : BitVec 4) (t : Option Target) : exec (.dpop p n t) s = execDpop p n t s := rfl
theorem exec_joinad (p : Pred) (n : BitVec 4) (v : BitVec 4) : exec (.joinad p n v) s = execJoinad p n v s := rfl
theorem exec_joinw (p : Pred) (n : BitVec 4) (t : Option Target) : exec (.joinw p n t) s = execJoinw p n t s := rfl
theorem exec_spawn (p : Pred) (n : BitVec 4) : exec (.spawn p n) s = execSpawn p n s := rfl
theorem exec_dstat (p : Pred) (n : BitVec 4) (t : Option Target) : exec (.dstat p n t) s = execDstat p n t s := rfl
theorem exec_dweight (p : Pred) (n : BitVec 4) : exec (.dweight p n) s = execDweight p n s := rfl
theorem exec_freeze (p : Pred) : exec (.freeze p) s = execFreeze p s := rfl
theorem exec_thaw (p : Pred) : exec (.thaw p) s = execThaw p s := rfl
theorem exec_ackf (p : Pred) : exec (.ackf p) s = execAckf p s := rfl
theorem exec_stopt (p : Pred) : exec (.stopt p) s = execStopt p s := rfl
theorem exec_startt (p : Pred) : exec (.startt p) s = execStartt p s := rfl
theorem exec_tlbinv (p : Pred) : exec (.tlbinv p) s = execTlbinv p s := rfl
theorem exec_swapout (p : Pred) : exec (.swapout p) s = execSwapout p s := rfl
theorem exec_swapin (p : Pred) : exec (.swapin p) s = execSwapin p s := rfl
theorem exec_rdctx (p : Pred) (t : Option Target) (u : Option Target) : exec (.rdctx p t u) s = execRdctx p t u s := rfl
theorem exec_wrctx : exec (.wrctx) s = execWrctx s := rfl
theorem exec_migr (p : Pred) : exec (.migr p) s = execMigr p s := rfl
theorem exec_idle (p : Pred) (t : Option Target) (u : Option Target) : exec (.idle p t u) s = execIdle p t u s := rfl
theorem exec_blockLookup (c : Nat) (q : Nat) : exec (.blockLookup c q) s = execBlockLookup c q s := rfl
theorem exec_blockMissFill (c : Nat) (q : Nat) : exec (.blockMissFill c q) s = execBlockMissFill c q s := rfl
theorem exec_alignHoldTimeout (c : Nat) (q : Nat) : exec (.alignHoldTimeout c q) s = execAlignHoldTimeout c q s := rfl
theorem exec_blockCommit (c : Nat) (q : Nat) : exec (.blockCommit c q) s = execBlockCommit c q s := rfl
theorem exec_performingResult (imm : Nat) : exec (.performingResult imm) s = execPerformingResult imm s := rfl
theorem exec_fillArrival (imm : Nat) : exec (.fillArrival imm) s = execFillArrival imm s := rfl
theorem exec_waitLimitExpiry (c : Nat) (q : Nat) : exec (.waitLimitExpiry c q) s = execWaitLimitExpiry c q s := rfl
theorem exec_withdrawal (imm : Nat) : exec (.withdrawal imm) s = execWithdrawal imm s := rfl
theorem exec_tlbMissRequest (c : Nat) (q : Nat) (ix : Nat) : exec (.tlbMissRequest c q ix) s = execTlbMissRequest c q ix s := rfl
theorem exec_pageWalk (c : Nat) (q : Nat) (ix : Nat) : exec (.pageWalk c q ix) s = execPageWalk c q ix s := rfl
theorem exec_homeAccess (imm : Nat) : exec (.homeAccess imm) s = execHomeAccess imm s := rfl
theorem exec_waitlistResend (imm : Nat) : exec (.waitlistResend imm) s = execWaitlistResend imm s := rfl
theorem exec_ownershipRequest (imm : Nat) : exec (.ownershipRequest imm) s = execOwnershipRequest imm s := rfl
theorem exec_patrolScrub (a : Nat) : exec (.patrolScrub a) s = execPatrolScrub a s := rfl
theorem exec_interleaveDescriptorWrite (b : Nat) (off : Nat) (v : W64) : exec (.interleaveDescriptorWrite b off v) s = execInterleaveDescriptorWrite b off v s := rfl
theorem exec_mChipletStateWrite (n : Nat) (v : W64) : exec (.mChipletStateWrite n v) s = execMChipletStateWrite n v s := rfl
theorem exec_combinedRead (imm : Nat) (j : Nat) : exec (.combinedRead imm j) s = execCombinedRead imm j s := rfl
theorem exec_matrixIntakeArrival (c : Nat) : exec (.matrixIntakeArrival c) s = execMatrixIntakeArrival c s := rfl
theorem exec_matrixCommandStart (c : Nat) : exec (.matrixCommandStart c) s = execMatrixCommandStart c s := rfl
theorem exec_matrixCommandComplete (c : Nat) (u : Nat) : exec (.matrixCommandComplete c u) s = execMatrixCommandComplete c u s := rfl
theorem exec_matrixTaskTake (b : Nat) (d : Nat) (n : Nat) (c : Nat) : exec (.matrixTaskTake b d n c) s = execMatrixTaskTake b d n c s := rfl
theorem exec_matrixTaskStart (c : Nat) : exec (.matrixTaskStart c) s = execMatrixTaskStart c s := rfl
theorem exec_matrixRetry (c : Nat) : exec (.matrixRetry c) s = execMatrixRetry c s := rfl
theorem exec_matrixSkip (c : Nat) : exec (.matrixSkip c) s = execMatrixSkip c s := rfl
theorem exec_matrixFlush (c : Nat) : exec (.matrixFlush c) s = execMatrixFlush c s := rfl
theorem exec_engineSave (c : Nat) : exec (.engineSave c) s = execEngineSave c s := rfl
theorem exec_copyIntakeArrival (c : Nat) : exec (.copyIntakeArrival c) s = execCopyIntakeArrival c s := rfl
theorem exec_copyCommandStart (c : Nat) : exec (.copyCommandStart c) s = execCopyCommandStart c s := rfl
theorem exec_copyLineWrite (c : Nat) (k : Nat) : exec (.copyLineWrite c k) s = execCopyLineWrite c k s := rfl
theorem exec_copyCommandComplete (c : Nat) (k : Nat) : exec (.copyCommandComplete c k) s = execCopyCommandComplete c k s := rfl
theorem exec_copyTaskAccept (b : Nat) (d : Nat) (n : Nat) (c : Nat) : exec (.copyTaskAccept b d n c) s = execCopyTaskAccept b d n c s := rfl
theorem exec_culvertDataAck (c : Nat) (k : Nat) : exec (.culvertDataAck c k) s = execCulvertDataAck c k s := rfl
theorem exec_pghandFlagAck (c : Nat) (k : Nat) : exec (.pghandFlagAck c k) s = execPghandFlagAck c k s := rfl
theorem exec_culvertLimitExpiry (c : Nat) (k : Nat) : exec (.culvertLimitExpiry c k) s = execCulvertLimitExpiry c k s := rfl
theorem exec_copyFclr (c : Nat) : exec (.copyFclr c) s = execCopyFclr c s := rfl
theorem exec_tagWaitDeliver (c : Nat) (q : Nat) (ix : Nat) : exec (.tagWaitDeliver c q ix) s = execTagWaitDeliver c q ix s := rfl
theorem exec_hvIntakeArrival (c : Nat) : exec (.hvIntakeArrival c) s = execHvIntakeArrival c s := rfl
theorem exec_hvCommandStart (c : Nat) : exec (.hvCommandStart c) s = execHvCommandStart c s := rfl
theorem exec_hvCommandComplete (c : Nat) : exec (.hvCommandComplete c) s = execHvCommandComplete c s := rfl
theorem exec_queueMessageArrival (imm : Nat) : exec (.queueMessageArrival imm) s = execQueueMessageArrival imm s := rfl
theorem exec_queueReservationGrant (c : Nat) (q : Nat) : exec (.queueReservationGrant c q) s = execQueueReservationGrant c q s := rfl
theorem exec_queueRefusal (imm : Nat) : exec (.queueRefusal imm) s = execQueueRefusal imm s := rfl
theorem exec_deliveryAck (imm : Nat) : exec (.deliveryAck imm) s = execDeliveryAck imm s := rfl
theorem exec_undeliverableReturn (imm : Nat) : exec (.undeliverableReturn imm) s = execUndeliverableReturn imm s := rfl
theorem exec_sumpSpill (n : Nat) (imm : Nat) : exec (.sumpSpill n imm) s = execSumpSpill n imm s := rfl
theorem exec_sumpDrain (n : Nat) : exec (.sumpDrain n) s = execSumpDrain n s := rfl
theorem exec_nstWrite (n : Nat) (k : Nat) (v : W64) : exec (.nstWrite n k v) s = execNstWrite n k v s := rfl
theorem exec_markerAck (n : Nat) : exec (.markerAck n) s = execMarkerAck n s := rfl
theorem exec_queueEnWrite (c : Nat) (q : Nat) (v : W64) : exec (.queueEnWrite c q v) s = execQueueEnWrite c q v s := rfl
theorem exec_queueDisc (c : Nat) (q : Nat) : exec (.queueDisc c q) s = execQueueDisc c q s := rfl
theorem exec_queueReset (c : Nat) (q : Nat) : exec (.queueReset c q) s = execQueueReset c q s := rfl
theorem exec_stepRequest (imm : Nat) : exec (.stepRequest imm) s = execStepRequest imm s := rfl
theorem exec_clockStsWrite (b : Nat) (v : W64) : exec (.clockStsWrite b v) s = execClockStsWrite b v s := rfl
theorem exec_frequencyStep (b : Nat) : exec (.frequencyStep b) s = execFrequencyStep b s := rfl
theorem exec_relockEnd (b : Nat) : exec (.relockEnd b) s = execRelockEnd b s := rfl
theorem exec_barrierCellWrite (b : Nat) (k : Nat) (v : W64) : exec (.barrierCellWrite b k v) s = execBarrierCellWrite b k v s := rfl
theorem exec_barrierArrival (imm : Nat) : exec (.barrierArrival imm) s = execBarrierArrival imm s := rfl
theorem exec_moduleCompletionReport (imm : Nat) : exec (.moduleCompletionReport imm) s = execModuleCompletionReport imm s := rfl
theorem exec_waiterWake (c : Nat) (q : Nat) : exec (.waiterWake c q) s = execWaiterWake c q s := rfl
theorem exec_sleepDeadline (c : Nat) (q : Nat) (ix : Nat) : exec (.sleepDeadline c q ix) s = execSleepDeadline c q ix s := rfl
theorem exec_coreGate (c : Nat) : exec (.coreGate c) s = execCoreGate c s := rfl
theorem exec_ditchDescriptorWrite (b : Nat) (d : Nat) (k : Nat) (v : W64) : exec (.ditchDescriptorWrite b d k v) s = execDitchDescriptorWrite b d k v s := rfl
theorem exec_ditchRst (b : Nat) (d : Nat) : exec (.ditchRst b d) s = execDitchRst b d s := rfl
theorem exec_addseg (b : Nat) (v : W64) : exec (.addseg b v) s = execAddseg b v s := rfl
theorem exec_addimg (b : Nat) (v : W64) : exec (.addimg b v) s = execAddimg b v s := rfl
theorem exec_addsave (b : Nat) (v : W64) : exec (.addsave b v) s = execAddsave b v s := rfl
theorem exec_sluiceHoldWrite (b : Nat) (v : W64) : exec (.sluiceHoldWrite b v) s = execSluiceHoldWrite b v s := rfl
theorem exec_regionWrite (b : Nat) (k : Nat) (v : W64) : exec (.regionWrite b k v) s = execRegionWrite b k v s := rfl
theorem exec_ditchAppend (imm : Nat) : exec (.ditchAppend imm) s = execDitchAppend imm s := rfl
theorem exec_appendWaitResume (b : Nat) (d : Nat) : exec (.appendWaitResume b d) s = execAppendWaitResume b d s := rfl
theorem exec_launchExpansion (b : Nat) : exec (.launchExpansion b) s = execLaunchExpansion b s := rfl
theorem exec_dependantSignal (b : Nat) : exec (.dependantSignal b) s = execDependantSignal b s := rfl
theorem exec_placementPass (b : Nat) : exec (.placementPass b) s = execPlacementPass b s := rfl
theorem exec_shareBoundary (b : Nat) : exec (.shareBoundary b) s = execShareBoundary b s := rfl
theorem exec_suspensionComplete (c : Nat) (q : Nat) : exec (.suspensionComplete c q) s = execSuspensionComplete c q s := rfl
theorem exec_rpubWrite (b : Nat) (v : W64) : exec (.rpubWrite b v) s = execRpubWrite b v s := rfl
theorem exec_generationAdopt (c : Nat) : exec (.generationAdopt c) s = execGenerationAdopt c s := rfl
theorem exec_faultPacketArrival (imm : Nat) : exec (.faultPacketArrival imm) s = execFaultPacketArrival imm s := rfl
theorem exec_idleDeliver (c : Nat) (q : Nat) (ix : Nat) : exec (.idleDeliver c q ix) s = execIdleDeliver c q ix s := rfl
theorem exec_supervisorCommandArrival (imm : Nat) : exec (.supervisorCommandArrival imm) s = execSupervisorCommandArrival imm s := rfl
theorem exec_slotStopw (c : Nat) (q : Nat) : exec (.slotStopw c q) s = execSlotStopw c q s := rfl
theorem exec_slotStartw (c : Nat) (q : Nat) : exec (.slotStartw c q) s = execSlotStartw c q s := rfl
theorem exec_slotFrzw (c : Nat) (q : Nat) : exec (.slotFrzw c q) s = execSlotFrzw c q s := rfl
theorem exec_slotFrzClear (c : Nat) (q : Nat) : exec (.slotFrzClear c q) s = execSlotFrzClear c q s := rfl
theorem exec_slotAckClear (c : Nat) (q : Nat) : exec (.slotAckClear c q) s = execSlotAckClear c q s := rfl
theorem exec_contextMirrorWrite (c : Nat) (q : Nat) (k : Nat) (v : W64) : exec (.contextMirrorWrite c q k v) s = execContextMirrorWrite c q k v s := rfl
theorem exec_sumpWindowWrite (n : Nat) (off : Nat) (v : W64) : exec (.sumpWindowWrite n off v) s = execSumpWindowWrite n off v s := rfl
theorem exec_swapoutComplete (c : Nat) : exec (.swapoutComplete c) s = execSwapoutComplete c s := rfl
theorem exec_migrArrival (imm : Nat) : exec (.migrArrival imm) s = execMigrArrival imm s := rfl
theorem exec_migrationQuiesce (c : Nat) : exec (.migrationQuiesce c) s = execMigrationQuiesce c s := rfl
theorem exec_migrationSave (c : Nat) : exec (.migrationSave c) s = execMigrationSave c s := rfl
theorem exec_migrationCopy (c : Nat) : exec (.migrationCopy c) s = execMigrationCopy c s := rfl
theorem exec_migrationRestore (c : Nat) : exec (.migrationRestore c) s = execMigrationRestore c s := rfl
theorem exec_rdirClear (c : Nat) : exec (.rdirClear c) s = execRdirClear c s := rfl
theorem exec_powerGood : exec (.powerGood) s = execPowerGood s := rfl
theorem exec_phase0End (b : Nat) : exec (.phase0End b) s = execPhase0End b s := rfl
theorem exec_wavefrontSlotStart (h : Nat) : exec (.wavefrontSlotStart h) s = execWavefrontSlotStart h s := rfl
theorem exec_offerWindowClose (n : Nat) : exec (.offerWindowClose n) s = execOfferWindowClose n s := rfl
theorem exec_clockLock (n : Nat) : exec (.clockLock n) s = execClockLock n s := rfl
theorem exec_siteConfigured (n : Nat) : exec (.siteConfigured n) s = execSiteConfigured n s := rfl
theorem exec_memoryClearDone (n : Nat) : exec (.memoryClearDone n) s = execMemoryClearDone n s := rfl
theorem exec_seamPass : exec (.seamPass) s = execSeamPass s := rfl
theorem exec_tablesPhase (b : Nat) : exec (.tablesPhase b) s = execTablesPhase b s := rfl
theorem exec_coresRelease (b : Nat) : exec (.coresRelease b) s = execCoresRelease b s := rfl
theorem exec_cfgacc (n : Nat) (a : Nat) (w : Bool) (v : W64) : exec (.cfgacc n a w v) s = execCfgacc n a w v s := rfl
theorem exec_leatFrameReceive (n : Nat) (f : Frame) : exec (.leatFrameReceive n f) s = execLeatFrameReceive n f s := rfl
theorem exec_leatWrite (n : Nat) (f : Frame) : exec (.leatWrite n f) s = execLeatWrite n f s := rfl
theorem exec_leatRead (n : Nat) (f : Frame) : exec (.leatRead n f) s = execLeatRead n f s := rfl
theorem exec_leatDitchw (n : Nat) (f : Frame) : exec (.leatDitchw n f) s = execLeatDitchw n f s := rfl
theorem exec_leatLaunch (n : Nat) (f : Frame) : exec (.leatLaunch n f) s = execLeatLaunch n f s := rfl
theorem exec_mgmtStatus (n : Nat) (f : Frame) : exec (.mgmtStatus n f) s = execMgmtStatus n f s := rfl
theorem exec_mgmtAttest (n : Nat) (f : Frame) : exec (.mgmtAttest n f) s = execMgmtAttest n f s := rfl
theorem exec_mgmtIdent (n : Nat) (f : Frame) : exec (.mgmtIdent n f) s = execMgmtIdent n f s := rfl
theorem exec_mgmtFwchunk (n : Nat) (f : Frame) : exec (.mgmtFwchunk n f) s = execMgmtFwchunk n f s := rfl
theorem exec_mgmtFwcommit (n : Nat) (f : Frame) : exec (.mgmtFwcommit n f) s = execMgmtFwcommit n f s := rfl
theorem exec_mgmtRestart (n : Nat) (f : Frame) : exec (.mgmtRestart n f) s = execMgmtRestart n f s := rfl
theorem exec_restartComplete : exec (.restartComplete) s = execRestartComplete s := rfl
theorem exec_hostComplArrival (n : Nat) (q : Nat) : exec (.hostComplArrival n q) s = execHostComplArrival n q s := rfl
theorem exec_hostWriteRetransmit (n : Nat) (q : Nat) : exec (.hostWriteRetransmit n q) s = execHostWriteRetransmit n q s := rfl
theorem exec_linkFlitReceive (n : Nat) (fl : LinkFlit) : exec (.linkFlitReceive n fl) s = execLinkFlitReceive n fl s := rfl
theorem exec_linkNakReceive (n : Nat) (q : Nat) : exec (.linkNakReceive n q) s = execLinkNakReceive n q s := rfl
theorem exec_linkAckReceive (n : Nat) (q : Nat) : exec (.linkAckReceive n q) s = execLinkAckReceive n q s := rfl
theorem exec_keySlotWrite (n : Nat) (k : Nat) (v : W64) : exec (.keySlotWrite n k v) s = execKeySlotWrite n k v s := rfl
theorem exec_txksWrite (n : Nat) (v : W64) : exec (.txksWrite n v) s = execTxksWrite n v s := rfl
theorem exec_wreqWrite (n : Nat) (v : W64) : exec (.wreqWrite n v) s = execWreqWrite n v s := rfl
theorem exec_widthChange (n : Nat) : exec (.widthChange n) s = execWidthChange n s := rfl
theorem exec_laneLockLoss (n : Nat) : exec (.laneLockLoss n) s = execLaneLockLoss n s := rfl
theorem exec_portEnWrite (n : Nat) (v : W64) : exec (.portEnWrite n v) s = execPortEnWrite n v s := rfl
theorem exec_powerWindow (a : Nat) : exec (.powerWindow a) s = execPowerWindow a s := rfl
theorem exec_marginSample (b : Nat) (a : Nat) : exec (.marginSample b a) s = execMarginSample b a s := rfl
theorem exec_traceSessionWrite (b : Nat) (n : Nat) (k : Nat) (v : W64) : exec (.traceSessionWrite b n k v) s = execTraceSessionWrite b n k v s := rfl
theorem exec_replayGo (c : Nat) : exec (.replayGo c) s = execReplayGo c s := rfl
theorem exec_configWrite (n : Nat) (off : Nat) (v : W64) : exec (.configWrite n off v) s = execConfigWrite n off v s := rfl
theorem exec_basinClockEdge (b : Nat) : exec (.basinClockEdge b) s = execBasinClockEdge b s := rfl
theorem exec_softError (a : Nat) (w : Bool) : exec (.softError a w) s = execSoftError a w s := rfl
theorem exec_leatLinkChange (n : Nat) (w : Bool) : exec (.leatLinkChange n w) s = execLeatLinkChange n w s := rfl
theorem exec_linkTrainingDone (n : Nat) (w : Bool) (k : Nat) : exec (.linkTrainingDone n w k) s = execLinkTrainingDone n w k s := rfl

end Sys2Proof.Machine
end

