-- ==== Sys2Proof/Laws/Lanes.lean ====
section
/-! SUPPORT. Laws of lane tokens: packing lanes gives a token that holds each lane's result. -/

namespace Sys2Proof

open Machine

namespace Machine

theorem packLanes_lt (w : Nat) (l : List LaneRes) :
    (packLanes w l).1 < 2 ^ (w * l.length) ∧ (packLanes w l).2.1 < 2 ^ (w / 8 * l.length) := by
  induction l with
  | nil => simp [packLanes]
  | cons r rs ih =>
    obtain ⟨h1, h2⟩ := ih
    have e1 : w * (rs.length + 1) = w + w * rs.length := by ring
    have e2 : w / 8 * (rs.length + 1) = w / 8 + w / 8 * rs.length := by ring
    have p1 := Nat.two_pow_pos w
    have p2 := Nat.two_pow_pos (w / 8)
    simp only [packLanes, List.length_cons, e1, e2, pow_add]
    cases r with
    | none =>
      refine ⟨?_, ?_⟩
      · exact Nat.mul_lt_mul_of_pos_left h1 p1
      · show 2 ^ (w / 8) - 1 + 2 ^ (w / 8) * (packLanes w rs).2.1 < _
        have : 2 ^ (w / 8) * ((packLanes w rs).2.1 + 1) ≤ 2 ^ (w / 8) * 2 ^ (w / 8 * rs.length) := Nat.mul_le_mul_left _ h2
        rw [Nat.mul_add, Nat.mul_one] at this
        omega
    | some x =>
      refine ⟨?_, ?_⟩
      · have := Nat.mod_lt x.1 p1
        show x.1 % 2 ^ w + 2 ^ w * _ < _
        nlinarith
      · exact Nat.mul_lt_mul_of_pos_left h2 p2

theorem packLanes_get (w : Nat) (l : List LaneRes) (i : Nat) (h : i < l.length) :
    (packLanes w l).1 / 2 ^ (w * i) % 2 ^ w = (match l[i] with | some r => r.1 % 2 ^ w | none => 0) ∧
    (packLanes w l).2.1 / 2 ^ (w / 8 * i) % 2 ^ (w / 8) = (match l[i] with | some _ => 0 | none => 2 ^ (w / 8) - 1) := by
  induction l generalizing i with
  | nil => simp at h
  | cons r rs ih =>
    have p1 := Nat.two_pow_pos w
    have p2 := Nat.two_pow_pos (w / 8)
    cases i with
    | zero =>
      simp only [packLanes, Nat.mul_zero, pow_zero, Nat.div_one, List.getElem_cons_zero]
      cases r with
      | none =>
        refine ⟨by simp, ?_⟩
        show (2 ^ (w / 8) - 1 + 2 ^ (w / 8) * _) % 2 ^ (w / 8) = _
        rw [Nat.add_mul_mod_self_left, Nat.mod_eq_of_lt (by omega)]
      | some x =>
        refine ⟨?_, by simp⟩
        show (x.1 % 2 ^ w + 2 ^ w * _) % 2 ^ w = _
        rw [Nat.add_mul_mod_self_left, Nat.mod_mod]
    | succ i =>
      have hi : i < rs.length := by simpa using h
      obtain ⟨h1, h2⟩ := ih i hi
      have e1 : w * (i + 1) = w + w * i := by ring
      have e2 : w / 8 * (i + 1) = w / 8 + w / 8 * i := by ring
      simp only [packLanes, List.getElem_cons_succ, e1, e2, pow_add, ← Nat.div_div_eq_div_mul]
      cases r with
      | none =>
        refine ⟨?_, ?_⟩
        · show 2 ^ w * _ / 2 ^ w / _ % _ = _
          rw [Nat.mul_div_cancel_left _ p1]; exact h1
        · show (2 ^ (w / 8) - 1 + 2 ^ (w / 8) * _) / 2 ^ (w / 8) / _ % _ = _
          rw [Nat.add_mul_div_left _ _ p2, Nat.div_eq_of_lt (Nat.sub_lt p2 Nat.one_pos), Nat.zero_add]; exact h2
      | some x =>
        refine ⟨?_, ?_⟩
        · show (x.1 % 2 ^ w + 2 ^ w * _) / 2 ^ w / _ % _ = _
          rw [Nat.add_mul_div_left _ _ p1, Nat.div_eq_of_lt (Nat.mod_lt _ p1), Nat.zero_add]; exact h1
        · show 2 ^ (w / 8) * _ / 2 ^ (w / 8) / _ % _ = _
          rw [Nat.mul_div_cancel_left _ p2]; exact h2

theorem packLanes_flags (w : Nat) (l : List LaneRes) (k : Nat) :
    (packLanes w l).2.2.getLsbD k = true ↔ ∃ r, some r ∈ l ∧ r.2.getLsbD k = true := by
  induction l with
  | nil => simp [packLanes]
  | cons r rs ih =>
    simp only [packLanes]
    cases r with
    | none => simpa using ih
    | some x =>
      obtain ⟨x, g⟩ := x
      show ((packLanes w rs).2.2 ||| g).getLsbD k = true ↔ _
      rw [BitVec.getLsbD_or, Bool.or_eq_true, ih]
      constructor
      · rintro (⟨r, hr, h⟩ | h)
        · exact ⟨r, by simp [hr], h⟩
        · exact ⟨(x, g), by simp, h⟩
      · rintro ⟨r, hr, h⟩
        rcases List.mem_cons.1 hr with hr | hr
        · cases hr; exact .inr h
        · exact .inl ⟨r, hr, h⟩

end Machine

/-- The token of n lanes of w bits that fit a token. -/
theorem laneToken_out (w n : Nat) (res : Nat → Option (Nat × Flags)) (h : w * n ≤ 128) (h' : w / 8 * n ≤ 16) :
    LaneOut w n res (laneToken w ((List.range n).map res)).1 (laneToken w ((List.range n).map res)).2 := by
  have hl := packLanes_lt w ((List.range n).map res)
  simp only [List.length_map, List.length_range] at hl
  have d : (laneToken w ((List.range n).map res)).1.data.toNat = (packLanes w ((List.range n).map res)).1 := by
    simp only [laneToken, BitVec.toNat_ofNat]
    exact Nat.mod_eq_of_lt (lt_of_lt_of_le hl.1 (Nat.pow_le_pow_right (by decide) h))
  have m : (laneToken w ((List.range n).map res)).1.mask.toNat = (packLanes w ((List.range n).map res)).2.1 := by
    simp only [laneToken, BitVec.toNat_ofNat]
    exact Nat.mod_eq_of_lt (lt_of_lt_of_le hl.2 (Nat.pow_le_pow_right (by decide) h'))
  have g : ∀ i, (hi : i < n) → ((List.range n).map res)[i]'(by simpa using hi) = res i := by intro i hi; simp
  constructor
  · intro i hi
    rw [d, (packLanes_get w _ i (by simpa using hi)).1, g i hi]
    split <;> split <;> simp_all
  · intro i hi
    rw [m, (packLanes_get w _ i (by simpa using hi)).2, g i hi]
    split <;> split <;> simp_all
  · rw [d, m]; exact hl
  · intro k
    show (packLanes w ((List.range n).map res)).2.2.getLsbD k = true ↔ _
    rw [packLanes_flags]
    constructor
    · rintro ⟨r, hr, hk⟩
      obtain ⟨i, hi, e⟩ := List.mem_map.1 hr
      exact ⟨i, List.mem_range.1 hi, r, e, hk⟩
    · rintro ⟨i, hi, r, e, hk⟩
      exact ⟨r, List.mem_map.2 ⟨i, List.mem_range.2 hi, e⟩, hk⟩

/-- The lanes of a type fill a token. -/
theorem LaneTy.width_count (y : LaneTy) : y.width * y.count = 128 ∧ y.width / 8 * y.count = 16 := by cases y <;> decide

end Sys2Proof
end

