-- ==== Sys2Proof/Laws/Memory.lean ====
section
/-! SUPPORT. Laws of the memory: a byte read after a write, and that every operation on memory keeps its canonical form. -/

namespace Sys2Proof.Machine

namespace Memory

/-! ### The canonical form, part by part -/

theorem wf_iff (m : Memory) : m.wf = true ↔
    mrising m.cells = true ∧ (∀ c ∈ m.cells, c.2 ≠ unlisted) ∧ srising m.empties = true ∧ mrising m.errs = true := by
  simp [wf, and_assoc]

theorem reset_wf : ({} : Memory).wf = true := by decide

/-! ### One byte -/

theorem byte_setByte (m : Memory) (a x : Nat) (b : Byte) : (m.setByte a b).byte x = if a = x then b else m.byte x := by
  simp [byte, setByte, mget_mset]

@[simp] theorem byte_setFull (m : Memory) (w x : Nat) (f : Bool) : (m.setFull w f).byte x = m.byte x := rfl
@[simp] theorem byte_setErr (m : Memory) (w x : Nat) (e : Option Bool) : (m.setErr w e).byte x = m.byte x := rfl
@[simp] theorem full_setByte (m : Memory) (a w : Nat) (b : Byte) : (m.setByte a b).full w = m.full w := rfl

theorem full_setFull (m : Memory) (w x : Nat) (f : Bool) : (m.setFull w f).full x = if w = x then f else m.full x := by
  have h' : (x = w) = (w = x) := propext eq_comm
  cases f <;> by_cases h : w = x <;> simp [full, setFull, h, h']

/-- A write leaves every byte outside the bytes it names. -/
theorem byte_write_outside (m : Memory) (a v mask n x : Nat) (h : x < a ∨ a + n ≤ x) : (m.write a v mask n).byte x = m.byte x := by
  induction n generalizing m a v mask with
  | zero => rfl
  | succ n ih =>
    have hx : a ≠ x := by omega
    rw [write, ih _ _ _ _ (by omega)]
    split
    · simp [byte_setByte, hx]
    · rfl

/-- Byte i of an unmasked write is byte i of the number written. -/
theorem byte_write (m : Memory) (a v n i : Nat) (h : i < n) : (m.write a v 0 n).byte (a + i) = BitVec.ofNat 8 (v / 256 ^ i) := by
  induction n generalizing m a v i with
  | zero => omega
  | succ n ih =>
    rw [write]
    cases i with
    | zero => rw [byte_write_outside _ _ _ _ _ _ (by omega)]; simp [byte_setByte]
    | succ i =>
      have e : a + (i + 1) = a + 1 + i := by omega
      rw [e, show (0 : Nat) / 2 = 0 from rfl, ih _ _ _ _ (by omega), Nat.div_div_eq_div_mul, Nat.pow_succ', ]

theorem full_write (m : Memory) (a v mask n w : Nat) : (m.write a v mask n).full w = m.full w := by
  induction n generalizing m a v mask with
  | zero => rfl
  | succ n ih => rw [write, ih]; split <;> rfl

/-! ### Keeping the canonical form -/

theorem setByte_wf {m : Memory} (a : Nat) (b : Byte) (h : m.wf = true) : (m.setByte a b).wf = true := by
  rw [wf_iff] at *
  obtain ⟨h1, h2, h3, h4⟩ := h
  simp only [setByte, mset]
  split
  · exact ⟨mrising_mdel _ h1, fun c hc => h2 c (mem_mdel hc), h3, h4⟩
  · refine ⟨mrising_mput _ _ h1, fun c hc => ?_, h3, h4⟩
    rcases mem_mput hc with rfl | hc
    · assumption
    · exact h2 c hc

theorem setFull_wf {m : Memory} (w : Nat) (f : Bool) (h : m.wf = true) : (m.setFull w f).wf = true := by
  rw [wf_iff] at *
  obtain ⟨h1, h2, h3, h4⟩ := h
  cases f
  · exact ⟨h1, h2, srising_sins _ h3, h4⟩
  · exact ⟨h1, h2, srising_sdel _ h3, h4⟩

theorem setErr_wf {m : Memory} (w : Nat) (e : Option Bool) (h : m.wf = true) : (m.setErr w e).wf = true := by
  rw [wf_iff] at *
  obtain ⟨h1, h2, h3, h4⟩ := h
  cases e
  · exact ⟨h1, h2, h3, mrising_mdel _ h4⟩
  · exact ⟨h1, h2, h3, mrising_mput _ _ h4⟩

theorem write_wf {m : Memory} (a v mask n : Nat) (h : m.wf = true) : (m.write a v mask n).wf = true := by
  induction n generalizing m a v mask with
  | zero => exact h
  | succ n ih =>
    rw [write]
    split
    · exact ih _ _ _ (setByte_wf _ _ h)
    · exact ih _ _ _ h

theorem zero_wf {m : Memory} (lo n : Nat) (h : m.wf = true) : (m.zero lo n).wf = true := by
  rw [wf_iff] at *
  obtain ⟨h1, h2, h3, h4⟩ := h
  exact ⟨mrising_filter _ h1, fun c hc => h2 c (List.mem_of_mem_filter hc), h3, mrising_filter _ h4⟩

theorem clearSite_wf {m : Memory} (n : Nat) (bad : List Nat) (h : m.wf = true) : (m.clearSite n bad).wf = true := by
  have h' := zero_wf (n * 2 ^ 37) (2 ^ 37) h
  rw [wf_iff] at *
  obtain ⟨h1, h2, h3, h4⟩ := h'
  exact ⟨h1, h2, srising_filter _ h3, foldl_keeps (fun l : SMap Bool => mrising l = true) _ (fun c b hc => mrising_mput _ _ hc) _ _ h4⟩

theorem moveKeys_rising {α : Type} {m : SMap α} (lo n dst : Nat) (h : mrising m = true) : mrising (moveKeys m lo n dst) = true :=
  foldl_keeps (fun l : SMap α => mrising l = true) _ (fun _ _ hc => mrising_mput _ _ hc) _ _ (mrising_filter _ h)

theorem mem_moveKeys {α : Type} {m : SMap α} {lo n dst : Nat} {e : Nat × α} (h : e ∈ moveKeys m lo n dst) : ∃ e' ∈ m, e'.2 = e.2 := by
  refine foldl_keeps_mem m lo dst _ _ ?_ ?_ e h
  · exact fun x hx => ⟨List.mem_of_mem_filter hx⟩
  · exact fun x hx => ⟨x, List.mem_of_mem_filter hx, rfl⟩
where
  foldl_keeps_mem {α : Type} (m : SMap α) (lo dst : Nat) (l k : SMap α) (hl : ∀ x ∈ l, Nonempty (x ∈ m))
      (hk : ∀ x ∈ k, ∃ e' ∈ m, e'.2 = x.2) : ∀ e ∈ l.foldl (fun l e => mput l (dst + (e.1 - lo)) e.2) k, ∃ e' ∈ m, e'.2 = e.2 := by
    induction l generalizing k with
    | nil => exact hk
    | cons b l ih =>
      refine ih _ (fun x hx => hl x (List.mem_cons_of_mem _ hx)) ?_
      intro x hx
      rcases mem_mput hx with rfl | hx
      · exact ⟨b, (hl b (by simp)).elim id, rfl⟩
      · exact hk x hx

theorem copySlice_wf {m : Memory} (src dst n : Nat) (h : m.wf = true) : (m.copySlice src dst n).wf = true := by
  rw [wf_iff] at *
  obtain ⟨h1, h2, h3, h4⟩ := h
  refine ⟨moveKeys_rising _ _ _ h1, ?_, ?_, moveKeys_rising _ _ _ h4⟩
  · intro c hc
    obtain ⟨e, he, hx⟩ := mem_moveKeys hc
    exact hx ▸ h2 e he
  · exact foldl_keeps (fun l => srising l = true) _ (fun _ _ hc => srising_sins _ hc) _ _ (srising_filter _ h3)

/-- A fold of operations that keep the canonical form keeps it. -/
theorem foldl_wf {β : Type} (f : Memory → β → Memory) (hf : ∀ m b, m.wf = true → (f m b).wf = true) (l : List β) (m : Memory)
    (h : m.wf = true) : (l.foldl f m).wf = true :=
  foldl_keeps (fun m : Memory => m.wf = true) f hf l m h

end Memory

/-! ### Where a line lies -/

/-- Fields of an address above bit 5 are those of its line. -/
theorem line_div (x k : Nat) (h : 6 ≤ k) : 64 * (x / 64) / 2 ^ k = x / 2 ^ k := by
  obtain ⟨j, rfl⟩ := Nat.exists_eq_add_of_le h
  rw [Nat.pow_add, show (2:Nat) ^ 6 = 64 from rfl, ← Nat.div_div_eq_div_mul, ← Nat.div_div_eq_div_mul, Nat.mul_div_cancel_left _ (by decide)]

/-- A migration moves whole lines: an address stays where its line does (R434). -/
theorem State.redirect_of_line (s : State) (x : Nat) (h : s.redirect (64 * (x / 64)) = 64 * (x / 64)) : s.redirect x = x := by
  unfold State.redirect at h ⊢
  have h1 : paSpace (64 * (x / 64)) = paSpace x := by unfold paSpace; rw [line_div x 46 (by decide)]
  have h2 : paSite (64 * (x / 64)) = paSite x := by unfold paSite; rw [line_div x 37 (by decide)]
  have h3 : bits (64 * (x / 64)) 25 22 = bits x 25 22 := by unfold bits; rw [line_div x 22 (by decide)]
  rw [h1, h2, h3] at h
  have hm : 64 * (x / 64) % 2 ^ 22 = 64 * (x % 2 ^ 22 / 64) := by omega
  split at h
  · rw [if_pos ‹_›]
    generalize coreOf (paSite x) (bits x 25 22) = k at h ⊢
    change (if (s.coreAt k).rdir = true ∧ 64 * (x / 64) % 2 ^ 22 < 64 * (s.coreAt k).lmoved then slicePa (s.coreAt k).target + 64 * (x / 64) % 2 ^ 22
      else 64 * (x / 64)) = 64 * (x / 64) at h
    change (if (s.coreAt k).rdir = true ∧ x % 2 ^ 22 < 64 * (s.coreAt k).lmoved then slicePa (s.coreAt k).target + x % 2 ^ 22 else x) = x
    split at h
    · rename_i hc
      rw [if_pos ⟨hc.1, by omega⟩]
      omega
    · rename_i hc
      rw [if_neg fun hx => hc ⟨hx.1, by omega⟩]
  · rw [if_neg ‹_›]

end Sys2Proof.Machine
end

