-- ==== Sys2Proof/Tests/Slice0.lean ====
section
/-! SUPPORT. Tests of the model: well-formedness, decoding, single steps with results from the manual, and a witness for the hypotheses of every statement. -/

namespace Sys2Proof.Tests

open Sys2Proof Machine Claims

/-! ### Well-formedness: a term that each check refuses, and one it admits -/

/-- A target of the tests. -/
def tl (n : Nat) : Option Target := some ⟨.l, BitVec.ofNat 6 n⟩

/-- Two equal targets (R55); a control register RDC may not name, or WRC may not write (Table 2-13); a shift past 63 (R53); a type its major does not accept
(R183, R189, R192, R187, R188); a compact type of the other class (R61); a conversion between equal types, from no integer, to no float, or of a format with no
scale (R63); variants past those of the form (R65). -/
theorem test_wf_refuses_instructions : ∀ i ∈ ([.add .always (tl 3) (tl 3), .read 5#6 (tl 1) (tl 1), .rdc 17#6 none none, .rdc 36#6 none none, .wrc 6#6, .wrc 34#6,
    .shli .always 64#14 none, .shrni .always 0x3FFF#14 none, .vadd .always .f32 none none, .vadd .always .s8 (tl 2) (tl 2), .fadd .always .s32 none none,
    .exp2 .always .f32 none none, .vabs .always .n8 none none, .vwidenlo .always .s64 none none, .vnarrow .always .n8 none none, .vaddCompact .n8 none,
    .faddCompact .s8 none, .cvtFloatSource .always .bf16 .bf16 none none, .cvtFloatSource .always .s8 .n8 none none, .cvtIntegerSource .always .s8 .s16 none none,
    .cvtIntegerSource .always .f32 .f16 none none, .snarrow .always .c8 .f32 none none, .snarrow .always .e4m3 .s8 none none, .swiden .always .s16 .e4m3 none none,
    .swiden .always .f32 .b1 none none, .mlsc .always 0#4 2#4, .cpy1 .always 0#4 2#4, .fill .always 0#4 3#4, .wsleep .always 0#4 2#4 none,
    .joinad .always 0#4 2#4] : List Instr), i.wf = false := by decide

theorem test_wf_admits_instructions : ∀ i ∈ ([.add .always (tl 3) (tl 4), .add .always none none, .rdc 16#6 none none, .rdc 35#6 none none, .wrc 33#6,
    .shli .always 63#14 none, .vadd .always .n64 none none, .fadd .always .f16 none none, .exp2 .always .bf16 none none, .vabs .always .s64 none none,
    .vwidenlo .always .s32 none none, .vnarrow .always .n64 none none, .vaddCompact .n32 none, .faddCompact .f32 none, .cvtFloatSource .always .s8 .bf16 none none,
    .cvtIntegerSource .always .f32 .s16 none none, .snarrow .always .s4 .f32 none none, .swiden .always .f16 .e2m1 none none, .mlsc .always 0#4 1#4,
    .fill .always 0#4 2#4, .wsleep .always 0#4 1#4 none, .joinad .always 0#4 1#4] : List Instr), i.wf = true := by decide

/-- An event whose arguments name no unit: a core, a slot, an instruction index, a site, a basin, a port, a queue, a ditch, a trace session (R14 to R20). -/
theorem test_wf_refuses_events : ∀ i ∈ ([.blockCommit 7744 0, .blockCommit 368 8, .pageWalk 368 7 64, .clockLock 484, .phase0End 4, .portEnWrite 128 0#64,
    .queueDisc 368 8, .ditchRst 0 256, .ditchRst 4 0, .traceSessionWrite 0 4 0 0#64, .matrixTaskTake 0 256 0 368, .leatLinkChange 484 true] : List Instr),
    i.wf = false := by decide

theorem test_wf_admits_events : ∀ i ∈ ([.blockCommit 7743 7, .pageWalk 368 7 63, .clockLock 483, .phase0End 3, .portEnWrite 127 0#64, .queueDisc 368 7,
    .ditchRst 3 255, .traceSessionWrite 0 3 0 0#64, .matrixTaskTake 0 255 0 368, .leatLinkChange 10 true, .seamPass] : List Instr), i.wf = true := by decide

/-! ### Decoding: one word for each form, its bits laid out by hand from Tables 2-3 to 2-12 -/

theorem test_decode_block_control : ∀ e ∈ ([
    (0xE0009403, .br .onTrue 5#3 458756#19),
    (0xE000B40D, .call .onFalse 5#3 458757#19),
    (0x00001411, .bri .always 5#3),
    (0x0000141B, .calli .onTrue 5#3),
    (0x00001425, .ret .onFalse 5#3),
    (0xE0013429, .susp .always 5#3 458761#19),
    (0x00001433, .retire .onTrue 5#3),
    (0x72EBEC41, .read 59#6 (some ⟨.p, 43#6⟩) (some ⟨.l, 50#6⟩)),
    (0xB7701849, .readt 6#6 (some ⟨.l, 48#6⟩) (some ⟨.r, 55#6⟩)),
    (0x00004451, .write 17#6),
    (0x41FA8859, .rdc 34#6 (some ⟨.p, 58#6⟩) (some ⟨.l, 1#6⟩)),
    (0x00008461, .wrc 33#6),
    (0x0000006B, .null .onTrue),
    (0x50C9046D, .mov .onFalse (some ⟨.p, 9#6⟩) (some ⟨.l, 16#6⟩)),
    (0x00000869, .align),
    (0x80464C73, .movi .onTrue 8209#14 (some ⟨.r, 19#6⟩)),
    (0x804B607D, .appi .onFalse 8210#14 (some ⟨.p, 24#6⟩))] : List (Nat × Instr)), decodeWord e.1 = .ok e.2 := by decide

theorem test_decode_scalar_arith : ∀ e ∈ ([
    (0xA45D0081, .add .always (some ⟨.l, 29#6⟩) (some ⟨.r, 36#6⟩)),
    (0xE9A20483, .sub .onTrue (some ⟨.r, 34#6⟩) (some ⟨.p, 41#6⟩)),
    (0x6EE70885, .mul .onFalse (some ⟨.p, 39#6⟩) (some ⟨.l, 46#6⟩)),
    (0xB36C0C81, .mulhs .always (some ⟨.l, 44#6⟩) (some ⟨.r, 51#6⟩)),
    (0xF8B11083, .mulhn .onTrue (some ⟨.r, 49#6⟩) (some ⟨.p, 56#6⟩)),
    (0x7DF61485, .divs .onFalse (some ⟨.p, 54#6⟩) (some ⟨.l, 61#6⟩)),
    (0x827B1881, .divn .always (some ⟨.l, 59#6⟩) (some ⟨.r, 2#6⟩)),
    (0xC7801C83, .rems .onTrue (some ⟨.r, 0#6⟩) (some ⟨.p, 7#6⟩)),
    (0x4CC52085, .remn .onFalse (some ⟨.p, 5#6⟩) (some ⟨.l, 12#6⟩)),
    (0x914A2481, .mins .always (some ⟨.l, 10#6⟩) (some ⟨.r, 17#6⟩)),
    (0xD68F2883, .minn .onTrue (some ⟨.r, 15#6⟩) (some ⟨.p, 22#6⟩)),
    (0x5BD42C85, .maxs .onFalse (some ⟨.p, 20#6⟩) (some ⟨.l, 27#6⟩)),
    (0xA0593081, .maxn .always (some ⟨.l, 25#6⟩) (some ⟨.r, 32#6⟩)),
    (0xE59E3483, .neg .onTrue (some ⟨.r, 30#6⟩) (some ⟨.p, 37#6⟩)),
    (0x6AE33885, .abs .onFalse (some ⟨.p, 35#6⟩) (some ⟨.l, 42#6⟩))] : List (Nat × Instr)), decodeWord e.1 = .ok e.2 := by decide

theorem test_decode_scalar_logic : ∀ e ∈ ([
    (0xAF680089, .and .always (some ⟨.l, 40#6⟩) (some ⟨.r, 47#6⟩)),
    (0xF4AD048B, .or .onTrue (some ⟨.r, 45#6⟩) (some ⟨.p, 52#6⟩)),
    (0x79F2088D, .xor .onFalse (some ⟨.p, 50#6⟩) (some ⟨.l, 57#6⟩)),
    (0xBE770C89, .andn .always (some ⟨.l, 55#6⟩) (some ⟨.r, 62#6⟩)),
    (0xC3BC108B, .shl .onTrue (some ⟨.r, 60#6⟩) (some ⟨.p, 3#6⟩)),
    (0x48C1148D, .shrn .onFalse (some ⟨.p, 1#6⟩) (some ⟨.l, 8#6⟩)),
    (0x8D461889, .shrs .always (some ⟨.l, 6#6⟩) (some ⟨.r, 13#6⟩)),
    (0xD28B1C8B, .rotl .onTrue (some ⟨.r, 11#6⟩) (some ⟨.p, 18#6⟩)),
    (0x57D0208D, .not .onFalse (some ⟨.p, 16#6⟩) (some ⟨.l, 23#6⟩)),
    (0x9C552489, .popc .always (some ⟨.l, 21#6⟩) (some ⟨.r, 28#6⟩)),
    (0xE19A288B, .clz .onTrue (some ⟨.r, 26#6⟩) (some ⟨.p, 33#6⟩)),
    (0x66DF2C8D, .ctz .onFalse (some ⟨.p, 31#6⟩) (some ⟨.l, 38#6⟩)),
    (0xAB640091, .ceq .always (some ⟨.l, 36#6⟩) (some ⟨.r, 43#6⟩)),
    (0xF0A90493, .cne .onTrue (some ⟨.r, 41#6⟩) (some ⟨.p, 48#6⟩)),
    (0x75EE0895, .clts .onFalse (some ⟨.p, 46#6⟩) (some ⟨.l, 53#6⟩)),
    (0xBA730C91, .cles .always (some ⟨.l, 51#6⟩) (some ⟨.r, 58#6⟩)),
    (0xFFB81093, .cltn .onTrue (some ⟨.r, 56#6⟩) (some ⟨.p, 63#6⟩)),
    (0x44FD1495, .clen .onFalse (some ⟨.p, 61#6⟩) (some ⟨.l, 4#6⟩)),
    (0x89420099, .sel (some ⟨.l, 2#6⟩) (some ⟨.r, 9#6⟩)),
    (0xCE87049B, .exts8 .onTrue (some ⟨.r, 7#6⟩) (some ⟨.p, 14#6⟩)),
    (0x53CC089D, .exts16 .onFalse (some ⟨.p, 12#6⟩) (some ⟨.l, 19#6⟩)),
    (0x98510C99, .exts32 .always (some ⟨.l, 17#6⟩) (some ⟨.r, 24#6⟩)),
    (0xDD96109B, .extn8 .onTrue (some ⟨.r, 22#6⟩) (some ⟨.p, 29#6⟩)),
    (0x62DB149D, .extn16 .onFalse (some ⟨.p, 27#6⟩) (some ⟨.l, 34#6⟩)),
    (0xA7601899, .extn32 .always (some ⟨.l, 32#6⟩) (some ⟨.r, 39#6⟩)),
    (0x80EE94A3, .addi .onTrue 8251#14 (some ⟨.r, 37#6⟩)),
    (0x80F3A8AD, .muli .onFalse 8252#14 (some ⟨.p, 42#6⟩)),
    (0x80F5BCB1, .andi .always 8253#14 (some ⟨.l, 47#6⟩)),
    (0x80FAD0BB, .ori .onTrue 8254#14 (some ⟨.r, 52#6⟩)),
    (0x80FFE4C5, .xori .onFalse 8255#14 (some ⟨.p, 57#6⟩)),
    (0x00FDF8C9, .shli .always 63#14 (some ⟨.l, 62#6⟩)),
    (0x00FE0CD3, .shrni .onTrue 63#14 (some ⟨.r, 3#6⟩)),
    (0x00FF20DD, .shrsi .onFalse 63#14 (some ⟨.p, 8#6⟩)),
    (0x810D34E1, .ceqi .always 8259#14 (some ⟨.l, 13#6⟩)),
    (0x811248EB, .cltsi .onTrue 8260#14 (some ⟨.r, 18#6⟩))] : List (Nat × Instr)), decodeWord e.1 = .ok e.2 := by decide

theorem test_decode_lane_int : ∀ e ∈ ([
    (0x5ED71185, .vadd .onFalse .n8 (some ⟨.p, 23#6⟩) (some ⟨.l, 30#6⟩)),
    (0xA35C5581, .vsub .always .n16 (some ⟨.l, 28#6⟩) (some ⟨.r, 35#6⟩)),
    (0xE8A19983, .vadds .onTrue .n32 (some ⟨.r, 33#6⟩) (some ⟨.p, 40#6⟩)),
    (0x6DE6DD85, .vsubs .onFalse .n64 (some ⟨.p, 38#6⟩) (some ⟨.l, 45#6⟩)),
    (0xB26B0189, .vmul .always .s8 (some ⟨.l, 43#6⟩) (some ⟨.r, 50#6⟩)),
    (0xF7B0458B, .vmulh .onTrue .s16 (some ⟨.r, 48#6⟩) (some ⟨.p, 55#6⟩)),
    (0x7CF5898D, .vmin .onFalse .s32 (some ⟨.p, 53#6⟩) (some ⟨.l, 60#6⟩)),
    (0x817ACD89, .vmax .always .s64 (some ⟨.l, 58#6⟩) (some ⟨.r, 1#6⟩)),
    (0xC6BF1193, .vand .onTrue .n8 (some ⟨.r, 63#6⟩) (some ⟨.p, 6#6⟩)),
    (0x4BC45595, .vor .onFalse .n16 (some ⟨.p, 4#6⟩) (some ⟨.l, 11#6⟩)),
    (0x90499991, .vxor .always .n32 (some ⟨.l, 9#6⟩) (some ⟨.r, 16#6⟩)),
    (0xD58EDD93, .vandn .onTrue .n64 (some ⟨.r, 14#6⟩) (some ⟨.p, 21#6⟩)),
    (0x5AD3019D, .vshl .onFalse .s8 (some ⟨.p, 19#6⟩) (some ⟨.l, 26#6⟩)),
    (0x9F584599, .vshr .always .s16 (some ⟨.l, 24#6⟩) (some ⟨.r, 31#6⟩)),
    (0xE49D899B, .vrotl .onTrue .s32 (some ⟨.r, 29#6⟩) (some ⟨.p, 36#6⟩)),
    (0x69E2CD9D, .vnot .onFalse .s64 (some ⟨.p, 34#6⟩) (some ⟨.l, 41#6⟩)),
    (0xAE6711A1, .vceq .always .n8 (some ⟨.l, 39#6⟩) (some ⟨.r, 46#6⟩)),
    (0xF3AC55A3, .vcne .onTrue .n16 (some ⟨.r, 44#6⟩) (some ⟨.p, 51#6⟩)),
    (0x78F199A5, .vclt .onFalse .n32 (some ⟨.p, 49#6⟩) (some ⟨.l, 56#6⟩)),
    (0xBD76DDA1, .vcle .always .n64 (some ⟨.l, 54#6⟩) (some ⟨.r, 61#6⟩)),
    (0xC2BB01AB, .vsplat .onTrue .s8 (some ⟨.r, 59#6⟩) (some ⟨.p, 2#6⟩)),
    (0x47C045AD, .vextr .onFalse .s16 (some ⟨.p, 0#6⟩) (some ⟨.l, 7#6⟩)),
    (0x8C4589A9, .vperm .always .s32 (some ⟨.l, 5#6⟩) (some ⟨.r, 12#6⟩)),
    (0xD18ACDA9, .vsel .s64 (some ⟨.r, 10#6⟩) (some ⟨.p, 17#6⟩)),
    (0x56CF11B5, .vredadd .onFalse .n8 (some ⟨.p, 15#6⟩) (some ⟨.l, 22#6⟩)),
    (0x9B5455B1, .vredmin .always .n16 (some ⟨.l, 20#6⟩) (some ⟨.r, 27#6⟩)),
    (0xE09999B3, .vredmax .onTrue .n32 (some ⟨.r, 25#6⟩) (some ⟨.p, 32#6⟩)),
    (0x65DECDB5, .vabs .onFalse .s64 (some ⟨.p, 30#6⟩) (some ⟨.l, 37#6⟩)),
    (0xAA6301B9, .vwidenlo .always .s8 (some ⟨.l, 35#6⟩) (some ⟨.r, 42#6⟩)),
    (0xEFA845BB, .vwidenhi .onTrue .s16 (some ⟨.r, 40#6⟩) (some ⟨.p, 47#6⟩)),
    (0x74ED8DBD, .vnarrow .onFalse .s64 (some ⟨.p, 45#6⟩) (some ⟨.l, 52#6⟩)),
    (0xB972D5B9, .vnarrows .always .n16 (some ⟨.l, 50#6⟩) (some ⟨.r, 57#6⟩))] : List (Nat × Instr)), decodeWord e.1 = .ok e.2 := by decide

theorem test_decode_lane_float : ∀ e ∈ ([
    (0xFEB72683, .fadd .onTrue .bf16 (some ⟨.r, 55#6⟩) (some ⟨.p, 62#6⟩)),
    (0x43FC6A85, .fsub .onFalse .f32 (some ⟨.p, 60#6⟩) (some ⟨.l, 3#6⟩)),
    (0x8841A281, .fmul .always .f16 (some ⟨.l, 1#6⟩) (some ⟨.r, 8#6⟩)),
    (0xCD86E683, .fdiv .onTrue .bf16 (some ⟨.r, 6#6⟩) (some ⟨.p, 13#6⟩)),
    (0x52CB2A89, .fma .f32 (some ⟨.p, 11#6⟩) (some ⟨.l, 18#6⟩)),
    (0x97506289, .fms .f16 (some ⟨.l, 16#6⟩) (some ⟨.r, 23#6⟩)),
    (0xDC95A68B, .fmin .onTrue .bf16 (some ⟨.r, 21#6⟩) (some ⟨.p, 28#6⟩)),
    (0x61DAEA8D, .fmax .onFalse .f32 (some ⟨.p, 26#6⟩) (some ⟨.l, 33#6⟩)),
    (0xA65F2291, .fceq .always .f16 (some ⟨.l, 31#6⟩) (some ⟨.r, 38#6⟩)),
    (0xEBA46693, .fclt .onTrue .bf16 (some ⟨.r, 36#6⟩) (some ⟨.p, 43#6⟩)),
    (0x70E9AA95, .fcle .onFalse .f32 (some ⟨.p, 41#6⟩) (some ⟨.l, 48#6⟩)),
    (0xB56EE291, .fcun .always .f16 (some ⟨.l, 46#6⟩) (some ⟨.r, 53#6⟩)),
    (0xFAB3269B, .fabs .onTrue .bf16 (some ⟨.r, 51#6⟩) (some ⟨.p, 58#6⟩)),
    (0x7FF86A9D, .fneg .onFalse .f32 (some ⟨.p, 56#6⟩) (some ⟨.l, 63#6⟩)),
    (0x847DA299, .fsqrt .always .f16 (some ⟨.l, 61#6⟩) (some ⟨.r, 4#6⟩)),
    (0xC982E69B, .fredadd .onTrue .bf16 (some ⟨.r, 2#6⟩) (some ⟨.p, 9#6⟩)),
    (0x4EC722A5, .exp2 .onFalse .f16 (some ⟨.p, 7#6⟩) (some ⟨.l, 14#6⟩)),
    (0x934C66A1, .log2 .always .bf16 (some ⟨.l, 12#6⟩) (some ⟨.r, 19#6⟩)),
    (0xD891A2A3, .rcp .onTrue .f16 (some ⟨.r, 17#6⟩) (some ⟨.p, 24#6⟩)),
    (0x5DD6E6A5, .rsq .onFalse .bf16 (some ⟨.p, 22#6⟩) (some ⟨.l, 29#6⟩)),
    (0xA25B22A9, .tanh .always .f16 (some ⟨.l, 27#6⟩) (some ⟨.r, 34#6⟩)),
    (0xE7A066AB, .frint .onTrue .bf16 (some ⟨.r, 32#6⟩) (some ⟨.p, 39#6⟩)),
    (0x6CE556B5, .cvtFloatSource .onFalse .n16 .bf16 (some ⟨.p, 37#6⟩) (some ⟨.l, 44#6⟩)),
    (0xB16A8EB9, .cvtIntegerSource .always .f32 .s64 (some ⟨.l, 42#6⟩) (some ⟨.r, 49#6⟩)),
    (0xF6AF1EC3, .snarrow .onTrue .e2m3 .f16 (some ⟨.r, 47#6⟩) (some ⟨.p, 54#6⟩)),
    (0x7BF49ECD, .swiden .onFalse .f32 .e2m3 (some ⟨.p, 52#6⟩) (some ⟨.l, 59#6⟩))] : List (Nat × Instr)), decodeWord e.1 = .ok e.2 := by decide

theorem test_decode_compact : ∀ e ∈ ([
    (0x7920, .vaddCompact .s16 (some ⟨.l, 57#6⟩)),
    (0xBE42, .vsubCompact .s32 (some ⟨.r, 62#6⟩)),
    (0xC364, .vmulCompact .s64 (some ⟨.p, 3#6⟩)),
    (0x4886, .vminCompact .n32 (some ⟨.l, 8#6⟩)),
    (0x8D08, .vmaxCompact .s8 (some ⟨.r, 13#6⟩)),
    (0xD22A, .vandCompact .s16 (some ⟨.p, 18#6⟩)),
    (0x574C, .vorCompact .s32 (some ⟨.l, 23#6⟩)),
    (0x9C6E, .vxorCompact .s64 (some ⟨.r, 28#6⟩)),
    (0xE190, .vshlCompact .n32 (some ⟨.p, 33#6⟩)),
    (0x6612, .vshrCompact .s8 (some ⟨.l, 38#6⟩)),
    (0xAB34, .vceqCompact .s16 (some ⟨.r, 43#6⟩)),
    (0xF0F6, .faddCompact .f32 (some ⟨.p, 48#6⟩)),
    (0x75B8, .fsubCompact .f16 (some ⟨.l, 53#6⟩)),
    (0xBADA, .fmulCompact .bf16 (some ⟨.r, 58#6⟩)),
    (0xFFFC, .fminCompact .f32 (some ⟨.p, 63#6⟩)),
    (0x44BE, .fmaxCompact .f16 (some ⟨.l, 4#6⟩))] : List (Nat × Instr)), decodeWord e.1 = .ok e.2 := by decide

theorem test_decode_slice : ∀ e ∈ ([
    (0xF625AF03, .ld .onTrue .s32 11#4 61#6 (some ⟨.r, 9#6⟩)),
    (0x20010B0D, .st .onFalse .q 2#4 8#6),
    (0x4C4DE711, .ldd .always .q 9#4 19#6 19#6),
    (0x7A60031B, .take .onTrue 0#4 30#6 (some ⟨.r, 24#6⟩)),
    (0xA7745F1D, .look .onFalse 7#4 41#6 (some ⟨.p, 29#6⟩)),
    (0xD000BB19, .give .always 14#4 52#6),
    (0xFC00D71B, .amend .onTrue 5#4 63#6),
    (0x2801331D, .post .onFalse 12#4 10#6),
    (0x54014F19, .void .always 3#4 21#6),
    (0x82D9AB1B, .febit .onTrue 10#4 32#6 (some ⟨.r, 54#6⟩)),
    (0xAFEC073D, .aadd .onFalse .ar 1#4 43#6 (some ⟨.p, 59#6⟩)),
    (0xD9006329, .aand .always .acq 8#4 54#6 (some ⟨.l, 0#6⟩)),
    (0x0614BF33, .aor .onTrue .rel 15#4 1#6 (some ⟨.r, 5#6⟩)),
    (0x3328DB25, .axor .onFalse .relaxed 6#4 12#6 (some ⟨.p, 10#6⟩)),
    (0x5D3D3739, .amins .always .ar 13#4 23#6 (some ⟨.l, 15#6⟩)),
    (0x8A51532B, .amaxs .onTrue .acq 4#4 34#6 (some ⟨.r, 20#6⟩)),
    (0xB765AF35, .aminn .onFalse .rel 11#4 45#6 (some ⟨.p, 25#6⟩)),
    (0xE179CB21, .amaxn .always .relaxed 2#4 56#6 (some ⟨.l, 30#6⟩)),
    (0x0E8E273B, .aswp .onTrue .ar 9#4 3#6 (some ⟨.r, 35#6⟩)),
    (0x3BA24329, .acas .acq 0#4 14#6 (some ⟨.p, 40#6⟩)),
    (0x00001F41, .fenceCore .always 7#4),
    (0x00007B43, .fenceBasin .onTrue 14#4),
    (0x00009745, .fenceSys .onFalse 5#4),
    (0xE9F0F341, .ldacqCore .always 12#4 58#6 (some ⟨.l, 60#6⟩)),
    (0x16050F43, .ldacqBasin .onTrue 3#4 5#6 (some ⟨.r, 1#6⟩)),
    (0x43196B45, .ldacqSys .onFalse 10#4 16#6 (some ⟨.p, 6#6⟩)),
    (0x6C018741, .strelCore .always 1#4 27#6),
    (0x9801E343, .strelBasin .onTrue 8#4 38#6),
    (0xC4023F45, .strelSys .onFalse 15#4 49#6),
    (0x01681B49, .probe .always 6#4 (some ⟨.l, 26#6⟩))] : List (Nat × Instr)), decodeWord e.1 = .ok e.2 := by decide

theorem test_decode_matrix_copy : ∀ e ∈ ([
    (0x00003783, .mls .onTrue 13#4),
    (0x10005385, .mlsc .onFalse 4#4 1#4),
    (0x0000AF81, .mswap .always 11#4),
    (0x0000CB83, .mstream .onTrue 2#4),
    (0x00012785, .mstreama .onFalse 9#4),
    (0x10014381, .mzero .always 0#4 1#4),
    (0x00019F83, .mdrain .onTrue 7#4),
    (0x0001FB85, .mdrainn .onFalse 14#4),
    (0x00021781, .mtask .always 5#4),
    (0x08C27383, .mstat .onTrue 12#4 (some ⟨.r, 12#6⟩)),
    (0x10000FA5, .cpy1 .onFalse 3#4 1#4),
    (0x10006BA1, .cpy2 .always 10#4 1#4),
    (0x100087A3, .gath .onTrue 1#4 1#4),
    (0x1000E3A5, .scat .onFalse 8#4 1#4),
    (0x10013FA1, .fill .always 15#4 1#4),
    (0x10015BA3, .cpycv .onTrue 6#4 1#4),
    (0x1001B7A5, .cpymc .onFalse 13#4 1#4),
    (0x1001D3A1, .culv .always 4#4 1#4),
    (0x10022FA3, .pghand .onTrue 11#4 1#4),
    (0x00024BA5, .ctask .onFalse 2#4),
    (0x0432A7A1, .twany .always 9#4 (some ⟨.l, 3#6⟩)),
    (0x0882C3A3, .twall .onTrue 0#4 (some ⟨.r, 8#6⟩)),
    (0x0CD31FA5, .tffr .onFalse 7#4 (some ⟨.p, 13#6⟩)),
    (0x05237BA1, .cstat .always 14#4 (some ⟨.l, 18#6⟩))] : List (Nat × Instr)), decodeWord e.1 = .ok e.2 := by decide

theorem test_decode_hyper : ∀ e ∈ ([
    (0x100017C3, .hbind .onTrue 5#4 1#4),
    (0x100073C5, .hbund .onFalse 12#4 1#4),
    (0x00008FC1, .hperm .always 3#4),
    (0x1000EBC3, .hthr .onTrue 10#4 1#4),
    (0x000107C5, .hld .onFalse 1#4),
    (0x000163C1, .hst .always 8#4),
    (0x1001BFC3, .hclr .onTrue 15#4 1#4),
    (0x0001DBC5, .hphase .onFalse 6#4),
    (0x000237C1, .hbndld .always 13#4),
    (0x000253C3, .hbndst .onTrue 4#4),
    (0x1002AFC5, .hmove .onFalse 11#4 1#4),
    (0x1082CBC1, .hdist .always 2#4 1#4 8#6),
    (0x013327C3, .hnear .onTrue 9#4 19#6),
    (0x01E343C5, .hneark .onFalse 0#4 30#6),
    (0x12939FC1, .hpopc .always 7#4 1#4 41#6)] : List (Nat × Instr)), decodeWord e.1 = .ok e.2 := by decide

theorem test_decode_flume_weir_sluice : ∀ e ∈ ([
    (0x00003BDB, .qsend .onTrue 14#4),
    (0x000057DD, .qsendv .onFalse 5#4),
    (0x06C0B3D9, .qrecv .always 12#4 (some ⟨.l, 44#6⟩)),
    (0x0150CFDB, .qrecvd .onTrue 3#4 21#6),
    (0x0F612BDD, .qpoll .onFalse 10#4 (some ⟨.p, 54#6⟩)),
    (0x07B147D9, .qstat .always 1#4 (some ⟨.l, 59#6⟩)),
    (0x080023E3, .wbar .onTrue 8#4 (some ⟨.r, 0#6⟩)),
    (0x00007FE5, .warr .onFalse 15#4),
    (0x04A09BE1, .wwait .always 6#4 (some ⟨.l, 10#6⟩)),
    (0x08F0F7E3, .wtime .onTrue 13#4 (some ⟨.r, 15#6⟩)),
    (0x1D4113E5, .wsleep .onFalse 4#4 1#4 (some ⟨.p, 20#6⟩)),
    (0x05916FE1, .wstat .always 11#4 (some ⟨.l, 25#6⟩)),
    (0x00018BE3, .wcfg .onTrue 2#4),
    (0x0001E7E5, .wstep .onFalse 9#4),
    (0x000003E9, .launch .always 0#4),
    (0x00005FEB, .dpush .onTrue 7#4),
    (0x0F20BBED, .dpop .onFalse 14#4 (some ⟨.p, 50#6⟩)),
    (0x1000D7E9, .joinad .always 5#4 1#4),
    (0x0BC133EB, .joinw .onTrue 12#4 (some ⟨.r, 60#6⟩)),
    (0x00014FED, .spawn .onFalse 3#4),
    (0x0461ABE9, .dstat .always 10#4 (some ⟨.l, 6#6⟩)),
    (0x0001C7EB, .dweight .onTrue 1#4)] : List (Nat × Instr)), decodeWord e.1 = .ok e.2 := by decide

theorem test_decode_supervisor : ∀ e ∈ ([
    (0x000003F5, .freeze .onFalse),
    (0x000007F1, .thaw .always),
    (0x00000BF3, .ackf .onTrue),
    (0x00000FF5, .stopt .onFalse),
    (0x000013F1, .startt .always),
    (0x000017F3, .tlbinv .onTrue),
    (0x00001BF5, .swapout .onFalse),
    (0x00001FF1, .swapin .always),
    (0xFFB823F3, .rdctx .onTrue (some ⟨.r, 56#6⟩) (some ⟨.p, 63#6⟩)),
    (0x000027F1, .wrctx),
    (0x00002BF1, .migr .always),
    (0xCE872FF3, .idle .onTrue (some ⟨.r, 7#6⟩) (some ⟨.p, 14#6⟩))] : List (Nat × Instr)), decodeWord e.1 = .ok e.2 := by decide

/-! ### Whole blocks: the image of bump (Table 2-17), and a block for each cause of Table 2-14 -/

/-- The cause and index a block is refused with, or none. -/
def causeOf (hd : Nat) (body : List Nat) : Option (Nat × Nat) :=
  match decodeBlock false hd body with
  | .ok _ => none
  | .error (c, n) => some (c.code, n)

theorem test_block_bump : causeOf 0x00000E210002006A bumpBody = none := by decide

/-- MARK, reserved bits, BLEN 0, an instruction past the body, NINST too small. -/
theorem test_block_header_causes :
    causeOf 0x00000E210002006B bumpBody = some (1, 127) ∧ causeOf 0x00000E210002046A bumpBody = some (2, 127) ∧ causeOf 0x000000210002006A bumpBody = some (3, 127) ∧
    causeOf 0x00000D210002006A bumpBody = some (3, 127) ∧ causeOf 0x00000E210002005A bumpBody = some (3, 127) := by decide

/-- A body of one RETIRE (0x00000031) with one word before it: major 0x7F; an unassigned fn of major 0x10; an unused t0; mode 11; a target past the block; a shift of 64; a
form marked SV. -/
theorem test_block_word_causes :
    causeOf 0x000004200000001A [0x03F9, 0, 0x31, 0] = some (4, 0) ∧ causeOf 0x000004200000001A [0xFC81, 0, 0x31, 0] = some (5, 0) ∧
    causeOf 0x000004200000001A [0x006B, 0x41, 0x31, 0] = some (6, 0) ∧ causeOf 0x000004200000001A [0x0077, 0, 0x31, 0] = some (7, 0) ∧
    causeOf 0x000004200000001A [0x0071, 4, 0x31, 0] = none ∧ causeOf 0x000004200000001A [0x0C71, 1, 0x31, 0] = some (8, 0) ∧
    causeOf 0x000004200000001A [0x00C9, 0x0100, 0x31, 0] = some (9, 0) ∧ causeOf 0x000004200000001A [0x03F1, 0, 0x31, 0] = some (10, 0) := by decide

/-- SMASK, NWRITE, NEXIT, and a slot no target names. -/
theorem test_block_causes :
    causeOf 0x00000E210000006A bumpBody = some (11, 127) ∧ causeOf 0x00000E220002006A bumpBody = some (12, 127) ∧ causeOf 0x00000E410002006A bumpBody = some (13, 127) ∧
    causeOf 0x000004200000001A [0x0469, 0, 0x31, 0] = some (14, 0) := by decide

/-! ### Single firings: what the first instruction of a block sends to the second -/

/-- A block of three instructions of which the first has the operand slots given; it lies in slot 0 of core 0 of site 23 and nothing has fired. -/
def blockOf (i : Inst) : Run := { addr := 0x1000#64, hd := 0, words := [0, 0, 0], insts := [i, {}, {}], seq := 0 }
def slotOf (r : Run) : Slot := { busy := true, run := some r }
def stateOf (r : Run) : State := { State.reset.setSlot 368 0 (slotOf r) with cur := some ⟨368, 0, 0⟩ }
def ctxOf (r : Run) : Ctx := ⟨368, 0, 0, slotOf r, r, r.inst 0⟩
def tok (n : Nat) : Token := { data := BitVec.ofNat 128 n }
def ops2 (a b : Nat) : Inst := { l := some (tok a), r := some (tok b) }

/-- The block after a firing, and the data and mask of the token in the left slot of instruction 1. -/
def after (o : Out) : Option Run := match o with
  | .next t => t.runAt 368 0
  | _ => none
def fire (i : Instr) (ops : Inst) : Option (Nat × Nat) := (after (exec i (stateOf (blockOf ops)))).bind fun r => (r.inst 1).l.map fun k => (k.data.toNat, k.mask.toNat)
def flagsAfter (i : Instr) (ops : Inst) : Option Flags := (after (exec i (stateOf (blockOf ops)))).map Run.flags

/-- Tables 5-2 to 5-4 at the edges of their ranges. -/
theorem test_add_wraps : fire (.add .always (tl 1) none) (ops2 0xFFFFFFFFFFFFFFFF 2) = some (1, 0) := by decide
theorem test_mulhs_signed : fire (.mulhs .always (tl 1) none) (ops2 0xFFFFFFFFFFFFFFFF 3) = some (0xFFFFFFFFFFFFFFFF, 0) := by decide
theorem test_mulhn_unsigned : fire (.mulhn .always (tl 1) none) (ops2 0xFFFFFFFFFFFFFFFF 3) = some (2, 0) := by decide
theorem test_divs_toward_zero : fire (.divs .always (tl 1) none) (ops2 0xFFFFFFFFFFFFFFF9 2) = some (0xFFFFFFFFFFFFFFFD, 0) := by decide
theorem test_divs_by_zero : fire (.divs .always (tl 1) none) (ops2 5 0) = some (0xFFFFFFFFFFFFFFFF, 0) := by decide
theorem test_divs_overflow : fire (.divs .always (tl 1) none) (ops2 0x8000000000000000 0xFFFFFFFFFFFFFFFF) = some (0x8000000000000000, 0) := by decide
theorem test_rems_sign_of_dividend : fire (.rems .always (tl 1) none) (ops2 0xFFFFFFFFFFFFFFF9 2) = some (0xFFFFFFFFFFFFFFFF, 0) := by decide
theorem test_remn_by_zero : fire (.remn .always (tl 1) none) (ops2 7 0) = some (7, 0) := by decide
theorem test_shrs_keeps_sign : fire (.shrs .always (tl 1) none) (ops2 0x8000000000000000 0x43) = some (0xF000000000000000, 0) := by decide
theorem test_rotl_by_zero : fire (.rotl .always (tl 1) none) (ops2 0x8000000000000001 0x40) = some (0x8000000000000001, 0) := by decide
theorem test_clz_of_zero : fire (.clz .always (tl 1) none) (ops2 0 0) = some (64, 0) := by decide
theorem test_abs_of_least : fire (.abs .always (tl 1) none) (ops2 0x8000000000000000 0) = some (0x8000000000000000, 0) := by decide
theorem test_clts_signed : fire (.clts .always (tl 1) none) (ops2 0xFFFFFFFFFFFFFFFF 0) = some (1, 0) := by decide
theorem test_cltn_unsigned : fire (.cltn .always (tl 1) none) (ops2 0xFFFFFFFFFFFFFFFF 0) = some (0, 0) := by decide
theorem test_addi_negative : fire (.addi .always 0x3FFF#14 (tl 1)) (ops2 0 0) = some (0xFFFFFFFFFFFFFFFF, 0) := by decide

/-- The 48-bit constant 0x7FFF_0000_0040 of R77's example, one instruction at a time. -/
theorem test_appi_chain : fire (.movi .always 31#14 (tl 1)) {} = some (31, 0) ∧ fire (.appi .always 0x3FF0#14 (tl 1)) (ops2 31 0) = some (0x7FFF0, 0) ∧
    fire (.appi .always 0#14 (tl 1)) (ops2 0x7FFF0 0) = some (0x1FFFC0000, 0) ∧ fire (.appi .always 0x40#14 (tl 1)) (ops2 0x1FFFC0000 0) = some (0x7FFF00000040, 0) := by
  decide

/-- A null byte in a data operand of a scalar form makes its token null (R144); SEL takes the token p chooses, whatever the other one is (Table 5-4). -/
theorem test_null_operand : fire (.add .always (tl 1) none) { l := some { data := 1#128, mask := 0x0080#16 }, r := some (tok 2) } = some (0, 0xFFFF) := by decide
theorem test_sel_ignores_other : fire (.sel (tl 1) none) { l := some nullToken, r := some (tok 9), p := some (tok 0) } = some (9, 0) := by decide
theorem test_failing_predicate : after (exec (.add .onTrue (tl 1) none) (stateOf (blockOf { l := some (tok 1), r := some (tok 2), p := some (tok 2) }))) =
    some (blockOf { l := some (tok 1), r := some (tok 2), p := some (tok 2) }) := by decide

/-- Lane forms: saturation with NS (R183), a shift by lane (R184), comparison (R185), a permutation (R186), a reduction (R187), widening (R188). -/
theorem test_vadds_saturates : fire (.vadds .always .s8 (tl 1) none) (ops2 0x7F80 0x01FF) = some (0x7F80, 0) ∧
    flagsAfter (.vadds .always .s8 (tl 1) none) (ops2 0x7F80 0x01FF) = some flagNS := by decide
theorem test_vshr_arithmetic : fire (.vshr .always .s16 (tl 1) none) (ops2 0x8000 0x0013) = some (0xF000, 0) := by decide
theorem test_vclt_unsigned : fire (.vclt .always .n8 (tl 1) none) (ops2 0x00FF 0xFF00) = some (0xFF00, 0) := by decide
theorem test_vperm_wraps : fire (.vperm .always .s32 (tl 1) none) (ops2 0x00000004000000030000000200000001 0x00000007000000000000000100000002) =
    some (0x00000004000000010000000200000003, 0) := by decide
theorem test_vredadd_signed : fire (.vredadd .always .s64 (tl 1) none) (ops2 0xFFFFFFFFFFFFFFFE0000000000000001 0) = some (0xFFFFFFFFFFFFFFFF, 0) := by decide
theorem test_vwidenhi_sign : fire (.vwidenhi .always .s32 (tl 1) none) (ops2 0x80000000000000010000000500000006 0) = some (0xFFFFFFFF800000000000000000000001, 0) := by decide

/-- A lane whose predicate lane fails is null in its bytes alone (R179, R182). -/
theorem test_lane_predicate : fire (.vadd .onTrue .s64 (tl 1) none) { l := some (tok (5 + 6 * 2 ^ 64)), r := some (tok (1 + 2 ^ 64)), p := some (tok (2 ^ 64 - 1)) } =
    some (6, 0xFF00) := by decide

/-- Floating point: 1.5 + 2.25 = 3.75; 1 / 16 = 2^−4 (Table 6-5); the lesser of −0 and +0; a comparison with a quiet NaN raises NV in FCLE and not in FCEQ (R190). -/
theorem test_fadd : fire (.fadd .always .f32 (tl 1) none) (ops2 0x3FC00000 0x40100000) = some (0x40700000, 0) := by decide
theorem test_fdiv : fire (.fdiv .always .f32 (tl 1) none) (ops2 0x3F8000003F8000003F8000003F800000 0x41800000418000004180000041800000) =
    some (0x3D8000003D8000003D8000003D800000, 0) := by decide
theorem test_fmin_of_zeros : fire (.fmin .always .f32 (tl 1) none) (ops2 0x80000000 0x00000000) = some (0x80000000, 0) := by decide
theorem test_fcle_nan : (flagsAfter (.fcle .always .f32 (tl 1) none) (ops2 0x7FC00000 0) = some flagNV) ∧
    (flagsAfter (.fceq .always .f32 (tl 1) none) (ops2 0x7FC00000 0) = some 0#6) := by decide

/-- The manual's examples of SWIDEN (R195) and of a compact form (R197): 1.0 + 1.0 in each lane. -/
theorem test_swiden_example : fire (.swiden .always .f32 .e2m1 (tl 1) none) (ops2 0x7654 0x4000) = some (0x414000004100000040C0000040800000, 0) ∧
    flagsAfter (.swiden .always .f32 .e2m1 (tl 1) none) (ops2 0x7654 0x4000) = some 0#6 := by decide
theorem test_compact_is_g_form : fire (.faddCompact .f32 (tl 1)) (ops2 0x3F800000 0x3F800000) = fire (.fadd .always .f32 (tl 1) none) (ops2 0x3F800000 0x3F800000) := by decide

/-- What a fault leaves: FRZ, the cause, the index, the program counter, whether a block is left, and the packets sent. A token sent to a filled slot raises 0x20 with the consumer's index and freezes the thread at its block's address (Table 5-9, R174). -/
def frozen (o : Out) : Option (Bool × BitVec 8 × BitVec 7 × W64 × Bool × Nat) := match o with
  | .next t => let sl := t.slotAt 368 0; some (sl.frz, sl.cause, sl.index, sl.pc, sl.run.isSome, t.pkts.length)
  | _ => none
theorem test_token_collision : frozen (exec (.movi .always 5#14 (tl 1)) (stateOf { blockOf {} with insts := [{}, { l := some (tok 1) }, {}] })) =
    some (true, 0x20#8, 1#7, 0x1000#64, false, 1) := by decide

/-- BR goes to A + 16 · off19 (R158). -/
theorem test_br_target : (after (exec (.br .always 0#3 0x7FFFF#19) (stateOf (blockOf {})))).map Run.exit = some (some ⟨.br, 0xFF0#64⟩) := by decide

/-! ### Memory at its home, registers, clocks -/

/-- The increments of Table 12-1, and one clock edge at m = 13. -/
theorem test_ncyc_increments : (List.range 13).map (fun i => ncycInc (i + 8)) =
    [139264, 123790, 111411, 101283, 92843, 85701, 79579, 74274, 69632, 65536, 61895, 58637, 55706] := by decide

/-- The least significant byte of a word lies at its lowest address (R5), and a masked byte is not written. -/
theorem test_little_endian : (let m := ({} : Memory).write 0x1000 0x11223344 0x2 4
    ((List.range 5).map fun i => (m.byte (0x1000 + i)).toNat)) = [0x44, 0, 0x22, 0x11, 0] := by decide

/-- A write of zeros leaves nothing listed. -/
theorem test_memory_canonical : (({} : Memory).write 0x1000 0xFF 0 8).write 0x1000 0 0 8 = {} := by decide

/-- Sites and cores: site (1,1) is 23, a P chiplet of basin P0; site 221 holds none of the corners; the grid of P0 (R14 to R17, R383). -/
theorem test_geometry : siteKind 23 = .prompt ∧ basinOf 23 = 0 ∧ siteKind 0 = .corner ∧ siteKind 483 = .corner ∧ chipletsOf 0 = 80 ∧ chipletsOf 2 = 70 ∧
    gridX 368 = 0 ∧ gridY 368 = 0 ∧ slicePa 369 = 23 * 2 ^ 37 + 2 ^ 22 := by decide


/-! ### Witnesses: states and operands that meet the hypotheses of each statement, clause by clause. Firing instructions -/

/-- A part in which site 23 is READY with every core live; slot 0 of core 0 runs a block. -/
def upOf (r : Run) : State := { ((stateOf r).setSite 23 { live := 0xFFFF#16, bst := 5 }) with powered := true }
def opsP : Inst := { l := some (tok 0x7FFF00001000), r := some (tok 2), p := some (tok (2 ^ 128 - 1)) }
def opsF : Inst := { opsP with p := some (tok 0) }
def runP : Run := blockOf opsP
def runF : Run := blockOf opsF

theorem fires_up (r : Run) (h : (r.inst 0).st = .idle) (h' : r.insts.length = r.words.length) (h'' : 0 < r.words.length) : Fires (upOf r) (ctxOf r) := by
  refine ⟨?_, h, h'⟩
  show (if 0 < r.words.length then some _ else none) = some _
  rw [if_pos h'']; rfl

theorem wit_fires : Fires (upOf runP) (ctxOf runP) := fires_up _ rfl rfl (by decide)
theorem wit_fires_false : Fires (upOf runF) (ctxOf runF) := fires_up _ rfl rfl (by decide)
theorem wit_admits_always (c : Ctx) : Admits .always c := trivial
theorem wit_admits_true : Admits .onTrue (ctxOf runP) := ⟨_, rfl, by decide, by decide⟩
theorem wit_admits_false : Admits .onFalse (ctxOf runF) := ⟨_, rfl, by decide, by decide⟩
theorem wit_hasPred : HasPred .onTrue (ctxOf runP) := fun _ => ⟨_, rfl⟩

theorem room_of {c : Ctx} {g h : Target} (hg : g.idx.toNat < c.run.words.length ∧ (c.run.inst g.idx.toNat).slot g.slot = none)
    (hh : h.idx.toNat < c.run.words.length ∧ (c.run.inst h.idx.toNat).slot h.slot = none) (hn : g ≠ h) : Room c (some g) (some h) :=
  ⟨fun _ e => by cases e; exact hg, fun _ e => by cases e; exact hh, fun _ e => by cases e; intro e'; cases e'; exact hn rfl⟩
theorem room_one {c : Ctx} {g : Target} (hg : g.idx.toNat < c.run.words.length ∧ (c.run.inst g.idx.toNat).slot g.slot = none) : Room c (some g) none :=
  ⟨fun _ e => by cases e; exact hg, nofun, fun _ _ => nofun⟩
theorem wit_room : Room (ctxOf runP) (tl 1) (tl 2) := room_of (by decide) (by decide) (by decide)
theorem wit_room_one : Room (ctxOf runP) (tl 2) none := room_one (by decide)

/-- The operands of a firing form, with its predicate and the room for its token: ScalarForms, MoveResults, and the frame of every statement about a form that
sends a token. -/
def Ready (p : Pred) (s : State) (c : Ctx) : Prop :=
  Fires s c ∧ Admits p c ∧ (∃ x, c.inst.l = some x ∧ x.mask = 0#16) ∧ (∃ y, c.inst.r = some y ∧ y.mask = 0#16) ∧ (∃ k, c.inst.p = some k ∧ k.nullIn 8 = false) ∧
    Room c (tl 1) (tl 2) ∧ Room c (tl 2) none
theorem wit_ready : Ready .onTrue (upOf runP) (ctxOf runP) :=
  ⟨wit_fires, wit_admits_true, ⟨_, rfl, by decide⟩, ⟨_, rfl, by decide⟩, ⟨_, rfl, by decide⟩, wit_room, wit_room_one⟩
theorem wit_ScalarForms : Ready .onTrue (upOf runP) (ctxOf runP) := wit_ready
theorem wit_ScalarImmediateResults : Ready .onTrue (upOf runP) (ctxOf runP) ∧ (Instr.shli .onTrue 63#14 (tl 2)).wf = true ∧ (Instr.shrsi .onTrue 0#14 (tl 2)).wf = true :=
  ⟨wit_ready, by decide, by decide⟩
theorem wit_LanePairResults : Ready .onTrue (upOf runP) (ctxOf runP) ∧ HasPred .onTrue (ctxOf runP) ∧ LaneTy.n64.isInt = true ∧ HasPred .always (ctxOf runP) :=
  ⟨wit_ready, wit_hasPred, rfl, fun h => absurd rfl h⟩
theorem wit_LaneUnaryForms : Ready .onTrue (upOf runP) (ctxOf runP) ∧ HasPred .onTrue (ctxOf runP) ∧ LaneTy.s8.isInt = true := ⟨wit_ready, wit_hasPred, rfl⟩
theorem wit_LaneWidthResults : Ready .onTrue (upOf runP) (ctxOf runP) ∧ HasPred .onTrue (ctxOf runP) ∧ LaneTy.n32.canWiden = true ∧ LaneTy.s64.canNarrow = true :=
  ⟨wit_ready, wit_hasPred, rfl, rfl⟩
theorem wit_FloatPairResults : Ready .onTrue (upOf runP) (ctxOf runP) ∧ HasPred .onTrue (ctxOf runP) ∧ LaneTy.f32.isFloat = true := ⟨wit_ready, wit_hasPred, rfl⟩
theorem wit_FloatSingleResults : Ready .onTrue (upOf runP) (ctxOf runP) ∧ HasPred .onTrue (ctxOf runP) ∧ (Instr.tanh .onTrue .bf16 (tl 1) (tl 2)).wf = true :=
  ⟨wit_ready, wit_hasPred, by decide⟩
theorem wit_FusedResults : Ready .onTrue (upOf runP) (ctxOf runP) ∧ LaneTy.f16.isFloat = true := ⟨wit_ready, rfl⟩
theorem wit_ConversionResults : Ready .onTrue (upOf runP) (ctxOf runP) ∧ HasPred .onTrue (ctxOf runP) ∧ (Instr.cvtFloatSource .onTrue .n64 .f32 (tl 1) (tl 2)).wf = true ∧
    (Instr.cvtIntegerSource .onTrue .f16 .n8 (tl 1) (tl 2)).wf = true ∧ (Instr.swiden .onTrue .f32 .e2m1 (tl 1) (tl 2)).wf = true ∧
    (Instr.snarrow .onTrue .s4 .f32 (tl 1) (tl 2)).wf = true := ⟨wit_ready, wit_hasPred, by decide, by decide, by decide, by decide⟩
theorem wit_MoveResults : Ready .onTrue (upOf runP) (ctxOf runP) := wit_ready
theorem wit_ResolvingForms : Ready .onTrue (upOf runP) (ctxOf runP) ∧ (ctxOf runP).run.tail = false := ⟨wit_ready, rfl⟩

/-- The same block in its tail. -/
def runT : Run := { runP with tail := true }
theorem wit_TailWriteFills : Fires (upOf runT) (ctxOf runT) ∧ (∃ x, (ctxOf runT).inst.l = some x) ∧ (ctxOf runT).run.tail = true ∧
    (ctxOf runT).sl.present.getLsbD ((63#6).toNat / 4) = true := ⟨fires_up _ rfl rfl (by decide), ⟨_, rfl⟩, rfl, by decide⟩

theorem stays_of {s : State} {pa n : Nat} (h : ∀ l ∈ linesOf pa n, s.redirect (64 * l) = 64 * l) : Stays s pa n := h

/-- A thread whose register 7 is empty, and one whose lines are not present. -/
def emptyCtx : Ctx := { ctxOf runP with sl := { slotOf runP with full := 0#64 } }
def emptyUp : State := (upOf runP).setSlot 368 0 { slotOf runP with full := 0#64 }
def absentCtx : Ctx := { ctxOf runP with sl := { slotOf runP with present := 0#16 } }
def absentUp : State := (upOf runP).setSlot 368 0 { slotOf runP with present := 0#16 }
theorem wit_RegisterReads : (Ready .always (upOf runP) (ctxOf runP) ∧ (ctxOf runP).sl.present.getLsbD 15 = true ∧ (ctxOf runP).sl.full.getLsbD 63 = true) ∧
    (Fires emptyUp emptyCtx ∧ emptyCtx.sl.present.getLsbD 15 = true ∧ emptyCtx.sl.full.getLsbD 63 = false ∧ emptyCtx.run.tail = false) ∧
    (Fires absentUp absentCtx ∧ absentCtx.sl.present.getLsbD 15 = false ∧ absentUp.mem.errs = [] ∧
      Stays absentUp absentCtx.sl.ctl.imga.toNat 2048 ∧ Room absentCtx (tl 1) (tl 2)) ∧
    ((upOf runP).coreAt 368).foldK < 2 :=
  ⟨⟨⟨wit_fires, trivial, ⟨_, rfl, by decide⟩, ⟨_, rfl, by decide⟩, ⟨_, rfl, by decide⟩, wit_room, wit_room_one⟩, by decide, by decide⟩, ⟨⟨rfl, rfl, rfl⟩, by decide, by decide, rfl⟩,
    ⟨⟨rfl, rfl, rfl⟩, by decide, rfl, stays_of (by decide), room_of (by decide) (by decide) (by decide)⟩, by decide⟩
theorem wit_ExitForms : Ready .onTrue (upOf runP) (ctxOf runP) ∧ (ctxOf runP).run.exit = none ∧ (∃ k, (ctxOf runP).inst.l = some k ∧ k.nullIn 8 = false) :=
  ⟨wit_ready, rfl, _, rfl, by decide⟩
theorem wit_PredicatedScalars : (Fires (upOf runF) (ctxOf runF) ∧ (ctxOf runF).inst.p = some (tok 0) ∧ (tok 0).nullIn 8 = false ∧ (tok 0).data.getLsbD 0 ≠ (Pred.onTrue == .onTrue)) ∧
    (Fires (upOf (blockOf { opsP with p := some nullToken })) (ctxOf (blockOf { opsP with p := some nullToken })) ∧ nullToken.nullIn 8 = true) :=
  ⟨⟨wit_fires_false, rfl, by decide, by decide⟩, fires_up _ rfl rfl (by decide), by decide⟩
def runFilled : Run := { runP with insts := [opsP, { l := some (tok 1) }, {}], exit := some ⟨.br, 0#64⟩ }
theorem wit_BlockFaults : Fires (upOf runFilled) (ctxOf runFilled) ∧ Admits .onTrue (ctxOf runFilled) ∧ (ctxOf runFilled).run.tail = false ∧
    (((ctxOf runFilled).run.inst 1).slot .l).isSome = true ∧ (ctxOf runFilled).run.exit.isSome = true :=
  ⟨fires_up _ rfl rfl (by decide), ⟨_, rfl, by decide, by decide⟩, rfl, by decide, by decide⟩

/-! Slice forms -/

/-- An address of the local window reaches the slice of the thread's core. -/
theorem wit_reaches (need : Need) (load : Bool) : Reaches (upOf runP) (ctxOf runP) need load 0x7FFF00001000 (slicePa 368 + 0x1000) none :=
  ⟨⟨true, false, false, by cases need <;> decide⟩, by decide,
    fun _ _ => by rw [show (upOf runP).place (coreBasin (ctxOf runP).core) (slicePa 368 + 0x1000) = .slice 368 0x1000 from by decide]; nofun, by cases load <;> decide⟩
theorem wit_LoadRequests : Ready .onTrue (upOf runP) (ctxOf runP) ∧ effective (tok 0x7FFF00001000) 0#6 16 % 16 = 0 ∧ effective (tok 0x7FFF00001000) 0#6 16 = 0x7FFF00001000 ∧
    Reaches (upOf runP) (ctxOf runP) .read true 0x7FFF00001000 (slicePa 368 + 0x1000) none ∧ Reaches (upOf runP) (ctxOf runP) .probe true 0x7FFF00001000 (slicePa 368 + 0x1000) none :=
  ⟨wit_ready, by decide, by decide, wit_reaches _ _, wit_reaches _ _⟩
theorem wit_PendingForms : Ready .onTrue (upOf runP) (ctxOf runP) ∧ effective (tok 0x7FFF00001000) 0#6 8 = 0x7FFF00001000 ∧ (tok 2).mask.toNat % 2 ^ 16 ≠ 2 ^ 16 - 1 ∧
    (tok 2).nullIn 8 = false ∧ Reaches (upOf runP) (ctxOf runP) .write false 0x7FFF00001000 (slicePa 368 + 0x1000) none ∧
    Reaches (upOf runP) (ctxOf runP) .read true 0x7FFF00001000 (slicePa 368 + 0x1000) none := ⟨wit_ready, by decide, by decide, by decide, wit_reaches _ _, wit_reaches _ _⟩
theorem wit_ReservingForms : Ready .onTrue (upOf runP) (ctxOf runP) ∧ (leftRun (ctxOf runP) 5#4 .ready { kind := .mem (.fence .sys), ix := 0, lsid := 5 }).disordered = false ∧ Reaches (upOf runP) (ctxOf runP) .read false 0x7FFF00001000 (slicePa 368 + 0x1000) none ∧
    Reaches (upOf runP) (ctxOf runP) .write false 0x7FFF00001000 (slicePa 368 + 0x1000) none := ⟨wit_ready, by decide, wit_reaches _ _, wit_reaches _ _⟩

/-- An address past the alignment of a 2-byte form; a translated page nothing has cached; a null address. -/
def runL (l : Token) : Run := blockOf { opsP with l := some l }
theorem wit_SliceFormStops :
    (Fires (upOf (runL (tok 0x7FFF00001001))) (ctxOf (runL (tok 0x7FFF00001001))) ∧ effective (tok 0x7FFF00001001) 0#6 2 % 2 ≠ 0 ∧ (runL (tok 0x7FFF00001001)).tail = false) ∧
    (Fires (upOf (runL (tok 0x10000))) (ctxOf (runL (tok 0x10000))) ∧ effective (tok 0x10000) 0#6 8 % 8 = 0 ∧
      (upOf (runL (tok 0x10000))).xlateFast ((ctxOf (runL (tok 0x10000))).sl.space 368 0) (effective (tok 0x10000) 0#6 8) .read = .miss) ∧
    (Fires (upOf (runL nullToken)) (ctxOf (runL nullToken)) ∧ Admits .onTrue (ctxOf (runL nullToken)) ∧ nullToken.nullIn 8 = true ∧ Room (ctxOf (runL nullToken)) (tl 1) none) :=
  ⟨⟨fires_up _ rfl rfl (by decide), by decide, rfl⟩, ⟨fires_up _ rfl rfl (by decide), by decide, by decide⟩,
    fires_up _ rfl rfl (by decide), ⟨_, rfl, by decide, by decide⟩, by decide, room_one (by decide)⟩

/-! Engine, queue, weir, sluice and supervisor forms -/

/-- A block with three operands. -/
def run3 (l r p : Nat) : Run := blockOf { l := some (tok l), r := some (tok r), p := some (tok p) }
theorem wit_run3 (l r p : Nat) : Fires (upOf (run3 l r p)) (ctxOf (run3 l r p)) := fires_up _ rfl rfl (Nat.lt_of_sub_eq_succ rfl)
theorem wit_run3_room (l r p : Nat) : Room (ctxOf (run3 l r p)) (tl 1) (tl 2) ∧ Room (ctxOf (run3 l r p)) (tl 1) none :=
  ⟨room_of ⟨Nat.lt_of_sub_eq_succ rfl, rfl⟩ ⟨Nat.lt_of_sub_eq_succ rfl, rfl⟩ (by decide), room_one ⟨Nat.lt_of_sub_eq_succ rfl, rfl⟩⟩
/-- Reaches and NamesCore as tests. -/
def reachesB (s : State) (c : Ctx) (need : Need) (load : Bool) (ea pa : Nat) : Bool :=
  decide (s.xlateFast (c.sl.space c.core c.slot) ea need = .ok pa true false false none) && decide (s.redirect pa = pa) &&
    (match s.place (coreBasin c.core) pa with | .config _ _ => false | _ => true) && decide (s.checkMem (c.sl.space c.core c.slot) load pa = none)
theorem reaches_of {s : State} {c : Ctx} {need : Need} {load : Bool} {ea pa : Nat} (h : reachesB s c need load ea pa = true) : Reaches s c need load ea pa none := by
  simp only [reachesB, Bool.and_eq_true, decide_eq_true_eq] at h
  refine ⟨⟨true, false, false, h.1.1.1⟩, h.1.1.2, fun site off e => ?_, h.2⟩
  rw [e] at h; exact absurd h.1.2 (by simp)
/-- The same, on a core whose engines the thread's group owns. -/
def ownOf (r : Run) : State := (upOf r).setCore 368 { owner := some ⟨0, 0⟩ }
theorem wit_EngineForms : (Fires (ownOf (run3 1 2 3)) (ctxOf (run3 1 2 3)) ∧ OwnsEngines (ownOf (run3 1 2 3)) (ctxOf (run3 1 2 3)) ∧ ((ownOf (run3 1 2 3)).coreAt 368).foldK < 2) ∧
    (Fires (upOf (blockOf { opsP with r := some nullToken })) (ctxOf (blockOf { opsP with r := some nullToken })) ∧ nullToken.mask ≠ 0#16) ∧
    (Fires (upOf (run3 1 2 3)) (ctxOf (run3 1 2 3)) ∧ ¬OwnsEngines (upOf (run3 1 2 3)) (ctxOf (run3 1 2 3)) ∧ (run3 1 2 3).tail = false) :=
  ⟨⟨⟨rfl, rfl, rfl⟩, .inl rfl, by decide⟩, ⟨fires_up _ rfl rfl (by decide), by decide⟩, wit_run3 _ _ _, by unfold OwnsEngines; decide, rfl⟩

/-- A block whose first instruction, of word w, waits since TIME 0 with l in its left slot. -/
def runW (w l : Nat) : Run := { blockOf { l := some (tok l), st := .wait 0 } with words := [w, 0, 0] }
theorem waits_up {w l : Nat} {i : Instr} (h : decodeWord w = .ok i) : WaitsAt (upOf (runW w l)) (ctxOf (runW w l)) 0 i :=
  ⟨rfl, rfl, rfl, rfl, by show (match decodeWord w with | .ok i => some i | .error _ => none) = some i; rw [h], rfl⟩
theorem room_runW (w l : Nat) : Room (ctxOf (runW w l)) (tl 1) none ∧ Room (ctxOf (runW w l)) (tl 1) (tl 2) :=
  ⟨room_one ⟨Nat.lt_of_sub_eq_succ rfl, rfl⟩, room_of ⟨Nat.lt_of_sub_eq_succ rfl, rfl⟩ ⟨Nat.lt_of_sub_eq_succ rfl, rfl⟩ (by decide)⟩

/-- twany, twall and tffr #0 -> 1.l: fn6 10, 11 and 12 of major 0x74; the mask is tag 63, or empty. -/
theorem wit_TagWaits : (Ready .onTrue (upOf runP) (ctxOf runP) ∧ (tok 0x7FFF00001000).nullIn 8 = false ∧ ((upOf runP).coreAt 368).foldK < 2) ∧
    WaitsAt (upOf (runW 0x041283A1 (2 ^ 63))) (ctxOf (runW 0x041283A1 (2 ^ 63))) 0 (.twany .always 0#4 (tl 1)) ∧
    WaitsAt (upOf (runW 0x0412C3A1 (2 ^ 63))) (ctxOf (runW 0x0412C3A1 (2 ^ 63))) 0 (.twall .always 0#4 (tl 1)) ∧
    WaitsAt (upOf (runW 0x041303A1 0)) (ctxOf (runW 0x041303A1 0)) 0 (.tffr .always 0#4 (tl 1)) ∧
    ((upOf runP).coreAt 368).tagsAt &&& (tok (2 ^ 63)).lo ≠ 0#64 ∧ (tok 0).lo = 0#64 ∧ Room (ctxOf (runW 0x041283A1 (2 ^ 63))) (tl 1) none :=
  ⟨⟨wit_ready, by decide, by decide⟩, waits_up (by decide), waits_up (by decide), waits_up (by decide), by decide, by decide, (room_runW _ _).1⟩

/-- Core 1 of site 23 as a destination; a body of 512 bytes, and of 8; queue 7. -/
theorem names_of {s : State} {c : Ctx} {d k : Nat} (h : (k = 16 * (d % 2 ^ 9) + d / 2 ^ 9 % 16 ∧ d / 2 ^ 16 % 4 = 0 ∧ d / 2 ^ 19 % 2 ^ 13 = 0 ∧ d / 2 ^ 32 % 2 ^ 32 = 0 ∧
    d / 2 ^ 74 % 2 ^ 54 = 0) ∧ (isCompute (coreSite k) = true ∧ s.reachable (coreSite c.core) (coreSite k) = true) ∧ s.coreLive k = true) : NamesCore s c d k :=
  ⟨h.1.1, h.1.2, h.2.1, fun _ => h.2.2⟩
/-- The same, with the route of site 23 to itself. -/
def reachUp (r : Run) : State := (upOf r).setSite 23 { live := 0xFFFF#16, bst := 5, nst := [(23, 0)] }
def queueUp (r : Run) (n : Nat) : State :=
  (upOf r).setCore 368 { queues := List.replicate 7 {} ++ [{ en := true, base := 16, size := 16, head := 0, tail := n, count := n }] }
theorem wit_QueueInstructions :
    (Fires (reachUp (run3 0 (23 + 512) 1)) (ctxOf (run3 0 (23 + 512) 1)) ∧ NamesCore (reachUp (run3 0 (23 + 512) 1)) (ctxOf (run3 0 (23 + 512) 1)) (23 + 512) 369) ∧
    (NamesCore (reachUp (run3 0x7FFF00001000 (23 + 512 + 512 * 2 ^ 64) 1)) (ctxOf (run3 0x7FFF00001000 (23 + 512 + 512 * 2 ^ 64) 1)) (23 + 512 + 512 * 2 ^ 64) 369 ∧
      Reaches (reachUp (run3 0x7FFF00001000 (23 + 512 + 512 * 2 ^ 64) 1)) (ctxOf (run3 0x7FFF00001000 (23 + 512 + 512 * 2 ^ 64) 1)) .read false 0x7FFF00001000 (slicePa 368 + 0x1000) none) ∧
    (Fires (reachUp (run3 (7 * 2 ^ 64) 0 1)) (ctxOf (run3 (7 * 2 ^ 64) 0 1)) ∧ (tok (7 * 2 ^ 64)).data.toNat = 7 * 2 ^ 64) ∧
    (Fires (queueUp (run3 7 0 1) 0) (ctxOf (run3 7 0 1)) ∧ (((queueUp (run3 7 0 1) 0).coreAt 368).queues.getD 7 {}).count = 0 ∧
      (((queueUp (run3 7 0 1) 0).coreAt 368).queues.getD 7 {}).size = 16) ∧
    (Fires (queueUp (run3 7 0 1) 2) (ctxOf (run3 7 0 1)) ∧ (((queueUp (run3 7 0 1) 2).coreAt 368).queues.getD 7 {}).count ≠ 0) ∧
    (NamesCore (reachUp (run3 (23 + 512) 0 1)) (ctxOf (run3 (23 + 512) 0 1)) (23 + 512) 369 ∧ ((reachUp (run3 (23 + 512) 0 1)).siteAt 23).sump = [] ∧
      ((reachUp (run3 (23 + 512) 0 1)).siteAt 23).marks = [] ∧ (reachUp (run3 (23 + 512) 0 1)).nstEntry 23 23 ≠ 2) :=
  ⟨⟨⟨rfl, rfl, rfl⟩, names_of (by decide)⟩, ⟨names_of (by decide), reaches_of (by decide)⟩, ⟨⟨rfl, rfl, rfl⟩, by decide⟩,
    ⟨⟨rfl, rfl, rfl⟩, by decide, by decide⟩, ⟨⟨rfl, rfl, rfl⟩, by decide⟩, names_of (by decide), rfl, rfl, by decide⟩

theorem wit_TimeReads : Ready .onTrue (upOf runP) (ctxOf runP) := wit_ready
/-- A cell number of 63, and one of 64; a WSTAT of the clock; a WSTEP of basin 3 with m 8 and 20. -/
theorem wit_WeirInstructions : (Fires (upOf (run3 63 0 1)) (ctxOf (run3 63 0 1)) ∧ (tok 63).data.toNat < 64) ∧
    (Fires (upOf (run3 64 0 1)) (ctxOf (run3 64 0 1)) ∧ 64 ≤ (tok 64).data.toNat ∧ (run3 64 0 1).tail = false) ∧ (tok 256).data.toNat = 256 ∧
    (Fires (upOf (run3 (3 + 20 * 2 ^ 8) 5 1)) (ctxOf (run3 (3 + 20 * 2 ^ 8) 5 1)) ∧ (tok (3 + 20 * 2 ^ 8)).data.toNat = 3 + 20 * 2 ^ 8 ∧ (tok 5).data.toNat < 2 ^ 64) ∧
    Room (ctxOf (run3 63 0 1)) (tl 1) none :=
  ⟨⟨wit_run3 _ _ _, by decide⟩, ⟨wit_run3 _ _ _, by decide, rfl⟩, by decide, ⟨wit_run3 _ _ _, by decide, by decide⟩, (wit_run3_room _ _ _).2⟩
theorem wit_DitchSummaries : Fires (upOf (run3 255 0 1)) (ctxOf (run3 255 0 1)) ∧ Room (ctxOf (run3 255 0 1)) (tl 1) none ∧ (tok 255).mask = 0#16 ∧ (tok 255).data.toNat < 256 :=
  ⟨wit_run3 _ _ _, (wit_run3_room _ _ _).2, rfl, by decide⟩

/-- A thread of a launch of its basin; a rider, which may push at a head. -/
def launchUp (r : Run) : State := { upOf r with launches := [⟨0, 0, [], 1, true, []⟩] }
def riderUp (r : Run) : State := { (upOf r).setSlot 368 7 (slotOf r) with cur := some ⟨368, 7, 0⟩ }
def riderCtx (r : Run) : Ctx := ⟨368, 7, 0, slotOf r, r, r.inst 0⟩
theorem wit_SluiceForms :
    (Fires (upOf (run3 0x7FFF00001000 255 1)) (ctxOf (run3 0x7FFF00001000 255 1)) ∧ (tok 0x7FFF00001000).data.toNat % 128 = 0 ∧
      Reaches (upOf (run3 0x7FFF00001000 255 1)) (ctxOf (run3 0x7FFF00001000 255 1)) .read false 0x7FFF00001000 (slicePa 368 + 0x1000) none ∧
      Reaches (upOf (run3 0x7FFF00001000 255 1)) (ctxOf (run3 0x7FFF00001000 255 1)) .write false 0x7FFF00001000 (slicePa 368 + 0x1000) none ∧ (tok 255).data.toNat < 256) ∧
    (Fires (upOf (run3 (255 * 2 ^ 64) 0 1)) (ctxOf (run3 (255 * 2 ^ 64) 0 1)) ∧ (tok (255 * 2 ^ 64)).data.toNat = 255 * 2 ^ 64) ∧
    (Fires (riderUp (run3 0 511 1)) (riderCtx (run3 0 511 1)) ∧ (tok 511).data.toNat < 512 ∧ (riderCtx (run3 0 511 1)).slot = 7) ∧
    (Fires (launchUp (run3 16 5 1)) (ctxOf (run3 16 5 1)) ∧ (ctxOf (run3 16 5 1)).slot ≠ 7 ∧
      (∃ k ∈ (launchUp (run3 16 5 1)).launches, k.basin = coreBasin 368 ∧ k.hdr = (ctxOf (run3 16 5 1)).sl.group.hdr)) ∧
    (Fires (upOf (run3 255 255 1)) (ctxOf (run3 255 255 1)) ∧ (tok 255).data.toNat < 256) :=
  ⟨⟨wit_run3 _ _ _, by decide, reaches_of (by decide), reaches_of (by decide), by decide⟩, ⟨wit_run3 _ _ _, by decide⟩, ⟨⟨rfl, rfl, rfl⟩, by decide, rfl⟩,
    ⟨⟨rfl, rfl, rfl⟩, by decide, _, .head _, rfl, rfl⟩, wit_run3 _ _ _, by decide⟩

/-- The thread in slot 2 of core 1 of site 23, and the issuing slot, which no form may name. -/
theorem wit_SupervisorForms :
    (Fires (riderUp (run3 (23 + 512 + 2 * 2 ^ 13) 127 5)) (riderCtx (run3 (23 + 512 + 2 * 2 ^ 13) 127 5)) ∧
      NamesThread (riderUp (run3 (23 + 512 + 2 * 2 ^ 13) 127 5)) (riderCtx (run3 (23 + 512 + 2 * 2 ^ 13) 127 5)) (23 + 512 + 2 * 2 ^ 13) ∧ (tok 127).data.toNat < 256 ∧
      (tok 5).data.toNat < 2 ^ 65 ∧ (tok 5).mask = 0#16) ∧
    (Fires (riderUp (run3 (23 + 7 * 2 ^ 13) 0 5)) (riderCtx (run3 (23 + 7 * 2 ^ 13) 0 5)) ∧
      ¬NamesThread (riderUp (run3 (23 + 7 * 2 ^ 13) 0 5)) (riderCtx (run3 (23 + 7 * 2 ^ 13) 0 5)) (23 + 7 * 2 ^ 13) ∧ (run3 (23 + 7 * 2 ^ 13) 0 5).tail = false) ∧
    ((tok (2 ^ 17)).data.toNat / 2 ^ 18 % 2 ^ 46 = 0 ∧ (tok (2 ^ 17)).data.toNat < 2 ^ 112) ∧
    ((tok (2 ^ 16)).data.toNat / 2 ^ 19 % 2 ^ 13 = 0 ∧ (tok (2 ^ 16)).data.toNat / 2 ^ 16 % 8 ≠ 0 ∧ (tok (2 ^ 16)).data.toNat / 2 ^ 64 % 2 ^ 7 = 0) ∧
    (NamesThread (riderUp (run3 23 126 5)) (riderCtx (run3 23 126 5)) 23 ∧ ((riderUp (run3 23 126 5)).slotAt 368 0).busy = true ∧ (tok 126).data.toNat = 2 * 63 ∧
      ((riderUp (run3 23 126 5)).slotAt 368 0).present.getLsbD 15 = true ∧ Room (riderCtx (run3 23 126 5)) (tl 1) (tl 2)) :=
  ⟨⟨⟨rfl, rfl, rfl⟩, by unfold NamesThread; decide, by decide, by decide, rfl⟩, ⟨⟨rfl, rfl, rfl⟩, by unfold NamesThread; decide, rfl⟩, by decide, by decide,
    by unfold NamesThread; decide, by decide, by decide, by decide, room_of ⟨by decide, rfl⟩ ⟨by decide, rfl⟩ (by decide)⟩

/-! ### Witnesses: fetch, commit and homes -/

def bumpEntry : StoreEntry := ⟨0x1000, 0, 0x00000E210002006A, bumpBody⟩
def lookUp (k : Lookup) (e : List StoreEntry) : State :=
  { ({ State.reset with powered := true }.setSite 23 { live := 0xFFFF#16, bst := 5 }).setSlot 368 0 { busy := true, look := some k } with stores := [(92, e)] }
def lookAt : Lookup := { addr := 0x1000#64, made := 0 }
theorem wit_BlockLookups :
    ((lookUp lookAt []).slotAt 368 0).look = some lookAt ∧ lookAt.got = .asked ∧ lookAt.hold = none ∧ lookAt.aligned = false ∧
    ((lookUp lookAt []).portPick 92 = some (368, 0) ∧ (mget (lookUp lookAt []).ports 92 {}).clk ≠ some ((lookUp lookAt []).cyc 368) ∧ (lookUp lookAt []).fencePending 368 0 = false) ∧ lookAt.addr.toNat % 16 = 0 ∧ lookAt.addr.toNat < 2 ^ 48 ∧
    (∀ e ∈ mget (lookUp lookAt []).stores (368 / 4) [], ¬(e.addr = 0x1000 ∧ e.root = 0)) ∧
    AtBoundary ((lookUp lookAt [bumpEntry]).slotAt 368 0) (lookUp lookAt [bumpEntry]) 368 0 ∧
    (mget (lookUp lookAt [bumpEntry]).stores (368 / 4) []).find? (fun e => decide (e.addr = 0x1000) && decide (e.root = 0)) = some bumpEntry ∧
    (∃ h ws is, decodeBlock (decide ((0 : Nat) = 7)) bumpEntry.hd bumpEntry.body = .ok (h, ws, is)) ∧
    ((lookUp { lookAt with hold := some 0 } []).setBasin 0 { cyc := 256 }).cyc 368 = 0 + 256 :=
  ⟨rfl, rfl, rfl, rfl, by decide, by decide, by decide, by decide, ⟨⟨rfl, rfl, rfl, rfl⟩, ⟨rfl, rfl, rfl, rfl, rfl, rfl, rfl⟩, nofun⟩, by decide, ⟨_, _, _, rfl⟩, by decide⟩

/-- A rider about to fetch a block of one RETIRE at 0x2000 of its slice. -/
def fillAt : Nat := slicePa 368 + 0x2000
def fillUp : State :=
  { ({ State.reset with powered := true }.setSite 23 { live := 0xFFFF#16, bst := 5 }).setSlot 368 7 { busy := true, look := some { addr := BitVec.ofNat 64 fillAt, made := 0, got := .missing } } with
    mem := (({} : Memory).write fillAt 0x000002200000000A 0 8).write (fillAt + 8) 0x31 0 4 }
theorem wit_BlockFills : (∃ k, (fillUp.slotAt 368 7).look = some k ∧ k.got = .missing ∧ k.addr.toNat = fillAt) ∧ (fillUp.slotAt 368 7).ctl.root = 0#64 ∧ fillAt % 16 = 0 ∧ fillAt < 2 ^ 48 ∧
    fillAt / 2 ^ 32 ≠ 0x7FFF ∧ (∃ h, decodeHeader (fillUp.mem.read fillAt 8) = .ok h ∧ fillAt % 0x10000 + 8 + 2 * h.blen ≤ 0x10000) ∧ decodeHeader (({} : Memory).read fillAt 8) = .error .mark ∧ fillUp.mem.errs = [] ∧ fillUp.owned = [] ∧ fillUp.fencePending 368 7 = false ∧
    fillUp.redirect fillAt = fillAt ∧ fillUp.redirect (fillAt + 8) = fillAt + 8 ∧ Stays fillUp fillAt 8 ∧ Stays fillUp (fillAt + 8) 4 ∧ fillUp.place 0 fillAt = .slice 368 0x2000 ∧ fillUp.place 0 (fillAt + 8) = .slice 368 0x2008 ∧
    fillUp.checkMem ⟨368, true, 0, 0, 0⟩ true fillAt = none ∧ fillUp.checkMem ⟨368, true, 0, 0, 0⟩ true (fillAt + 8) = none :=
  ⟨⟨_, rfl, rfl, by decide⟩, rfl, by decide, by decide, by decide, ⟨_, rfl, by decide⟩, by decide, rfl, rfl, by decide, by decide, by decide, stays_of (by decide), stays_of (by decide), by decide, by decide, by decide, by decide⟩

/-- A block of WRITE g63 and BR that has done both, and one of WRITE g6 and a RETIRE whose predicate never comes. -/
def doneBlock : Run := { addr := 0x1000#64, hd := 0x00000421000000001A, words := [0xFC51, 0x2001], insts := [{ l := some (tok 5), st := .done }, { st := .done }], seq := 0
                         exit := some ⟨.br, 0x1010#64⟩, met := some 0 }
def stuckBlock : Run := { addr := 0x1000#64, hd := 0x00000421000000001A, words := [0x1851, 0x33], insts := [{ l := some (tok 5), st := .done }, {}], seq := 0 }
def blockUp (r : Run) : State := ({ State.reset with powered := true }.setSite 23 { live := 0xFFFF#16, bst := 5 }).setSlot 368 0 (slotOf r)
theorem wit_BlockEnds_performs : ∀ i, doneBlock.performsAt i = false := by
  intro i
  rcases i with _ | _ | i
  · decide
  · decide
  · rfl

def commitUp (r : Run) : State := (blockUp r).setBasin 0 { cyc := 1 }
theorem complete_of {s : State} {core slot : Nat} {r : Run} {e : Exit}
    (h : (r.tail = false ∧ (s.slotAt core slot).held = false ∧ r.from_ ≤ s.cyc core ∧ r.nullFlag = false ∧ (s.slotAt core slot).failed = []) ∧ r.quiet (s.cyc core) = true ∧
      (∀ i ∈ r.outTail, countedForm (r.shape i) = true → r.resolved (s.cyc core) i = true) ∧ r.exit = some e ∧
      (r.badTail = none ∧ ∀ o ∈ r.ops, o.2.kind ≠ .mem (.joinad true)) ∧
      (∀ n ∈ r.needFull, (s.slotAt core slot).present.getLsbD (n / 4) = true ∧ (s.slotAt core slot).full.getLsbD n = true) ∧
      s.cmdRoom core (s.slotAt core slot).group r = true ∧ (r.met = some 0 ∧ 0 < s.cyc core) ∧
      ((s.coreAt core).commitAt ≠ some (s.cyc core) ∧ s.outranked core slot = false ∧ s.prioHeld core slot r = false)) : Complete s core slot r e :=
  ⟨h.1, h.2.1, h.2.2.1, h.2.2.2.1, h.2.2.2.2.1, h.2.2.2.2.2.1, h.2.2.2.2.2.2.1, ⟨0, h.2.2.2.2.2.2.2.1⟩, h.2.2.2.2.2.2.2.2⟩
/-- WRITE g63 and a CALL. -/
def callBlock : Run := { doneBlock with exit := some ⟨.call, 0x1010#64⟩ }
theorem wit_BlockCommits : ((commitUp doneBlock).runAt 368 0 = some doneBlock ∧ Complete (commitUp doneBlock) 368 0 doneBlock ⟨.br, 0x1010#64⟩ ∧ Tailless doneBlock ∧ doneBlock.ops = [] ∧ doneBlock.sups = [] ∧
    (doneBlock.writes.map Prod.fst).Nodup ∧ enabledFlags doneBlock = 0#6 ∧ (commitUp doneBlock).foldImgs = []) ∧
    Complete (commitUp callBlock) 368 0 callBlock ⟨.call, 0x1010#64⟩ ∧ callBlock.writes.map Prod.fst = [63] :=
  ⟨⟨rfl, complete_of (by decide), ⟨by decide, wit_BlockEnds_performs⟩, rfl, rfl, by decide, by decide, rfl⟩, complete_of (by decide), by decide⟩

/-- ST 1 #0 and a BR; CPY2 and a BR. -/
def storeOp : Op := { kind := .mem (.st 8), ix := 0, lsid := 1, l := 0#128, r := 0x11#128, va := 0x7FFF00001000, pa := slicePa 368 + 0x1000, size := 8 }
def storeBlock : Run := { addr := 0x1000#64, hd := 0x00000421000000002A, words := [0x0000C709, 0x2001], insts := [{ st := .ready }, { st := .done }], seq := 0
                          exit := some ⟨.br, 0x1010#64⟩, met := some 0, ops := [(1, storeOp)] }
def copyBlock : Run := { storeBlock with words := [0x53A1, 0x2001], ops := [(4, { kind := .cmd .cpy2, ix := 0, lsid := 4, l := 0#128, r := 0#128 })] }
theorem untailed {r : Run} (n : r.words.length = 2) (h : r.inTail = [] ∧ r.performsAt 0 = false ∧ r.performsAt 1 = false) : Tailless r := by
  refine ⟨h.1, fun i => ?_⟩
  rcases i with _ | _ | i
  · exact h.2.1
  · exact h.2.2
  · simp [Run.performsAt, Run.instr, n]
theorem wit_BlockDeparts : ((commitUp storeBlock).runAt 368 0 = some storeBlock ∧ Complete (commitUp storeBlock) 368 0 storeBlock ⟨.br, 0x1010#64⟩ ∧ Tailless storeBlock ∧ storeBlock.sups = [] ∧
    (∀ n, n < 8 → n ≠ 0 → (commitUp storeBlock).runAt 368 n = none) ∧ enabledFlags storeBlock = 0#6 ∧ ∀ o ∈ storeBlock.ops, o.2.kind = .mem (.st 8)) ∧
    Complete (commitUp copyBlock) 368 0 copyBlock ⟨.br, 0x1010#64⟩ ∧ Tailless copyBlock ∧ ∀ n, n < 8 → n ≠ 0 → (commitUp copyBlock).runAt 368 n = none :=
  ⟨⟨rfl, complete_of (by decide), untailed rfl (by decide), rfl, by decide, by decide, by decide⟩, complete_of (by decide), untailed rfl (by decide), by decide⟩

/-- TAKE 0 #0 -> 1.l, WRITE g6 and a BR: the TAKE holds its reservation and the WRITE waits for it in the tail. -/
def tailBlock : Run := { addr := 0x1000#64, hd := 0x00000421000000003A, words := [0x01040319, 0x1851, 0x2001], insts := [{ st := .ready }, {}, { st := .done }], seq := 0
                         exit := some ⟨.br, 0x1010#64⟩, met := some 0
                         ops := [(0, { storeOp with kind := .mem .take, lsid := 0 })] }
theorem tail_performs (i : Nat) (h : tailBlock.performsAt i = true) : (tailBlock.inst i).st = .ready := by
  rcases i with _ | _ | _ | i
  · rfl
  · exact absurd h (by decide)
  · exact absurd h (by decide)
  · exact absurd h (by simp [Run.performsAt, Run.instr, tailBlock])
theorem wit_TailStarts : (commitUp tailBlock).runAt 368 0 = some tailBlock ∧ Complete (commitUp tailBlock) 368 0 tailBlock ⟨.br, 0x1010#64⟩ ∧ tailBlock.sups = [] ∧
    (∀ n, n < 8 → n ≠ 0 → (commitUp tailBlock).runAt 368 n = none) ∧ (∀ o ∈ tailBlock.ops, o.2.kind = .mem .take) ∧ tailBlock.performsAt 0 = true ∧
    (∀ i, tailBlock.performsAt i = true → (tailBlock.inst i).st = .ready) ∧ enabledFlags tailBlock = 0#6 ∧ 6 ∈ tailBlock.tailRegs :=
  ⟨rfl, complete_of (by decide), rfl, by decide, by decide, by decide, tail_performs, by decide, by decide⟩

/-- The block of WRITE g63 and BR, with an event that FPC enables. -/
def eventBlock : Run := { doneBlock with flags := 1#6, fpc := 0x100#64 }
theorem wit_FloatEvents : (commitUp eventBlock).runAt 368 0 = some eventBlock ∧ Complete (commitUp eventBlock) 368 0 eventBlock ⟨.br, 0x1010#64⟩ ∧ Tailless eventBlock ∧ eventBlock.ops = [] ∧
    eventBlock.sups = [] ∧ enabledFlags eventBlock ≠ 0#6 ∧ eventBlock.told = false ∧ eventBlock.park = false :=
  ⟨rfl, complete_of (by decide), untailed rfl (by decide), rfl, rfl, by decide, rfl, rfl⟩
theorem wit_BlockIncomplete : (blockUp stuckBlock).runAt 368 0 = some stuckBlock ∧ stuckBlock.nullFlag = false ∧ stuckBlock.tail = false ∧ ((blockUp stuckBlock).slotAt 368 0).held = false ∧
    stuckBlock.from_ ≤ (blockUp stuckBlock).cyc 368 ∧ stuckBlock.quiet ((blockUp stuckBlock).cyc 368) = true ∧ stuckBlock.exit = none ∧ stuckBlock.inTail = [] ∧ ((blockUp stuckBlock).slotAt 368 0).failed = [] := by decide

/-- What ends a wait: the result of a TAKE for its tail; a fill of register 63; a READ at its limit; a GIVE withdrawn. -/
def takeRun : Run := { runW 0x01040319 0 with tail := true }
def takeResult : Result := { id := 4, core := 368, slot := 0, seq := 0, ix := 0, val := some 9#128 }
def fill63 : Fill := { id := 4, core := 368, slot := 0, reg := 63, val := 7#128 }
def readRun : Run := runW 0x00410041 0
def giveReq : Req := { id := 4, core := 368, slot := 0, ix := 0, seq := 0, lsid := 0, kind := .give, va := 0x7FFF00001000, pa := slicePa 368 + 0x1000, st := .waiting }
theorem wit_WaitsEnd_result : (blockUp takeRun).results = [] ∧ [takeResult].find? (fun x => x.id == takeResult.id) = some takeResult ∧ takeResult.val = some 9#128 ∧ takeResult.flight.isNone = true ∧
    WaitsAt { blockUp takeRun with results := [takeResult] } ⟨368, 0, 0, slotOf takeRun, takeRun, takeRun.inst 0⟩ 0 (.take .always 0#4 0#6 (tl 1)) ∧ takeResult.seq = takeRun.seq ∧
    takeRun.tail = true ∧ Room ⟨368, 0, 0, slotOf takeRun, takeRun, takeRun.inst 0⟩ (Instr.take .always 0#4 0#6 (tl 1)).shape.t none :=
  ⟨rfl, by decide, rfl, rfl, ⟨rfl, rfl, rfl, rfl, by decide, rfl⟩, rfl, rfl, room_one (by decide)⟩
theorem wit_WaitsEnd_fill : [fill63].find? (fun x => x.id == fill63.id) = some fill63 ∧ fill63.reg < 64 ∧ fill63.tag = 64 ∧ fill63.flight.isNone = true ∧
    (({ blockUp runP with fills := [fill63] }).slotAt 368 0).present.getLsbD 15 = true := by decide
def fill0 : Fill := { fill63 with reg := 0 }
theorem wit_WaitsEnd_wakes : WaitsAt { blockUp readRun with fills := [fill0] } ⟨368, 0, 0, slotOf readRun, readRun, readRun.inst 0⟩ 0 (.read 0#6 (tl 1) none) ∧
    [fill0].find? (fun x => x.id == fill0.id) = some fill0 ∧ (({ blockUp readRun with fills := [fill0] }).slotAt 368 0).present.getLsbD 0 = true ∧ fill0.hv = false ∧
    Room ⟨368, 0, 0, slotOf readRun, readRun, readRun.inst 0⟩ (tl 1) none := ⟨⟨rfl, rfl, rfl, rfl, by decide, rfl⟩, rfl, by decide, rfl, (room_runW _ _).1⟩
def readLate : State := { blockUp readRun with time := 100000 }
theorem wit_WaitsEnd_limit : WaitsAt readLate ⟨368, 0, 0, slotOf readRun, readRun, readRun.inst 0⟩ 0 (.read 0#6 (tl 1) none) ∧ readRun.tail = false ∧
    0 + (slotOf readRun).ctl.wlim.toNat ≤ readLate.time ∧ (∀ j t, j ≠ 0 → (readRun.inst j).st ≠ .wait t) ∧ readLate.reqs = [] ∧ readLate.recvs = [] ∧ readLate.appends = [] ∧ (slotOf readRun).failed = [] := by
  refine ⟨⟨rfl, rfl, rfl, rfl, by decide, rfl⟩, rfl, by decide, ?_, rfl, rfl, rfl, rfl⟩
  intro j t h
  rcases j with _ | _ | _ | j
  · exact absurd rfl h
  · nofun
  · nofun
  · nofun
def giveUp : State := { blockUp runP with reqs := [giveReq], withdrawals := [4], waitq := [4] }
theorem wit_WaitsEnd_withdrawal : giveUp.reqs.find? (fun a => a.id == giveReq.id) = some giveReq ∧ giveUp.withdrawals.contains giveReq.id = true ∧ giveReq.left = false ∧
    giveReq.st ≠ .reserved ∧ giveReq.kind = .give ∧ giveUp.runAt 368 0 = some runP ∧ runP.tail = false ∧ (∀ i ∈ giveUp.waitq, i = giveReq.id) ∧
    (∀ a ∈ giveUp.reqs, a.id = giveReq.id → a = giveReq) ∧ (giveUp.slotAt 368 0).failed = [] := by decide

/-- A page whose three table words lie at 0x100000, 0x104000 and 0x108000 of the slice. -/
def missVa : Nat := 0x10008
def miss0 : Miss := { core := 368, slot := 0, ix := 0, va := missVa, need := .read }
def rootPa : Nat := slicePa 368 + 0x100000
def walkMem : Memory := ((({} : Memory).write rootPa (rootPa + 0x4001) 0 8).write (rootPa + 0x4000) (rootPa + 0x8001) 0 8).write (rootPa + 0x8008) (slicePa 368 + 0x20007) 0 8
def walkUp (m : Miss) : State :=
  { ({ State.reset with powered := true }.setSite 23 { live := 0xFFFF#16, bst := 5 }).setSlot 368 0 { slotOf runP with ctl := { root := BitVec.ofNat 64 rootPa, asn := 1#64 } } with
    mem := walkMem, misses := [m] }
/-- The leaf in the second-level store of its home; one page walked of its home's four; four others walked. -/
def fourUp (l : List Nat) : State :=
  { (l.foldl (fun (s : State) k => s.setSlot 368 k { ctl := { asn := 1#64 } }) (walkUp miss0)) with
    misses := miss0 :: (l.zip [90, 145, 234, 323]).map fun e => { miss0 with slot := e.1, va := 0x10000 * e.2, walk := true } }
theorem wit_TranslationMisses_home : ({ walkUp miss0 with tlb2 := [(48, [⟨1, 1, 0x20007#64⟩])] } : State).findL2 0 1 (missVa / 0x10000) = some 0x20007 ∧ (walkUp miss0).missHeld 368 0 1 (missVa / 0x10000) = false ∧
    ((walkUp miss0).findL2 0 1 (missVa / 0x10000) = none ∧ ((walkUp miss0).walksAt (tlbHome 0 1 (missVa / 0x10000))).length < 4) ∧
    ((fourUp [1, 2, 3, 4]).findL2 0 1 (missVa / 0x10000) = none ∧ (0, 1, missVa / 0x10000) ∉ (fourUp [1, 2, 3, 4]).walksAt (tlbHome 0 1 (missVa / 0x10000)) ∧
      4 ≤ ((fourUp [1, 2, 3, 4]).walksAt (tlbHome 0 1 (missVa / 0x10000))).length) := by decide
theorem wit_TranslationMisses :
    (walkUp miss0).misses.find? (fun x => decide (x.core = 368) && decide (x.slot = 0) && decide (x.ix = 0) && x.walk == miss0.walk) = some miss0 ∧ (∀ x ∈ (walkUp miss0).misses, x.stale = false) ∧
    (walkUp { miss0 with walk := true }).walkHeld 0 1 rootPa missVa = false ∧
    (walkUp { miss0 with walk := true }).tableWord 0 (rootPa + 8 * (missVa / 2 ^ 37 % 2 ^ 11)) = .ok (rootPa + 0x4001) ∧ (rootPa + 0x4001) % 2 ^ 14 = 1 ∧ rootPa + 0x4001 < 2 ^ 48 ∧
    (walkUp { miss0 with walk := true }).tableWord 0 ((rootPa + 0x4001) / 2 ^ 14 * 2 ^ 14 + 8 * (missVa / 2 ^ 26 % 2 ^ 11)) = .ok (rootPa + 0x8001) ∧ (rootPa + 0x8001) % 2 ^ 13 = 1 ∧
    (walkUp { miss0 with walk := true }).tableWord 0 ((rootPa + 0x8001) / 2 ^ 13 * 2 ^ 13 + 8 * (missVa / 2 ^ 16 % 2 ^ 10)) = .ok (slicePa 368 + 0x20007) ∧
    (slicePa 368 + 0x20007) % 2 = 1 ∧ (slicePa 368 + 0x20007) / 2 ^ 4 % 2 ^ 12 = 0 ∧ slicePa 368 + 0x20007 < 2 ^ 48 := by decide

/-- A request alone at the home of its word. -/
def homeReq (k : MemKind) (n : Nat) (st : ReqSt) (left : Bool) : Req :=
  { id := 4, core := 368, slot := 0, ix := 0, seq := 0, lsid := 0, kind := k, va := 0x7FFF00001000, pa := slicePa 368 + 0x1000, size := n, data := 0x11#128, st := st, left := left }
def homeUp (q : Req) : State := { blockUp runP with reqs := [q] }
theorem atHome_of {s : State} {q : Req} (f : s.reqs.find? (fun a => a.id == q.id) = some q)
    (h : paSpace q.pa ≠ 3 ∧ (s.reqHeld q = false ∧ s.answerable q = true) ∧
      (s.holdsBack q = false ∧ s.sentAhead q.core (homeOf q.pa) q.key q.id = false ∧ s.pendingAhead q = false) ∧ (s.replyHeld q = false ∧ ∀ e ∈ s.sites, e.2.sump = []) ∧
      s.retiredHome q.pa = false ∧ q.rgn = none)
    (z : s.owned = [] ∧ s.ownReqs = [] ∧ s.resv = [] ∧ s.mem.errs = [] ∧ s.waitq = []) : AtHome s q :=
  ⟨f, h.1, h.2.1, h.2.2.1, h.2.2.2.1, ⟨by simp [z.1], by simp [z.2.1]⟩, by simp [z.2.2.1], ⟨by simp [z.2.2.2.1, mget?], h.2.2.2.2.1, h.2.2.2.2.2⟩, z.2.2.2.2⟩
theorem wit_HomeAccesses_store : AtHome (homeUp (homeReq (.st 8) 8 .sent true)) (homeReq (.st 8) 8 .sent true) := atHome_of rfl (by decide) ⟨rfl, rfl, rfl, rfl, rfl⟩
theorem wit_HomeAccesses_strel : AtHome (homeUp (homeReq (.strel .sys) 8 .sent true)) (homeReq (.strel .sys) 8 .sent true) := atHome_of rfl (by decide) ⟨rfl, rfl, rfl, rfl, rfl⟩
theorem wit_HomeAccesses_post : AtHome (homeUp (homeReq .post 8 .sent true)) (homeReq .post 8 .sent true) := atHome_of rfl (by decide) ⟨rfl, rfl, rfl, rfl, rfl⟩
theorem wit_HomeAccesses_void : AtHome (homeUp (homeReq .void 8 .sent true)) (homeReq .void 8 .sent true) := atHome_of rfl (by decide) ⟨rfl, rfl, rfl, rfl, rfl⟩
theorem wit_HomeAccesses_atomic : AtHome (homeUp (homeReq (.atomic .acas .ar) 8 .sent true)) (homeReq (.atomic .acas .ar) 8 .sent true) := atHome_of rfl (by decide) ⟨rfl, rfl, rfl, rfl, rfl⟩
theorem wit_HomeAccesses_give : AtHome (homeUp (homeReq .give 8 .reserved true)) (homeReq .give 8 .reserved true) := atHome_of rfl (by decide) ⟨rfl, rfl, rfl, rfl, rfl⟩
theorem wit_HomeAccesses_take : AtHome (homeUp (homeReq .take 8 .reserved true)) (homeReq .take 8 .reserved true) := atHome_of rfl (by decide) ⟨rfl, rfl, rfl, rfl, rfl⟩
/-- ld.n64 0 #0 -> 1.l and look 0 #0 -> 1.l waiting in the block. -/
def loadRun : Run := runW 0x0104C301 0
def lookRun : Run := runW 0x01044319 0
def loadUp (r : Run) (q : Req) (empty : List Nat) : State := { blockUp r with reqs := [q], mem := { empties := empty } }
theorem wit_HomeAccesses_load : AtHome (loadUp loadRun (homeReq (.ld .n64) 8 .sent false) []) (homeReq (.ld .n64) 8 .sent false) ∧
    WaitsAt (loadUp loadRun (homeReq (.ld .n64) 8 .sent false) []) ⟨368, 0, 0, slotOf loadRun, loadRun, loadRun.inst 0⟩ 0 (.ld .always .n64 0#4 0#6 (tl 1)) ∧
    (loadUp loadRun (homeReq (.ld .n64) 8 .sent false) []).forwarded (homeReq (.ld .n64) 8 .sent false) = (0, 0) ∧
    Room ⟨368, 0, 0, slotOf loadRun, loadRun, loadRun.inst 0⟩ (tl 1) none :=
  ⟨atHome_of rfl (by decide) ⟨rfl, rfl, rfl, rfl, rfl⟩, ⟨rfl, rfl, rfl, rfl, by decide, rfl⟩, by decide, room_one (by decide)⟩
theorem wit_HomeAccesses_look : AtHome (loadUp lookRun (homeReq .look 8 .sent false) []) (homeReq .look 8 .sent false) ∧ (loadUp lookRun (homeReq .look 8 .sent false) []).mem.full ((slicePa 368 + 0x1000) / 8) = true ∧
    AtHome (loadUp lookRun (homeReq .look 8 .sent false) [(slicePa 368 + 0x1000) / 8]) (homeReq .look 8 .sent false) ∧
    (loadUp lookRun (homeReq .look 8 .sent false) [(slicePa 368 + 0x1000) / 8]).mem.full ((slicePa 368 + 0x1000) / 8) = false :=
  ⟨atHome_of rfl (by decide) ⟨rfl, rfl, rfl, rfl, rfl⟩, by decide,
    atHome_of rfl (by decide) ⟨rfl, rfl, rfl, rfl, rfl⟩, by decide⟩
theorem wit_HomeAccesses_ldd : AtHome (homeUp (homeReq (.ldd .q 63) 16 .sent true)) (homeReq (.ldd .q 63) 16 .sent true) ∧
    (homeUp (homeReq (.ldd .q 63) 16 .sent true)).forwarded (homeReq (.ldd .q 63) 16 .sent true) = (0, 0) := ⟨atHome_of rfl (by decide) ⟨rfl, rfl, rfl, rfl, rfl⟩, by decide⟩

theorem wit_LoadsPerform_order : ({ loadRun with seen := loadRun.seen ++ (wordsOf (slicePa 368 + 0x1000) 8).map fun w => (0, w) } : Run).disordered = false := by decide

/-- A TAKE of a full word and a GIVE of an empty one before their reservation; a FENCE alone, of a thread at its boundary. -/
theorem wit_ReservationsGranted : AtHome (homeUp (homeReq .take 8 .sent false)) (homeReq .take 8 .sent false) ∧ (homeUp (homeReq .take 8 .sent false)).mem.full ((slicePa 368 + 0x1000) / 8) = true ∧
    AtHome (loadUp runP (homeReq .give 8 .sent false) [(slicePa 368 + 0x1000) / 8]) (homeReq .give 8 .sent false) ∧
    (loadUp runP (homeReq .give 8 .sent false) [(slicePa 368 + 0x1000) / 8]).mem.full ((slicePa 368 + 0x1000) / 8) = false :=
  ⟨atHome_of rfl (by decide) ⟨rfl, rfl, rfl, rfl, rfl⟩, by decide,
    atHome_of rfl (by decide) ⟨rfl, rfl, rfl, rfl, rfl⟩, by decide⟩
def fenceUp : State := { (blockUp runP).setSlot 368 0 { busy := true } with reqs := [homeReq (.fence .basin) 8 .sent true] }
theorem wit_FencesComplete : fenceUp.reqs.find? (fun a => a.id == 4) = some (homeReq (.fence .basin) 8 .sent true) ∧
    (∀ a ∈ fenceUp.reqs, a.left = true → a.core = 368 → a.slot = 0 → 0 ≤ a.ord) ∧ fenceUp.recvs = [] ∧ fenceUp.pops = [] ∧ fenceUp.qmsgs = [] ∧ fenceUp.appends = [] ∧ fenceUp.waitq = [] ∧
    AtBoundary (fenceUp.slotAt 368 0) (without fenceUp (homeReq (.fence .basin) 8 .sent true)) 368 0 ∧ (fenceUp.slotAt 368 0).look = none :=
  ⟨rfl, by decide, rfl, rfl, rfl, rfl, rfl, ⟨⟨rfl, rfl, rfl, rfl⟩, ⟨rfl, rfl, rfl, rfl, rfl, rfl, rfl⟩, nofun⟩, rfl⟩

/-- Events at homes: a request refused 64 clk ago; an ownership request alone; a word with a single-bit error, and a word without an error; LDDs of cores 0 and 1. -/
theorem wit_HomeEvents_resend : ∃ q ∈ [homeReq .take 8 (.refused 0) false], q.st = .refused 0 ∧ 0 + 64 ≤ ((homeUp (homeReq .take 8 (.refused 0) false)).setBasin 0 { cyc := 64 }).cyc q.core :=
  ⟨_, .head _, rfl, by decide⟩
def ownReq0 : OwnReq := { id := 4, line := 0x100, cmd := 9, core := 368 }
theorem wit_HomeEvents_own : ({ blockUp runP with ownReqs := [ownReq0] }).ownReqs.find? (fun x => x.id == ownReq0.id) = some ownReq0 ∧ (({ blockUp runP with ownReqs := [ownReq0] }).copyAt 368).intake = [] ∧
    homeOf (64 * ownReq0.line) ≠ homeOf (slicePa ownReq0.core) ∧ ({ blockUp runP with ownReqs := [ownReq0] }).wayHeld ownReq0.flight = false ∧
    (∀ x ∈ [ownReq0], x.core = ownReq0.core → homeOf (64 * x.line) = homeOf (64 * ownReq0.line) → ownReq0.id ≤ x.id ∧ ownReq0.ord ≤ x.ord) := by decide
theorem wit_HomeEvents_scrub : (15 : Nat) < 16 ∧ isCompute ((23 * 2 ^ 37 + 15 * 2 ^ 22 + 0x3FFFFF) / 2 ^ 37) = true ∧ (23 * 2 ^ 37 + 15 * 2 ^ 22 + 0x3FFFFF) % 2 ^ 37 = 15 * 2 ^ 22 + 0x3FFFFF ∧
    mget? ({ errs := [((23 * 2 ^ 37 + 15 * 2 ^ 22 + 0x3FFFFF) / 8, false)] } : Memory).errs ((23 * 2 ^ 37 + 15 * 2 ^ 22 + 0x3FFFFF) / 8) = some false ∧
    mget? (State.reset).mem.errs 5 = none := by decide
def lddA : Req := { homeReq (.ldd .n64 5) 8 .sent true with id := 3 }
def lddB : Req := { homeReq (.ldd .n64 6) 8 .sent true with id := 4, core := 369, clk := 16 }
def bothUp : State := { (blockUp runP).setSite 23 { live := 0xFFFF#16, bst := 5, nst := [(23, 0)] } with reqs := [lddA, lddB] }
theorem wit_HomeEvents_combined : AtHome bothUp lddA ∧ AtHome bothUp lddB ∧ lddA.core ≠ lddB.core ∧ coreSite lddA.core = coreSite lddB.core ∧ bothUp.forwarded lddA = (0, 0) ∧
    bothUp.forwarded lddB = (0, 0) ∧ lddB.clk = lddA.clk + 16 :=
  ⟨atHome_of rfl (by decide) ⟨rfl, rfl, rfl, rfl, rfl⟩,
    atHome_of rfl (by decide) ⟨rfl, rfl, rfl, rfl, rfl⟩, by decide, by decide, by decide, by decide, by decide⟩

/-! ### Witnesses: engines -/

def cmdA (k : CmdKind) (l r : W128) : Cmd := { id := 9, kind := k, core := 368, slot := 0, l := l, r := r, sp := ⟨368, true, 0, 0, 0⟩, grp := ⟨0, 0⟩, arrived := true }
def engUp : State := blockUp runP
/-- MZERO and MSTREAM of rows 2 and 3, MLS of B in bf16; the array holds a tile of bf16. -/
def cmdZero : Cmd := cmdA .mzero 0#128 0x00020200#128
def cmdStream : Cmd := { cmdA .mstream 0x1000#128 0x00020200#128 with mfmt := 0x11#64 }
def cmdLoad : Cmd := { cmdA .mls 0x1000#128 0#128 with mfmt := 0x11#64 }
def cmdSwap : Cmd := cmdA .mswap 0#128 0#128
def matUp (m : MatEng) : State := engUp.setMat 368 m
def matTile : MatEng := { active := { valid := true, fmt := 1 } }
theorem matReady_of {s : State} {core : Nat} {c : Cmd} {l : List Cmd} (h : (s.matAt core).intake = c :: l)
    (h' : c.core = core ∧ c.arrived = true ∧ s.threadDone c = true ∧ ((s.matAt core).halt = false ∧ (s.matAt core).task = none ∧ (s.matAt core).load = none ∧
      (s.matAt core).stream = none) ∧ (s.coreAt core).foldK < 2 ∧ s.tagOk c = true ∧ c.matFields (s.foldRows core) = true) : MatReady s core c l :=
  ⟨h, ⟨h'.1, h'.2.1, h'.2.2.1⟩, h'.2.2.2.1, h'.2.2.2.2.1, h'.2.2.2.2.2⟩
theorem wit_MatrixEvents_start : MatReady (matUp { intake := [cmdSwap] }) 368 cmdSwap [] ∧ MatReady (matUp { intake := [cmdZero] }) 368 cmdZero [] ∧
    (MatReady (matUp { intake := [cmdLoad] }) 368 cmdLoad [] ∧ (∃ f, cmdLoad.fb = some f ∧ f ≠ .c8)) ∧
    (MatReady (matUp { matTile with intake := [cmdStream] }) 368 cmdStream [] ∧ cmdStream.row = none ∧ (matUp { matTile with intake := [cmdStream] }).streamCheck cmdStream false = none) :=
  ⟨matReady_of rfl (by decide), matReady_of rfl (by decide), ⟨matReady_of rfl (by decide), _, rfl, by decide⟩, matReady_of rfl (by decide), rfl, by decide⟩
theorem wit_MatrixEvents_arrival : ((matUp { intake := [{ cmdSwap with arrived := false }] }).matAt 368).intake = [{ cmdSwap with arrived := false }] ∧
    ((matUp { intake := [{ cmdSwap with arrived := false }] }).basinAt (coreBasin cmdSwap.core)).traces = [] ∧ ((matUp { intake := [{ cmdSwap with arrived := false }] }).copyAt 368).intake = [] ∧
    (matUp { intake := [{ cmdSwap with arrived := false }] }).commandHeld 368 cmdSwap.slot cmdSwap.seq cmdSwap.lsid = false ∧
    (matUp { intake := [{ cmdSwap with arrived := false }] }).matCheck { cmdSwap with arrived := false } = none ∧ (cmdA .mzero 0#128 0xFFFF00#128).matFields 64 = false ∧
    (matUp { intake := [{ cmdA .mzero 0#128 0xFFFF00#128 with arrived := false }] }).waitq = [] := by decide
theorem wit_MatrixEvents_complete : cmdSwap.core = 368 ∧ cmdSwap.rp = false ∧ (engUp.coreAt 368).foldK < 2 ∧ ((matUp { load := some { cmd := cmdSwap } }).matAt 368).load = some { cmd := cmdSwap } ∧
    ((matUp { stream := some { cmd := cmdZero } }).matAt 368).stream = some { cmd := cmdZero } := by decide
theorem wit_MatrixEvents_task : ((matUp { tasks := [cmdA .mtask 0#128 0#128] }).matAt 368).tasks = [cmdA .mtask 0#128 0#128] ∧ (matUp { tasks := [cmdA .mtask 0#128 0#128] }).taskReady (cmdA .mtask 0#128 0#128) = true ∧
    (cmdA .mtask 0#128 0#128).taskDrains = false := by decide
def haltUp : State := matUp { halt := true, faulted := some { cmd := cmdStream }, intake := [cmdZero], cause := 0x44 }
theorem wit_MatrixEvents_halt : (haltUp.matAt 368).halt = true ∧ (haltUp.matAt 368).faulted = some { cmd := cmdStream } ∧ ({ cmd := cmdStream } : Running).isTask = false ∧ (haltUp.matAt 368).intake = [cmdZero] ∧
    (haltUp.matAt 368).tasks = [] ∧ cmdZero.core = 368 ∧ cmdZero.rp = false ∧ haltUp.waitq = [] ∧ haltUp.owned = [] ∧ haltUp.ownReqs = [] := by decide

theorem engineAt_of {s : State} {sp : Space} {va pa k o : Nat} {need : Need} {a b c : Bool} {x : Option Nat} (h : s.xlateFast sp va need = .ok pa a b c x) (hb : s.answersCore pa sp.core = true)
    (ht : s.touchL1 sp va = s) (hr : s.redirect pa = pa) (hp : s.place (coreBasin sp.core) pa = .slice k o) (hc : s.checkMem sp false pa = none) :
    s.engineAt sp va need = (.ok pa, s) := by
  unfold State.engineAt State.xlate
  rw [h]
  simp only [hr, hp, hc, ht, hb, if_true]
theorem engineXl_of {s : State} {sp : Space} {va pa : Nat} {need : Need} (h : s.engineAt sp va need = (.ok pa, s)) (hr : s.redirect pa = pa) :
    s.engineXl sp va need = (.ok pa, s) := by
  unfold State.engineXl
  rw [h]
  exact congrArg (fun a => (Except.ok a, s)) hr
theorem canRead_of {s : State} {c : Cmd} {va pa k o : Nat} (h : s.xlateFast c.sp va .read = .ok pa true false false none ∧ s.answersCore pa c.sp.core = true ∧
      (directXl c.sp va).isSome = true ∧ s.redirect pa = pa ∧ s.place (coreBasin c.sp.core) pa = .slice k o ∧ s.checkMem c.sp false pa = none)
    (f : s.readWaits c pa = false ∧ s.engineHeld c.core pa = false) (e : s.mem.errs = []) : CanRead s c va pa := by
  refine ⟨?_, f, e⟩
  obtain ⟨x, hx⟩ := Option.isSome_iff_exists.mp h.2.2.1
  exact engineXl_of (engineAt_of h.1 h.2.1 (by unfold State.touchL1; rw [hx]) h.2.2.2.1 h.2.2.2.2.1 h.2.2.2.2.2) h.2.2.2.1

/-- MLS of B in s8 at the slice, with nothing and with everything read; MLSC of 64 blocks of 42 bytes, every element 0; MSTREAM with row 0 read; MDRAIN of a row. -/
def cmdRes (k : CmdKind) (feed : List Nat) : Cmd :=
  { cmdA k (BitVec.ofNat 128 0x7FFF00001000) 0x00020200#128 with mfmt := 0x999#64, feed := feed }
def loadOf (k : CmdKind) (feed : List Nat) : State := matUp { load := some { cmd := cmdRes k feed } }
def c8Words : List Nat := (List.range 64).flatMap fun b => 0x0A80 :: List.replicate (if b % 4 = 3 then 5 else 6) 0
theorem wit_MatrixEvents_mls : ((loadOf .mls []).matAt 368).load = some { cmd := cmdRes .mls [] } ∧ (cmdRes .mls []).rp = false ∧ ((loadOf .mls []).coreAt 368).foldK < 2 ∧
    (cmdRes .mls []).fb = some .s8 ∧ pbsOf (cmdRes .mls []).mscb = false ∧ (cmdRes .mls []).addr % 8 = 0 ∧ (cmdRes .mls []).pitch % 8 = 0 ∧
    0 < matrixRows 368 * MFmt.s8.density * MFmt.s8.width := by decide
theorem wit_MatrixEvents_reads : CanRead (loadOf .mls []) (cmdRes .mls []) ((cmdRes .mls []).addr + 0 / 8 * (cmdRes .mls []).pitch + 8 * (0 % 8)) (slicePa 368 + 0x1000) :=
  canRead_of (k := 368) (o := 0x1000) (by decide) (by decide) rfl
def allRead : List Nat := List.replicate (matrixRows 368 * MFmt.s8.density * MFmt.s8.width) 0
theorem wit_MatrixEvents_loaded : ((loadOf .mls allRead).matAt 368).load = some { cmd := cmdRes .mls allRead } ∧ (cmdRes .mls allRead).feed.length = matrixRows 368 * MFmt.s8.density * MFmt.s8.width ∧
    WordsFit (cmdRes .mls allRead) := ⟨rfl, List.length_replicate, fun x h => by rw [List.eq_of_mem_replicate h]; decide⟩
def mlscC8 : Cmd := { cmdRes .mlsc c8Words with mfmt := 0x59#64 }
set_option maxRecDepth 20000 in
set_option exponentiation.threshold 512 in
theorem wit_MatrixEvents_mlsc : mlscC8.fb = some .c8 ∧ pbsOf mlscC8.mscb = false ∧ (∀ x ∈ mlscC8.feed, x < 2 ^ 64) ∧
    (match fedC8 0 mlscC8.addr mlscC8.feed 64 with | .ok r => r.1.length == 64 | _ => false) = true := by decide
def streamOf (k : CmdKind) : State := matUp { active := { valid := true, fmt := 9 }, stream := some { cmd := { cmdRes k (List.replicate 64 0) with row := some 0 } } }
theorem wit_MatrixEvents_streams : ∀ k ∈ streamKinds, ((streamOf k).matAt 368).stream = some { cmd := { cmdRes k (List.replicate 64 0) with row := some 0 } } ∧
    (cmdRes k []).fa = some .s8 ∧ MFmt.ofCode ((streamOf k).matAt 368).active.fmt = some .s8 ∧ 0 + 1 < (cmdRes k []).nrow ∧
    0 + 1 = ({ cmdRes k [] with r := 0x00020100#128 } : Cmd).nrow ∧ ((streamOf k).coreAt 368).foldK < 2 := by decide
theorem wit_MatrixEvents_streamed : ∃ r, { cmdRes .mstream (List.replicate 64 0) with row := some 0 }.streamWords .s8 (ktOf (matrixRows 368) .s8 .s8) MFmt.s8.cls 0 = .ok r := ⟨_, rfl⟩
/-- The last 16 bytes of the one line of a drain, read and formed. -/
def drainLine : LineWrite := { va := 0x7FFF00001000, line := (slicePa 368 + 0x1000) / 64, mask := 65535 * 2 ^ 48 }
def drainOf (k : CmdKind) (planned : Bool) : State :=
  { matUp { stream := some { cmd := cmdRes k [], todo := [drainLine], planned := planned } } with owned := [⟨drainLine.line, 9, 368, 0, 0⟩] }
theorem wit_MatrixEvents_drains : ∀ e ∈ drainKinds, ((drainOf e.1 false).matAt 368).stream = some { cmd := cmdRes e.1 [], todo := [drainLine] } ∧ (cmdRes e.1 []).fo = some .s8 ∧
    ((drainOf e.1 true).matAt 368).stream = some { cmd := cmdRes e.1 [], todo := [drainLine], planned := true } ∧ drainLine.bad = none ∧ drainLine.fe = none ∧ drainLine.mask = 65535 * 2 ^ (16 * 3) ∧
    (drainOf e.1 true).lineReady (cmdRes e.1 []).id drainLine = true ∧ (drainOf e.1 true).retiredHome (64 * drainLine.line) = false ∧ (drainOf e.1 true).resv = [] ∧ (drainOf e.1 true).waitq = [] ∧
    (drainOf e.1 true).mem.errs = [] := by decide

/-- A core whose engines the group of launch header 0x80 owns; no thread of it is on the core. -/
def ownedUp : State := engUp.setCore 368 { owner := some ⟨0x80, 0⟩ }
/-- A ditch with a record of a matrix task, or of a copy task FILL, for the core at its hint; home and hint are those of site 23. -/
def taskWords (k : Nat) (rest : List Nat) : List Nat := (k + 2 ^ 8 + 2 ^ 32 * (16 * 1 + 2 ^ 8 * 0)) :: rest
def recMem (ws : List Nat) : Memory := (List.range 8).foldl (fun (m : Memory) k => m.write (slicePa 368 + 0x1000 + 8 * k) (ws.getD k 0) 0 8) {}
def ditchUp (ws : List Nat) : State :=
  { ({ State.reset with powered := true }.setSite 23 { live := 0xFFFF#16, bst := 5 }).setBasin (coreBasin 368) { ditches := [(5, { en := true, recs := [slicePa 368 + 0x1000] })] } with mem := recMem ws }
def matWords : List Nat := [2 + 2 ^ 8 + (4 + 4 * 2 ^ 8) * 2 ^ 32, 0, 0, 0, 0, 0, 0, 63]
def fillWords : List Nat := [3 + 2 ^ 8 + (4 + 4 * 2 ^ 8) * 2 ^ 32, 0, 0x1000, 63 + 64 * 2 ^ 8, 7, 4, 0, 0]
def readsTask (s : State) (tag : Nat) : Bool :=
  let q := mget (s.basinAt 0).ditches 5 {}
  let r := s.recAt (slicePa 368 + 0x1000)
  q.recs[0]? == some (slicePa 368 + 0x1000) && q.en && !q.mode && !(s.basinAt 0).hold && !q.aged && !recBad r && recPlace r == 1 && s.taskCore 0 5 r == some 368 &&
    decide ((s.coreAt 368).foldK < 2) && s.waitq == [] && (recKind r == 2 && taskFields r 64 tag ||
      recKind r == 3 && ({ id := s.nextId, kind := .ctask, core := 368, slot := 8, sp := (s.taskSpace 0 5 368).1, grp := (s.taskSpace 0 5 368).2, desc := r } : Cmd).recordOk 64 tag)
set_option maxRecDepth 10000 in
theorem wit_EngineOwnership : ((ownedUp.coreAt 368).owner = some ⟨0x80, 0⟩ ∧ (ownedUp.coreAt 368).foldK < 2 ∧ (ownedUp.coreAt 368).swap = none ∧ (ownedUp.coreAt 368).mig = none ∧
    ownedUp.enginesIdle 368 = true ∧ ownedUp.holdsGroup 368 ⟨0x80, 0⟩ = false ∧ ownedUp.launches = [] ∧ ownedUp.waitq = []) ∧ readsTask (ditchUp matWords) 63 = true ∧ readsTask (ditchUp fillWords) 63 = true := by decide

/-- FILL of one line of the slice with 0x55; CPY1 of a line; a culvert and a page handover whose data is acknowledged; one that waits since TIME 0. -/
def cmdFill : Cmd := cmdA .fill (BitVec.ofNat 128 (0x7FFF00001000 * 2 ^ 64)) (BitVec.ofNat 128 (64 * 2 ^ 8 + 0x55 * 2 ^ 64))
def cmdCulv (k : CmdKind) : Cmd := { cmdA k 0#128 0#128 with desc := [0#64, 0#64, 64#64, BitVec.ofNat 64 (slicePa 368 + 0x2000), 0xAA#64, 0x7FFF00003000#64, 0xBB#64, 0#64] }
def copyUp (m : CopyEng) : State := engUp.setCopy 368 m
def fillLine : LineWrite := { va := 0x7FFF00001000, line := (slicePa 368 + 0x1000) / 64, mask := 2 ^ 64 - 1 }
def fillRun : CopyRun := { cmd := cmdFill, todo := [fillLine] }
def fillOwned : State := { copyUp { active := [(3, fillRun)] } with owned := [⟨fillLine.line, 9, 368, 0, 0⟩] }
theorem wit_CopyEvents_start : ((copyUp { intake := [{ cmdFill with arrived := false }] }).copyAt 368).intake = [{ cmdFill with arrived := false }] ∧ cmdFill.kind ≠ .scat ∧ cmdFill.kind.isDesc = false ∧
    (copyUp { intake := [{ cmdFill with arrived := false }] }).commandHeld 368 cmdFill.slot cmdFill.seq cmdFill.lsid = false ∧
    ((copyUp { intake := [cmdFill] }).copyAt 368).intake = [cmdFill] ∧ cmdFill.core = 368 ∧ cmdFill.arrived = true ∧ (copyUp { intake := [cmdFill] }).threadDone cmdFill = true ∧
    (copyUp { intake := [cmdFill] }).copyCheck cmdFill = none ∧ cmdFill.copyZero = false := by decide
theorem wit_CopyEvents_write : mget? (fillOwned.copyAt 368).active 3 = some fillRun ∧ fillRun.stage = 0 ∧ fillRun.out = [] ∧ fillRun.todo = [fillLine] ∧ fillLine.bad = none ∧ fillLine.va % 64 = 0 ∧
    cmdFill.dst ≤ fillLine.va ∧ fillLine.va + 64 ≤ cmdFill.dst + cmdFill.len ∧ fillLine.fe = (if cmdFill.v = 0 then none else some (decide (cmdFill.v = 1))) ∧ fillLine.row = 0 ∧ fillOwned.lineReady cmdFill.id fillLine = true ∧
    fillOwned.lineReady cmdFill.id { fillLine with mask := 65535 * 2 ^ 48 } = true ∧ fillOwned.resv = [] ∧
    fillOwned.retiredHome (64 * fillLine.line) = false ∧ fillOwned.waitq = [] ∧ fillOwned.mem.errs = [] ∧ cmdFill.v < 3 := by decide
theorem wit_CopyEvents_complete : mget? ((copyUp { active := [(0, { cmd := cmdFill })] }).copyAt 368).active 0 = some { cmd := cmdFill } ∧ cmdFill.kind.isCulvert = false ∧ cmdFill.rp = false ∧ cmdFill.readCount = 0 := by decide
def freeAt (s : State) (pa : Nat) : Bool := decide (s.waferRefuse pa = none) && !s.retiredHome pa && s.owned == [] && s.resv == []
/-- A culvert whose data has been read and acknowledged; one whose flag is on its way since TIME 0. -/
def waitData : CopyRun := { cmd := { cmdCulv .culv with feed := List.replicate 64 0 } }
def sentW : Sent := ⟨7, slicePa 368 + 0x2000, 0, 0⟩
def culvSent : CopyRun := { cmd := cmdCulv .culv, stage := 1, out := [sentW] }
def sentUp : State := copyUp { active := [(0, culvSent)] }
theorem wit_CopyEvents_acks : mget? ((copyUp { active := [(0, { cmd := cmdCulv .culv })] }).copyAt 368).active 0 = some { cmd := cmdCulv .culv } ∧ (cmdCulv .culv).culvFlag = slicePa 368 + 0x2000 ∧
    (cmdCulv .pghand).culvFlag ≠ 0 ∧ paSpace (slicePa 368 + 0x2000) = 0 ∧ engUp.redirect (slicePa 368 + 0x2000) = slicePa 368 + 0x2000 ∧
    freeAt (copyUp { active := [(0, { cmd := cmdCulv .culv })] }) (slicePa 368 + 0x2000) = true ∧ freeAt (copyUp { active := [(0, { cmd := cmdCulv .pghand, stage := 1 })] }) (slicePa 368 + 0x3000) = true ∧
    (cmdCulv .pghand).dw 5 47 0 = 0x7FFF00003000 ∧ (cmdCulv .culv).readCount ≤ 64 ∧ sentUp.links = [] ∧ sentUp.comes sentW = true ∧ mget? (sentUp.copyAt 368).active 0 = some culvSent ∧
    culvSent.out = [sentW] ∧ culvSent.stage = 1 ∧ freeAt sentUp (slicePa 368 + 0x2000) = true ∧ (waitData.cmd.readCount ≤ waitData.cmd.feed.length ∧ waitData.stage = 0 ∧ waitData.out = [] ∧ waitData.todo = []) := by decide
def handUp : State := copyUp { active := [(0, { cmd := cmdCulv .pghand, stage := 1 })] }
theorem wit_CopyEvents_release : handUp.engineXl (cmdCulv .pghand).sp ((cmdCulv .pghand).dw 5 47 0) .write = (.ok (slicePa 368 + 0x3000), handUp) := by
  have h : handUp.xlateFast (cmdCulv .pghand).sp ((cmdCulv .pghand).dw 5 47 0) .write = .ok (slicePa 368 + 0x3000) true false false none := by decide
  have hr : handUp.redirect (slicePa 368 + 0x3000) = slicePa 368 + 0x3000 := by decide
  have hp : handUp.place (coreBasin (cmdCulv .pghand).sp.core) (slicePa 368 + 0x3000) = .slice 368 0x3000 := by decide
  have hc : handUp.checkMem (cmdCulv .pghand).sp false (slicePa 368 + 0x3000) = none := by decide
  have ht : handUp.touchL1 (cmdCulv .pghand).sp ((cmdCulv .pghand).dw 5 47 0) = handUp := by
    obtain ⟨x, hx⟩ := Option.isSome_iff_exists.mp (by decide : (directXl (cmdCulv .pghand).sp ((cmdCulv .pghand).dw 5 47 0)).isSome = true)
    unfold State.touchL1
    rw [hx]
  exact engineXl_of (engineAt_of h (by decide) ht hr hp hc) hr
def lateUp : State := { sentUp with time := 10 ^ 8 }
theorem wit_CopyEvents_limit : mget? (lateUp.copyAt 368).active 0 = some culvSent ∧ sentW.va < 2 ^ 48 ∧ sentW.sentAt + (lateUp.copyAt 368).clim * 1000 < lateUp.time ∧ lateUp.waitq = [] := by decide

/-- HBIND of registers 0 and 1 into 7; HPHASE of A1; HDIST to register 63 of the thread. -/
def hvCmd (k : CmdKind) (v : Nat) (r : W128) : Cmd := { cmdA k 0#128 r with v := v }
def hvUp (m : HvEng) : State := engUp.setHv 368 m
def cmdBind : Cmd := hvCmd .hbind 0 0x71000#128
theorem wit_HypervectorEvents_start : ((hvUp { intake := [{ cmdBind with arrived := false }] }).hvAt 368).intake = [{ cmdBind with arrived := false }] ∧
    (hvUp { intake := [{ cmdBind with arrived := false }] }).commandHeld 368 cmdBind.slot cmdBind.seq cmdBind.lsid = false ∧ cmdBind.core = 368 ∧ cmdBind.arrived = true ∧
    ((hvUp { intake := [cmdBind] }).hvAt 368).run = none ∧ (hvUp { intake := [cmdBind] }).threadDone cmdBind = true ∧ (hvUp { intake := [cmdBind] }).tagOk cmdBind = true ∧
    cmdBind.hvFields ((hvUp { intake := [cmdBind] }).coreAt 368).qh = true ∧ ((hvUp { intake := [cmdBind] }).coreAt 368).foldK < 2 := by decide
theorem wit_HypervectorEvents_complete : ((hvUp { run := some { cmd := cmdBind } }).hvAt 368).run = some { cmd := cmdBind } ∧ cmdBind.rp = false ∧ (cmdBind.kind = .hbind ∧ cmdBind.v = 0) ∧
    (hvCmd .hphase 0 0x01100000#128).ba = 1 ∧ { hvCmd .hdist 0 0#128 with reg := 63 }.core = 368 ∧ (hvUp { run := some { cmd := hvCmd .hdist 0 0#128 } }).threadSlot (hvCmd .hdist 0 0#128) = some 0 ∧
    ({ cmd := cmdBind } : Running).phase = 0 ∧ ((hvUp { intake := [{ cmdBind with arrived := false }] }).copyAt 368).intake = [] := by decide
theorem wit_HypervectorEvents_fill : (({ hvUp { run := some { cmd := hvCmd .hdist 0 0#128, phase := 1 } } with
      fills := [{ id := 4, core := 368, slot := 0, reg := 63, tag := 5, hv := true, val := 3#128 }] } : State).fills.find? (fun x => x.id == 4)) =
        some { id := 4, core := 368, slot := 0, reg := 63, tag := 5, hv := true, val := 3#128 } ∧ ((hvUp {}).slotAt 368 0).present.getLsbD 15 = true := by decide

/-- Each copy form with 16 bytes of its one line to write and its words read, and with its first word to read: the line at 0x1000 of the slice, the source at 0x2000. -/
def moveCmd (k : CmdKind) (feed : List Nat) : Cmd :=
  let va := 0x7FFF00001000
  let src := 0x7FFF00002000
  let mc := k == .cpymc
  let x := if mc then 1 else if k == .cpy2 then 0 else if k == .cpycv then 0x10 else src
  { cmdA k (BitVec.ofNat 128 (src + (if mc then 0x1000 else va) * 2 ^ 64))
      (BitVec.ofNat 128 ((if k == .cpycv then 32 else 64) * 2 ^ 8 + asBit k.useRows * 2 ^ 32 + (if k == .cpy1 then 0 else x) * 2 ^ 64)) with feed := feed, idx := [0] }
def moveLine (k : CmdKind) : LineWrite := { va := if k = .cpymc then slicePa 368 + 0x1000 else 0x7FFF00001000, line := (slicePa 368 + 0x1000) / 64, mask := 65535 }
def moveRun (k : CmdKind) (n : Nat) : CopyRun := { cmd := moveCmd k (List.replicate n 0), todo := [moveLine k] }
def moveUp (k : CmdKind) (n : Nat) : State := { copyUp { active := [(3, moveRun k n)] } with owned := [⟨(slicePa 368 + 0x1000) / 64, 9, 368, 0, 0⟩] }
theorem lastPart_of {k : CmdKind} {n : Nat}
    (h : (moveLine k).va % 64 = 0 ∧ (moveCmd k []).fe = none ∧ (moveRun k n).cmd.readCount ≤ n ∧ (moveRun k n).cmd.needs (moveLine k) ≤ n ∧
      (moveUp k n).lineReady 9 (moveLine k) = true ∧ (moveUp k n).retiredHome (64 * (moveLine k).line) = false) :
    LastPart (moveUp k n) 368 3 (moveRun k n) (moveLine k) 0 16 := by
  have hl : (List.replicate n 0).length = n := List.length_replicate
  exact ⟨⟨rfl, rfl, rfl, rfl, rfl⟩, ⟨rfl, h.1, h.2.1.symm⟩, ⟨.inr ⟨rfl, rfl⟩, by decide, rfl⟩,
    ⟨hl.symm ▸ h.2.2.1, hl.symm ▸ h.2.2.2.1, fun x hx => by rw [List.eq_of_mem_replicate hx]; decide⟩, ⟨h.2.2.2.2.1, h.2.2.2.2.2, nofun, rfl, rfl⟩⟩
theorem wit_CopyEvents_words : ∀ e ∈ wordForms, LastPart (moveUp e.1 9) 368 3 (moveRun e.1 9) (moveLine e.1) 0 16 ∧ (moveCmd e.1 []).len % 8 = 0 ∧ e.2.1 (moveCmd e.1 []) 0 % 8 = 0 ∧
    e.2.1 (moveCmd e.1 []) 0 ≤ (moveLine e.1).va + 8 * 0 ∧ (moveLine e.1).va + 8 * 0 + 16 ≤ e.2.1 (moveCmd e.1 []) 0 + (moveCmd e.1 []).len := by
  intro e he
  refine ⟨?_, ?_⟩
  · simp only [wordForms, List.mem_cons, List.not_mem_nil, or_false] at he
    rcases he with rfl | rfl | rfl | rfl | rfl <;> exact lastPart_of (by decide)
  · revert e; decide
theorem wit_CopyEvents_convert : LastPart (moveUp .cpycv 16) 368 3 (moveRun .cpycv 16) (moveLine .cpycv) 0 16 ∧ MFmt.ofCode (moveCmd .cpycv []).sf = some .f32 ∧
    MFmt.ofCode (moveCmd .cpycv []).df = some .bf16 ∧ (moveCmd .cpycv []).dst % 8 = 0 ∧ (moveCmd .cpycv []).dst ≤ (moveLine .cpycv).va + 8 * 0 ∧
    (moveLine .cpycv).va + 8 * 0 + 16 ≤ (moveCmd .cpycv []).dst + (moveCmd .cpycv []).len * MFmt.bf16.width / 8 := ⟨lastPart_of (by decide), by decide⟩
theorem wit_CopyEvents_reads : ∀ e ∈ copyReads, CanRead (moveUp e.1 0) (moveRun e.1 0).cmd (e.2 (moveRun e.1 0).cmd 0).1 (slicePa 368 + 0x2000) ∧ 0 < (moveRun e.1 0).cmd.needs (moveLine e.1) ∧
    0 < (moveRun e.1 0).cmd.readCount ∧ 8 ≤ (moveCmd e.1 []).len ∧ (moveCmd e.1 []).len % 8 = 0 := by
  intro e he
  refine ⟨?_, ?_⟩
  · simp only [copyReads, List.mem_cons, List.not_mem_nil, or_false] at he
    rcases he with rfl | rfl | rfl | rfl | rfl <;> exact canRead_of (k := 368) (o := 0x2000) (by decide) (by decide) rfl
  · revert e; decide

/-- Each form that reads with nothing read; HBUND of register 0 with weight 1; HTHR; HLD and HBNDLD with all read; HST and HBNDST before and after their line; HNEAR at its last
entry and before it. -/
def readCmd (k : CmdKind) (v count : Nat) (feed : List Nat) : Cmd :=
  { cmdA k (BitVec.ofNat 128 (0x7FFF00001000 + count * 2 ^ 64)) (BitVec.ofNat 128 (2 ^ 40)) with v := v, feed := feed }
def hvRun (c : Cmd) : State := hvUp { run := some { cmd := c } }
theorem wit_HypervectorEvents_reads : ∀ e ∈ vectorReads, CanRead (hvRun (readCmd e.1 e.2.1 1 [])) (readCmd e.1 e.2.1 1 []) (e.2.2.1 { cmd := readCmd e.1 e.2.1 1 [] } + 8 * 0) (slicePa 368 + 0x1000) ∧
    0 < e.2.2.2 ∧ e.2.2.1 { cmd := readCmd e.1 e.2.1 1 [] } % 64 = 0 ∧ (readCmd e.1 e.2.1 1 []).addr % 64 = 0 := by
  intro e he
  refine ⟨?_, ?_⟩
  · simp only [vectorReads, List.mem_cons, List.not_mem_nil, or_false] at he
    rcases he with rfl | rfl | rfl | rfl | rfl | rfl | rfl <;> exact canRead_of (k := 368) (o := 0x1000) (by decide) (by decide) rfl
  · revert e; decide
theorem fits_replicate (k : CmdKind) (v count n : Nat) : WordsFit (readCmd k v count (List.replicate n 0)) ∧ (readCmd k v count (List.replicate n 0)).feed.length = n :=
  ⟨fun x h => by rw [List.eq_of_mem_replicate h]; decide, List.length_replicate⟩
theorem wit_HypervectorEvents_computes : ((hvRun (readCmd .hbund 0 0 [])).hvAt 368).run = some { cmd := readCmd .hbund 0 0 [] } ∧ (readCmd .hbund 0 0 []).wt ≠ 0 ∧
    ((hvRun (readCmd .hbund 0 0 [])).hvAt 368).a0.cnt = [] ∧ (readCmd .hbund 0 0 []).rp = false ∧ ((hvRun (readCmd .hbund 0 0 [])).coreAt 368).foldK < 2 ∧
    (0 + 1 < (readCmd .hnear 0 2 []).hCount) ∧ 0 + 1 = (readCmd .hneark 0 1 []).hCount ∧ ((readCmd .hnear 0 2 []).addr + 0 * (readCmd .hnear 0 2 []).hStride) % 8 = 0 ∧
    (hvRun (readCmd .hnear 0 1 [])).threadSlot (readCmd .hnear 0 1 []) = some 0 := by decide
def storeRun : Running := { cmd := readCmd .hst 0 0 [], todo := [{ drainLine with va := 0x7FFF00001000 }], planned := true }
def vectorStore (r : Running) : State := { hvUp { run := some r } with owned := [⟨drainLine.line, 9, 368, 0, 0⟩] }
theorem wit_HypervectorEvents_stores : ((vectorStore storeRun).hvAt 368).run = some storeRun ∧ storeRun.planned = true ∧ (vectorStore storeRun).lineReady storeRun.cmd.id drainLine = true ∧
    drainLine.mask = 65535 * 2 ^ (16 * 3) ∧ (vectorStore storeRun).retiredHome (64 * drainLine.line) = false ∧ (vectorStore storeRun).resv = [] ∧ (vectorStore storeRun).waitq = [] ∧
    (vectorStore storeRun).mem.errs = [] ∧ ({ storeRun with todo := [] } : Running).todo = [] ∧ ({ storeRun with planned := false } : Running).planned = false := by decide

/-! ### Witnesses: queues, tables, the weir and clocks -/

/-- A thread at a boundary has sent a message of a head alone to queue 6 of core 1. -/
def idleUp : State := ({ State.reset with powered := true }.setSite 23 { live := 0xFFFF#16, bst := 5, nst := [(23, 0)] }).setSlot 368 0 { busy := true }
def msgOf (st : MsgSt) : QMsg :=
  { id := 4, core := 368, slot := 0, seq := 0, lsid := 0, ix := 0, wid := 0#64, vc := 0#64, dest := 369, qn := 6, nanm := false, typed := true, vec := false, info := 0#64, head := 0x77#128, st := st }
def queueOf (en : Bool) : RecvQ := { en := en, base := 16, size := 16, tail := 15 }
def msgUp (m : QMsg) (en : Bool) : State := { idleUp.setCore 369 { queues := (List.replicate 8 {}).set 6 (queueOf en) } with qmsgs := [m] }
theorem headMessage_of {s : State} {m : QMsg} (h : s.qmsgs.find? (fun a => a.id == m.id) = some m ∧ m.sender = none ∧ m.peer = none ∧ m.core < 8192 ∧ m.slot < 8 ∧ m.smod < 2 ^ 16 ∧
    m.len = 0 ∧ m.body = []) : HeadMessage s m := ⟨h.1, h.2⟩
theorem wit_QueueEvents_arrival : HeadMessage (msgUp (msgOf .sent) true) (msgOf .sent) ∧ ((msgUp (msgOf .sent) true).msgReady (msgOf .sent) = true ∧ (msgUp (msgOf .sent) true).reachable (coreSite 369) (coreSite 368) = true) ∧
    ((msgUp (msgOf .sent) true).coreAt 369).phase ≠ 3 ∧ ((msgUp (msgOf .sent) true).coreAt 369).phase ≠ 4 ∧ ((msgUp (msgOf .sent) true).coreAt 369).rdir = false ∧ ((msgUp (msgOf .sent) true).coreAt 369).queues[6]? = some (queueOf true) ∧
    ((msgUp (msgOf .sent) false).coreAt 369).queues[6]? = some (queueOf false) ∧ 1 ≤ (queueOf true).room ∧ (msgUp (msgOf .sent) true).waitq = [] ∧ (msgUp (msgOf .sent) true).mem.errs = [] ∧
    ((msgUp (msgOf .sent) true).basinAt 0).traces = [] ∧ ((msgUp (msgOf .sent) true).redirect (slicePa 369 + 64 * 31) = slicePa 369 + 64 * 31 ∧ (msgUp (msgOf .sent) true).retiredHome (slicePa 369 + 64 * 31) = false) :=
  ⟨headMessage_of (by decide), by decide, by decide, by decide, by decide, by decide, by decide, by decide, by decide, by decide, by decide, by decide⟩
theorem wit_QueueEvents_failures : ((msgUp (msgOf .refused) true).wayHeld ((msgUp (msgOf .refused) true).msgFlight (msgOf .refused)) = false ∧
      (msgUp (msgOf .delivered) true).wayHeld ((msgUp (msgOf .delivered) true).msgFlight (msgOf .delivered)) = false) ∧ HeadMessage (msgUp (msgOf .refused) true) (msgOf .refused) ∧ AtBoundary ((msgUp (msgOf .refused) true).slotAt 368 0) (msgUp (msgOf .refused) true) 368 0 ∧
    AtBoundary ((msgUp (msgOf .sent) true).slotAt 368 0) (msgUp (msgOf .sent) true) 368 0 ∧ ((msgUp (msgOf .sent) true).slotAt 368 0).ctl.wid = (msgOf .sent).wid ∧
    ((msgUp (msgOf .sent) true).slotAt 368 0).ctl.vcore = (msgOf .sent).vc :=
  ⟨by decide, headMessage_of (by decide), ⟨⟨rfl, rfl, rfl, rfl⟩, ⟨rfl, rfl, rfl, rfl, rfl, rfl, rfl⟩, nofun⟩, ⟨⟨rfl, rfl, rfl, rfl⟩, ⟨rfl, rfl, rfl, rfl, rfl, rfl, rfl⟩, nofun⟩, rfl, rfl⟩
/-- The message on its way for 20 µs; another behind it once it lies in the sump of site 23, in flit place 7. -/
def stillUp : State := { msgUp (msgOf .sent) true with time := 20000 }
def flight4 : Flight := { id := 4, chan := .command, key := 4, src := 368, dst := 369 }
def flight5 : Flight := { flight4 with id := 5, key := 5, ord := 5 }
def spiltUp : State := { (msgUp (msgOf .sent) true).setSite 23 { live := 0xFFFF#16, bst := 5, sump := [(4, 7)] } with qmsgs := [msgOf .sent, { msgOf .sent with id := 5 }] }
theorem wit_QueueEvents_sump : HeadMessage (msgUp (msgOf .delivered) true) (msgOf .delivered) ∧ (siteExists 483 = false ∧ siteExists 484 = false ∧ siteExists 479 = true) ∧
    (stillUp.flightOf flight4.id = some flight4 ∧ stillUp.travels 4 = true ∧ (∃ l ∈ linksOf (stillUp.path flight4).2, meshSite l.1 = 23) ∧ 20000 ≤ stillUp.stalled flight4) ∧
    stillUp.sumpFlits 23 + flight4.flits + stillUp.sumpLost 23 ≤ 1820 ∧ stillUp.waitq = [] ∧ stillUp.mem.errs = [] ∧ (stillUp.coreAt (stillUp.riderCore 23)).rdir = false ∧
    stillUp.sumpPa 23 = some (slicePa 368 + 0x1E0000) ∧ (spiltUp.flightOf flight5.id = some flight5 ∧ spiltUp.travels 5 = true ∧ spiltUp.spillsAt 23 flight5 = true ∧ spiltUp.travels 4 = false) ∧
    spiltUp.sumpNext 23 = 8 :=
  ⟨headMessage_of (by decide), by decide, by decide, by decide, by decide, by decide, by decide, by decide, by decide, by decide⟩
theorem wit_QueueEvents_sump_order : (∀ g ∈ stillUp.flights, g.chan = flight4.chan → g.src = flight4.src → g.dst = flight4.dst →
    g.ord < flight4.ord ∨ (g.ord = flight4.ord ∧ g.id < flight4.id) → stillUp.travels g.id = false) ∧ (∀ j < flight4.flits, (stillUp.sumpFlit 23 flight4.id j).length = 9) ∧ stillUp.sumpPa 479 = none := by decide
theorem wit_QueueEvents_homes (x : Nat) : stillUp.retiredHome x = false := by
  have h : (stillUp.siteAt (paSite x)).mstate = 0 := by
    show (mget [(23, _)] (paSite x) {} : Site).mstate = 0
    by_cases e : 23 = paSite x
    · rw [← e]; rfl
    · simp [mget, mget?, e]
  unfold State.retiredHome
  simp [h]
/-- qrecv 7 #3 -> 1.l waiting with a message in its queue. -/
def recvOf : RecvReq := { id := 4, core := 368, slot := 0, ix := 0, seq := 0, lsid := 3, qn := 7, bufVa := 0, bufPa := 0, nanm := false }
def recvUp : State := { queueUp (runW 68194265 7) 2 with recvs := [recvOf] }
theorem wit_QueueEvents_grant : WaitsAt recvUp (ctxOf (runW 68194265 7)) 0 (.qrecv .always 3#4 (tl 1)) ∧ (recvUp.queueAt 368 7).count ≠ 0 ∧ (runW 68194265 7).heldByWait (recvUp.cyc 368) 3 = false ∧
    (recvUp.ringWord 368 7 0).getLsbD 17 = false := ⟨⟨rfl, rfl, rfl, rfl, by decide, rfl⟩, by decide, by decide, by decide⟩
theorem wit_QueueEvents_queue : (queueUp runP 2).answers (coreSite 368) = true ∧ ((queueUp runP 2).coreAt 368).queues[7]? = some { en := true, base := 16, size := 16, head := 0, tail := 2, count := 2 } ∧ (queueUp runP 2).recvs = [] ∧
    ((queueUp runP 2).basinAt (coreBasin 368)).traces = [] ∧ ((queueUp runP 2).coreAt 368).queues[0]? = some ({} : RecvQ) := by decide

def markOf : Mark := { dst := 23, keys := [4], entry := 0 }
def routeUp (ms : List Mark) : State := idleUp.setSite 479 { bst := 5, marks := ms }
theorem wit_RouteTables : siteExists 479 = true ∧ (routeUp []).answers 479 = true ∧ ((routeUp []).siteAt 479).nstWait = [] ∧ ((routeUp []).siteAt 479).marks = [] ∧ ((routeUp [markOf]).siteAt 479).marks = [markOf] ∧
    (∀ i ∈ (routeUp [markOf]).sentTo 479 23, i ∉ markOf.keys) ∧ ((routeUp [markOf]).siteAt 479).wayWait = none ∧ 511 / 32 = 16 - 1 ∧
    ¬(88 < 88 ∧ siteKind (siteAtXY 22 0) = .corner) ∧ siteKind (siteAtXY (87 / 4) (87 / 4)) = .corner := by decide

/-- A state in which the headgates of a basin answer. -/
def gateUp (b : Nat) (s : State) : State := (headgates b).foldl (fun s n => s.setSite n { bst := 5 }) s
/-- Cells of basin 0: 63 is not set up; 5 is set up for 3 threads, one of which has arrived. -/
def cellUp (c : Cell) : State := gateUp 0 (blockUp runP) |>.setBasin 0 { cells := [(5, c)] }
def arrivalOf : Arrival := { id := 4, core := 368, slot := 0, seq := 0, lsid := 0, ix := 0, cell := 5, wbar := false, beat := some 7 }
def arrivalUp (n : Nat) : State := { cellUp { en := true, expect := 3, count := n } with arrivals := [arrivalOf], time := 64 * 9 }
set_option maxRecDepth 20000 in
theorem wit_WeirEvents_cell : ((cellUp {}).basinAnswers 0 = true ∧ (cellUp { en := true, expect := 3, count := 1 }).basinAnswers 0 = true) ∧ ((cellUp {}).cellAt 0 63).en = false ∧ ((cellUp { en := true, expect := 3, count := 1 }).cellAt 0 5).en = true ∧
    ((cellUp { en := true, expect := 3, count := 1 }).cellAt 0 5).count ≠ 0 ∧ ((cellUp { en := true, expect := 3, count := 1 }).cellAt 0 5).nextRel = 0 := by decide
set_option maxRecDepth 20000 in
theorem wit_WeirEvents_arrival : (arrivalUp 1).arrivals.find? (fun x => x.id == arrivalOf.id) = some arrivalOf ∧ arrivalOf.beat = some 7 ∧ arrivalOf.wbar = false ∧ AtInstant (arrivalUp 1) (64 * (7 + 2)) ∧
    ((arrivalUp 1).cellAt 0 5).nextRel = ((arrivalUp 1).cellAt 0 5).gen ∧ ((arrivalUp 1).cellAt 0 5).en = true ∧ ((arrivalUp 1).cellAt 0 5).mod = false ∧ ((arrivalUp 1).cellAt 0 5).count + 1 < 3 ∧
    ¬((arrivalUp 2).cellAt 0 5).count + 1 < 3 ∧ (∀ f ∈ arrivalOf.flight, (arrivalUp 1).wayHeld f = false) := by unfold AtInstant; decide
def barArrival : Arrival := { arrivalOf with wbar := true }
def barUp : State := { arrivalUp 1 with arrivals := [barArrival] }.setSlot 368 0 (slotOf takeRun)
set_option maxRecDepth 20000 in
theorem wit_WeirEvents_bar : barUp.arrivals.find? (fun x => x.id == barArrival.id) = some barArrival ∧ barUp.barWaits barArrival.core barArrival.slot barArrival.seq barArrival.ix = true ∧
    (barUp.slotAt 368 0).barWait.getLsbD 6 = false ∧ (∀ f ∈ barArrival.flight, barUp.wayHeld f = false) ∧ AtInstant barUp (64 * (7 + 2)) := by unfold AtInstant; decide
def reportOf : Report := { id := 4, src := 3, root := 0, cell := 5, gen := 65535, act := 1000, late := false }
def reportUp : State := { (cellUp { en := true, mod := true, bmask := 9, mgen := 65535, reported := [0], rels := [⟨65534, 64, false, false⟩] }).setBasin 3
    { cells := [(5, { rels := [⟨65534, 64, false, false⟩] })] } with reports := [reportOf], time := 1128 }
set_option maxRecDepth 20000 in
theorem wit_WeirEvents_report : reportUp.reports.find? (fun x => x.id == reportOf.id) = some reportOf ∧ reportUp.wayHeld reportOf.flight = false ∧ reportOf.src < 4 ∧ (reportUp.cellAt 0 5).bmask.testBit 3 = true ∧
    reportOf.gen = (reportUp.cellAt 0 5).mgen ∧ (∀ i < 4, (reportUp.cellAt 0 5).bmask.testBit i = true → i = 3 ∨ i ∈ (reportUp.cellAt 0 5).reported) ∧
    (∀ i < 4, (reportUp.cellAt 0 5).bmask.testBit i = true → (reportUp.cellAt i 5).nextRel = 65535) ∧
    ∀ i < 4, (reportUp.basinAt i).on = false := by decide
/-- wwait, wbar and wsleep waiting; the release of generation 65535. -/
def relUp (r : Run) : State := { blockUp r with time := 6400 } |>.setBasin 0 { tick := 6400, cells := [(5, { en := true, expect := 3, rels := [⟨65535, 6400, true, false⟩] })] }
def barRun : Run := runW 68161505 0
def waitRun : Run := runW 68194273 (5 + 65535 * 2 ^ 16)
def barSlot : Slot := { slotOf barRun with barWait := BitVec.ofNat 64 (5 + 2 ^ 6 + 65535 * 2 ^ 16) }
theorem one_wait {w l : Nat} (j : Nat) (t : Nat) (h : j ≠ 0) : ((runW w l).inst j).st ≠ .wait t := by
  rcases j with _ | _ | _ | j
  · exact absurd rfl h
  · nofun
  · nofun
  · nofun
theorem wit_WeirEvents_wake : WaitsAt (relUp waitRun) ⟨368, 0, 0, slotOf waitRun, waitRun, waitRun.inst 0⟩ 0 (.wwait .always 3#4 (tl 1)) ∧
    ((relUp waitRun).cellAt 0 5).rels = [⟨65535, 6400, true, false⟩] ∧ ((relUp waitRun).cellAt 0 5).en = true ∧ 6400 ≤ (relUp waitRun).tick 368 ∧ (5 + 65535 * 2 ^ 16) / 2 ^ 16 % 2 ^ 16 = 65535 ∧
    WaitsAt ((relUp barRun).setSlot 368 0 barSlot) ⟨368, 0, 0, barSlot, barRun, barRun.inst 0⟩ 0 (.wbar .always 3#4 (tl 1)) ∧ barSlot.barWait.getLsbD 6 = true ∧
    (relUp barRun).arrivals = [] ∧ (relUp barRun).results = [] ∧ barRun.bars = [] ∧ waitRun.bars = [] ∧ barSlot.barWait.toNat % 64 = 5 ∧ barSlot.barWait.toNat / 2 ^ 16 % 2 ^ 16 = 65535 ∧ (∀ j t, j ≠ 0 → (barRun.inst j).st ≠ .wait t) ∧
    Room ⟨368, 0, 0, slotOf waitRun, waitRun, waitRun.inst 0⟩ (tl 1) none :=
  ⟨⟨rfl, rfl, rfl, rfl, by decide, rfl⟩, by decide, by decide, by decide, by decide, ⟨rfl, rfl, rfl, rfl, by decide, rfl⟩, by decide, rfl, rfl, rfl, rfl, by decide, by decide, fun j t h => one_wait j t h,
    room_one (by decide)⟩
def sleepRun : Run := runW 68227041 6400
def sleepCyc : Run := runW 336662497 0
theorem wit_WeirEvents_sleep : WaitsAt (relUp sleepRun) ⟨368, 0, 0, slotOf sleepRun, sleepRun, sleepRun.inst 0⟩ 0 (.wsleep .always 3#4 0#4 (tl 1)) ∧ (sleepRun.inst 0).l = some (tok 6400) ∧
    (tok 6400).lo.toNat ≤ (relUp sleepRun).tick 368 ∧ Room ⟨368, 0, 0, slotOf sleepRun, sleepRun, sleepRun.inst 0⟩ (tl 1) none ∧
    WaitsAt (relUp sleepCyc) ⟨368, 0, 0, slotOf sleepCyc, sleepCyc, sleepCyc.inst 0⟩ 0 (.wsleep .always 3#4 1#4 (tl 1)) ∧ (sleepCyc.inst 0).l = some (tok 0) ∧
    (tok 0).lo.toNat ≤ (relUp sleepCyc).cyc 368 :=
  ⟨⟨rfl, rfl, rfl, rfl, by decide, rfl⟩, rfl, by decide, room_one (by decide), ⟨rfl, rfl, rfl, rfl, by decide, rfl⟩, rfl, by decide⟩
theorem wit_WeirEvents_gate : 16 ≤ ((idleUp.setCore 368 { idleClk := 16 }).coreAt 368).idleClk ∧ (idleUp.setCore 368 { idleClk := 16 }).enginesIdle 368 = true ∧ ((idleUp.setCore 368 { idleClk := 16 }).coreAt 368).gated = false := by decide

/-- Basin 3 with its clock running; a request for m 20 at TIME 8192; a step that is due. -/
def clockUp (v : Basin) : State := { gateUp 3 { State.reset with powered := true } with basins := [(0, { phase := 4 }), (1, { phase := 4 }), (2, { phase := 4 }), (3, { v with phase := 4 })] }
def askOf (m ts : Nat) : StepReq := ⟨4, 3, m, ts, .ask, gatePos 3, 0⟩
def dueStep : Basin := { on := true, pm := 20, stepPend := true, pts := 8192, epoch := 8192, relock := true, lts := 1000 }
set_option maxRecDepth 20000 in
theorem wit_ClockEvents : (clockUp {}).basinAnswers 3 = true ∧ (clockUp { on := true }).wayHeld (askOf 20 8192).flight = false ∧
    dueStep.stepPend = true ∧ dueStep.pts < ({ clockUp dueStep with time := 8000 } : State).time + 2048 ∧ (clockUp { on := true }).edgeNext 3 = true ∧ (clockUp { on := true }).turnsDone 3 = true ∧
    ({ clockUp { on := true } with stepReqs := [askOf 20 8192] }).stepReqs.find? (fun x => x.id == 4) = some (askOf 20 8192) ∧ (askOf 20 8192).ts % 1024 = 0 ∧
    (clockUp { on := true }).time + 4096 ≤ 8192 ∧ (clockUp { on := true }).links = [] ∧ ((clockUp { on := true }).basinAt 3).stepPend = false ∧
    ({ clockUp { on := true } with stepReqs := [askOf 21 0] }).stepReqs.find? (fun x => x.id == 4) = some (askOf 21 0) ∧
    dueStep.pts * dueStep.m ≤ dueStep.epoch * dueStep.m + 10 * (dueStep.edges + 1) ∧ (clockUp dueStep).turnsDone 3 = true ∧ (∀ i < 4, i ≠ 3 → ((clockUp dueStep).basinAt i).on = false) ∧
    ((clockUp dueStep).endClk 3).pbusy ≠ some 3 ∧ (((clockUp dueStep).endClk 3).basinAt 3).back = false ∧ ((clockUp dueStep).withdrawals = [] ∧ (clockUp dueStep).replies = []) ∧
    (∀ x ∈ (((clockUp dueStep).endClk 3).basinAt 3).cells, x.2.boost = false) ∧ (∀ x ∈ ((clockUp dueStep).endClk 3).cores, coreBasin x.1 = 3 → x.2.phase ≠ 3) ∧
    dueStep.lts + 1500 ≤ ({ clockUp dueStep with time := 2500 }).time := by decide

/-! ### Witnesses: the sluice -/

/-- Basin 0 with ditch 255; its free list and pool. -/
def sluiceUp (q : Ditch) (v : Basin) : State := idleUp.setBasin 0 { v with ditches := mput v.ditches 255 q }
def ctrlUp (q : Ditch) (v : Basin) : State := gateUp 0 (sluiceUp q v)
set_option maxRecDepth 20000 in
theorem wit_SluiceControl_ditch : (ctrlUp {} {}).basinAnswers 0 = true ∧ (ctrlUp { en := true } { free := [0x1000] }).basinAnswers 0 = true ∧ ((ctrlUp {} {}).ditchAt 0 255).en = false ∧ 1 < chipletsOf 0 ∧ ((ctrlUp {} { free := [0x1000, 0x2000] }).basinAt 0).free = 0x1000 :: [0x2000] ∧
    ((ctrlUp {} {}).ditchAt 0 255).segs = [] ∧ ((ctrlUp { segs := [0x1000] } {}).ditchAt 0 255).segs = [0x1000] ∧ ((ctrlUp {} {}).basinAt 0).traces = [] := by decide
set_option maxRecDepth 20000 in
theorem wit_SluiceControl_pools : (slicePa 368 + 0x1FF000) % 4096 = 0 ∧ (ctrlUp {} {}).memoryOf 0 (slicePa 368 + 0x1FF000) 4096 = true ∧ slicePa 368 + 0x1FF000 ∉ ((ctrlUp {} {}).basinAt 0).free ∧
    (∀ e ∈ ((ctrlUp {} {}).basinAt 0).ditches, slicePa 368 + 0x1FF000 ∉ e.2.segs) ∧ (∀ l ∈ linesOf (slicePa 368 + 0x1FF000 + 4032) 64, (ctrlUp {} {}).redirect (64 * l) = 64 * l) ∧
    (ctrlUp {} {}).retiredHome (slicePa 368 + 0x1FF000 + 4032) = false ∧ (ctrlUp {} {}).waitq = [] ∧ (ctrlUp {} {}).armedImgs = [] ∧ (ctrlUp {} {}).awayRecs 0 = [] ∧
    (slicePa 368 + 0x800) % 2048 = 0 ∧ (ctrlUp {} {}).memoryOf 0 (slicePa 368 + 0x800) 2048 = true ∧
    (∀ e ∈ (ctrlUp {} {}).slots, e.2.busy = true → e.2.ctl.imga.toNat ≠ slicePa 368 + 0x800) ∧
    (slicePa 368 + 0x10000) % 2 ^ 16 = 0 ∧ (ctrlUp {} {}).memoryOf 0 (slicePa 368 + 0x10000) (2 ^ 18) = true := by decide
set_option maxRecDepth 20000 in
theorem wit_SluiceControl_ring : ((ctrlUp {} { gen := 2 ^ 32 - 1 }).basinAnswers 0 = true ∧ (ctrlUp {} { pend := true }).awayRecs 0 = []) ∧ ((ctrlUp {} { gen := 2 ^ 32 - 1 }).basinAt 0).pend = false ∧ (0#64).toNat = (((ctrlUp {} { gen := 2 ^ 32 - 1 }).basinAt 0).gen + 1) % 2 ^ 32 ∧
    coreBasin 368 = 0 ∧ ((ctrlUp {} { pend := true }).basinAt 0).pend = true ∧ isCompute 23 = true ∧ basinOf 23 = 0 ∧ (ctrlUp {} { pend := true }).coreLive 368 = true := by decide

/-- A record of eight words on its way to a ditch whose tail is a line of the slice; the header of a launch of 6 items in 3 groups, at 0x8000 of the slice. -/
def hdrPa : Nat := slicePa 368 + 0x8000
def hdrNats : List Nat := [11 + 2 ^ 4 + 2 * 2 ^ 8 + 2 ^ 11 + 2 * 2 ^ 17 + 7 * 2 ^ 20 + 255 * 2 ^ 24, 1 + 2 * 2 ^ 6, 2 + 3 * 2 ^ 32, 0, 0, 0x1000, 0x50, 0x10, 0x60, 0x70, 0, 0, 0, 0, 0, 0]
def hdrMem : Memory := (List.range 16).foldl (fun (m : Memory) k => m.write (hdrPa + 8 * k) (hdrNats.getD k 0) 0 8) {}
def hdrList : List W64 := hdrNats.map (BitVec.ofNat 64)
def recHere : List W64 := [BitVec.ofNat 64 (1 + 2 * 2 ^ 8 + 255 * 2 ^ 16), 4#64, 0x1000#64, 0x70#64, 0x60#64, 0x70#64, 0#64, BitVec.ofNat 64 hdrPa]
def appendOf (w : Bool) : Append := { id := 4, basin := 0, ditch := 255, kind := .launch, recs := [recHere], waiting := w }
def appendUp (w : Bool) : State := { sluiceUp { en := true, segs := [slicePa 368 + 0x1000], tail := slicePa 368 + 0x1000 } {} with appends := [appendOf w] }
theorem wit_SluiceWork_append : (appendUp true).appends = [appendOf true] ∧ (appendUp false).appends = [appendOf false] ∧ recHere.length = 8 ∧ ((appendUp true).ditchAt 0 255).en = true ∧
    ((appendUp true).ditchAt 0 255).segs = [slicePa 368 + 0x1000] ∧ ((appendUp true).ditchAt 0 255).tail % 4096 ≠ 4032 ∧
    (∀ l ∈ linesOf ((appendUp true).ditchAt 0 255).tail 64, (appendUp true).redirect (64 * l) = 64 * l) ∧ (appendUp true).retiredHome ((appendUp true).ditchAt 0 255).tail = false ∧ ((appendUp true).basinAt 0).hold = false ∧ ((appendUp true).basinAt 0).traces = [] ∧ (appendUp true).leats = [] := by decide
def submitOf : Submit := { id := 4, basin := 0, hdr := hdrPa }
def submitUp : State := { sluiceUp { en := true } {} with mem := hdrMem, submits := [submitOf] }
set_option maxRecDepth 20000 in
theorem hdr_read : submitUp.memWords hdrPa 16 = hdrList := by decide
set_option maxRecDepth 20000 in
theorem wit_SluiceWork_launch : submitUp.submits = [submitOf] ∧ submitOf.basin = 0 ∧ submitOf.accepted = false ∧ submitOf.leat = none ∧ submitOf.slot = 8 ∧ submitOf.sv = true ∧
    (submitUp.basinAt 0).hold = false ∧ submitUp.mem.errs = [] ∧ submitUp.retiredHome hdrPa = false ∧ submitUp.hdrRefusal 0 hdrList = none ∧
    (submitUp.ditchAt 0 (hdrDitch hdrList)).en = true ∧ submitUp.launches = [] ∧ hdrItems hdrList = 6 ∧ submitUp.owned = [] ∧ submitUp.resv = [] ∧
    ((submitUp.setBasin 0 { submitUp.basinAt 0 with hold := true }).basinAt 0).hold = true ∧ (submitUp.setBasin 0 { submitUp.basinAt 0 with hold := true }).hdrRefusal 0 hdrList = none ∧
    ((submitUp.setBasin 0 { submitUp.basinAt 0 with hold := true }).ditchAt 0 (hdrDitch hdrList)).en = true := by decide

/-- A list of one dependant, whose header lies at 0x18000; the page is in the first-level cache that serves the sluice. -/
def listLeaf : Nat := slicePa 368 + 0x20007
def signalUp : State :=
  { sluiceUp { en := true, asn := 1 } {} with
    mem := ({} : Memory).write (slicePa 368 + 0x20008) 0x18001 0 8, tlb1 := [(368, [⟨1, 1, listLeaf⟩])], signals := [⟨0, 255, 0x10008, 1, 0, none⟩] }
theorem signal_xl (va off : Nat) (hw : inWindow va = false) (h : signalUp.xlateFast ⟨368, false, 1, 0, 0⟩ va .read = .ok (slicePa 368 + off) true true false none)
    (hb : signalUp.answersCore (slicePa 368 + off) 368 = true) (ht : signalUp.touchL1 ⟨368, false, 1, 0, 0⟩ va = signalUp) (hr : signalUp.redirect (slicePa 368 + off) = slicePa 368 + off)
    (hp : signalUp.place (coreBasin 368) (slicePa 368 + off) = .slice 368 off) (hc : signalUp.checkMem ⟨368, false, 1, 0, 0⟩ false (slicePa 368 + off) = none) :
    signalUp.ditchXl 0 255 va .read = (.ok (slicePa 368 + off), signalUp) := by
  unfold State.ditchXl State.unitXl
  rw [hw]
  exact engineXl_of (engineAt_of h hb ht hr hp hc) hr
theorem wit_SluiceWork_signal : signalUp.signals = [⟨0, 255, 0x10008, 1, 0, none⟩] ∧ signalUp.ditchXl 0 255 0x10008 .read = (.ok (slicePa 368 + 0x20008), signalUp) ∧
    signalUp.retiredHome (slicePa 368 + 0x20008) = false ∧ signalUp.mem.read (slicePa 368 + 0x20008) 8 = 0x18001 ∧
    signalUp.engineAt (unitSpace (signalUp.unitCore 0 255) (signalUp.ditchAt 0 255).asn (signalUp.ditchAt 0 255).root) (0x18001 - 1) .read = (.ok (slicePa 368 + 0x28000), signalUp) ∧
    inWindow (0x18001 - 1) = false ∧ signalUp.mem.errs = [] :=
  ⟨rfl, signal_xl _ _ (by decide) (by decide) (by decide) rfl (by decide) (by decide) (by decide), by decide, by decide,
    engineAt_of (a := true) (b := true) (c := false) (x := none) (k := 368) (o := 0x28000) (by decide) (by decide) rfl (by decide) (by decide) (by decide), by decide, rfl⟩
/-- A ditch whose one record is a thread continuation of group 2 of the launch, placed by its key; slot 0 of the core runs a thread of the group. -/
def placedRec : List W64 := [BitVec.ofNat 64 (1 + 2 * 2 ^ 8 + 255 * 2 ^ 16), 4#64, 0x1000#64, 0x70#64, 0x60#64, 0x70#64, 0#64, BitVec.ofNat 64 hdrPa]
def recPa : Nat := slicePa 368 + 0x1000
def placeMem : Memory := (List.range 8).foldl (fun (m : Memory) k => m.write (recPa + 8 * k) (placedRec.getD k 0#64).toNat 0 8) hdrMem
def placeDitch : Ditch := { en := true, segs := [recPa], tail := recPa + 64, recs := [recPa] }
def placeUp : State :=
  { ((idleUp.setBasin 0 { ditches := [(255, placeDitch)], images := [slicePa 368 + 0x800] }).setCore 368 { owner := some ⟨hdrPa, 2⟩ }).setSlot 368 0
      { busy := true, record := placedRec, ctl := { vcore := 2#64 } } with mem := placeMem, launches := [⟨0, hdrPa, hdrList, 6, true, []⟩] }
set_option maxRecDepth 20000 in
theorem place_rec : placeUp.recAt recPa = placedRec := by decide
set_option maxRecDepth 20000 in
theorem wit_SluiceWork_place : PlacesOn placeUp 0 255 recPa 368 1 (slicePa 368 + 0x800) placeDitch ⟨0, hdrPa, hdrList, 6, true, []⟩ where
  due := by decide
  ditches := by decide
  record := by rw [place_rec]; decide
  launch := by rw [place_rec]; decide
  bound := by rw [place_rec]; decide
  image := by decide
  engines := by rw [place_rec]; decide
  quiet := by decide
theorem wit_SluiceWork_share : ((sluiceUp {} {}).basinAt 0).shared < ({ sluiceUp {} {} with time := 4096 }).time / 4096 * 4096 ∧
    (∀ e ∈ ((sluiceUp {} {}).basinAt 0).ditches, e.2.recs = [] ∧ e.2.held = none) := by decide
def retireUp : State := { placeUp.setSlot 368 6 { busy := true, ending := some .retire, record := placedRec, ctl := { vcore := 2#64 } } with reqs := [] }
theorem wit_SluiceWork_retire : let sl := retireUp.slotAt 368 6
    sl.busy = true ∧ sl.run = none ∧ sl.failed = [] ∧ sl.ending = some .retire ∧ retireUp.quiesced 368 6 = true ∧ retireUp.heldFor 368 = none ∧
      retireUp.launchOf (coreBasin 368) sl.group.hdr = some ⟨0, hdrPa, hdrList, 6, true, []⟩ ∧ 2 ≤ (⟨0, hdrPa, hdrList, 6, true, []⟩ : Launch).live := by decide

/-! ### Witnesses: the ditch-rider -/

/-- A stopped and frozen thread in slot 6 of core 0, its line of w 127 present; a command on its way to it. -/
def heldSlot : Slot := { busy := true, frz := true, stop := true, rty := true, pc := 0x1000#64 }
def supOf (k : SupKind) : SupCmd := { id := 4, kind := k, core := 368, slot := 6, src := 368, word := 127, val := 5#64, fe := false }
def supUp (sl : Slot) (k : SupKind) : State := { (idleUp.setSlot 368 6 sl) with supCmds := [supOf k] }
theorem wit_SlotCommands_answers : (supUp heldSlot .freeze).answers (coreSite 368) = true ∧ (idleUp.answers 23 = true ∧ idleUp.sumpPa 23 = some (slicePa 368 + 0x1E0000) ∧
    idleUp.redirect (slicePa 368 + 0x1E0000 + 0x1FFF8) = slicePa 368 + 0x1E0000 + 0x1FFF8 ∧ idleUp.waitq = []) := by decide
theorem wit_SlotCommands_arrives : (supUp heldSlot .freeze).supCmds.find? (fun x => x.id == 4) = some (supOf .freeze) ∧ (supUp heldSlot .freeze).supBehind (supOf .freeze) = false ∧ (supUp heldSlot .freeze).supLate (supOf .freeze) = false ∧
    ((supUp heldSlot .freeze).slotAt 368 6).busy = true ∧ ((supUp heldSlot .freeze).slotAt 368 6).run = none ∧ slotExists 368 6 = true := by decide
theorem wit_SlotCommands_halt : HaltCommand 368 6 .freeze (.slotFrzw 368 6) (fun x => { x with frz := true, look := none }) ∧
    HaltCommand 368 6 .stopt (.slotStopw 368 6) (fun x => { x with stop := true, look := none }) := ⟨.inl ⟨rfl, rfl, rfl⟩, .inr ⟨rfl, rfl, rfl⟩⟩
def resumes (a : Slot) (k : SupKind) (i : Instr) (f : Slot → Slot) (w : Bool) : Prop :=
  ResumeCommand 368 6 k i f w ∧ ((supUp a k).slotAt 368 6).busy = true ∧ AtBoundary (f ((supUp a k).slotAt 368 6)) (supUp a k) 368 6 ∧ ((supUp a k).slotAt 368 6).look = none ∧
    ((supUp a k).slotAt 368 6).tailBit = false
theorem wit_SlotCommands_resume : resumes { busy := true, frz := true } .thaw (.slotFrzClear 368 6) (fun x => { x with frz := false }) true ∧
    resumes { busy := true, stop := true } .startt (.slotStartw 368 6) (fun x => { x with stop := false }) true ∧
    resumes { busy := true, rty := true } .ackf (.slotAckClear 368 6) (fun x => { x with rty := false }) false :=
  ⟨⟨.inl ⟨rfl, rfl, rfl, rfl⟩, rfl, ⟨⟨rfl, rfl, rfl, rfl⟩, ⟨rfl, rfl, rfl, rfl, rfl, rfl, rfl⟩, nofun⟩, rfl, rfl⟩,
    ⟨.inr (.inl ⟨rfl, rfl, rfl, rfl⟩), rfl, ⟨⟨rfl, rfl, rfl, rfl⟩, ⟨rfl, rfl, rfl, rfl, rfl, rfl, rfl⟩, nofun⟩, rfl, rfl⟩,
    ⟨.inr (.inr ⟨rfl, rfl, rfl, rfl⟩), rfl, ⟨⟨rfl, rfl, rfl, rfl⟩, ⟨rfl, rfl, rfl, rfl, rfl, rfl, rfl⟩, nofun⟩, rfl, rfl⟩⟩
theorem wit_SlotCommands_words : ((supUp heldSlot .wrctx).slotAt 368 6).frz = true ∧ ((supUp heldSlot .wrctx).slotAt 368 6).present.getLsbD (127 / 8) = true ∧
    (supUp heldSlot .wrctx).supCmds.find? (fun x => x.id == 4) = some (supOf .wrctx) ∧ (supOf .wrctx).word = 127 ∧
    (supUp heldSlot .tlbinv).supCmds.find? (fun x => x.id == 4) = some (supOf .tlbinv) := by decide
def idleRun : Run := runW 4272113 0
def eventUp (n : Nat) : State := (blockUp idleRun).setCore 368 { queues := (List.replicate 8 {}).set 7 { en := true, base := 16, size := 16, count := n, tail := 15 } }
theorem wit_SlotCommands_idle : WaitsAt (eventUp 1) ⟨368, 0, 0, slotOf idleRun, idleRun, idleRun.inst 0⟩ 0 (.idle .always (tl 1) none) ∧ ((eventUp 1).queueAt 368 7).count ≠ 0 ∧
    Room ⟨368, 0, 0, slotOf idleRun, idleRun, idleRun.inst 0⟩ (tl 1) none := ⟨⟨rfl, rfl, rfl, rfl, by decide, rfl⟩, by decide, room_one (by decide)⟩
def pktOf : Packet := { id := 4, dest := 368, site := 23, core := 0, slot := 0, words := [0x41#64] }
theorem wit_SlotCommands_packet : ({ eventUp 0 with pkts := [pktOf] }).pkts = [pktOf] ∧
    ((eventUp 0).coreAt 368).queues[7]? = some { en := true, base := 16, size := 16, count := 0, tail := 15 } ∧ 2 ≤ (((eventUp 0).coreAt 368).queues.getD 7 {}).room ∧
    (((eventUp 15).coreAt 368).queues.getD 7 {}).en = true ∧ ((idleUp.coreAt 368).queues.getD 7 {}).en = false ∧ (eventUp 0).waitq = [] ∧ ((eventUp 0).basinAt 0).traces = [] ∧
    ((({ eventUp 0 with pkts := [pktOf] }).flightOf 4).any ({ eventUp 0 with pkts := [pktOf] }).wayHeld = false) ∧
    (∀ i < 2, (eventUp 0).redirect (slicePa 368 + 64 * (16 + (15 + i) % 16)) = slicePa 368 + 64 * (16 + (15 + i) % 16)) := by decide
theorem wit_SlotCommands_sump : isCompute 23 = true ∧ 0x1FFF8 < 0x20000 ∧ 0x1FFF8 % 8 = 0 ∧ (idleUp.siteAt 23).sump = [] := by decide

/-- A group swapped out that has left its one record; a thread of a group that a migration names, and its target, core 1 of site 24. -/
def swapUp : State := { idleUp.setCore 368 { swap := some ⟨⟨hdrPa, 2⟩, 368, 7, [(4, placedRec)]⟩ } with launches := [⟨0, hdrPa, hdrList.set 0 0x60000#64, 6, true, []⟩] }
theorem wit_GroupMoves_swap : (368 : Nat) < 8192 ∧ (swapUp.coreAt 368).swap = some ⟨⟨hdrPa, 2⟩, 368, 7, [(4, placedRec)]⟩ ∧ swapUp.holdsGroup 368 ⟨hdrPa, 2⟩ = false ∧ swapUp.enginesRest 368 = true ∧
    (swapUp.coreAt 368).owns ⟨hdrPa, 2⟩ = false ∧ hdrPlace (swapUp.hdrWords (coreBasin 368) hdrPa) = 3 := by decide
def migrOf (d : Nat) : SupCmd := { id := 4, kind := .migr, core := 369, slot := 6, src := 368, word := d }
def migrUp (d : Nat) (k : Core) : State :=
  { (((idleUp.setBasin 0 { bank0 := [3, physIndex 368, physIndex 369, physIndex 370] }).setSlot 369 6 { busy := true, record := placedRec, ctl := { vcore := 2#64 } }).setCore 369 k) with
    supCmds := [migrOf d], launches := [⟨0, hdrPa, hdrList, 6, true, []⟩] }
def migJobOf : MigJob := ⟨⟨hdrPa, 2⟩, 368, 6⟩
def isOkAt (x : Except Nat Nat) (d : Nat) : Bool := match x with | .ok a => a == d | .error _ => false
def isErrAt (x : Except Nat Nat) (d : Nat) : Bool := match x with | .ok _ => false | .error a => a == d
theorem wit_GroupMoves_migr : (migrUp 2 {}).supCmds = [migrOf 2] ∧ (migrUp 2 {}).slotAt 369 6 = { busy := true, record := placedRec, ctl := { vcore := 2#64 } } ∧
    isOkAt ((migrUp 2 {}).migrCheck 369 ((migrUp 2 {}).slotAt 369 6).group 2) 370 = true ∧ isErrAt ((migrUp 3 {}).migrCheck 369 ((migrUp 3 {}).slotAt 369 6).group 3) 1 = true := by decide
/-- The conditions of R434 one by one, but the second: a ring names no core of another basin. -/
def movers : Group := ⟨hdrPa, 2⟩
theorem refused_at {s : State} {core id d : Nat} (h : s.logicalCoreIn (coreBasin core) (s.coreAt core).gen id = some d) :
    ((∃ n < 7, (s.slotAt d n).busy = true ∧ True) → MoveRefused s core movers id 3) ∧ (s.riderCore (coreSite core) = core → MoveRefused s core movers id 4) ∧
    ((∃ n < 7, (s.slotAt core n).busy = true ∧ (s.slotAt core n).group ≠ movers) → MoveRefused s core movers id 5) ∧ (2 ≤ (s.coreAt core).foldK → MoveRefused s core movers id 6) ∧
    ((∃ e ∈ s.cores, coreBasin e.1 = coreBasin core ∧ e.2.mig ≠ none) → MoveRefused s core movers id 7) ∧ ((∃ q < 7, (s.queueAt d q).en = true) → MoveRefused s core movers id 8) := by
  refine ⟨?_, ?_, ?_, ?_, ?_, ?_⟩ <;> intro x <;> simp only [MoveRefused, h]
  · exact .inl x
  · exact x
  · exact x
  · exact .inr x
  · exact x
  · exact x
def ringed (k : Core) : State := migrUp 2 k
def strangerUp : State := (ringed {}).setSlot 369 0 { busy := true }
def targetUp : State := (ringed {}).setSlot 370 0 { busy := true }
def busyUp : State := (ringed {}).setCore 371 { mig := some migJobOf }
def listensUp : State := (ringed {}).setCore 370 { queues := List.replicate 6 {} ++ [{ en := true }, {}] }
theorem wit_GroupMoves_refused : MoveRefused (migrUp 3 {}) 369 movers 3 1 ∧ MoveRefused targetUp 369 movers 2 3 ∧ MoveRefused (ringed {}) 368 movers 2 4 ∧ MoveRefused strangerUp 369 movers 2 5 ∧
    MoveRefused (ringed { foldK := 2 }) 369 movers 2 6 ∧ MoveRefused busyUp 369 movers 2 7 ∧ MoveRefused listensUp 369 movers 2 8 :=
  ⟨by simp only [MoveRefused, show (migrUp 3 {}).logicalCoreIn (coreBasin 369) ((migrUp 3 {}).coreAt 369).gen 3 = none by decide],
    (refused_at (d := 370) (by decide)).1 (by decide), (refused_at (d := 370) (by decide)).2.1 (by decide), (refused_at (d := 370) (by decide)).2.2.1 (by decide),
    (refused_at (d := 370) (by decide)).2.2.2.1 (by decide), (refused_at (d := 370) (by decide)).2.2.2.2.1 (by decide), (refused_at (d := 370) (by decide)).2.2.2.2.2 (by decide)⟩
theorem wit_GroupMoves_first : isErrAt (targetUp.migrCheck 369 movers 2) 3 = true ∧ isErrAt ((ringed {}).migrCheck 368 movers 2) 4 = true ∧ isErrAt (strangerUp.migrCheck 369 movers 2) 5 = true ∧
    isErrAt ((ringed { foldK := 2 }).migrCheck 369 movers 2) 6 = true ∧ isErrAt (busyUp.migrCheck 369 movers 2) 7 = true ∧ isErrAt (listensUp.migrCheck 369 movers 2) 8 = true := by decide
def migPhase (p : Nat) : Core := { mig := some migJobOf, phase := p, target := 370, rdir := decide (4 ≤ p), lmoved := if 4 ≤ p then 32768 else 0 }
theorem wit_GroupMoves_phases : ((migrUp 2 (migPhase 1)).coreAt 369).mig = some migJobOf ∧ (migrUp 2 (migPhase 1)).enginesRest 369 = true ∧ (migrUp 2 (migPhase 1)).quiesced 369 6 = true ∧
    ((migrUp 2 (migPhase 1)).slotAt 369 6).run = none ∧ ((migrUp 2 (migPhase 1)).slotAt 369 6).failed = [] ∧ ((migrUp 2 (migPhase 2)).coreAt 369).owns migJobOf.grp = false ∧
    (migrUp 2 (migPhase 2)).groupSlots 369 migJobOf.grp = [6] ∧ ((migrUp 2 (migPhase 4)).coreAt 369).target ≠ 369 ∧ ((migrUp 2 (migPhase 4)).coreAt 369).phase = 4 ∧ ((migrUp 2 (migPhase 5)).slotAt 370 0).busy = false ∧
    (migrUp 2 (migPhase 5)).groupSlots 369 migJobOf.grp = [6] ∧ ((migrUp 2 (migPhase 5)).slotAt 369 6).deferFrz = false ∧ ((migrUp 2 (migPhase 5)).slotAt 369 6).deferStop = false ∧
    (migrUp 2 (migPhase 5)).heldFor 369 = none ∧ ((migrUp 2 (migPhase 5)).slotAt 369 6).run = none ∧ ((migrUp 2 (migPhase 5)).slotAt 369 6).failed = [] := by decide
/-- A slice in phase 3 whose lines up to 63 have moved, as a clk of its basin ends. -/
def moving : Core := { mig := some migJobOf, phase := 3, target := 370, rdir := true, lmoved := 64 }
def lineUp : State := ({ ({ State.reset with powered := true }.setSite 23 { live := 0xFFFF#16, bst := 5 })with basins := [(0, { on := true, phase := 4 }), (1, { phase := 4 }), (2, { phase := 4 }), (3, { phase := 4 })] } : State).setCore 369 moving
set_option maxRecDepth 20000 in
theorem wit_ClockEvents_move : lineUp.edgeNext 0 = true ∧ lineUp.turnsDone 0 = true ∧ (∀ x ∈ ((lineUp.endClk 0).basinAt 0).cells, x.2.boost = false) ∧
    (lineUp.endClk 0).cores.filter (fun x => decide (x.2.phase = 3 ∧ coreBasin x.1 = 0)) = [(369, moving)] ∧ (lineUp.endClk 0).coreAt 369 = moving ∧ moving.mig ≠ none := by decide

/-! ### Witnesses: bring-up, configuration space, the leat, links and health -/

/-- Site 5, the headgate of basin 0, at the end of phase 0 and after it; its neighbours DARK. -/
def bootUp (v : Basin) (n : Nat) (w : Site) : State := ({ State.reset with powered := true }.setBasin 0 v).setSite n w
set_option maxRecDepth 20000 in
theorem wit_BringUp_power : State.reset.powered = false ∧ siteExists 5 = true ∧ (bootUp {} 5 {}).powered = true ∧ ((bootUp {} 5 {}).basinAt 0).phase = 0 ∧ ((bootUp {} 5 {}).basinAt 0).tstart = 0 ∧
    5 ∈ headgates 0 ∧ (bootUp {} 5 {}).upTo 65536 = true := by decide
/-- Whether a copy of the image passes is the part's own: with its copy passing a headgate comes up, and otherwise it fails with 0; with no lock it fails with 1, with a bad check with 3. -/
theorem wit_BringUp_gates : GateUp (bootUp {} 5 {}) 5 ∨ GateFails (bootUp {} 5 {}) 5 0 := by
  cases h : Config.fwPasses ((bootUp {} 5 {}).imageAt 5) with
  | true => exact .inl ⟨h, by decide, by decide⟩
  | false => exact .inr (.inl ⟨h, rfl⟩)
def failUp (p : Part) : State := { bootUp {} 5 {} with part := p }
theorem wit_BringUp_failing : ((failUp { noLock := [5] }).imageAt 5 = (bootUp {} 5 {}).imageAt 5 ∧ 5 ∈ (failUp { noLock := [5] }).part.noLock) ∧
    5 ∉ (failUp { fails := [(5, 3)] }).part.noLock ∧ mget (failUp { fails := [(5, 3)] }).part.fails 5 0 = 3 := by decide
/-- A headgate CONFIGURED at TIME 65536, in slot 1; the offer it makes to site 4. -/
def offerUp : State := { bootUp {} 5 { bst := 3, tcfg := 65536 } with basins := (List.range 4).map fun b => (b, { phase := 1, tstart := 65536 }) }
theorem quiet_sites : ∀ n, (offerUp.siteAt n).bst ≠ 1 ∧ (offerUp.siteAt n).bst ≠ 2 ∧ (offerUp.siteAt n).offers = [] := by
  intro n
  have h : offerUp.siteAt n = if 5 = n then { bst := 3, tcfg := 65536 } else mget State.reset.sites n {} := mget_mput _ _ _ _ _
  rw [h]
  split
  · decide
  · exact ⟨by simp [State.reset, mget, mget?], by simp [State.reset, mget, mget?], by simp [State.reset, mget, mget?]⟩
theorem wit_BringUp_offer : (offerUp.phase0Over = true ∧ offerUp.upTo (offerUp.siteAt 5).tcfg = true) ∧ OffersAt offerUp 1 5 ∧ acrossEdge 5 3 = some 4 ∧ seamEdge 5 3 = false ∧ (offerUp.siteAt 4).bst = 0 ∧
    edgeBits (Nat.lor (offerUp.siteAt 5).dbm (mget offerUp.part.defect 5 0)) 3 ≠ 255 := ⟨by decide, ⟨by decide, by decide, by decide, by decide, by decide⟩, by decide, by decide, by decide, by decide⟩
def darkUp (w : Site) : State := bootUp { phase := 1, tstart := 65536 } 4 w
theorem wit_BringUp_site : (darkUp { offers := [(1, 5, 1), (2, 5, 2)] }).siteAt 4 = { offers := [(1, 5, 1), (2, 5, 2)] } ∧ (∀ b ∈ [(1, 5, 1), (2, 5, 2)], b ≠ (1, 5, 1) → offerBefore (1, 5, 1) b = true) ∧
    ((darkUp { bst := 1 }).siteAt 4).bst = 1 ∧ 4 ∉ (darkUp {}).part.noLock ∧ 4 ∈ ({ darkUp { bst := 1 } with part := { noLock := [4] } }).part.noLock ∧
    ((darkUp { bst := 2 }).siteAt 4).bst = 2 ∧ mget (darkUp {}).part.fails 4 0 = 0 ∧ ((darkUp { bst := 4 }).siteAt 4).bst = 4 ∧ (darkUp { bst := 4 }).badOf 4 = [] ∧
    ((darkUp { offers := [(1, 5, 1), (2, 5, 2)] }).upTo (65536 + 256) = true ∧ (darkUp { bst := 2 }).upTo (65536 + 4096 * 0) = true ∧ (darkUp { bst := 4 }).upTo (0 + 4096 * clearSlots 4) = true) ∧
    mget ({ darkUp { bst := 2 } with part := { fails := [(4, 2)] } } : State).part.fails 4 0 = 2 := by decide
def seamUp : State := ((((({ State.reset with powered := true }.setBasin 0 { phase := 1, tstart := 65536 }).setBasin 1 { tstart := 65536 }).setBasin 2 { phase := 5, tstart := 65536 }).setBasin 3
  { tstart := 65536 }))
theorem wit_BringUp_seam : seamUp.powered = true ∧ (seamUp.basinAt 0).phase = 1 ∧ seamUp.phase1Over 1 = true ∧ seamUp.phase1Over 2 = true ∧ seamUp.phase1Over 3 = true ∧
    acrossEdge 10 1 = some 11 ∧ seamEdge 10 1 = true ∧ siteExists 10 = true ∧ (seamUp.siteAt 10).bst ≠ 5 := by decide
set_option maxRecDepth 20000 in
theorem wit_BringUp_seam_over : seamUp.phase1Over 0 = true ∧ seamUp.upTo seamUp.phase1End = true ∧ (bootUp { phase := 2 } 23 {}).upTo ((bootUp { phase := 2 } 23 {}).phase1End + 4096) = true := by decide
theorem wit_BringUp_phases : ((bootUp { phase := 2 } 23 {}).basinAt 0).phase = 2 ∧ (bootUp { phase := 2 } 23 {}).waitq = [] ∧ ((bootUp { phase := 3 } 23 {}).basinAt 0).phase = 3 ∧
    basinOf 23 = 0 ∧ ((bootUp { phase := 2 } 23 { bst := 5 }).siteAt 23).bst = 5 ∧ isCompute 23 = true := by decide

set_option maxRecDepth 20000 in
theorem wit_ConfigurationSpace : ((gateUp 3 idleUp).basinAnswers 3 = true ∧ (idleUp.setSite 27 { bst := 5 }).answers 27 = true) ∧ (gateUp 3 idleUp).reqs = [] ∧ (idleUp.answers 23 = true ∧ idleUp.answers 24 = false) ∧ regAt 23 0xF0008 = some (.bringUp 1) ∧ regAt 23 1 = none ∧ regAt 0 0 = none ∧
    regAt 23 0 = some .header ∧ regAt 23 0x108 = some .compute ∧ regAt 23 0xC0000 = some (.siteSluice 0) ∧ siteKind 5 = .headgate ∧ paSpace (3 * 2 ^ 46 + 23 * 2 ^ 37) = 3 ∧ 3 * 2 ^ 46 + 23 * 2 ^ 37 < 2 ^ 48 ∧
    basinOf (paSite (3 * 2 ^ 46 + 23 * 2 ^ 37)) = basinOf 5 ∧ siteExists (paSite (3 * 2 ^ 46 + 23 * 2 ^ 37)) = true ∧ (mget (idleUp.basinAt 3).interleave 15 {}).valid = false ∧
    (mget ((idleUp.setBasin 3 { interleave := [(15, { valid := true, div := 30 })] }).basinAt 3).interleave 15 {}).valid = true ∧ siteKind 27 = .memory ∧ (2#64).toNat % 4 ≠ 3 ∧
    ((idleUp.setSite 27 { bst := 5 }).siteAt 27).mstate ≠ 2 := by decide

/-- Frames of an operation, to an enabled port at site 241. -/
def frameOf (op fe len seq : Nat) (w1 w3 : Nat) (ws : List W64) : Frame := ⟨BitVec.ofNat 64 (1 + op * 2 ^ 4 + fe * 2 ^ 8 + len * 2 ^ 16 + seq * 2 ^ 32), BitVec.ofNat 64 w1, 9#64, BitVec.ofNat 64 w3, ws, true, .ofMode false⟩
def portUp (p : LeatPort) : State := { idleUp.setSite 241 { nst := [(23, 0)] } with leats := [(241, p)] }
theorem wit_LeatRequests_frames : siteKind 241 = .hostLink ∧ ((portUp { en := true, expseq := 2 ^ 32 - 1 }).leatAt 241).en = true ∧
    ((frameOf 2 0 0 (2 ^ 32 - 1) 0 8 []).good false = true ∧ (frameOf 2 0 0 (2 ^ 32 - 1) 0 8 []).op ≠ 8 ∧ (frameOf 2 0 0 (2 ^ 32 - 1) 0 8 []).seq = 2 ^ 32 - 1) ∧
    (frameOf 2 0 8 0 0 8 []).good false = false ∧ (frameOf 2 0 0 0 0 8 []).seq = (2 ^ 32 - 1 + 1) % 2 ^ 32 ∧ (frameOf 2 0 0 0 0 8 []).good false = true ∧ ({ frameOf 2 0 0 0 0 8 [] with carrier := .ofMode true } : Frame).good true = true ∧
    (frameOf 2 0 0 0 0 8 []).good true = false := by decide
def askedUp (f : Frame) : State := portUp { en := true, jobs := [{ seq := f.seq, frame := f }] }
def writeFrame (fe a : Nat) : Frame := frameOf 1 fe 16 7 a 0 [0x11#64, 0x22#64]
def readFrame : Frame := frameOf 2 0 0 7 (slicePa 368 + 0x1000) 4096 []
set_option maxRecDepth 20000 in
theorem wit_LeatRequests_memory :
    (AskedOf (askedUp (writeFrame 3 0)) 241 1 (writeFrame 3 0) ∧ (writeFrame 3 0).fe = 3) ∧
    (AskedOf (askedUp (writeFrame 1 4)) 241 1 (writeFrame 1 4) ∧ (writeFrame 1 4).fe ≠ 3 ∧ (askedUp (writeFrame 1 4)).leatAddrOk true 241 (writeFrame 1 4).addr (max 8 (writeFrame 1 4).len) = false) ∧
    (AskedOf (askedUp (writeFrame 2 (slicePa 368 + 0x1000))) 241 1 (writeFrame 2 (slicePa 368 + 0x1000)) ∧
      (askedUp (writeFrame 2 (slicePa 368 + 0x1000))).leatAddrOk true 241 (slicePa 368 + 0x1000) 16 = true ∧ (writeFrame 2 (slicePa 368 + 0x1000)).addr = slicePa 368 + 0x1000 ∧
      (writeFrame 2 (slicePa 368 + 0x1000)).len = 16 ∧ (askedUp (writeFrame 2 (slicePa 368 + 0x1000))).leatHeld 241 (slicePa 368 + 0x1000) 16 = false ∧ paSpace (slicePa 368 + 0x1000) = 0 ∧
      (askedUp readFrame).redirect (slicePa 368 + 0x1000) = slicePa 368 + 0x1000) ∧
    AskedOf (askedUp readFrame) 241 2 readFrame ∧ readFrame.addr = slicePa 368 + 0x1000 ∧ readFrame.rlen = 4096 ∧ (askedUp readFrame).leatHeld 241 (slicePa 368 + 0x1000) 16 = false ∧
    (askedUp readFrame).leatAddrOk false 241 (slicePa 368 + 0x1000) 4096 = true := by
  unfold AskedOf AskedUpTo; decide
/-- The same from their second access on, and a read of no memory. -/
def onUp (f : Frame) (k : Nat) (ws : List W64) : State := portUp { en := true, jobs := [{ seq := f.seq, frame := f, at_ := k, words := ws }] }
def badRead : Frame := frameOf 2 0 0 7 1 4096 []
set_option maxRecDepth 20000 in
theorem wit_LeatRequests_pieces :
    (AskedUpTo (onUp (writeFrame 1 (slicePa 368 + 0x1008)) 8 []) 241 1 (writeFrame 1 (slicePa 368 + 0x1008)) 8 [] ∧
      (onUp (writeFrame 1 (slicePa 368 + 0x1008)) 8 []).leatAddrOk true 241 (slicePa 368 + 0x1010) 8 = true ∧
      (onUp (writeFrame 1 (slicePa 368 + 0x1008)) 8 []).leatHeld 241 (slicePa 368 + 0x1010) 8 = false) ∧
    AskedUpTo (onUp readFrame 4080 [5#64]) 241 2 readFrame 4080 [5#64] ∧ (onUp readFrame 4080 [5#64]).leatAddrOk false 241 (slicePa 368 + 0x1FF0) 16 = true ∧
    AskedUpTo (onUp badRead 0 []) 241 2 badRead 0 [] ∧ (onUp badRead 0 []).leatAddrOk false 241 1 4096 = false := by
  unfold AskedUpTo; decide
def ditchFrame : Frame := frameOf 3 0 128 7 (255 * 2 ^ 48) 0 (List.replicate 16 0x22#64)
def launchFrame : Frame := frameOf 4 0 0 7 (slicePa 368 + 0x1000) 0 []
def hostWriteOf : HostWrite := ⟨4, 241, 7, 368, 9, false, 0#64, 5, 255, none, 0⟩
theorem wit_LeatRequests_sluice : AskedOf (askedUp ditchFrame) 241 3 ditchFrame ∧ ditchFrame.good false = true ∧ ((askedUp ditchFrame).ditchAt ditchFrame.basin ditchFrame.ditch).en = false ∧
    (((askedUp ditchFrame).setBasin 0 { ditches := [(255, { en := true })] }).ditchAt ditchFrame.basin ditchFrame.ditch).en = true ∧ AskedOf (askedUp launchFrame) 241 4 launchFrame ∧
    paSpace launchFrame.addr = 0 ∧ (askedUp launchFrame).leatAddrOk false 241 launchFrame.addr 8 = true := by unfold AskedOf AskedUpTo; decide
theorem wit_LeatRequests_host : ({ idleUp with hostWrites := [hostWriteOf], time := 100000 }).hostWrites = [hostWriteOf] ∧ hostWriteOf.port = 241 ∧
    hostWriteOf.sentAt + 100000 ≤ ({ idleUp with hostWrites := [hostWriteOf], time := 100000 }).time := by decide

def mgmtFrame (sub : Nat) (ws : List W64) : Frame := frameOf 5 0 (8 * (1 + ws.length)) 7 0 0 (BitVec.ofNat 64 sub :: ws)
def mgmtAsked (sub : Nat) (ws : List W64) : Prop := AskedOf (askedUp (mgmtFrame sub ws)) 241 5 (mgmtFrame sub ws) ∧ (mgmtFrame sub ws).good false = true ∧ (mgmtFrame sub ws).sub = sub ∧
  (askedUp (mgmtFrame sub ws)).restart = false ∧ (askedUp (mgmtFrame sub ws)).waitq = []
theorem wit_Management : mgmtAsked 1 [] ∧ (mgmtAsked 2 [1#64, 2#64, 3#64, 4#64] ∧ (mgmtFrame 2 [1#64, 2#64, 3#64, 4#64]).payload.length = 5) ∧ mgmtAsked 3 [] ∧
    (mgmtAsked 4 [0x10#64, 5#64] ∧ 2 ≤ (mgmtFrame 4 [0x10#64, 5#64]).payload.length) ∧ mgmtAsked 5 [] ∧ mgmtAsked 6 [] ∧ ({ idleUp with restart := true }).restart = true := by
  unfold mgmtAsked AskedOf AskedUpTo; decide
theorem wit_Management_halted : ({ (askedUp (mgmtFrame 5 [])).setBasin 0 { phase := 5 } with time := 5 }).halted = true ∧ ((askedUp (mgmtFrame 5 [])).setBasin 0 { phase := 4 }).halted = false := by decide

/-- Port 127, up, receiving number 4095; flits that fail a check, and one that passes both. -/
def linkUpOf (p : LinkPort) : State := { idleUp with links := [(127, p)], time := 1000 }
def portOf : LinkPort := { en := true, width := 2, rxSeq := 4095, rxNak := 6, replay := [⟨4094, false, 0, 5, [], 0#32, 0#64⟩, ⟨4095, false, 1, 5, [], 0#32, 0#64⟩] }
def plainOf (fl : LinkFlit) : List W64 := Config.linkDecrypt [0#64, 0#64] 0#64 0 fl.words
def flit0 : LinkFlit := ⟨4095#12, false, 0#12, false, 0#32, 0#64, []⟩
def badFlit : LinkFlit := { flit0 with crc := ~~~(Config.linkCrc (plainOf flit0)) }
def goodFlit : LinkFlit := { flit0 with crc := Config.linkCrc (plainOf flit0), tag := Config.linkTag [0#64, 0#64] 0#64 0 [] }
theorem wit_ScaleUpLinks_flit : (127 : Nat) < 128 ∧ (linkUpOf portOf).linkUp 127 = true ∧ badFlit.seq.toNat = ((linkUpOf portOf).linkAt 127).rxSeq ∧ ((linkUpOf portOf).linkAt 127).rxNak < 7 ∧
    Config.linkCrc (plainOf badFlit) ≠ badFlit.crc ∧ goodFlit.seq.toNat = ((linkUpOf portOf).linkAt 127).rxSeq ∧ Config.linkCrc (plainOf goodFlit) = goodFlit.crc ∧
    Config.linkTag [0#64, 0#64] 0#64 0 goodFlit.words = goodFlit.tag ∧ goodFlit.nak = false ∧ ((linkUpOf { portOf with replay := [] }).linkAt 127).replay = [] := by
  refine ⟨by decide, by decide, rfl, by decide, ?_, rfl, rfl, rfl, rfl, rfl⟩
  show Config.linkCrc (plainOf flit0) ≠ ~~~(Config.linkCrc (plainOf flit0))
  generalize Config.linkCrc (plainOf flit0) = x
  intro h
  have := congrArg (fun (v : BitVec 32) => v.getLsbD 0) h
  simp at this
theorem wit_ScaleUpLinks_acks : (∃ g ∈ ((linkUpOf portOf).linkAt 127).replay, g.seq = 4095) ∧ ((linkUpOf portOf).linkAt 127).waiting = [] ∧ ((linkUpOf portOf).linkAt 127).nakRun = 0 :=
  ⟨⟨_, .tail _ (.head _), rfl⟩, rfl, rfl⟩
def siteUp (p : LinkPort) : State := (linkUpOf p).setSite (portSite 127) { bst := 5 }
def peerMsgOf : PeerMsg := { id := 5, pmod := 9, vc := 3, core := 368, cmd := 9, flits := [[0#64]] }
def trainUp (ms : List PeerMsg) : State := siteUp { portOf with training := true, waiting := ms }
set_option maxRecDepth 20000 in
theorem wit_ScaleUpLinks_site : (siteUp portOf).answers (portSite 127) = true ∧ (siteUp {}).answers (portSite 127) = true ∧ ((siteUp { portOf with tw := some 6144 }).linkAt 127).tw = some 6144 ∧
    (siteUp { portOf with tw := some 6144 }).upTo 6144 = true ∧ (siteUp portOf).waitq = [] ∧ (∀ g ∈ ([] : List SentFlit), g.ks = true) := by decide
set_option maxRecDepth 20000 in
theorem wit_ScaleUpLinks_training : ((trainUp []).linkAt 127).training = true ∧ ((trainUp []).linkAt 127).waiting = [] ∧ ((trainUp [peerMsgOf]).linkAt 127).waiting = [peerMsgOf] ∧
    peerMsgOf.flits = [[0#64]] ∧ ((trainUp [peerMsgOf]).linkAt 127).en = true ∧ ((trainUp [peerMsgOf]).linkAt 127).replay.length < 512 := by decide
theorem wit_ScaleUpLinks_registers : ((linkUpOf { portOf with txks := true, replay := [] }).linkAt 127).txks = true ∧ ((linkUpOf portOf).linkAt 127).txks = false ∧
    ((linkUpOf portOf).linkAt 127).width = 2 ∧ ((linkUpOf portOf).linkAt 127).tw = none ∧ ((linkUpOf portOf).basinAt (basinOf (portSite 127))).stepPend = false ∧
    ((linkUpOf portOf).linkAt 127).lost = false ∧ ((linkUpOf { portOf with tw := some 6144 }).linkAt 127).tw = some 6144 ∧ ((linkUpOf {}).linkAt 127).en = false ∧
    ((linkUpOf portOf).linkAt 127).en = true ∧ ((linkUpOf { portOf with training := true }).linkAt 127).training = true := by decide

/-- Averages of units of 10 W; a session for source 4; a replay entry in the slice, and what is not one. -/
def powerUp : State := (idleUp.setBasin 3 { on := true }).setBasin 1 { on := true } |> fun s => { s with time := 64000 }
set_option maxRecDepth 20000 in
theorem wit_HealthUnits_waits : (({ powerUp.setBasin 3 { on := true, m := 17, bmax := 15 } with plower := [3] }).plower = [3] ∧
      (({ powerUp.setBasin 3 { on := true, m := 17, bmax := 15 } with plower := [3] }).basinAt 3).bmax < (({ powerUp.setBasin 3 { on := true, m := 17, bmax := 15 } with plower := [3] }).basinAt 3).m) ∧
    powerUp.plower = [] ∧ (gateUp 3 idleUp).basinAnswers 3 = true := by decide
theorem wit_HealthUnits : (powerUp.pwin + 1) * 64000 ≤ powerUp.time ∧ powerUp.pbusy = none ∧ powerUp.pdue ≤ powerUp.time ∧ powerUp.plim * 10 < 2201 ∧ powerUp.fastest = some 3 ∧
    ((idleUp.basinAt 3).msamp * 1000000 + 1000000 ≤ ({ idleUp with time := 1000000 }).time ∧ (idleUp.basinAt 3).mrow < 1023) ∧ (mget (idleUp.basinAt 3).traces 3 {}).en = false ∧
    (9#64).toNat / 2 % 8 ≤ 4 := by decide
def entryWords : List Nat := [2, 0, 0, 0, 0, 0, 0, 0, 0, 0, 0x20200, 0, 50049, 0, 0, 0]
def replayUp (ws : List Nat) : State :=
  { (idleUp.setSlot 368 0 {}).setCore 368 { replay := { ent := slicePa 368 + 0x1000 } } with mem := (List.range 16).foldl (fun (m : Memory) k => m.write (slicePa 368 + 0x1000 + 8 * k) (ws.getD k 0) 0 8) {} }
def isStreamAt (x : Option Cmd) : Bool := match x with | some c => c.kind == .mstream && c.kind.engine == .matrix | none => false
set_option maxRecDepth 20000 in
theorem wit_HealthUnits_replay : let s := replayUp entryWords
    s.coreLive 368 = true ∧ (s.coreAt 368).replay.busy = false ∧ (s.coreAt 368).owner = none ∧ (∀ n < 7, (s.slotAt 368 n).busy = false) ∧
      ((s.memWords (slicePa 368 + 0x1000) 16).getD 0 0#64).toNat % 2 ^ 4 = 2 ∧ isStreamAt (s.cmdOfEntry 368 ⟨368, false, 0, 0, 0⟩ ((s.memWords (slicePa 368 + 0x1000) 16).drop 8)) = true ∧
      s.engineEmpty 368 .matrix = true ∧ s.tagRoom 368 [0] = true ∧ s.tagRoom 368 [63] = true ∧ (((replayUp []).memWords (slicePa 368 + 0x1000) 16).getD 0 0#64).toNat % 2 ^ 4 ≠ 2 := by decide

/-! ### Witnesses: the whole machine -/

theorem wit_StepKeepsMemoryInv : MemoryInv State.reset ∧ ∃ t, step State.reset = .next t := ⟨(by decide : State.reset.mem.wf = true), _, rfl⟩
theorem wit_EncodedDecodes : (Instr.mzero .always 15#4 1#4).wf = true ∧ (∃ n w, encode (.mzero .always 15#4 1#4) = some (n, w)) ∧ (0x4540 < 2 ^ 16 ∧ ∃ i, decodeWord 0x4540 = .ok i) :=
  ⟨by decide, ⟨_, _, rfl⟩, by decide, _, rfl⟩
/-- A slot that fires its one instruction, and an event, at the head of the agenda. -/
def turnUp : State := ({ upOf runP with agenda := [.fire 368 0 0] }).setCore 368 { turn := some ⟨0, [0]⟩ }
theorem wit_StepRunsActs : State.reset.agenda = [] ∧ ({ idleUp with agenda := [.ev .seamPass] }).agenda = .ev .seamPass :: [] ∧ turnUp.agenda = .fire 368 0 0 :: [] ∧
    ({ turnUp with agenda := [] }).mayFire 368 0 0 = true ∧ ({ turnUp with agenda := [] }).mayFire 368 0 1 = false ∧ ({ turnUp with agenda := [] }).runAt 368 0 = some runP ∧
    (∃ w i, runP.words[0]? = some w ∧ decodeWord w = .ok i) := by
  refine ⟨rfl, rfl, rfl, by decide, by decide, by decide, _, _, rfl, rfl⟩
theorem wit_FiringKeepsState : encode (.addi .onTrue 1#14 (tl 1)) ≠ none ∧ (∃ t, exec (.addi .onTrue 1#14 (tl 1)) (upOf runP) = .next t) ∧ ((upOf runP).slotAt 368 0).present.getLsbD (63 / 4) = true :=
  ⟨by decide, ⟨_, rfl⟩, by decide⟩
/-- IDLE of a rider, with a RETIRE: allowed with SV, refused without. -/
def idleBlock (sv : Bool) : Option (List Instr) :=
  match decodeBlock sv 0x000004200000001A [0x2FF1, 0, 0x31, 0] with
  | .ok x => some x.2.2
  | .error _ => none
theorem wit_SupervisorRefused : idleBlock true = some [.idle .always none none, .retire .always 0#3] ∧ idleBlock false = none ∧ causeOf 0x000004200000001A [0x2FF1, 0, 0x31, 0] = some (10, 0) ∧
    SupervisorOnly (.idle .always none none) := ⟨by decide, by decide, by decide, .inr (.inr (.inr (.inr (.inl ⟨_, _, _, .inr rfl⟩))))⟩

end Sys2Proof.Tests
end

section
/-! SUPPORT. Updates of a basin, a site and a ditch, as the statements speak of them; bits of a register's value. -/

namespace Sys2Proof.Machine

open Claims

variable (s : State)

/-! ### Updates on updates -/

theorem mput_mput_same {α : Type} (m : SMap α) (k : Nat) (u v : α) : mput (mput m k u) k v = mput m k v := by
  induction m with
  | nil => simp [mput]
  | cons e m ih =>
    obtain ⟨a, x⟩ := e
    rcases Nat.lt_trichotomy a k with h | rfl | h
    · simp [mput, h.ne, h.le.not_gt, ih]
    · simp [mput]
    · simp [mput, h, h.ne']

theorem State.setBasin_setBasin (b : Nat) (u v : Basin) : (s.setBasin b u).setBasin b v = s.setBasin b v := by
  simp [State.setBasin, mput_mput_same]

theorem State.modBasin_modBasin (b : Nat) (f g : Basin → Basin) :
    (s.modBasin b f).modBasin b g = s.modBasin b fun v => g (f v) := by
  rw [State.modBasin, State.modBasin_basinAt_same, State.modBasin, State.setBasin_setBasin, State.modBasin]

/-- An update that keeps a field of its basin keeps it in every basin. -/
theorem State.modBasin_basinAt_field {β : Type} (f : Basin → β) {F : Basin → Basin} (h : ∀ v, f (F v) = f v) (b c : Nat) :
    f ((s.modBasin b F).basinAt c) = f (s.basinAt c) := by
  rw [State.modBasin_basinAt]
  split_ifs with e
  · rw [h, e]
  · rfl

/-! ### What an update of one basin or one site is in the statements -/

theorem basinNow_modBasin (b : Nat) (f : Basin → Basin) : BasinNow s (s.modBasin b f) b (f (s.basinAt b)) :=
  ⟨rfl, by simp, fun k hk => by simp [State.modBasin_basinAt, hk.symm]⟩

theorem siteNow_modSite (n : Nat) (f : Site → Site) : SiteNow s (s.modSite n f) n (f (s.siteAt n)) :=
  ⟨rfl, by simp, fun k hk => by simp [State.modSite_siteAt, hk.symm]⟩

/-! ### Ditches -/

@[simp] theorem State.modDitch_ditchAt_same (b d : Nat) (f : Ditch → Ditch) : (s.modDitch b d f).ditchAt b d = f (s.ditchAt b d) := by
  simp [State.modDitch, State.ditchAt]

theorem State.modDitch_modDitch (b d : Nat) (f g : Ditch → Ditch) : (s.modDitch b d f).modDitch b d g = s.modDitch b d fun q => g (f q) := by
  simp [State.modDitch, State.modBasin_modBasin, mput_mput_same]

theorem ditchNow_modDitch (b d : Nat) (f : Ditch → Ditch) : DitchNow s (s.modDitch b d f) b d (f (s.ditchAt b d)) :=
  basinNow_modBasin s b _

@[simp] theorem State.modDitch_free (b d : Nat) (f : Ditch → Ditch) : ((s.modDitch b d f).basinAt b).free = (s.basinAt b).free := by
  simp [State.modDitch]

@[simp] theorem State.modDitch_traces (b d : Nat) (f : Ditch → Ditch) : ((s.modDitch b d f).basinAt b).traces = (s.basinAt b).traces := by
  simp [State.modDitch]

/-! ### Values of registers -/

theorem bit_toNat {n : Nat} (w : BitVec n) (k : Nat) : bit w.toNat k = w.getLsbD k := by
  simp [bit, BitVec.getLsbD, Nat.testBit_eq_decide_div_mod_eq, beq_eq_decide]

/-- The low bits of a register's value. -/
theorem bits_low (x hi : Nat) : bits x hi 0 = x % 2 ^ (hi + 1) := by simp [bits]

theorem taken_true (t : State) {a : Bool} (h : a = true) : s.taken a t = .next t := by simp [State.taken, h]

/-! ### Traces -/

@[simp] theorem State.tracers_of_none (b : Nat) (p : TraceSession → Bool) (h : (s.basinAt b).traces = []) : s.tracers b p = [] := by
  simp [State.tracers, h]

/-! ### One change made to many slots -/

/-- What does not read slots is as it was, where slots alone have changed. -/
theorem slots_field {s t : State} (h : { t with slots := s.slots } = s) {β : Type} (f : State → β) (hf : ∀ (x : State) m, f { x with slots := m } = f x) :
    f t = f s :=
  (hf t s.slots).symm.trans (congrArg f h)

section
variable {ι : Type} {g : State → ι → State}

theorem foldSlots_field (hg : ∀ s i, { g s i with slots := s.slots } = s) (l : List ι) {β : Type} (f : State → β)
    (hf : ∀ (x : State) m, f { x with slots := m } = f x) : f (l.foldl g s) = f s := by
  induction l generalizing s with
  | nil => rfl
  | cons i l ih => exact (ih (g s i)).trans (slots_field (hg s i) f hf)

/-- A change that made twice is made once, at the slots named and at no other. -/
theorem foldSlots_slotAt {key : ι → Nat × Nat} {F : Slot → Slot} (hF : ∀ x, F (F x) = F x) {l : List ι}
    (hg : ∀ s, ∀ i ∈ l, ∀ c, ∀ n < 8, (g s i).slotAt c n = if (c, n) = key i then F (s.slotAt c n) else s.slotAt c n) {c n : Nat} (hn : n < 8) :
    (l.foldl g s).slotAt c n = if (c, n) ∈ l.map key then F (s.slotAt c n) else s.slotAt c n := by
  induction l generalizing s with
  | nil => simp
  | cons i l ih =>
    rw [List.foldl_cons, ih (g s i) fun s j hj => hg s j (List.mem_cons_of_mem _ hj), hg s i (by simp) c n hn]
    by_cases e : (c, n) = key i
    · simp [e, hF]
    · simp [e]

end

end Sys2Proof.Machine
end

section
/-! SUPPORT. What a unit of the part writes to memory: the errors that it corrects, the bytes it leaves, and that no one is served where no one waits (R128, R231). -/

namespace Sys2Proof.Machine

open Claims

/-! ### Bytes of words written one after another -/

theorem Memory.byte_write_eq (m : Memory) (a v n x : Nat) :
    (m.write a v 0 n).byte x = if a ≤ x ∧ x < a + n then BitVec.ofNat 8 (v / 256 ^ (x - a)) else m.byte x := by
  split_ifs with h
  · obtain ⟨i, rfl⟩ := Nat.exists_eq_add_of_le h.1
    rw [Memory.byte_write _ _ _ _ _ (by omega), Nat.add_sub_cancel_left]
  · exact Memory.byte_write_outside _ _ _ _ _ _ (by omega)

theorem Memory.byte_writeWords (m : Memory) (pa : Nat) (f : Nat → Nat) (n x : Nat) :
    ((List.range n).foldl (fun (m : Memory) k => m.write (pa + 8 * k) (f k) 0 8) m).byte x =
      if pa ≤ x ∧ x < pa + 8 * n then BitVec.ofNat 8 (f ((x - pa) / 8) / 256 ^ ((x - pa) % 8)) else m.byte x := by
  induction n with
  | zero => simp [show ¬(pa ≤ x ∧ x < pa) by omega]
  | succ n ih =>
    rw [List.range_succ, List.foldl_append, List.foldl_cons, List.foldl_nil, Memory.byte_write_eq, ih]
    by_cases hn : pa + 8 * n ≤ x ∧ x < pa + 8 * n + 8
    · rw [if_pos hn, if_pos (by omega), show (x - pa) / 8 = n by omega, show (x - pa) % 8 = x - (pa + 8 * n) by omega]
    · rw [if_neg hn]
      exact if_congr (by omega) rfl rfl

/-! ### Words packed in one number -/

theorem packed_words_lt (f : Nat → Nat) (h : ∀ i, f i < 2 ^ 64) (n : Nat) :
    packed ((List.range n).map fun i => (f i, 64 * i)) < 2 ^ (64 * n) := by
  induction n with
  | zero => simp [packed]
  | succ n ih =>
    have hn := h n
    simp only [packed, List.range_succ, List.map_append, List.sum_append, List.map_cons, List.map_nil, List.sum_cons, List.sum_nil] at ih ⊢
    rw [show 64 * (n + 1) = 64 * n + 64 by ring, Nat.pow_add]
    calc _ < 2 ^ (64 * n) + f n * 2 ^ (64 * n) := by omega
      _ = 2 ^ (64 * n) * (f n + 1) := by ring
      _ ≤ 2 ^ (64 * n) * 2 ^ 64 := Nat.mul_le_mul_left _ hn

theorem packed_words_get (f : Nat → Nat) (h : ∀ i, f i < 2 ^ 64) {n k : Nat} (hk : k < n) :
    packed ((List.range n).map fun i => (f i, 64 * i)) / 2 ^ (64 * k) % 2 ^ 64 = f k := by
  induction n with
  | zero => omega
  | succ n ih =>
    have hs : packed ((List.range (n + 1)).map fun i => (f i, 64 * i)) =
        packed ((List.range n).map fun i => (f i, 64 * i)) + f n * 2 ^ (64 * n) := by
      simp [packed, List.range_succ]
    rw [hs]
    rcases Nat.lt_succ_iff_lt_or_eq.1 hk with hlt | rfl
    · have hp : f n * 2 ^ (64 * n) = 2 ^ (64 * k) * (2 ^ 64 * (f n * 2 ^ (64 * (n - k - 1)))) := by
        rw [show 64 * n = 64 * k + (64 + 64 * (n - k - 1)) by omega, Nat.pow_add, Nat.pow_add]; ring
      rw [hp, Nat.add_mul_div_left _ _ (by positivity), Nat.add_mul_mod_self_left, ih hlt]
    · rw [Nat.add_mul_div_right _ _ (by positivity), Nat.div_eq_of_lt (packed_words_lt f h k), Nat.zero_add, Nat.mod_eq_of_lt (h k)]

theorem packed_words_byte (f : Nat → Nat) (h : ∀ i, f i < 2 ^ 64) {n j : Nat} (hj : j < 8 * n) :
    BitVec.ofNat 8 (packed ((List.range n).map fun i => (f i, 64 * i)) / 256 ^ j) = BitVec.ofNat 8 (f (j / 8) / 256 ^ (j % 8)) := by
  have low (y : Nat) : BitVec.ofNat 8 (y / 256 ^ (j % 8)) = BitVec.ofNat 8 (y % 2 ^ 64 / 256 ^ (j % 8)) := by
    refine BitVec.eq_of_toNat_eq ?_
    rw [BitVec.toNat_ofNat, BitVec.toNat_ofNat, show 2 ^ 64 = 256 ^ (j % 8) * 256 ^ (8 - j % 8) by rw [← Nat.pow_add]; norm_num [show j % 8 + (8 - j % 8) = 8 by omega],
      Nat.mod_mul_right_div_self, Nat.mod_mod_of_dvd]
    exact dvd_pow_self 256 (by omega)
  have hp : 256 ^ j = 2 ^ (64 * (j / 8)) * 256 ^ (j % 8) := by
    rw [show (256 : Nat) = 2 ^ 8 from rfl, ← Nat.pow_mul, ← Nat.pow_mul, ← Nat.pow_add]
    congr 1; omega
  rw [hp, ← Nat.div_div_eq_div_mul, low, packed_words_get f h (by omega)]

/-! ### Errors corrected at their homes -/

/-- From s to t errors have been corrected and counted, and nothing else has happened: no byte of memory has changed, and of each core its count alone. -/
structure Corrected (s t : State) : Prop where
  rest : { t with mem := s.mem, cores := s.cores, sites := s.sites } = s
  cores : ∀ k, { t.coreAt k with ce := (s.coreAt k).ce } = s.coreAt k
  bytes : ∀ a, t.mem.byte a = s.mem.byte a

theorem Corrected.refl (s : State) : Corrected s s := ⟨rfl, fun _ => rfl, fun _ => rfl⟩

/-- What reads neither memory nor cores nor sites is as it was. -/
theorem Corrected.field {s t : State} (h : Corrected s t) {β : Type} (f : State → β)
    (hf : ∀ (x : State) m c n, f { x with mem := m, cores := c, sites := n } = f x) : f t = f s :=
  (hf t _ _ _).symm.trans (congrArg f h.rest)

/-- What reads of a core anything but its count of errors is as it was. -/
theorem Corrected.coreField {s t : State} (h : Corrected s t) {β : Type} (f : Core → β) (hf : ∀ (x : Core) n, f { x with ce := n } = f x) (k : Nat) :
    f (t.coreAt k) = f (s.coreAt k) :=
  (hf _ _).symm.trans (congrArg f (h.cores k))

theorem Corrected.trans {s t u : State} (h : Corrected s t) (h' : Corrected t u) : Corrected s u where
  rest := (h'.field (fun x => { x with mem := s.mem, cores := s.cores, sites := s.sites }) fun _ _ _ _ => rfl).trans h.rest
  cores k := (h'.coreField (fun x => { x with ce := (s.coreAt k).ce }) (fun _ _ => rfl) k).trans (h.cores k)
  bytes a := (h'.bytes a).trans (h.bytes a)

theorem corrected_countCe (s : State) (w : Nat) (pa : Nat) : Corrected s (({ s with mem := s.mem.setErr w none } : State).countCe pa) := by
  generalize hu : ({ s with mem := s.mem.setErr w none } : State) = u
  have hsu : Corrected s u := by subst hu; exact ⟨rfl, fun _ => rfl, fun _ => rfl⟩
  refine hsu.trans ?_
  dsimp only [State.countCe]
  split
  · exact ⟨rfl, fun _ => rfl, fun _ => rfl⟩
  · refine ⟨rfl, fun k => ?_, fun _ => rfl⟩
    rw [State.setCore_coreAt]
    split_ifs with hk
    · subst hk; rfl
    · rfl

theorem corrected_correct (s : State) (ws : List Nat) : Corrected s (s.correct ws) := by
  induction ws generalizing s with
  | nil => exact .refl s
  | cons w ws ih =>
    rw [State.correct]
    split_ifs
    · exact (corrected_countCe s w (8 * w)).trans (ih _)
    · exact ih s

theorem State.correct_of_noErrs (s : State) (h : s.mem.errs = []) (ws : List Nat) : s.correct ws = s := by
  induction ws with
  | nil => rfl
  | cons w ws ih => simp [State.correct, Memory.correctable, h, mget?, ih]

theorem State.firstPoisoned_of_noErrs (s : State) (h : s.mem.errs = []) (ws : List Nat) : s.firstPoisoned ws = none := by
  simp [State.firstPoisoned, Memory.poisoned, h, mget?]

/-- Where an address leads depends on the redirection of the core of its slice alone. -/
theorem State.redirect_congr {s t : State} (pa : Nat)
    (h : ∀ k, (t.coreAt k).rdir = (s.coreAt k).rdir ∧ (t.coreAt k).lmoved = (s.coreAt k).lmoved ∧ (t.coreAt k).target = (s.coreAt k).target) :
    t.redirect pa = s.redirect pa := by
  obtain ⟨hr, hl, ht⟩ := h (coreOf (paSite pa) (bits pa 25 22))
  simp [State.redirect, hr, hl, ht]

theorem Corrected.redirect {s t : State} (h : Corrected s t) (pa : Nat) : t.redirect pa = s.redirect pa :=
  State.redirect_congr pa fun k => ⟨h.coreField Core.rdir (fun _ _ => rfl) k, h.coreField Core.lmoved (fun _ _ => rfl) k, h.coreField Core.target (fun _ _ => rfl) k⟩

/-! ### Those who wait -/

theorem State.retestAll_of_noWaiters (s : State) (h : s.waitq = []) (ws : List Nat) : s.retestAll ws = s := by
  simp [State.retestAll, h, State.retest]

theorem State.retest_nil (s : State) (n : Nat) : s.retest [] n = s := by
  cases n with
  | zero => rfl
  | succ n =>
    rw [State.retest]
    split
    · rfl
    · rename_i i hi
      have hi := List.find?_some hi
      split at hi <;> simp at hi

theorem State.waitWords_eq_nil (s : State) (p : Req → Bool) (h : ∀ q ∈ s.reqs, q.id ∈ s.waitq → p q = false) : s.waitWords p = [] := by
  simp only [State.waitWords, List.flatMap_eq_nil_iff, List.mem_filter, Bool.and_eq_true, List.contains_iff_mem]
  rintro q ⟨hq, hw, hp⟩
  exact absurd (h q hq hw) (by simp [hp])

/-- Where none of those who wait meets a condition, none is served for it. -/
theorem State.retestAll_waitWords (s : State) (p : Req → Bool) (h : ∀ q ∈ s.reqs, q.id ∈ s.waitq → p q = false) :
    s.retestAll (s.waitWords p) = s := by
  rw [State.waitWords_eq_nil s p h, State.retestAll, State.retest_nil]

/-! ### Writes of the part's own units -/

theorem redirect_of_stays {s : State} {pa n x : Nat} (h : Stays s pa n) (hlo : pa ≤ x) (hhi : x < pa + n) : s.redirect x = x := by
  refine s.redirect_of_line x (h _ ?_)
  rw [linesOf, if_neg (by omega), List.mem_map]
  refine ⟨x / 64 - lineOf pa, List.mem_range.2 ?_, ?_⟩ <;> simp only [lineOf] <;> omega

theorem byte_dropPoison (ws : List Nat) (m : Memory) (a : Nat) :
    (ws.foldl (fun (m : Memory) w => if m.poisoned w then m.setErr w none else m) m).byte a = m.byte a := by
  induction ws generalizing m with
  | nil => rfl
  | cons w ws ih => rw [List.foldl_cons, ih]; split_ifs <;> rfl

/-- The memory that a write of a unit leaves, in a state whose errors have been corrected. -/
def State.unitMem (s : State) (pa : Nat) (ws : List W64) (names : List Nat) : Memory :=
  names.foldl (fun m w => if m.poisoned w then m.setErr w none else m)
    ((List.range ws.length).foldl (fun (m : Memory) k => m.write (s.redirect (pa + 8 * k)) (ws.getD k 0#64).toNat 0 8) s.mem)

/-- A write of a unit to a home that takes it, where no one waits. -/
theorem State.unitWrite_eq (s : State) (pa : Nat) (ws : List W64) (h : s.waitq = []) (hr : s.retiredHome pa = false) :
    s.unitWrite pa ws = { s.correct (s.wordsAt pa (8 * ws.length)) with
      mem := (s.correct (s.wordsAt pa (8 * ws.length))).unitMem pa ws (s.wordsAt pa (8 * ws.length)) } := by
  have hq := ((corrected_correct s (s.wordsAt pa (8 * ws.length))).field State.waitq fun _ _ _ _ => rfl).trans h
  rw [State.unitWrite, hr, if_neg Bool.false_ne_true]
  exact State.retestAll_of_noWaiters { s.correct (s.wordsAt pa (8 * ws.length)) with
    mem := (s.correct (s.wordsAt pa (8 * ws.length))).unitMem pa ws (s.wordsAt pa (8 * ws.length)) } hq _

/-- A write of a unit leaves all but memory and the counts of errors as it was, where no one waits. -/
theorem State.unitWrite_rest (s : State) (pa : Nat) (ws : List W64) (h : s.waitq = []) :
    { s.unitWrite pa ws with mem := s.mem, cores := s.cores, sites := s.sites } = s := by
  cases hr : s.retiredHome pa
  · rw [State.unitWrite_eq s pa ws h hr]
    exact (corrected_correct s (s.wordsAt pa (8 * ws.length))).rest
  · rw [State.unitWrite, hr, if_pos rfl]

theorem State.unitWrite_field {s : State} (h : s.waitq = []) {β : Type} (f : State → β)
    (hf : ∀ (x : State) m c n, f { x with mem := m, cores := c, sites := n } = f x) (pa : Nat) (ws : List W64) : f (s.unitWrite pa ws) = f s :=
  (hf _ _ _ _).symm.trans (congrArg f (s.unitWrite_rest pa ws h))

theorem State.unitWrite_byte (s : State) (pa : Nat) (ws : List W64) (h : s.waitq = []) (hst : Stays s pa (8 * ws.length))
    (hr : s.retiredHome pa = false) (x : Nat) :
    (s.unitWrite pa ws).mem.byte x =
      if pa ≤ x ∧ x < pa + 8 * ws.length then BitVec.ofNat 8 ((ws.getD ((x - pa) / 8) 0#64).toNat / 256 ^ ((x - pa) % 8)) else s.mem.byte x := by
  have hc := corrected_correct s (s.wordsAt pa (8 * ws.length))
  rw [State.unitWrite_eq s pa ws h hr]
  refine (byte_dropPoison _ _ x).trans ?_
  rw [← hc.bytes x, ← Memory.byte_writeWords _ pa (fun k => (ws.getD k 0#64).toNat)]
  refine congrArg (Memory.byte · x) (List.foldl_ext _ _ _ fun m k hk => ?_)
  have hk := List.mem_range.1 hk
  rw [hc.redirect, redirect_of_stays hst (by omega) (by omega)]

/-- A line that a unit writes holds its eight words. -/
theorem State.unitWrite_written (s : State) (pa : Nat) (ws : List W64) (h : s.waitq = []) (hst : Stays s pa 64) (hr : s.retiredHome pa = false)
    (hl : ws.length = 8) : Written s.mem (s.unitWrite pa ws).mem pa 64 (eightWords ws) 0 := by
  intro x
  rw [State.unitWrite_byte s pa ws h (by rwa [hl]) hr, hl]
  by_cases hx : pa ≤ x ∧ x < pa + 64
  · rw [if_pos hx, if_pos (by simpa using hx)]
    exact (packed_words_byte (fun i => (ws.getD i 0#64).toNat) (fun i => (ws.getD i 0#64).isLt) (n := 8) (by omega)).symm
  · rw [if_neg hx, if_neg fun h' => hx ⟨h'.1, h'.2.1⟩]

end Sys2Proof.Machine
end

section
/-! SUPPORT. Sluice control: what each write of a descriptor, a pool, HOLD, a region or the ring leaves (spec/13_sluice.md R379 to R383; spec/01_organisation.md R25 to R30). -/

namespace Sys2Proof.Machine

open Claims

variable (s : State)

/-! ### Word 0 of a descriptor -/

/-- The fields of a ditch after a write of word 0, but for EN: an enabled ditch takes WIN and WEIGHT alone (Table 13-1). -/
def Ditch.withFields (q : Ditch) (x : Nat) : Ditch :=
  let mine : Ditch := { q with win := bits x 7 4, weight := bits x 15 8 }
  if q.en then mine else { mine with mode := bit x 1, share := bit x 2, asn := bits x 31 16, home := bits x 38 32 }

@[simp] theorem Ditch.withFields_en (q : Ditch) (x : Nat) : (q.withFields x).en = q.en := by
  unfold Ditch.withFields; dsimp only; split <;> rfl

@[simp] theorem Ditch.withFields_segs (q : Ditch) (x : Nat) : (q.withFields x).segs = q.segs := by
  unfold Ditch.withFields; dsimp only; split <;> rfl

/-- A write of word 0 in its three parts: the fields, EN, and the first segment. -/
theorem State.ditchEn_eq (b d x : Nat) : s.ditchEn b d x =
    let u := s.modDitch b d (Ditch.withFields · x)
    if !bit x 0 then u.modDitch b d fun q => { q with en := false, age := none, aged := false, held := none }
    else if (s.ditchAt b d).en then u
    else if chipletsOf b ≤ bits x 38 32 then u
    else if !(s.ditchAt b d).segs.isEmpty then u.modDitch b d fun q => { q with en := true }
    else match u.takeSeg b with
      | none => u
      | some (a, u) => u.modDitch b d fun q => { q with en := true, segs := [a], tail := a } := rfl

theorem State.ditchEn_clears (b d x : Nat) (h : bit x 0 = false) :
    s.ditchEn b d x = s.modDitch b d fun q => { q.withFields x with en := false, age := none, aged := false, held := none } := by
  rw [State.ditchEn_eq, h]
  simp [State.modDitch_modDitch]

theorem State.ditchEn_enabled (b d x : Nat) (h : bit x 0 = true) (hq : (s.ditchAt b d).en = true) :
    s.ditchEn b d x = s.modDitch b d (Ditch.withFields · x) := by
  rw [State.ditchEn_eq, h, hq]; rfl

/-- Without a home in the basin, or without a segment, a ditch stays disabled. -/
theorem State.ditchEn_refuses (b d x : Nat) (h : bit x 0 = true) (hq : (s.ditchAt b d).en = false)
    (hr : chipletsOf b ≤ bits x 38 32 ∨ (s.ditchAt b d).segs = [] ∧ (s.basinAt b).free = []) :
    s.ditchEn b d x = s.modDitch b d (Ditch.withFields · x) := by
  rw [State.ditchEn_eq, h, hq]
  rcases hr with hr | ⟨hs, hf⟩
  · simp [hr]
  · simp [hs, State.takeSeg, hf]

theorem State.ditchEn_keepsSegs (b d x : Nat) (h : bit x 0 = true) (hq : (s.ditchAt b d).en = false) (hr : bits x 38 32 < chipletsOf b)
    (hs : (s.ditchAt b d).segs ≠ []) : s.ditchEn b d x = s.modDitch b d fun q => { q.withFields x with en := true } := by
  rw [State.ditchEn_eq, h, hq]
  simp [hr.not_ge, hs, State.modDitch_modDitch]

/-- The first segment of a ditch comes from the head of the free list. -/
theorem State.ditchEn_takesSeg (b d x a : Nat) (l : List Nat) (h : bit x 0 = true) (hq : (s.ditchAt b d).en = false) (hr : bits x 38 32 < chipletsOf b)
    (hs : (s.ditchAt b d).segs = []) (hf : (s.basinAt b).free = a :: l) :
    s.ditchEn b d x = s.modBasin b fun v =>
      { v with ditches := mput v.ditches d { (mget v.ditches d {}).withFields x with en := true, segs := [a], tail := a }, free := l } := by
  rw [State.ditchEn_eq, h, hq]
  simp [hr.not_ge, hs, State.takeSeg, hf, State.modDitch, State.modBasin_modBasin, mput_mput_same]

/-! ### The other words of a descriptor -/

theorem exec_ditchWrite {b d : Nat} (k : Nat) (w : W64) (ha : s.basinAnswers b = true) :
    exec (.ditchDescriptorWrite b d k w) s = .next (s.ditchWrite b d k w) := by
  rw [exec_ditchDescriptorWrite, execDitchDescriptorWrite, taken_true _ _ ha]

section
variable {b d : Nat} (hb : b < 4) (hd : d < 256) (w : W64)
include hb hd

theorem State.ditchWrite_en : s.ditchWrite b d 0 w = s.ditchEn b d w.toNat := by
  simp [State.ditchWrite, hb.not_ge, hd.not_ge]

theorem State.ditchWrite_root : s.ditchWrite b d 1 w = s.modDitch b d fun q => if q.en then q else { q with root := bits w.toNat 47 0 } := by
  simp [State.ditchWrite, hb.not_ge, hd.not_ge]

theorem State.ditchWrite_maxseg : s.ditchWrite b d 4 w = s.modDitch b d fun q => { q with maxseg := bits w.toNat 63 48 } := by
  simp [State.ditchWrite, hb.not_ge, hd.not_ge]

theorem State.ditchWrite_agelim :
    s.ditchWrite b d 5 w = s.modDitch b d fun q => { q with agelim := max 1000 (min (bits w.toNat 29 0) 1000000000) } := by
  simp [State.ditchWrite, hb.not_ge, hd.not_ge]

end

/-- A disabled ditch of one segment is emptied; no session traces it. -/
theorem State.ditchRst_oneSeg (b d a : Nat) (hb : b < 4) (hd : d < 256) (hq : (s.ditchAt b d).en = false) (hs : (s.ditchAt b d).segs = [a])
    (ht : (s.basinAt b).traces = []) :
    s.ditchRst b d = s.modDitch b d fun q =>
      { q with recs := [], hinted := [], pushed := [], segs := [a], tail := a, age := none, aged := false, held := none } := by
  simp [State.ditchRst, hq, hb.not_ge, hd.not_ge, hs, State.traceReset, ht]

/-! ### Pools, HOLD and regions -/

/-- What the conditions of ADDSEG ask of a segment: a segment of memory in no list and no ditch. -/
theorem State.addSeg_eq (b a : Nat) (hb : b < 4) (ha : a % 4096 = 0) (hm : s.memoryOf b a 4096 = true) (hf : a ∉ (s.basinAt b).free)
    (hd : ∀ e ∈ (s.basinAt b).ditches, a ∉ e.2.segs) : s.addSeg b a = s.freeSeg b a := by
  have hany : ((s.basinAt b).ditches.any fun e => e.2.segs.contains a) = false := by
    simpa [List.any_eq_false] using fun d q h => hd (d, q) h
  simp only [State.addSeg, hb.not_ge, ha, hm, hany]
  simp [hf]

theorem eightWords_linkRecord (n : Nat) : eightWords (linkRecord n) = eightWords [4#64, BitVec.ofNat 64 n] := rfl

/-- A segment returned goes to the head of the free list, its link place naming the one that was there. -/
theorem State.freeSeg_linked (b a : Nat) (hw : s.waitq = []) (hst : Stays s (a + 4032) 64) (hr : s.retiredHome (a + 4032) = false) :
    (s.freeSeg b a).basinAt b = { s.basinAt b with free := a :: (s.basinAt b).free } ∧
      Written s.mem (s.freeSeg b a).mem (a + 4032) 64 (eightWords [4#64, BitVec.ofNat 64 ((s.basinAt b).free.headD 0)]) 0 := by
  refine ⟨?_, ?_⟩
  · rw [State.freeSeg, State.modBasin_basinAt_same, State.unitWrite_field hw (fun x => x.basinAt b) fun _ _ _ _ => rfl]
  · exact s.unitWrite_written (a + 4032) (linkRecord ((s.basinAt b).free.headD 0)) hw hst hr rfl

theorem State.imgHeld_eq_false (b a : Nat) (hi : a ∉ (s.basinAt b).images) (hs : ∀ e ∈ s.slots, e.2.busy = true → e.2.ctl.imga.toNat ≠ a)
    (ha : a ∉ s.armedImgs) (hr : ∀ r ∈ s.awayRecs b, (r.getD 6 0#64).toNat ≠ a) : s.imgHeld b a = false := by
  simp only [State.imgHeld, Bool.or_eq_false_iff, List.any_eq_false]
  refine ⟨⟨⟨by simpa using hi, fun e he => ?_⟩, by simpa using ha⟩, fun r h => by simpa using hr r h⟩
  simpa using hs e he

theorem State.addImg_eq (b a : Nat) (hb : b < 4) (ha : a % 2048 = 0) (hm : s.memoryOf b a 2048 = true) (hh : s.imgHeld b a = false) :
    s.addImg b a = s.modBasin b fun v => { v with images := v.images ++ [a], passDue := true } := by
  simp [State.addImg, hb.not_ge, ha, hm, hh, State.callPass, State.modBasin_modBasin]

theorem State.addSave_eq (b a : Nat) (hb : b < 4) (ha : a % 2 ^ 16 = 0) (hm : s.memoryOf b a (2 ^ 18) = true) :
    s.addSave b a = s.modBasin b fun v => { v with savePool := v.savePool ++ [a] } := by
  simp only [State.addSave, hb.not_ge, decide_false, Bool.false_or]
  exact if_neg (by simpa using ⟨ha, hm⟩)

theorem State.holdWrite_eq (b : Nat) (w : W64) (hb : b < 4) :
    s.holdWrite b w = s.modBasin b fun v =>
      { v with hold := w.getLsbD 0, quant := bits w.toNat 15 8, passDue := v.passDue || ((s.basinAt b).hold && !w.getLsbD 0) } := by
  rw [State.holdWrite, if_neg hb.not_ge]
  cases hp : ((s.basinAt b).hold && !w.getLsbD 0)
  · simp only [Bool.or_false, hp, Bool.false_eq_true, if_false]
  · simp only [Bool.or_true, hp, if_true, State.callPass, State.modBasin_modBasin]

/-- The region that a write of a word of Table 13-2 gives in a basin. -/
def Region.ofWord (b : Nat) (w : W64) : Region :=
  let r : Rect := ⟨bits w.toNat 5 0, bits w.toNat 13 8, bits w.toNat 21 16, bits w.toNat 29 24⟩
  ⟨r, bit w.toNat 31 && decide (r.x + r.w ≤ gridW b) && decide (r.y + r.h ≤ gridH b)⟩

theorem State.regionWrite_eq (b k : Nat) (w : W64) (hb : b < 4) (h1 : 1 ≤ k) (h2 : k < 16) :
    s.regionWrite b k w = s.modBasin b fun v => { v with regions := mput v.regions k (.ofWord b w) } := by
  have hg : (decide (4 ≤ b) || decide (k = 0) || decide (16 ≤ k)) = false := by simp; omega
  simp only [State.regionWrite, hg, Bool.false_eq_true, if_false]
  rfl

/-! ### The ring -/

theorem State.rpubWrite_eq (b : Nat) (w : W64) (hb : b < 4) (hp : (s.basinAt b).pend = false) (hw : w.toNat = ((s.basinAt b).gen + 1) % 2 ^ 32) :
    s.rpubWrite b w = s.modBasin b fun v => { v with gen := w.toNat, pend := true, passDue := true } := by
  rw [State.rpubWrite, if_neg (by simp [hb, hp, hw]), hw, State.callPass, State.modBasin, State.setBasin_basinAt_same, State.setBasin_setBasin, State.modBasin]

/-! ### Adoption of a generation -/

theorem mem_of_mget? {α : Type} {m : SMap α} {k : Nat} {x : α} (h : mget? m k = some x) : (k, x) ∈ m := by
  induction m with
  | nil => simp [mget?] at h
  | cons e m ih =>
    obtain ⟨a, y⟩ := e
    simp only [mget?] at h
    split at h
    · simp_all
    · exact List.mem_cons_of_mem _ (ih h)

theorem State.memWords_congr {s t : State} (hm : t.mem = s.mem) (hr : ∀ a, t.redirect a = s.redirect a) (pa n : Nat) : t.memWords pa n = s.memWords pa n := by
  simp [State.memWords, hm, hr]

/-- The records of a group being swapped out of a core. -/
def Core.swapRecs (k : Core) : List (List W64) := match k.swap with | some j => j.recs.map Prod.snd | none => []

/-- Whether a record is that of a suspended continuation. -/
def recAway (r : List W64) : Bool := recKind r == 1 && recState r == 1

/-- No continuation of a basin is suspended in any of the four places where a record of one may be. -/
theorem State.awayRecs_eq_nil_iff (b : Nat) : s.awayRecs b = [] ↔
    (∀ d ∈ (s.basinAt b).ditches, ∀ x ∈ d.2.recs, recAway (s.memWords x 8) = false) ∧
    (∀ a ∈ s.appends, a.basin = b → ∀ r ∈ a.recs, recAway r = false) ∧
    (∀ e ∈ s.cores, coreBasin e.1 = b → ∀ r ∈ e.2.swapRecs, recAway r = false) ∧
    ∀ i ∈ s.armedImgs, coreBasin (homePos (s.redirect i)) = b → recAway (s.memWords (i + 0x4C0) 8) = false := by
  simp only [State.awayRecs, List.filter_eq_nil_iff, List.mem_append, List.mem_flatMap, List.mem_map, List.mem_filter, decide_eq_true_eq, Bool.not_eq_true]
  constructor
  · intro h
    exact ⟨fun d hd x hx => h _ (.inl (.inl (.inl ⟨d, hd, x, hx, rfl⟩))), fun a ha hb r hr => h r (.inl (.inl (.inr ⟨a, ⟨ha, hb⟩, hr⟩))),
      fun e he hb r hr => h r (.inl (.inr ⟨e, ⟨he, hb⟩, hr⟩)), fun i hi hb => h _ (.inr ⟨i, ⟨hi, hb⟩, rfl⟩)⟩
  · rintro ⟨h1, h2, h3, h4⟩ r (((⟨d, hd, x, hx, rfl⟩ | ⟨a, ⟨ha, hb⟩, hr⟩) | ⟨e, ⟨he, hb⟩, hr⟩) | ⟨i, ⟨hi, hb⟩, rfl⟩)
    · exact h1 d hd x hx
    · exact h2 a ha hb r hr
    · exact h3 e he hb r hr
    · exact h4 i hi hb

/-- A change of a core that keeps its swap and its redirection leaves no continuation suspended where none was. -/
theorem State.awayRecs_modCore (b k : Nat) (f : Core → Core) (h : s.awayRecs b = []) (hs : ∀ x, (f x).swap = x.swap)
    (hr : ∀ x, (f x).rdir = x.rdir ∧ (f x).lmoved = x.lmoved ∧ (f x).target = x.target) : (s.modCore k f).awayRecs b = [] := by
  have hred : ∀ a, (s.modCore k f).redirect a = s.redirect a := fun a => State.redirect_congr a fun j => by
    rw [State.modCore_coreAt]
    split_ifs with e
    · exact e ▸ hr _
    · exact ⟨rfl, rfl, rfl⟩
  have hmem : ∀ pa n, (s.modCore k f).memWords pa n = s.memWords pa n := State.memWords_congr rfl hred
  obtain ⟨hd, ha, hc, hi⟩ := (s.awayRecs_eq_nil_iff b).1 h
  refine (State.awayRecs_eq_nil_iff _ b).2 ⟨?_, ha, fun e he hb r hr => ?_, fun i him hb => ?_⟩
  · simpa only [State.modCore_basinAt, hmem] using hd
  · rcases mem_mput he with rfl | he
    · have hx : r ∈ (s.coreAt k).swapRecs := by simpa only [Core.swapRecs, hs] using hr
      rcases hk : mget? s.cores k with _ | x
      · simp [State.coreAt, mget, hk, Core.swapRecs] at hx
      · rw [State.coreAt, mget, hk] at hx
        exact hc _ (mem_of_mget? hk) hb r hx
    · exact hc e he hb r hr
  · rw [hmem]
    exact hi i him (by rwa [hred] at hb)

/-- Where no continuation of a basin is suspended, the end of an adoption changes PEND alone. -/
theorem adoption_ends (u : State) (b : Nat) (hp : (u.basinAt b).pend = true) (ha : u.awayRecs b = []) :
    BasinNow u (if u.allAdopted b then (u.modBasin b fun v => { v with pend := false }).clearAwayRoutes b else u) b
      { u.basinAt b with pend := !u.allAdopted b } := by
  cases hall : u.allAdopted b
  · refine ⟨rfl, ?_, fun _ _ => rfl⟩
    rw [if_neg Bool.false_ne_true, Bool.not_false, ← hp]
  · have hn : (u.modBasin b fun v => { v with pend := false }).awayRecs b = [] := by
      rw [← ha]
      simp only [State.awayRecs, State.modBasin_basinAt_same]
      rfl
    rw [if_pos rfl, State.clearAwayRoutes, hn, List.foldl_nil]
    exact basinNow_modBasin u b _

/-- What is not of a basin is as it was. -/
theorem basinNow_field {s t : State} {b : Nat} {v : Basin} (h : BasinNow s t b v) {β : Type} (f : State → β)
    (hf : ∀ (x : State) m, f { x with basins := m } = f x) : f t = f s :=
  (hf t _).symm.trans (congrArg f h.1)

theorem State.allAdopted_iff (b : Nat) : s.allAdopted b = true ↔
    (∀ k ∈ s.liveCores b, (s.coreAt k).gen = (s.basinAt b).gen) ∧ ∀ n ∈ computeSites b, (s.siteAt n).gen = (s.basinAt b).gen := by
  simp [State.allAdopted]

theorem State.liveCores_congr {s t : State} (h : ∀ k, t.coreLive k = s.coreLive k) (b : Nat) : t.liveCores b = s.liveCores b := by
  rw [State.liveCores, State.liveCores, funext h]

/-- The machine as the sluice unit of a site has adopted the generation in force, which calls for a pass. -/
def State.unitAdopted (s : State) (n : Nat) : State :=
  (s.modSite n fun v => { v with gen := (s.basinAt (basinOf n)).gen }).callPass (basinOf n)

@[simp] theorem State.unitAdopted_basinAt (n : Nat) : (s.unitAdopted n).basinAt (basinOf n) = { s.basinAt (basinOf n) with passDue := true } := by
  simp [State.unitAdopted, State.callPass]

theorem State.unitAdopted_siteAt (n k : Nat) :
    (s.unitAdopted n).siteAt k = if n = k then { s.siteAt n with gen := (s.basinAt (basinOf n)).gen } else s.siteAt k :=
  s.modSite_siteAt n (fun v => { v with gen := (s.basinAt (basinOf n)).gen }) k

theorem State.unitAdopted_coreLive (n k : Nat) : (s.unitAdopted n).coreLive k = s.coreLive k := by
  simp only [State.coreLive, State.unitAdopted_siteAt]
  split_ifs with e
  · rw [← e]
  · rfl

/-- A sluice unit adopts the generation in force: PEND returns to 0 with the last one (R26). -/
theorem adopt_site (n : Nat) (hn : isCompute n = true) (hp : (s.basinAt (basinOf n)).pend = true) (ha : s.awayRecs (basinOf n) = []) :
    BasinNow (s.unitAdopted n) (s.adopt (8192 + n)) (basinOf n)
      { (s.unitAdopted n).basinAt (basinOf n) with pend := !(s.unitAdopted n).allAdopted (basinOf n) } := by
  have he : s.adopt (8192 + n) = if (s.unitAdopted n).allAdopted (basinOf n) then
      ((s.unitAdopted n).modBasin (basinOf n) fun v => { v with pend := false }).clearAwayRoutes (basinOf n) else s.unitAdopted n := by
    generalize hu : s.unitAdopted n = u
    rw [State.unitAdopted] at hu
    simp [State.adopt, hp, hn, hu]
  have hr : (s.unitAdopted n).awayRecs (basinOf n) = [] := by
    rw [← ha]
    simp only [State.awayRecs, State.unitAdopted_basinAt]
    rfl
  rw [he]
  exact adoption_ends (s.unitAdopted n) (basinOf n) (by simpa using hp) hr

/-- A slot with its route cache cleared, where it is busy (R430). -/
def Slot.unrouted (sl : Slot) : Slot := if sl.busy then { sl with route := List.replicate 8 0#64 } else sl

theorem Slot.unrouted_unrouted (sl : Slot) : sl.unrouted.unrouted = sl.unrouted := by
  unfold Slot.unrouted; split_ifs <;> rfl

/-- The route cache of a slot is cleared, where it is busy. -/
def State.clearRoute (s : State) (core n : Nat) : State :=
  if (s.slotAt core n).busy then s.modSlot core n fun sl => { sl with route := List.replicate 8 0#64 } else s

theorem State.clearRoute_rest (core n : Nat) : { s.clearRoute core n with slots := s.slots } = s := by
  unfold State.clearRoute; split_ifs <;> rfl

theorem State.clearRoute_slotAt {core n : Nat} (hn : n < 8) (c m : Nat) (hm : m < 8) :
    (s.clearRoute core n).slotAt c m = if (c, m) = (core, n) then (s.slotAt c m).unrouted else s.slotAt c m := by
  unfold State.clearRoute Slot.unrouted
  by_cases e : (c, m) = (core, n)
  · obtain ⟨rfl, rfl⟩ := Prod.mk.inj e
    split_ifs <;> simp_all
  · have hk : slotKey core n ≠ slotKey c m := fun h => e (by obtain ⟨rfl, rfl⟩ := slotKey_inj hn hm h; rfl)
    split_ifs <;> simp [State.modSlot_slotAt, hk]

/-- A core as it has adopted the generation in force. -/
def State.coreAdopted (s : State) (core : Nat) : Core :=
  { s.coreAt core with gen := (s.basinAt (coreBasin core)).gen, lcid := (s.logicalId core).getD (s.coreAt core).lcid }

theorem State.adoptCore_eq (core : Nat) : s.adoptCore core = (List.range 8).foldl (State.clearRoute · core) (s.setCore core (s.coreAdopted core)) := rfl

/-- What reads neither cores nor slots is as it was. -/
theorem State.adoptCore_field (core : Nat) {β : Type} (f : State → β) (hf : ∀ (x : State) c m, f { x with cores := c, slots := m } = f x) :
    f (s.adoptCore core) = f s := by
  rw [State.adoptCore_eq, foldSlots_field _ (fun s n => s.clearRoute_rest core n) _ f fun x m => hf x x.cores m]
  exact hf s _ s.slots

theorem State.adoptCore_coreAt (core k : Nat) : (s.adoptCore core).coreAt k = if core = k then s.coreAdopted core else s.coreAt k := by
  rw [State.adoptCore_eq, foldSlots_field _ (fun s n => s.clearRoute_rest core n) _ (State.coreAt · k) fun _ _ => rfl, State.setCore_coreAt]

theorem State.adoptCore_slotAt (core : Nat) {m : Nat} (hm : m < 8) : (s.adoptCore core).slotAt core m = (s.slotAt core m).unrouted := by
  rw [State.adoptCore_eq, foldSlots_slotAt _ (key := fun n => (core, n)) Slot.unrouted_unrouted
    (fun s n hn c k hk => s.clearRoute_slotAt (List.mem_range.1 hn) c k hk) hm, if_pos (by simpa using hm), State.setCore_slotAt]

theorem State.adoptCore_awayRecs (core b : Nat) (h : s.awayRecs b = []) : (s.adoptCore core).awayRecs b = [] := by
  rw [State.adoptCore_eq, foldSlots_field _ (fun s n => s.clearRoute_rest core n) _ (State.awayRecs · b) fun _ _ => rfl]
  exact s.awayRecs_modCore b core (fun k => { k with gen := (s.basinAt (coreBasin core)).gen, lcid := (s.logicalId core).getD k.lcid }) h
    (fun _ => rfl) fun _ => ⟨rfl, rfl, rfl⟩

/-- A core adopts the generation in force; PEND returns to 0 with the last one (R26, R430). -/
theorem adopt_core (core : Nat) (hc : core < 8192) (hl : s.coreLive core = true) (hp : (s.basinAt (coreBasin core)).pend = true)
    (ha : s.awayRecs (coreBasin core) = []) :
    let u := s.adoptCore core
    BasinNow u (s.adopt core) (coreBasin core) { u.basinAt (coreBasin core) with pend := !u.allAdopted (coreBasin core) } := by
  have hb : (s.adoptCore core).basinAt (coreBasin core) = s.basinAt (coreBasin core) :=
    s.adoptCore_field core (fun x => x.basinAt (coreBasin core)) fun _ _ _ => rfl
  have ha' := s.adoptCore_awayRecs core _ ha
  have he : s.adopt core = if (s.adoptCore core).allAdopted (coreBasin core) then
      ((s.adoptCore core).modBasin (coreBasin core) fun v => { v with pend := false }).clearAwayRoutes (coreBasin core) else s.adoptCore core := by
    simp [State.adopt, hc, hl, hp]
  generalize s.adoptCore core = u at hb ha' he
  rw [he]
  exact adoption_ends u (coreBasin core) (hb ▸ hp) ha'

/-- A core past the last site is not live. -/
theorem ne_of_mem_liveCores {b k : Nat} (h : k ∈ s.liveCores b) : k ≠ 8192 := by
  rintro rfl
  have h := (List.mem_filter.1 h).2
  simp [State.coreLive, show isCompute (coreSite 8192) = false by decide] at h

theorem ne_of_mem_computeSites {b n : Nat} (hb : b < 4) (h : n ∈ computeSites b) : n ≠ 512 := by
  rintro rfl
  revert b
  decide

end Sys2Proof.Machine
end

section
/-! The sluice control registers as O43 speaks of them. -/

namespace Sys2Proof.Machine

open Claims

variable (s : State)

theorem Ditch.withFields_toNat (q : Ditch) (w : W64) :
    let x := w.toNat
    let mine := { q with win := x / 2 ^ 4 % 2 ^ 4, weight := x / 2 ^ 8 % 2 ^ 8 }
    q.withFields x = if q.en then mine
      else { mine with mode := w.getLsbD 1, share := w.getLsbD 2, asn := x / 2 ^ 16 % 2 ^ 16, home := x / 2 ^ 32 % 2 ^ 7 } := by
  rw [← bit_toNat w 1, ← bit_toNat w 2]
  rfl

/-- HOLD cleared calls for a pass (R381). -/
theorem holdWrite_now {b : Nat} (hb : b < 4) (ha : s.basinAnswers b = true) (w : W64) :
    ∃ t, exec (.sluiceHoldWrite b w) s = .next t ∧ BasinNow s t b { s.basinAt b with
      hold := w.getLsbD 0, quant := bits w.toNat 15 8, passDue := (s.basinAt b).passDue || ((s.basinAt b).hold && !w.getLsbD 0) } := by
  refine ⟨_, (exec_sluiceHoldWrite s b w).trans (taken_true _ _ ha), ?_⟩
  rw [s.holdWrite_eq b w hb]
  exact basinNow_modBasin s b _

theorem regionWrite_now {b k : Nat} (hb : b < 4) (ha : s.basinAnswers b = true) (h1 : 1 ≤ k) (h2 : k < 16) (w : W64) :
    ∃ t, exec (.regionWrite b k w) s = .next t ∧ BasinNow s t b { s.basinAt b with regions := mput (s.basinAt b).regions k (.ofWord b w) } := by
  refine ⟨_, (exec_regionWrite s b k w).trans (taken_true _ _ ha), ?_⟩
  rw [s.regionWrite_eq b k w hb h1 h2]
  exact basinNow_modBasin s b _

theorem Region.ofWord_eq (b : Nat) (w : W64) :
    let r : Rect := ⟨w.toNat % 2 ^ 6, w.toNat / 2 ^ 8 % 2 ^ 6, w.toNat / 2 ^ 16 % 2 ^ 6, w.toNat / 2 ^ 24 % 2 ^ 6⟩
    Region.ofWord b w = ⟨r, w.getLsbD 31 && decide (r.x + r.w ≤ gridW b) && decide (r.y + r.h ≤ gridH b)⟩ := by
  rw [← bit_toNat w 31, ← bits_low w.toNat 5]
  rfl

theorem rpubWrite_now {b : Nat} (hb : b < 4) (ha : s.basinAnswers b = true) (w : W64) (hp : (s.basinAt b).pend = false)
    (hw : w.toNat = ((s.basinAt b).gen + 1) % 2 ^ 32) :
    ∃ t, exec (.rpubWrite b w) s = .next t ∧ BasinNow s t b { s.basinAt b with gen := w.toNat, pend := true, passDue := true } := by
  refine ⟨_, (exec_rpubWrite s b w).trans (taken_true _ _ ha), ?_⟩
  rw [s.rpubWrite_eq b w hb hp hw]
  exact basinNow_modBasin s b _

/-- The units and cores of a basin that are to have adopted the generation in force besides one core and one unit (R26). -/
def State.othersAdopted (s : State) (b core n : Nat) : Prop :=
  (∀ k ∈ s.liveCores b, k = core ∨ (s.coreAt k).gen = (s.basinAt b).gen) ∧ ∀ k ∈ computeSites b, k = n ∨ (s.siteAt k).gen = (s.basinAt b).gen

theorem siteAdopts_now {b n : Nat} (hn : isCompute n = true) (hb : basinOf n = b) (hp : (s.basinAt b).pend = true) (ha : s.awayRecs b = []) :
    ∃ t, exec (.generationAdopt (8192 + n)) s = .next t ∧ (t.siteAt n).gen = (s.basinAt b).gen ∧ (t.basinAt b).passDue = true ∧
      ((t.basinAt b).pend = false ↔ s.othersAdopted b 8192 n) := by
  subst hb
  have h := adopt_site s n hn hp ha
  have hall : (s.unitAdopted n).allAdopted (basinOf n) = true ↔ s.othersAdopted (basinOf n) 8192 n := by
    rw [State.allAdopted_iff, State.othersAdopted, State.liveCores_congr (s.unitAdopted_coreLive n), State.unitAdopted_basinAt]
    refine and_congr (forall₂_congr fun k hk => (or_iff_right (ne_of_mem_liveCores s hk)).symm) (forall₂_congr fun k _ => ?_)
    rw [State.unitAdopted_siteAt]
    rcases eq_or_ne n k with rfl | hk
    · simp
    · simp [hk, hk.symm]
  refine ⟨_, exec_generationAdopt s _, ?_, ?_, ?_⟩
  · rw [basinNow_field h (fun x => (x.siteAt n).gen) fun _ _ => rfl, State.unitAdopted_siteAt, if_pos rfl]
  · rw [h.2.1, State.unitAdopted_basinAt]
  · rw [h.2.1, ← hall]; simp

theorem coreAdopts_now {b core : Nat} (hb : b < 4) (hc : core < 8192) (hcb : coreBasin core = b) (hp : (s.basinAt b).pend = true)
    (ha : s.awayRecs b = []) (hl : s.coreLive core = true) :
    ∃ t, exec (.generationAdopt core) s = .next t ∧ t.coreAt core = s.coreAdopted core ∧ (∀ n < 8, t.slotAt core n = (s.slotAt core n).unrouted) ∧
      ((t.basinAt b).pend = false ↔ s.othersAdopted b core 512) := by
  subst hcb
  refine ⟨_, exec_generationAdopt s _, ?_⟩
  have h := adopt_core s core hc hl hp ha
  have hall : (s.adoptCore core).allAdopted (coreBasin core) = true ↔ s.othersAdopted (coreBasin core) core 512 := by
    rw [State.allAdopted_iff, State.othersAdopted, s.adoptCore_field core (State.liveCores · (coreBasin core)) fun _ _ _ => rfl,
      s.adoptCore_field core (fun x => x.basinAt (coreBasin core)) fun _ _ _ => rfl]
    refine and_congr (forall₂_congr fun k _ => ?_) (forall₂_congr fun k hk => ?_)
    · rw [s.adoptCore_coreAt]
      rcases eq_or_ne core k with rfl | hk
      · simp [State.coreAdopted]
      · simp [hk, hk.symm]
    · rw [s.adoptCore_field core (fun x => x.siteAt k) fun _ _ _ => rfl]
      simp [ne_of_mem_computeSites hb hk]
  refine ⟨?_, fun n hn => ?_, ?_⟩
  · rw [basinNow_field h (fun x => x.coreAt core) fun _ _ => rfl, s.adoptCore_coreAt, if_pos rfl]
  · rw [basinNow_field h (fun x => x.slotAt core n) fun _ _ => rfl, s.adoptCore_slotAt core hn]
  · rw [h.2.1, ← hall]; simp

/-- Settles O43: each write is one update of its basin, and an adoption ends with the last core or unit. -/
theorem sluiceControl : Obligations.SluiceControl := by
  unfold Obligations.SluiceControl
  intro s b hb v
  refine ⟨?_, ?_, ?_, ?_, ?_, ?_⟩
  · intro d hd q
    refine ⟨?_, ?_, ?_, ?_, ?_⟩
    · intro ha w x mine all
      have he : exec (.ditchDescriptorWrite b d 0 w) s = .next (s.ditchEn b d x) := by
        rw [exec_ditchWrite s 0 w ha, State.ditchWrite_en s hb hd w]
      have hf : q.withFields x = if q.en then mine else all := q.withFields_toNat w
      have hall (hq : q.en = false) : q.withFields x = all := by rw [hf, hq]; rfl
      rw [← bit_toNat w 0]
      refine ⟨fun h => ⟨_, he, ?_⟩, fun h hq => ⟨_, he, ?_⟩, fun h hq hr => ⟨_, he, ?_⟩, fun h hq hr hs => ⟨_, he, ?_⟩, fun a l h hq hr hs hv => ⟨_, he, ?_⟩⟩
      · rw [s.ditchEn_clears b d x h, ← hf]
        exact ditchNow_modDitch s b d _
      · rw [s.ditchEn_enabled b d x h hq, show mine = q.withFields x by rw [hf, if_pos hq]]
        exact ditchNow_modDitch s b d _
      · rw [s.ditchEn_refuses b d x h hq hr, ← hall hq]
        exact ditchNow_modDitch s b d _
      · rw [s.ditchEn_keepsSegs b d x h hq hr hs, ← hall hq]
        exact ditchNow_modDitch s b d _
      · rw [s.ditchEn_takesSeg b d x a l h hq hr hs hv, ← hall hq]
        exact basinNow_modBasin s b _
    · intro w ha hq
      refine ⟨_, exec_ditchWrite s 1 w ha, ?_⟩
      rw [s.ditchWrite_root hb hd w, ← bits_low w.toNat 47]
      have h := ditchNow_modDitch s b d fun q => if q.en then q else { q with root := bits w.toNat 47 0 }
      rwa [if_neg (by rw [hq]; exact Bool.false_ne_true)] at h
    · intro w ha
      refine ⟨_, exec_ditchWrite s 4 w ha, ?_⟩
      rw [s.ditchWrite_maxseg hb hd w, show w.toNat / 2 ^ 48 = bits w.toNat 63 48 from (Nat.mod_eq_of_lt (by have := w.isLt; omega)).symm]
      exact ditchNow_modDitch s b d _
    · intro w ha
      refine ⟨_, exec_ditchWrite s 5 w ha, ?_⟩
      rw [s.ditchWrite_agelim hb hd w, ← bits_low w.toNat 29]
      exact ditchNow_modDitch s b d _
    · intro a hq hs ht
      refine ⟨_, exec_ditchRst s b d, ?_⟩
      rw [s.ditchRst_oneSeg b d a hb hd hq hs ht, ← hs]
      exact ditchNow_modDitch s b d _
  · intro w a
    rw [show a = bits w.toNat 47 0 from (bits_low w.toNat 47).symm]
    refine ⟨fun ha hm hf hd hw hst hr => ⟨_, exec_addseg s b w, ?_⟩, fun ha hm hi hs hr hx => ⟨_, exec_addimg s b w, ?_⟩, fun ha hm => ⟨_, exec_addsave s b w, ?_⟩⟩
    · rw [s.addSeg_eq b _ hb ha hm hf hd]
      exact s.freeSeg_linked b _ hw hst hr
    · rw [s.addImg_eq b _ hb ha hm (s.imgHeld_eq_false b _ hi hs hr hx)]
      exact basinNow_modBasin s b _
    · rw [s.addSave_eq b _ hb ha hm]
      exact basinNow_modBasin s b _
  · exact fun w ha => holdWrite_now s hb ha w
  · intro k w ha h1 h2 r
    have h := regionWrite_now s hb ha h1 h2 w
    rwa [Region.ofWord_eq] at h
  · exact fun w ha hp hw => rpubWrite_now s hb ha w hp hw
  · intro all
    refine ⟨fun n hn hnb hp ha => siteAdopts_now s hn hnb hp ha, fun core hc hcb hp ha hl => ?_⟩
    have h := coreAdopts_now s hb hc hcb hp ha hl
    rwa [State.coreAdopted, hcb] at h

end Sys2Proof.Machine
end

section
/-! Configuration space: writes of its registers, interleave descriptors, M chiplets and the test port (spec/01_organisation.md R44; spec/07_slice_engine.md R203, R213, R216;
spec/15_headgates.md R438, R444). -/

namespace Sys2Proof.Machine

open Claims

variable (s : State)

/-! ### Writes by offset -/

theorem State.cfgWrite_silent (n off : Nat) (v : W64) (h : s.answers n = false) : s.cfgWrite n off v = s := by
  simp [State.cfgWrite, h]

theorem State.cfgWrite_noReg (n off : Nat) (v : W64) (h : regAt n off = none) : s.cfgWrite n off v = s := by
  simp [State.cfgWrite, h]

theorem State.cfgWrite_reg (n off : Nat) (v : W64) (r : Reg) (h : regAt n off = some r) :
    s.cfgWrite n off v = if s.answers n then s.regWrite n r v else s := by
  cases ha : s.answers n <;> simp [State.cfgWrite, h, ha]

/-- An offset takes no write where the site does not answer, where it holds no register, and where its register only reads (R44, R444). -/
theorem State.cfgWrite_unchanged (n off : Nat) (v : W64)
    (h : s.answers n = false ∨ regAt n off = none ∨ regAt n off = some .header ∨ regAt n off = some .compute) : s.cfgWrite n off v = s := by
  rcases h with h | h | h | h
  · exact s.cfgWrite_silent n off v h
  · exact s.cfgWrite_noReg n off v h
  · rw [s.cfgWrite_reg n off v _ h]; exact ite_self s
  · rw [s.cfgWrite_reg n off v _ h]; exact ite_self s

theorem State.cfgWrite_deadMap (n off : Nat) (v : W64) (ha : s.answers n = true) (h : regAt n off = some (.bringUp 1)) :
    s.cfgWrite n off v = s.modSite n fun w => { w with dbm := Nat.lor (bits v.toNat 31 0) (borderDead n) } := by
  rw [s.cfgWrite_reg n off v _ h, ha]; rfl

theorem State.cfgWrite_hintDitch (n off : Nat) (v : W64) (ha : s.answers n = true) (h : regAt n off = some (.siteSluice 0)) :
    s.cfgWrite n off v = s.modSite n fun w => { w with hditch := bits v.toNat 7 0 } := by
  rw [s.cfgWrite_reg n off v _ h, ha]; rfl

/-! ### The test port -/

theorem packed_cons (f : Nat × Nat) (l : List (Nat × Nat)) : packed (f :: l) = f.1 * 2 ^ f.2 + packed l := by
  simp [packed]

theorem packed_nil : packed [] = 0 := rfl

theorem asBit_eq (w : Bool) : asBit w = w.toNat := by
  cases w <;> rfl

theorem tapData_eq (a : Nat) (w : Bool) (v : W64) : tapData a w v = BitVec.ofNat 129 (packed [(a, 0), (asBit w, 64), (v.toNat, 65)]) := by
  rw [tapData, packed_cons, packed_cons, packed_cons, packed_nil, asBit_eq, Nat.pow_zero, Nat.mul_one, Nat.add_zero, Nat.add_assoc]

/-- The port reads and writes a site of its headgate's basin (R438). -/
theorem State.cfgacc_eq (n a : Nat) (w : Bool) (v : W64) (hn : siteKind n = .headgate) (hs : paSpace a = 3) (ha : a < 2 ^ 48)
    (hb : basinOf (paSite a) = basinOf n) (he : siteExists (paSite a) = true) :
    s.cfgacc n a w v =
      if w then { s.cfgWrite (paSite a) (paOff a) v with taps := mput s.taps n { ir := 0x40#8, dr := tapData a w v } }
      else { s.cfgTouch (paSite a) (paOff a) with taps := mput s.taps n { ir := 0x40#8, dr := tapData a w (s.cfgRead (paSite a) (paOff a)) } } := by
  have hg : (decide (siteKind n ≠ .headgate) || decide (paSpace a ≠ 3) || decide (2 ^ 48 ≤ a) || decide (basinOf (paSite a) ≠ basinOf n) ||
      !siteExists (paSite a)) = false := by simp only [hn, hs, hb, he]; simp; omega
  rw [State.cfgacc, hg, if_neg Bool.false_ne_true]

/-! ### Interleave descriptors -/

/-- A descriptor after a write of word 0 (Table 7-3). -/
def Interleave.word0 (i : Interleave) (v : W64) : Interleave :=
  let x := v.toNat
  { i with valid := bit x 0 && decide (1 ≤ bits x 5 1) && decide (bits x 5 1 ≤ 30), div := bits x 5 1, lbase := bits x 47 16 }

/-- A valid descriptor after the write of word 0 that clears VALID. -/
def Interleave.cleared (i : Interleave) (v : W64) : Interleave :=
  { i with valid := false, div := bits v.toNat 5 1, lbase := bits v.toNat 47 16 }

section
variable {b d : Nat} (hb : b < 4) (hd : d < 16) (hw : ∀ q ∈ s.reqs, q.id ∈ s.waitq → q.rgn ≠ some d) (v : W64)
include hb hd hw

/-- A write of word k of a descriptor is one update of its basin, where none waits in its region. -/
theorem State.interleaveWrite_of {k : Nat} (hk : k < 2) (j : Interleave)
    (hj : let i := mget (s.basinAt b).interleave d {}
      if i.valid then k = 0 ∧ v.getLsbD 0 = false ∧ j = i.cleared v
      else k = 0 ∧ j = i.word0 v ∨ k = 1 ∧ j = { i with lsize := bits v.toNat 31 0 }) :
    s.interleaveWrite b (0x80 * d + 8 * k) v = s.modBasin b fun q => { q with interleave := mput q.interleave d j } := by
  have h1 : (0x80 * d + 8 * k) / 0x80 = d := by omega
  have h2 : (0x80 * d + 8 * k) % 0x80 / 8 = k := by omega
  have hg : (decide (4 ≤ b) || decide (16 ≤ d)) = false := by simp; omega
  simp only [State.interleaveWrite, h1, h2, hg, Bool.false_eq_true, if_false]
  refine (State.retestAll_waitWords _ _ fun q hq hi => by simp [hw q hq hi]).trans ?_
  refine congrArg (s.setBasin b) ?_
  dsimp only at hj ⊢
  generalize mget (s.basinAt b).interleave d {} = i at hj
  cases hv : i.valid
  · rw [hv] at hj
    rcases hj with ⟨rfl, rfl⟩ | ⟨rfl, rfl⟩ <;> rfl
  · rw [hv] at hj
    obtain ⟨rfl, h0, rfl⟩ := hj
    rw [h0]
    rfl

end

/-! ### M chiplets -/

/-- None of those who wait is at the chiplet, where none waits there. -/
theorem State.mStateWrite_eq (n : Nat) (v : W64) (hn : siteKind n = .memory) (hv : v.toNat % 4 ≠ 3) (hm : (s.siteAt n).mstate ≠ 2)
    (hw : ∀ q ∈ s.reqs, q.id ∈ s.waitq → paSite q.pa ≠ n) : s.mStateWrite n v = s.modSite n fun x => { x with mstate := v.toNat % 4 } := by
  have hb : bits v.toNat 1 0 = v.toNat % 4 := bits_low v.toNat 1
  have hg : (decide (siteKind n ≠ .memory) || decide (v.toNat % 4 = 3) || decide ((s.siteAt n).mstate = 2)) = false := by simp [hn, hv, hm]
  simp only [State.mStateWrite, hb, hg, Bool.false_eq_true, if_false]
  exact State.retestAll_waitWords _ _ fun q hq hi => by simp [hw q hq hi]

/-- Settles O48: each write is one update of its site or basin, and the test port acts as a supervisor's access does. -/
theorem configurationSpace : Obligations.ConfigurationSpace := by
  unfold Obligations.ConfigurationSpace
  intro s
  refine ⟨?_, ?_, ?_, ?_⟩
  · intro n off v
    refine ⟨fun h => ?_, fun ha h => ⟨_, exec_configWrite s n off v, ?_⟩, fun ha h => ⟨_, exec_configWrite s n off v, ?_⟩⟩
    · rw [exec_configWrite, execConfigWrite, s.cfgWrite_unchanged n off v h]
    · rw [s.cfgWrite_deadMap n off v ha h, ← bits_low v.toNat 31]
      exact siteNow_modSite s n _
    · rw [s.cfgWrite_hintDitch n off v ha h, ← bits_low v.toNat 7]
      exact siteNow_modSite s n _
  · intro n a v hn hs ha hb he tap
    have htap (w : Bool) (v : W64) : tap w v = mput s.taps n { ir := 0x40#8, dr := tapData a w v } := by rw [tapData_eq]
    refine ⟨⟨_, exec_configWrite s _ _ v, ?_⟩, _, exec_cfgacc s n a false v, ?_⟩
    · rw [exec_cfgacc, execCfgacc, s.cfgacc_eq n a true v hn hs ha hb he, htap]
      rfl
    · rw [s.cfgacc_eq n a false v hn hs ha hb he, htap]
      rfl
  · intro b d v hb hd ha hw i x becomes
    have now {k : Nat} (hk : k < 2) (j : Interleave) (hj : if i.valid then k = 0 ∧ v.getLsbD 0 = false ∧ j = i.cleared v
        else k = 0 ∧ j = i.word0 v ∨ k = 1 ∧ j = { i with lsize := bits v.toNat 31 0 }) : becomes k j := by
      refine ⟨_, (exec_interleaveDescriptorWrite s b _ v).trans (taken_true _ _ ha), ?_⟩
      rw [s.interleaveWrite_of hb hd hw v hk j hj]
      exact basinNow_modBasin s b _
    refine ⟨fun hi => now (by decide) _ ?_, fun hi => now (by decide) _ ?_, fun hi h0 => now (by decide) _ ?_⟩
    · rw [hi]
      refine .inl ⟨rfl, ?_⟩
      rw [Interleave.word0, bit_toNat, Bool.and_assoc, ← Bool.decide_and]
      rfl
    · rw [hi, ← bits_low v.toNat 31]
      exact .inr ⟨rfl, rfl⟩
    · rw [hi]
      exact ⟨rfl, h0, rfl⟩
  · intro n v hn ha hv hm hw
    refine ⟨_, (exec_mChipletStateWrite s n v).trans (taken_true _ _ ha), ?_⟩
    rw [s.mStateWrite_eq n v hn hv hm hw]
    exact siteNow_modSite s n _

end Sys2Proof.Machine
end

section
/-! Appends, submissions and dependants (spec/13_sluice.md R380, R384 to R386). -/

namespace Sys2Proof.Machine

open Claims

variable (s : State)

/-! ### Calls for a pass -/

@[simp] theorem State.callPass_passDue (b : Nat) : ((s.callPass b).basinAt b).passDue = true := by
  simp [State.callPass]

theorem State.callPass_ditchAt (b c d : Nat) : (s.callPass b).ditchAt c d = s.ditchAt c d := by
  simp only [State.ditchAt, State.callPass, State.modBasin_basinAt]
  split_ifs with h
  · rw [h]
  · rfl

/-! ### Appends -/

theorem Ditch.tailNeeds_eq_false {q : Ditch} {seg : Nat} (hs : q.segs = [seg]) (ht : q.tail % 4096 ≠ 4032) : q.tailNeeds = false := by
  simp [Ditch.tailNeeds, hs, ht]

theorem State.appendRoom_ofTail {b d : Nat} {k : AppendKind} (hk : k ≠ .pushHead) (he : (s.ditchAt b d).en = true) (hn : (s.ditchAt b d).tailNeeds = false) :
    s.appendRoom b d k = true := by
  simp [State.appendRoom, hk, he, hn]

/-- A ditch with a record more at its tail. -/
def Ditch.appended (q : Ditch) : Ditch := { q with recs := q.recs ++ [q.tail], tail := q.tail + 64 }

theorem State.drain_oneSeg {b d seg : Nat} (h : (s.ditchAt b d).segs = [seg]) (n : Nat) : s.drain b d n = s := by
  cases n with
  | zero => rfl
  | succ n => simp [State.drain, h]

theorem State.traceAppend_untraced (a : Append) (r : List W64) (h : (s.basinAt a.basin).traces = []) : s.traceAppend a r = s := by
  simp [State.traceAppend, h]

theorem State.modDitch_congr {b d : Nat} {f g : Ditch → Ditch} (h : f (s.ditchAt b d) = g (s.ditchAt b d)) : s.modDitch b d f = s.modDitch b d g := by
  simp only [State.ditchAt] at h
  simp only [State.modDitch, State.modBasin, h]

theorem State.putTail_room {b d : Nat} (r : List W64) (hn : (s.ditchAt b d).tailNeeds = false) (hw : s.waitq = []) :
    s.putTail b d r = (s.unitWrite (s.ditchAt b d).tail r).modDitch b d Ditch.appended := by
  have hq : (s.unitWrite (s.ditchAt b d).tail r).ditchAt b d = s.ditchAt b d := State.unitWrite_field hw (fun x => x.ditchAt b d) (fun _ _ _ _ => rfl) _ _
  simp only [State.putTail, hn, Bool.false_eq_true, if_false]
  exact State.modDitch_congr _ (by rw [hq]; rfl)

section
variable {a : Append} {r : List W64} {seg : Nat} (hk : a.kind = .launch ∨ a.kind = .writeback) (hs : (s.ditchAt a.basin a.ditch).segs = [seg])
  (ht : (s.ditchAt a.basin a.ditch).tail % 4096 ≠ 4032) (hw : s.waitq = [])
include hk hs ht hw

/-- A record written where the last segment has room, in a ditch that no session traces: the line, the descriptor, and the call for a pass (R380, R387). -/
theorem State.putRec_room (htr : (s.basinAt a.basin).traces = []) :
    s.putRec a r = ((s.unitWrite (s.ditchAt a.basin a.ditch).tail r).modDitch a.basin a.ditch Ditch.appended).callPass a.basin := by
  have hn := Ditch.tailNeeds_eq_false hs ht
  generalize hu : (s.unitWrite (s.ditchAt a.basin a.ditch).tail r).modDitch a.basin a.ditch Ditch.appended = u
  have hd : (u.ditchAt a.basin a.ditch).segs = [seg] := by
    rw [← hu, State.modDitch_ditchAt_same, State.unitWrite_field hw (fun x => x.ditchAt a.basin a.ditch) fun _ _ _ _ => rfl]
    exact hs
  have hut : (u.basinAt a.basin).traces = [] := by
    rw [← hu, State.modDitch_traces, State.unitWrite_field hw (fun x => x.basinAt a.basin) (fun _ _ _ _ => rfl), htr]
  have hm : (u.modDitch a.basin a.ditch fun q => q) = u := by rw [← hu, State.modDitch_modDitch]
  rcases hk with hk | hk <;>
    simp only [State.putRec, hk, reduceCtorEq, if_false, State.putTail_room s r hn hw, hu, hm, State.traceAppend_untraced u a r hut, State.drain_oneSeg u hd]

/-- The last record of the one append of the machine is appended where the last segment has room. -/
theorem State.runAppend_appends (ha : s.appends = [a]) (hr : a.recs = [r]) (hl : r.length = 8) (he : (s.ditchAt a.basin a.ditch).en = true)
    (hst : Stays s (s.ditchAt a.basin a.ditch).tail 64) (hret : s.retiredHome (s.ditchAt a.basin a.ditch).tail = false)
    (htr : (s.basinAt a.basin).traces = []) (hleat : s.leats = []) : Appended s (s.runAppend a) a.basin a.ditch r := by
  have hn := Ditch.tailNeeds_eq_false hs ht
  have hp : a.kind ≠ .pushHead := by rcases hk with hk | hk <;> rw [hk] <;> decide
  have hw' := s.unitWrite_written _ r hw hst hret hl
  have hru : s.runAppend a = (s.putRec a r).appendDone a := by
    simp [State.runAppend, hr, State.appendRoom_ofTail s hp he hn]
  rw [hru, State.putRec_room s hk hs ht hw htr]
  generalize hu : s.unitWrite (s.ditchAt a.basin a.ditch).tail r = u at hw'
  have hua : u.appends = [a] := by rw [← hu, State.unitWrite_field hw State.appends fun _ _ _ _ => rfl, ha]
  have hul : u.leats = [] := by rw [← hu, State.unitWrite_field hw State.leats fun _ _ _ _ => rfl, hleat]
  have hud : u.ditchAt a.basin a.ditch = s.ditchAt a.basin a.ditch := by
    rw [← hu, State.unitWrite_field hw (fun x => x.ditchAt a.basin a.ditch) fun _ _ _ _ => rfl]
  have hdone : ((u.modDitch a.basin a.ditch Ditch.appended).callPass a.basin).appendDone a =
      { (u.modDitch a.basin a.ditch Ditch.appended).callPass a.basin with appends := [] } := by
    simp [State.appendDone, State.dropAppend, State.callPass, State.modDitch, hua, hul]
  rw [hdone]
  have hd : ((u.modDitch a.basin a.ditch Ditch.appended).callPass a.basin).ditchAt a.basin a.ditch = (s.ditchAt a.basin a.ditch).appended := by
    rw [State.callPass_ditchAt, State.modDitch_ditchAt_same, hud]
  exact ⟨hw', hd, State.callPass_passDue _ _, rfl⟩

end

theorem State.appendOnHold_eq_false {a : Append} (h : a.kind = .launch → a.begun = true ∨ (s.basinAt a.basin).hold = false) : s.appendOnHold a = false := by
  by_cases hk : a.kind = .launch
  · rcases h hk with h | h <;> simp [State.appendOnHold, h]
  · simp [State.appendOnHold, hk]

section
variable {a : Append} (ha : s.appends = [a]) (hh : a.kind = .launch → a.begun = true ∨ (s.basinAt a.basin).hold = false)
include ha hh

/-- The only append of the machine, which neither waits nor is kept back, is taken up at its event. -/
theorem State.ditchAppend_only (hk : a.kind = .launch ∨ a.kind = .writeback) (hwait : a.waiting = false) : s.ditchAppend a.id = s.runAppend a := by
  have hb : s.appendBehind a = false := by simp [State.appendBehind, s.appendOnHold_eq_false hh, ha]
  rcases hk with hk | hk <;> simp [State.ditchAppend, ha, hwait, hb, hk]

/-- The only append of the machine, which waits and is not kept back, tries again. -/
theorem State.appendResume_only (hwait : a.waiting = true) : s.appendResume a.basin a.ditch = s.runAppend a := by
  simp [State.appendResume, ha, hwait, s.appendOnHold_eq_false hh]

end

/-! ### Submissions -/

theorem State.pieceRefused_of_noErrs (he : s.mem.errs = []) {pa : Nat} (hr : s.retiredHome pa = false) (n : Nat) (read : Bool) :
    s.pieceRefused read (pa, n) = none := by
  simp [State.pieceRefused, hr, s.firstPoisoned_of_noErrs he]

/-- The records of gang i of a launch leave for their ditch, n of them. -/
def State.sendGang (s : State) (b hdr : Nat) (h : List W64) (n i : Nat) : State :=
  { s.bump with appends := s.appends ++
      [{ id := s.nextId, basin := b, ditch := hdrDitch h, kind := .launch, recs := (List.range n).map fun j => launchRecord h hdr (n * i + j) }] }

theorem State.sendGang_appends (b hdr : Nat) (h : List W64) (n i : Nat) : (s.sendGang b hdr h n i).appends = s.appends ++
    [{ id := s.nextId, basin := b, ditch := hdrDitch h, kind := .launch, recs := (List.range n).map fun j => launchRecord h hdr (n * i + j) }] := rfl

theorem State.expand_eq (b hdr : Nat) (h : List W64) :
    s.expand b hdr h = (List.range (hdrItems h / max 1 (hdrChunk h))).foldl (fun s i => s.sendGang b hdr h (hdrChunk h) i) s := rfl

section
variable (b hdr n : Nat) (h : List W64) (l : List Nat)

/-- Gangs on their way are new appends, and nothing else has happened. -/
theorem sendGangs_rest : { l.foldl (fun s i => s.sendGang b hdr h n i) s with appends := s.appends, nextId := s.nextId } = s := by
  induction l generalizing s with
  | nil => rfl
  | cons i l ih =>
    exact congrArg (fun x : State => { x with appends := s.appends, nextId := s.nextId }) (ih (s.sendGang b hdr h n i))

theorem sendGangs_field {β : Type} (f : State → β) (hf : ∀ (x : State) as i, f { x with appends := as, nextId := i } = f x) :
    f (l.foldl (fun s i => s.sendGang b hdr h n i) s) = f s :=
  (hf _ _ _).symm.trans (congrArg f (sendGangs_rest s b hdr n h l))

theorem sendGangs_recs : (l.foldl (fun s i => s.sendGang b hdr h n i) s).appends.map Append.recs =
    s.appends.map Append.recs ++ l.map fun i => (List.range n).map fun j => launchRecord h hdr (n * i + j) := by
  induction l generalizing s with
  | nil => simp
  | cons i l ih => simp [ih, State.sendGang_appends]

theorem mem_sendGangs {x : Append} (hx : x ∈ (l.foldl (fun s i => s.sendGang b hdr h n i) s).appends) :
    x ∈ s.appends ∨ x.ditch = hdrDitch h ∧ x.basin = b ∧ x.kind = .launch := by
  induction l generalizing s with
  | nil => exact .inl hx
  | cons i l ih =>
    rcases ih _ hx with hx | hx
    · rcases List.mem_append.1 hx with hx | hx
      · exact .inl hx
      · rw [List.mem_singleton.1 hx]
        exact .inr ⟨rfl, rfl, rfl⟩
    · exact .inr hx

end

section
variable {p : Submit} {b : Nat} (hs : s.submits = [p]) (hb : p.basin = b) (hacc : p.accepted = false) (hleat : p.leat = none) (hslot : p.slot = 8) (hsv : p.sv = true)
  (hown : s.owned = []) (hres : s.resv = []) (he : s.mem.errs = []) (hr : s.retiredHome p.hdr = false) (hok : s.hdrRefusal b (s.memWords p.hdr 16) = none)
  (hen : (s.ditchAt b (hdrDitch (s.memWords p.hdr 16))).en = true) (hla : s.launches = []) (hit : hdrItems (s.memWords p.hdr 16) ≠ 0)
include hs hb hacc hleat hslot hsv hown hres he hr hok hen hla hit

/-- A header that meets the conditions of Table 1-7 begins, or waits accepted while HOLD is 1 (R381, R384). -/
theorem State.launchExpand_accepts : s.launchExpand b =
    if (s.basinAt b).hold then { s with submits := [{ p with accepted := true, words := s.memWords p.hdr 16 }] } else s.startLaunch p (s.memWords p.hdr 16) := by
  have hnext : s.nextSubmit b = some p := by simp [State.nextSubmit, hs, hacc, hb, hslot]
  have hfree : s.launchFree b = !(s.basinAt b).hold := by simp [State.launchFree, State.launchRoom, hla, hs, hacc]
  cases hh : (s.basinAt b).hold
  · simp [State.launchExpand, hnext, hacc, hown, hres, s.pieceRefused_of_noErrs he hr 128, s.correct_of_noErrs he, hok, hen, hsv, State.submitReply, hleat, hfree, hh]
  · simp [State.launchExpand, hnext, hacc, hown, hres, s.pieceRefused_of_noErrs he hr 128, s.correct_of_noErrs he, hok, hen, hsv, State.submitReply, hleat, hfree, hh, hit,
      State.dropSubmit, hs]

end

/-- A submission that begins leaves the list, and its records leave for their ditch, gang by gang (R384, R387). -/
theorem State.startLaunch_only {p : Submit} {b : Nat} {h : List W64} (hs : s.submits = [p]) (hb : p.basin = b) (hla : s.launches = []) (hit : hdrItems h ≠ 0) :
    s.startLaunch p h = (List.range (hdrItems h / max 1 (hdrChunk h))).foldl (fun s i => s.sendGang b p.hdr h (hdrChunk h) i)
      { s with submits := [], launches := [⟨b, p.hdr, h, hdrItems h, false, []⟩] } := by
  rw [← State.expand_eq]
  simp [State.startLaunch, State.dropSubmit, hs, hit, hla, hb]

/-! ### Dependants -/

section
variable {b pa qa e : Nat} {g : Signal} (hs : s.signals = [g]) (hb : g.basin = b) (hreq : g.req = none) (hn : g.next < g.count)
  (hal : (g.list + 8 * g.next) % 8 = 0) (herr : s.mem.errs = []) (hx : s.ditchXl b g.ditch (g.list + 8 * g.next) .read = (.ok pa, s))
  (hr : s.retiredHome pa = false) (hrd : s.mem.read pa 8 = e) (he : e % 2 ^ 7 = 1) (hlt : e < 2 ^ 48) (hw : inWindow (e - 1) = false)
  (hq : s.engineAt (unitSpace (s.unitCore b g.ditch) (s.ditchAt b g.ditch).asn (s.ditchAt b g.ditch).root) (e - 1) .read = (.ok qa, s))
include hs hb hreq hn hal herr hx hr hrd he hlt hw hq

/-- An entry of a list of dependants that names a header is submitted, and the list goes on behind it (R386). -/
theorem State.signalNext_submits : s.signalNext b =
    { s.bump with
      submits := s.submits ++ [{ id := s.nextId, basin := b, hdr := qa, core := s.unitCore b g.ditch, asn := (s.ditchAt b g.ditch).asn, sv := false, ditch := g.ditch }]
      signals := [{ g with next := g.next + 1 }] } := by
  have h31 : bits e 3 1 = 0 := by simp only [bits]; omega
  have h63 : bits e 63 48 = 0 := by simp only [bits]; omega
  have h64 : bits e 6 4 = 0 := by simp only [bits]; omega
  have h0 : bit e 0 = true := by simp only [bit, beq_iff_eq]; omega
  have ha : bits e 47 4 * 16 = e - 1 := by simp only [bits]; omega
  simp [State.signalNext, hs, hb, hreq, hn.not_ge, hx, hal, s.pieceRefused_of_noErrs herr hr, s.correct_of_noErrs herr, hrd, h31, h63, h64, h0, ha, hw, hq,
    State.bump]

end

end Sys2Proof.Machine
end

section
/-! Shares of slots, and the end of a continuation (spec/13_sluice.md R386, R394, R397). -/

namespace Sys2Proof.Machine

open Claims

variable (s : State)

/-! ### Cores of a basin -/

theorem basinOf_chipletSite {b i : Nat} (hb : b < 4) (hi : i < chipletsOf b) : basinOf (chipletSite b i) = b := by
  have h : ∀ b < 4, ∀ i < chipletsOf b, basinOf (chipletSite b i) = b := by decide
  exact h b hb i hi

theorem coreBasin_of_mem_basinCores {b k : Nat} (hb : b < 4) (hk : k ∈ basinCores b) : coreBasin k = b := by
  obtain ⟨j, hj, rfl⟩ := List.mem_map.1 hk
  have hj := List.mem_range.1 hj
  have hs : coreSite (physCore b j) = chipletSite b (j / 16) := by simp only [coreSite, physCore, coreOf]; omega
  rw [coreBasin, hs, basinOf_chipletSite hb (by simp only [nmaxOf] at hj; omega)]

/-! ### Shares -/

/-- A slot as it is at a share boundary without an active ditch: free, where it is idle (R394). -/
def Slot.shared (sl : Slot) : Slot := if sl.busy then sl else { sl with owner := 0x100 }

theorem Slot.shared_shared (sl : Slot) : sl.shared.shared = sl.shared := by
  unfold Slot.shared; split_ifs <;> rfl

/-- A slot goes to no ditch, where it is idle. -/
def State.share (s : State) (k : Nat × Nat) : State := if (s.slotAt k.1 k.2).busy then s else s.setOwner k.1 k.2 0x100

theorem State.share_rest (k : Nat × Nat) : { s.share k with slots := s.slots } = s := by
  unfold State.share State.setOwner; split_ifs <;> rfl

theorem State.share_slotAt {k : Nat × Nat} (hk : k.2 < 8) (c n : Nat) (hn : n < 8) :
    (s.share k).slotAt c n = if (c, n) = k then (s.slotAt c n).shared else s.slotAt c n := by
  unfold State.share State.setOwner Slot.shared
  by_cases e : (c, n) = k
  · subst e
    simp only [if_true]
    split_ifs with hb ho
    · rfl
    · rw [← ho]
    · simp
  · have hk : slotKey k.1 k.2 ≠ slotKey c n := fun h => e (by obtain ⟨rfl, rfl⟩ := slotKey_inj hk hn h; rfl)
    split_ifs <;> simp [State.modSlot_slotAt, hk]

/-- Without an active ditch every idle slot of cores that are not held goes to none. -/
theorem State.reassign_nil (ks : List (Nat × Nat)) (h : ∀ k ∈ ks, s.heldFor k.1 = none) : s.reassign [] ks = ([], ks.foldl State.share s) := by
  induction ks generalizing s with
  | nil => rfl
  | cons k ks ih =>
    have hh : s.heldFor k.1 = none := h k (by simp)
    have hf (c : Nat) : (s.share k).heldFor c = s.heldFor c := slots_field (s.share_rest k) (fun x => x.heldFor c) fun _ _ => rfl
    rw [List.foldl_cons, ← ih _ fun j hj => (hf j.1).trans (h j (List.mem_cons_of_mem _ hj)), State.reassign]
    cases hb : (s.slotAt k.1 k.2).busy
    · simp [hh, bestShare, State.share, hb]
    · simp [State.share, hb]

theorem State.heldFor_of_noneHeld {core : Nat} (h : ∀ e ∈ (s.basinAt (coreBasin core)).ditches, e.2.held = none) : s.heldFor core = none := by
  simp only [State.heldFor, Option.map_eq_none_iff, List.find?_eq_none]
  intro e he
  simp [h e he]

/-- The user slots of a basin, in the order in which they are shared. -/
def basinSlots (b : Nat) : List (Nat × Nat) := (basinCores b).flatMap fun k => (List.range 7).map fun n => (k, n)

theorem mem_basinSlots {b : Nat} {k : Nat × Nat} : k ∈ basinSlots b ↔ k.1 ∈ basinCores b ∧ k.2 < 7 := by
  obtain ⟨c, n⟩ := k
  simp [basinSlots]

/-- The boundary, where no ditch has a record or a rectangle held for it. -/
theorem State.shareBoundary_idle {b : Nat} (hb : b < 4) (ht : (s.basinAt b).shared < s.time / 4096 * 4096)
    (hd : ∀ e ∈ (s.basinAt b).ditches, e.2.recs = [] ∧ e.2.held = none) :
    s.shareBoundary b = (((basinSlots b).foldl State.share s).modBasin b fun v =>
      { v with shared := s.time / 4096 * 4096, ditches := v.ditches.map fun e => (e.1, { e.2 with deficit := 0 }) }).callPass b := by
  have hact : ((s.basinAt b).ditches.filter fun e => e.2.en && !e.2.mode && decide (0 < e.2.weight) && !e.2.recs.isEmpty) = [] :=
    List.filter_eq_nil_iff.2 fun e he => by simp [(hd e he).1]
  have hheld : ∀ k ∈ basinSlots b, s.heldFor k.1 = none := fun k hk =>
    s.heldFor_of_noneHeld (by rw [coreBasin_of_mem_basinCores hb (mem_basinSlots.1 hk).1]; exact fun e he => (hd e he).2)
  have hr := s.reassign_nil _ hheld
  rw [basinSlots] at hr
  simp only [State.shareBoundary, hb.not_ge, ht.not_ge, decide_false, Bool.or_self, Bool.false_eq_true, if_false, hact, List.map_nil, hr]
  rfl

/-- At a share boundary without records every idle slot goes to no ditch (R394). -/
theorem shareBoundary_now {b : Nat} (hb : b < 4) (ht : (s.basinAt b).shared < s.time / 4096 * 4096)
    (hd : ∀ e ∈ (s.basinAt b).ditches, e.2.recs = [] ∧ e.2.held = none) :
    ∃ t, exec (.shareBoundary b) s = .next t ∧ (t.basinAt b).shared = s.time / 4096 * 4096 ∧ (t.basinAt b).passDue = true ∧ t.mem = s.mem ∧
      ∀ core ∈ basinCores b, ∀ n < 7, t.slotAt core n = (s.slotAt core n).shared := by
  refine ⟨_, exec_shareBoundary s b, ?_⟩
  rw [s.shareBoundary_idle hb ht hd]
  refine ⟨?_, State.callPass_passDue _ _, foldSlots_field s State.share_rest _ State.mem fun _ _ => rfl, fun core hc n hn => ?_⟩
  · simp [State.callPass]
  · refine (foldSlots_slotAt s (key := id) Slot.shared_shared (fun s k hk c m hm => ?_) (by omega)).trans ?_
    · exact s.share_slotAt (by have := (mem_basinSlots.1 hk).2; omega) c m hm
    · rw [List.map_id, if_pos (mem_basinSlots.2 ⟨hc, hn⟩)]

/-! ### The end of a continuation -/

/-- An update of a launch that keeps its basin and header is found there. -/
theorem State.modLaunch_launchOf (b hdr : Nat) {f : Launch → Launch} (hf : ∀ l, (f l).basin = l.basin ∧ (f l).hdr = l.hdr) {l : Launch}
    (h : s.launchOf b hdr = some l) : (s.modLaunch b hdr f).launchOf b hdr = some (f l) := by
  have hp (x : Launch) : (decide ((if x.basin = b ∧ x.hdr = hdr then f x else x).basin = b) && decide ((if x.basin = b ∧ x.hdr = hdr then f x else x).hdr = hdr)) =
      (decide (x.basin = b) && decide (x.hdr = hdr)) := by
    split_ifs with h
    · rw [(hf x).1, (hf x).2]
    · rfl
  have hl := List.find?_some h
  simp only [Bool.and_eq_true, decide_eq_true_eq] at hl
  rw [State.launchOf] at h ⊢
  rw [State.modLaunch, List.find?_map, Function.comp_def, funext hp, h, Option.map_some, if_pos hl]

theorem State.returnArea_field (b : Nat) (g : Group) {β : Type} (f : State → β) (hf : ∀ (x : State) v l, f { x with basins := v, saves := l } = f x) :
    f (s.returnArea b g) = f s := by
  unfold State.returnArea
  split
  · rfl
  · exact hf s _ _

theorem State.returnArea_images (b c : Nat) (g : Group) : ((s.returnArea b g).basinAt c).images = (s.basinAt c).images := by
  unfold State.returnArea
  split
  · rfl
  · next a _ => exact s.modBasin_basinAt_field Basin.images (F := fun v => { v with savePool := v.savePool ++ [a] }) (fun _ => rfl) b c

/-- A launch after one of its continuations of a group has retired. -/
def Launch.retired (l : Launch) (v : Nat) (d : Nat × Nat) : Launch := { l with live := l.live - 1, groups := mput l.groups v (d.1, d.2 + 1) }

/-- A continuation of a launch that has others is over: it is counted, and its group's save area returns with the last of the group (R386). -/
theorem State.countRetired_running {b : Nat} {g : Group} {l : Launch} (hl : s.launchOf b g.hdr = some l) (h2 : 2 ≤ l.live) :
    let u := s.modLaunch b g.hdr fun x => x.retired g.vc (mget l.groups g.vc (0, 0))
    s.countRetired b g = if u.groupLive b g = 0 then u.returnArea b g else u := by
  intro u
  rw [State.countRetired, hl]
  exact if_neg (by omega)

/-- What the count of a continuation that is over leaves as it was, and the launch. -/
theorem State.countRetired_facts {b : Nat} {g : Group} {l : Launch} (hl : s.launchOf b g.hdr = some l) (h2 : 2 ≤ l.live) :
    (s.countRetired b g).slots = s.slots ∧ (∀ c, ((s.countRetired b g).basinAt c).images = (s.basinAt c).images) ∧
      (s.countRetired b g).launchOf b g.hdr = some (l.retired g.vc (mget l.groups g.vc (0, 0))) := by
  have hu := s.modLaunch_launchOf b g.hdr (f := fun x => x.retired g.vc (mget l.groups g.vc (0, 0))) (fun _ => ⟨rfl, rfl⟩) hl
  rw [s.countRetired_running hl h2]
  split_ifs
  · exact ⟨State.returnArea_field _ b g State.slots fun _ _ _ => rfl, fun c => State.returnArea_images _ b c g,
      (State.returnArea_field _ b g (fun x => x.launchOf b g.hdr) fun _ _ _ => rfl).trans hu⟩
  · exact ⟨rfl, fun _ => rfl, hu⟩

/-- A slot of a core that is not held falls idle and keeps its OWNER; the lines of its image are evictable, and a pass is called for (R147, R394). -/
theorem State.freeSlot_unheld {core n : Nat} (h : s.heldFor core = none) :
    s.freeSlot core n = ((s.setSlot core n { seq := (s.slotAt core n).seq + 1, account := (s.slotAt core n).account, owner := (s.slotAt core n).owner }).modCore core
      fun k => { k with rlines := rlinesEvict k.rlines (s.slotAt core n).ctl.imga.toNat }).callPass (coreBasin core) := by
  simp only [State.freeSlot, h]

theorem State.freeSlot_images (core n c : Nat) : ((s.freeSlot core n).basinAt c).images = (s.basinAt c).images :=
  State.modBasin_basinAt_field _ Basin.images (F := fun v => { v with passDue := true }) (fun _ => rfl) (coreBasin core) c

theorem suspensionComplete_retires {core n : Nat} {l : Launch} (hn : n < 7) (hb : (s.slotAt core n).busy = true) (hr : (s.slotAt core n).run = none)
    (hf : (s.slotAt core n).failed = []) (he : (s.slotAt core n).ending = some .retire) (hq : s.quiesced core n = true) (hh : s.heldFor core = none)
    (hl : s.launchOf (coreBasin core) (s.slotAt core n).group.hdr = some l) (h2 : 2 ≤ l.live) :
    let sl := s.slotAt core n
    ∃ t l', exec (.suspensionComplete core n) s = .next t ∧ t.slotAt core n = { seq := sl.seq + 1, account := sl.account, owner := sl.owner } ∧
      (t.basinAt (coreBasin core)).images = (s.basinAt (coreBasin core)).images ++ [sl.ctl.imga.toNat] ∧
      t.launchOf (coreBasin core) sl.group.hdr = some l' ∧ l'.live = l.live - 1 := by
  intro sl
  have hab : s.atBoundary core n = true := by simp [State.atBoundary, State.runAt, hr]
  generalize hv : ({ (s.freeSlot core n).modBasin (coreBasin core) fun v => { v with images := v.images ++ [sl.ctl.imga.toNat] } with
      foldImgs := sdel (s.freeSlot core n).foldImgs sl.ctl.imga.toNat } : State) = v
  have hs : s.suspensionComplete core n = v.countRetired (coreBasin core) sl.group := by
    subst hv
    simp only [State.suspensionComplete, hb, hab, hq, hf, he, hn.ne, Bool.not_true, Bool.or_self, ne_eq, not_true_eq_false, decide_false,
      Bool.false_eq_true, if_false]
    rfl
  have hvs : v.slotAt core n = { seq := sl.seq + 1, account := sl.account, owner := sl.owner } := by
    subst hv
    rw [s.freeSlot_unheld hh]
    exact s.setSlot_slotAt_same core n _
  have hvi : (v.basinAt (coreBasin core)).images = (s.basinAt (coreBasin core)).images ++ [sl.ctl.imga.toNat] := by
    have h := congrArg Basin.images ((s.freeSlot core n).modBasin_basinAt_same (coreBasin core) fun v => { v with images := v.images ++ [sl.ctl.imga.toNat] })
    rw [← s.freeSlot_images core n, ← hv]
    exact h
  have hvl : v.launchOf (coreBasin core) sl.group.hdr = some l := by
    subst hv
    rw [s.freeSlot_unheld hh]
    exact hl
  obtain ⟨h1, h3, h4⟩ := v.countRetired_facts hvl h2
  refine ⟨_, l.retired sl.group.vc (mget l.groups sl.group.vc (0, 0)), exec_suspensionComplete s core n, ?_, ?_, ?_, rfl⟩
  · rw [hs, State.slotAt, h1]; exact hvs
  · rw [hs, h3, hvi]
  · rw [hs, h4]

end Sys2Proof.Machine
end

section
/-! A pass that starts a new continuation of a bound group (spec/13_sluice.md R387, R388, R397). -/

namespace Sys2Proof.Machine

open Claims

variable (s : State)

/-! ### Records -/

theorem recSet_getD (r : List W64) (hi lo v : Nat) {i : Nat} (h : 0 < i) (x : W64) : (recSet r hi lo v).getD i x = r.getD i x :=
  getD_lset_ne r _ x h.ne

theorem recSet_drop_one (r : List W64) (hi lo v : Nat) : (recSet r hi lo v).drop 1 = r.drop 1 := by
  cases r <;> rfl

/-- Clearing WAKE keeps STATE (Table 1-5). -/
theorem recState_clearWake (r : List W64) : recState (recSet r 24 24 0) = recState r := by
  cases r with
  | nil => rfl
  | cons x r =>
    have h : (w64 (setBits x.toNat 24 24 0)).toNat = x.toNat % 2 ^ 24 + x.toNat / 2 ^ 25 * 2 ^ 25 := by
      have := x.isLt
      simp only [w64, setBits, BitVec.toNat_ofNat]
      omega
    change bits (w64 (setBits x.toNat 24 24 0)).toNat 7 4 = bits x.toNat 7 4
    rw [h]
    simp only [bits]
    omega

/-! ### A new slot -/

/-- Every register that is full stays full. -/
theorem Slot.setReg_full {sl : Slot} (n : Nat) (v : W128) (h : sl.full = BitVec.allOnes 64) : (sl.setReg n v).full = BitVec.allOnes 64 := by
  exact (congrArg (· ||| 1#64 <<< n) h).trans BitVec.allOnes_or

theorem newSlot_full (r : List W64) (img vc asn root : Nat) : (newSlot r img vc asn root).full = BitVec.allOnes 64 :=
  Slot.setReg_full _ _ <| Slot.setReg_full _ _ <| Slot.setReg_full _ _ <| Slot.setReg_full _ _ rfl

/-- Registers 0 to 3 of a new continuation are words 1 and 3 to 5 of its record; the others are 0 (R34). -/
theorem newSlot_reg (r : List W64) (img vc asn root m : Nat) : mget (newSlot r img vc asn root).g m 0#128 =
    if m = 0 then (r.getD 1 0#64).setWidth 128 else if m < 4 then (r.getD (m + 2) 0#64).setWidth 128 else 0#128 := by
  simp only [newSlot, Slot.setReg, mget_mset, mget_nil]
  rcases Nat.lt_or_ge m 4 with h | h
  · interval_cases m <;> simp
  · simp [show 3 ≠ m by omega, show 2 ≠ m by omega, show 1 ≠ m by omega, show 0 ≠ m by omega, show m ≠ 0 by omega, h.not_gt]

/-! ### Taking a record out -/

@[simp] theorem Ditch.fixAge_recs (q : Ditch) : q.fixAge.recs = q.recs := by
  unfold Ditch.fixAge; split <;> [split; skip] <;> rfl

@[simp] theorem Ditch.fixAge_segs (q : Ditch) : q.fixAge.segs = q.segs := by
  unfold Ditch.fixAge; split <;> [split; skip] <;> rfl

@[simp] theorem Ditch.fixAge_asn (q : Ditch) : q.fixAge.asn = q.asn := by
  unfold Ditch.fixAge; split <;> [split; skip] <;> rfl

@[simp] theorem Ditch.fixAge_root (q : Ditch) : q.fixAge.root = q.root := by
  unfold Ditch.fixAge; split <;> [split; skip] <;> rfl

/-- A ditch without some of its records. -/
def Ditch.without (q : Ditch) (as : List Nat) : Ditch :=
  { q with
    recs := q.recs.filter fun a => !as.contains a, hinted := q.hinted.filter fun a => !as.contains a
    pushed := q.pushed.filter fun a => !as.contains a }.fixAge

theorem State.takeRecs_oneSeg {b d : Nat} (as : List Nat) (h : (s.ditchAt b d).segs.length = 1) :
    s.takeRecs b d as = s.modDitch b d (Ditch.without · as) := by
  obtain ⟨seg, hs⟩ := List.length_eq_one_iff.1 h
  exact State.drain_oneSeg (seg := seg) _ (by simp [hs]) _

/-! ### Starting -/

/-- The state in which a new continuation takes its slot: its image has left the pool. -/
def State.imageTaken (s : State) (b : Nat) : State :=
  { s.modBasin b fun v => { v with images := v.images.drop 1 } with asleep := mdel s.asleep ((s.basinAt b).images.headD 0) }

/-- The slot of a continuation that starts anew from a record (R34, R397). -/
def State.freshSlot (s : State) (b d : Nat) (r : List W64) (g : Group) (core n : Nat) : Slot :=
  let r := recSet r 24 24 0
  let sl := newSlot r ((s.basinAt b).images.headD 0) g.vc (s.ditchAt b d).asn (s.ditchAt b d).root
  { sl with
    record := r, seq := (s.slotAt core n).seq + 2, account := (s.slotAt core n).account, owner := d
    ctl := { sl.ctl with esave := match s.saveArea g with | some a => w64 a | none => sl.ctl.esave }
    route := if ((s.imageTaken b).basinAt b).pend then List.replicate 8 0#64 else sl.route }

/-- A slot in which a continuation has started holds what its record, the pool and the ditch give (R34, R397). -/
theorem State.freshSlot_facts {b d core n : Nat} {r : List W64} {g : Group} {sl : Slot} {x : Option Lookup} {xs : List (W64 × Nat)}
    (hsl : sl = { s.freshSlot b d r g core n with look := x, looks := xs }) :
    sl.busy = true ∧ sl.pc = r.getD 2 0#64 ∧ sl.owner = d ∧ sl.record.drop 1 = r.drop 1 ∧ sl.ctl.wid = r.getD 1 0#64 ∧
      sl.ctl.imga = w64 ((s.basinAt b).images.headD 0) ∧ sl.ctl.asn = w64 (s.ditchAt b d).asn ∧ sl.ctl.root = w64 (s.ditchAt b d).root ∧
      sl.ctl.vcore = w64 g.vc ∧ sl.full = BitVec.allOnes 64 ∧ ∀ m < 64, mget sl.g m 0#128 =
        if m = 0 then (r.getD 1 0#64).setWidth 128 else if m < 4 then (r.getD (m + 2) 0#64).setWidth 128 else 0#128 := by
  have hword (i : Nat) (hi : 0 < i) : (recSet r 24 24 0).getD i 0#64 = r.getD i 0#64 := recSet_getD r 24 24 0 hi _
  subst hsl
  refine ⟨rfl, hword 2 two_pos, rfl, recSet_drop_one .., hword 1 one_pos, rfl, rfl, rfl, rfl, newSlot_full .., fun m _ => ?_⟩
  have h := newSlot_reg (recSet r 24 24 0) ((s.basinAt b).images.headD 0) g.vc (s.ditchAt b d).asn (s.ditchAt b d).root m
  rw [hword 1 one_pos, hword (m + 2) (by omega)] at h
  exact h

/-- The last part of a start: the slot is written, the engines are claimed, the launch has started, and the core is ungated. -/
def startSlot (b : Nat) (g : Group) (core n : Nat) (x : Slot × State) : State :=
  let s := (x.2.setSlot core n x.1).claimEngines core g (x.1.space core n)
  let s := match s.launchOf b g.hdr with
    | some l => if l.started then s else (s.setStatus g.hdr 1 0).modLaunch b g.hdr fun l => { l with started := true }
    | none => s
  (s.ungate core).settle core n

/-- A record with STATE 0 takes an image of the pool and starts in a fresh slot (R397). -/
theorem State.startIn_new {b d core n : Nat} {r : List W64} (g : Group) (hr : recState r = 0) :
    s.startIn b d r g core n false = startSlot b g core n ((s.imageTaken b).foldWindow core g (s.freshSlot b d r g core n)) := by
  have h0 : recState (recSet r 24 24 0) = 0 := (recState_clearWake r).trans hr
  unfold State.startIn startSlot
  simp only [h0, if_true, zero_ne_one, decide_false, Bool.false_and, Bool.false_eq_true, if_false, Option.any_none]
  rfl

theorem State.foldWindow_unfolded {core : Nat} (g : Group) (sl : Slot) (hf : s.foldImgs = []) (hk : (s.coreAt core).foldK < 2) :
    s.foldWindow core g sl = (sl, s) := by
  simp [State.foldWindow, hf, hk.not_ge]

theorem State.claimEngines_owner {core : Nat} {g o : Group} (sp : Space) (ho : (s.coreAt core).owner = some o) (hw : (s.coreAt core).awaiting = []) :
    s.claimEngines core g sp = s := by
  simp [State.claimEngines, Core.owned, ho, hw]

/-- Where the group has the engines and the launch has started, a start writes the slot and ungates the core. -/
theorem startSlot_running {b core n : Nat} {g o : Group} {l : Launch} (sl : Slot) (ho : (s.coreAt core).owner = some o) (hw : (s.coreAt core).awaiting = [])
    (hl : s.launchOf b g.hdr = some l) (hst : l.started = true) :
    startSlot b g core n (sl, s) = ((s.setSlot core n sl).ungate core).settle core n := by
  have hc : (s.setSlot core n sl).claimEngines core g (sl.space core n) = s.setSlot core n sl := State.claimEngines_owner _ _ ho hw
  have hl : (s.setSlot core n sl).launchOf b g.hdr = some l := hl
  simp only [startSlot, hc, hl, hst, if_true]

/-- A continuation that stands at a boundary and has made no lookup makes one, or is held. -/
theorem State.settle_makesLook {core n : Nat} (hr : (s.slotAt core n).run = none) (hf : (s.slotAt core n).failed = []) (hz : (s.slotAt core n).deferFrz = false)
    (hs : (s.slotAt core n).deferStop = false) (hl : (s.slotAt core n).look = none) :
    s.settle core n = s ∨ s.settle core n = s.modSlot core n fun sl => sl.makeLook { addr := sl.pc, made := s.cyc core } := by
  simp only [State.settle, hr, hf, hz, hs, hl, Option.isSome_none, Bool.or_false, Bool.false_eq_true, if_false]
  split_ifs <;> simp

/-! ### The pass -/

section
variable {b d a k n img : Nat} {q : Ditch} {l : Launch} (P : PlacesOn s b d a k n img q l)
include P

theorem ditchAt_placed : s.ditchAt b d = q := by
  simp [State.ditchAt, P.ditches.1, mget, mget?]

theorem gangKey_placed : s.gangKey b d a = (none, s) := by
  obtain ⟨_, _, _, hp, _⟩ := P.record
  simp [State.gangKey, hp]

theorem units_placed (m : Nat) : s.units b d [a] (m + 1) = ([(false, [a])], s) := by
  simp only [State.units, gangKey_placed s P]
  cases m <;> rfl

/-- The record leaves its ditch and starts in the slot. -/
theorem placeOne_placed : s.placeOne b d a = (s.takeRecs b d [a]).startIn b d (s.recAt a) (s.recGroup b (s.recAt a)) k n false := by
  obtain ⟨hbad, hkind, hst, _, hlau⟩ := P.record
  obtain ⟨hcore, hok, hn⟩ := P.bound
  have hi : s.imageOk b (s.recAt a) = true := by
    cases h : (s.basinAt b).images with
    | nil => simpa [h] using P.image
    | cons => simp [State.imageOk, h]
  have hw : s.hdrWords b (s.recGroup b (s.recAt a)).hdr = l.words := by
    have h : s.launchOf b (s.recGroup b (s.recAt a)).hdr = some l := P.launch.1
    rw [State.hdrWords, h]
  simp only [State.placeOne, s.firstPoisoned_of_noErrs P.quiet.1, Option.isSome_none, s.correct_of_noErrs P.quiet.1, hbad, hkind, hlau, State.placeThread, hcore, hw,
    hok, State.placeOn, hn, hi, Bool.not_true, Bool.false_eq_true, if_false, if_true, ne_eq, not_true_eq_false]

theorem passDitch_placed : s.passDitch b d = s.placeOne b d a := by
  obtain ⟨_, _, _, haged, hrecs, _⟩ := P.ditches
  have hpop (x : Nat) : s.popped b x = false := by simp [State.popped, P.quiet.2.1]
  cases hw : recWake (s.recAt a) <;> simp [State.passDitch, ditchAt_placed s P, hrecs, hpop, haged, units_placed s P, hw]

end

/-- A pass over a basin whose only ditch with records places one record. -/
theorem State.placementPass_places {u : State} {b d a k n img : Nat} {q : Ditch} {l : Launch} (hdue : (s.basinAt b).passDue = true)
    (hu : (s.modBasin b fun v => { v with passDue := false }) = u) (P : PlacesOn u b d a k n img q l) :
    s.placementPass b = (u.takeRecs b d [a]).startIn b d (u.recAt a) (u.recGroup b (u.recAt a)) k n false := by
  obtain ⟨hd, hen, hmode, _, hrecs, _⟩ := P.ditches
  have hds : (s.basinAt b).ditches = [(d, q)] := by rw [← hd, ← hu, State.modBasin_basinAt_same]
  have hh : (s.basinAt b).hold = false := by rw [← P.due.1, ← hu, State.modBasin_basinAt_same]
  rw [← placeOne_placed _ P, ← passDitch_placed _ P]
  simp [State.placementPass, hu, hh, hdue, hds, hen, hmode, hrecs]

/-- What a start in a slot of a core leaves: the slot is the new one, which may have made a lookup, and memory and the basins are as they were. -/
theorem settle_ungate_setSlot {t : State} {core n : Nat} {sl : Slot} (ht : ((s.setSlot core n sl).ungate core).settle core n = t)
    (hr : sl.run = none) (hf : sl.failed = []) (hz : sl.deferFrz = false) (hs : sl.deferStop = false) (hl : sl.look = none) :
    t.mem = s.mem ∧ t.basins = s.basins ∧ ∃ k ks, t.slotAt core n = { sl with look := k, looks := ks } := by
  generalize hw : (s.setSlot core n sl).ungate core = w at ht
  have hsl : w.slotAt core n = sl := by simp [← hw, State.ungate]
  have hm : w.mem = s.mem := by rw [← hw]; rfl
  have hb : w.basins = s.basins := by rw [← hw]; rfl
  rw [← hsl] at hr hf hz hs hl
  rcases w.settle_makesLook hr hf hz hs hl with h | h
  · rw [← ht, h, hsl]
    exact ⟨hm, hb, sl.look, sl.looks, rfl⟩
  · rw [← ht, h, State.modSlot_slotAt_same, hsl]
    exact ⟨hm, hb, _, _, rfl⟩

section
variable {b d a k n img : Nat} {q : Ditch} {l : Launch} (P : PlacesOn s b d a k n img q l)
include P

/-- What the record's departure leaves of its ditch and basin. -/
theorem takeRecs_placed {v : State} (hv : s.takeRecs b d [a] = v) :
    (v.ditchAt b d).recs = [] ∧ (v.ditchAt b d).asn = q.asn ∧ (v.ditchAt b d).root = q.root ∧ (v.basinAt b).images = (s.basinAt b).images := by
  obtain ⟨_, _, _, _, hrecs, hsegs⟩ := P.ditches
  rw [s.takeRecs_oneSeg [a] (by rw [ditchAt_placed s P, hsegs])] at hv
  have hd : v.ditchAt b d = q.without [a] := by rw [← hv, State.modDitch_ditchAt_same, ditchAt_placed s P]
  refine ⟨by simp [hd, Ditch.without, hrecs], by simp [hd, Ditch.without], by simp [hd, Ditch.without], ?_⟩
  rw [← hv, State.modDitch, State.modBasin_basinAt_same]

/-- The continuation of the record starts in the slot, with the first image of the pool. -/
theorem startIn_placed {v t : State} (hv : s.takeRecs b d [a] = v) (ht : v.startIn b d (s.recAt a) (s.recGroup b (s.recAt a)) k n false = t) :
    t.mem = s.mem ∧ t.basins = (v.imageTaken b).basins ∧
      ∃ x xs, t.slotAt k n = { v.freshSlot b d (s.recAt a) (s.recGroup b (s.recAt a)) k n with look := x, looks := xs } := by
  obtain ⟨_, _, _, _, _, hsegs⟩ := P.ditches
  obtain ⟨_, _, hrec, _⟩ := P.record
  obtain ⟨hl, hst⟩ := P.launch
  obtain ⟨hown, _, haw, hfold⟩ := P.engines
  obtain ⟨_, _, _, _, himgs⟩ := P.quiet
  rw [s.takeRecs_oneSeg [a] (by rw [ditchAt_placed s P, hsegs])] at hv
  generalize hw : v.imageTaken b = w
  rw [v.startIn_new _ hrec, hw, State.foldWindow_unfolded w _ _ (by rw [← hw, ← hv]; exact himgs) (by rw [← hw, ← hv]; exact hfold),
    startSlot_running w _ (by rw [← hw, ← hv]; exact hown) (by rw [← hw, ← hv]; exact haw) (by rw [← hw, ← hv]; exact hl) hst] at ht
  obtain ⟨hm, hb, hsl⟩ := settle_ungate_setSlot w ht rfl rfl rfl rfl rfl
  exact ⟨hm.trans (by rw [← hw, ← hv]; rfl), hb, hsl⟩

end

/-- A pass starts the continuation of the only record of a basin. -/
theorem placementPass_starts {u : State} {b d a k n img : Nat} {q : Ditch} {l : Launch} (hdue : (s.basinAt b).passDue = true)
    (hu : (s.modBasin b fun v => { v with passDue := false }) = u) (P : PlacesOn u b d a k n img q l) :
    let r := s.recAt a
    ∃ t, exec (.placementPass b) s = .next t ∧ t.mem = s.mem ∧ (t.ditchAt b d).recs = [] ∧ (t.basinAt b).images = (s.basinAt b).images.drop 1 ∧
      let sl := t.slotAt k n
      sl.busy = true ∧ sl.pc = r.getD 2 0#64 ∧ sl.owner = d ∧ sl.record.drop 1 = r.drop 1 ∧ sl.ctl.wid = r.getD 1 0#64 ∧ sl.ctl.imga = BitVec.ofNat 64 img ∧
      sl.ctl.asn = BitVec.ofNat 64 q.asn ∧ sl.ctl.root = BitVec.ofNat 64 q.root ∧ sl.ctl.vcore = BitVec.ofNat 64 (u.recGroup b r).vc ∧
      sl.full = BitVec.allOnes 64 ∧ ∀ m < 64, mget sl.g m 0#128 =
        if m = 0 then (r.getD 1 0#64).setWidth 128 else if m < 4 then (r.getD (m + 2) 0#64).setWidth 128 else 0#128 := by
  intro r
  have hr : u.recAt a = r := by rw [← hu]; rfl
  refine ⟨_, exec_placementPass s b, ?_⟩
  rw [s.placementPass_places hdue hu P]
  generalize hv : u.takeRecs b d [a] = v
  generalize ht : v.startIn b d (u.recAt a) (u.recGroup b (u.recAt a)) k n false = t
  obtain ⟨hm, hb, x, xs, hsl⟩ := startIn_placed u P hv ht
  obtain ⟨hrecs, hasn, hroot, himgs⟩ := takeRecs_placed u P hv
  have hbt : t.basinAt b = { v.basinAt b with images := (v.basinAt b).images.drop 1 } := by
    rw [State.basinAt, hb]
    exact v.modBasin_basinAt_same b fun x => { x with images := x.images.drop 1 }
  have himg : (v.basinAt b).images.headD 0 = img := by rw [himgs, List.headD_eq_head?_getD, P.image]; rfl
  have hui : (u.basinAt b).images = (s.basinAt b).images := by rw [← hu, State.modBasin_basinAt_same]
  have hum : u.mem = s.mem := by rw [← hu]; rfl
  rw [hr] at hsl
  refine ⟨hm.trans hum, ?_, by rw [hbt, himgs, hui], ?_⟩
  · rw [State.ditchAt, hbt]; exact hrecs
  · intro sl
    have h := v.freshSlot_facts hsl
    rw [himg, hasn, hroot] at h
    exact h

end Sys2Proof.Machine
end

section
/-! The sluice at work (spec/13_sluice.md R380 to R397). -/

namespace Sys2Proof.Machine

open Claims

variable (s : State)

/-- The only append of the machine appends its record, at once or after its wait. -/
theorem append_works {a : Append} {r : List W64} {seg : Nat} (ha : s.appends = [a]) (hk : a.kind = .launch ∨ a.kind = .writeback) (hr : a.recs = [r])
    (hl : r.length = 8) (he : (s.ditchAt a.basin a.ditch).en = true) (hs : (s.ditchAt a.basin a.ditch).segs = [seg])
    (ht : (s.ditchAt a.basin a.ditch).tail % 4096 ≠ 4032) (hst : Stays s (s.ditchAt a.basin a.ditch).tail 64)
    (hret : s.retiredHome (s.ditchAt a.basin a.ditch).tail = false) (hh : a.kind = .launch → a.begun = true ∨ (s.basinAt a.basin).hold = false)
    (htr : (s.basinAt a.basin).traces = []) (hw : s.waitq = []) (hleat : s.leats = []) :
    (a.waiting = false → ∃ t, exec (.ditchAppend a.id) s = .next t ∧ Appended s t a.basin a.ditch r) ∧
    (a.waiting = true → ∃ t, exec (.appendWaitResume a.basin a.ditch) s = .next t ∧ Appended s t a.basin a.ditch r) := by
  have h := s.runAppend_appends hk hs ht hw ha hr hl he hst hret htr hleat
  refine ⟨fun hwait => ⟨_, exec_ditchAppend s a.id, ?_⟩, fun hwait => ⟨_, exec_appendWaitResume s a.basin a.ditch, ?_⟩⟩
  · rw [s.ditchAppend_only ha hh hk hwait]; exact h
  · rw [s.appendResume_only ha hh hwait]; exact h

/-- Settles O44: each clause is the rule of one event of the sluice. -/
theorem sluiceWork : Obligations.SluiceWork := by
  unfold Obligations.SluiceWork
  intro s b
  refine ⟨?_, ?_, ?_, ?_, ?_, ?_⟩
  · intro a r seg q ha hb hk hr hl he hs ht hst hret hh htr hw hleat
    subst hb
    exact append_works s ha hk hr hl he hs ht hst hret hh htr hw hleat
  · intro p h hs hb hacc hleat hslot hsv hown hres he hr hok hen hla hit
    have hx := s.launchExpand_accepts hs hb hacc hleat hslot hsv hown hres he hr hok hen hla hit
    refine ⟨fun hh => ⟨_, exec_launchExpansion s b, ?_⟩, fun hh => ⟨_, exec_launchExpansion s b, ?_⟩⟩
    · rw [hx, if_pos hh]
    · rw [hx, hh, if_neg Bool.false_ne_true, s.startLaunch_only hs hb hla hit]
      exact ⟨sendGangs_field _ _ _ _ _ _ State.submits fun _ _ _ => rfl, sendGangs_field _ _ _ _ _ _ State.launches fun _ _ _ => rfl,
        sendGangs_field _ _ _ _ _ _ State.mem fun _ _ _ => rfl, sendGangs_recs .., fun _ hx => (mem_sendGangs _ _ _ _ _ _ hx :)⟩
  · intro g pa e qa hs hb hreq hn hal herr hx hr hrd he hlt hw hq
    have h := s.signalNext_submits hs hb hreq hn hal herr hx hr hrd he hlt hw hq
    exact ⟨_, _, (exec_dependantSignal s b).trans (congrArg Host.Outcome.next h), rfl, rfl, rfl, rfl, rfl, rfl, rfl⟩
  · intro d a k n img q l hdue u r P
    exact placementPass_starts s hdue rfl P
  · exact fun hb ht hd => shareBoundary_now s hb ht hd
  · intro core n l hn sl hb hr hf he hq hh hl h2
    exact suspensionComplete_retires s hn hb hr hf he hq hh hl h2

end Sys2Proof.Machine
end

section
/-! Fused multiply-add, and the tree of the floating-point reduction (spec/06_lane_engine.md R189, R191; spec/03_numbers.md R104). -/

namespace Sys2Proof.Machine

open Claims

/-- A lane form whose tokens are there fires and sends what it computes (R180). -/
theorem laneFire_sends {s : State} {c : Ctx} {a b : Option Target} {p : Pred} {need : Inst → Bool} {lat : Nat} (f : Ctx → Token × Flags) (hlat : 0 < lat)
    (h : Fires s c) (hn : need c.inst = true) (hp : HasPred p c) (hr : Room c a b) :
    ∃ t, laneFire p need lat a b f s = .next t ∧ Sends s t c a b lat (f c).1 (f c).2 := by
  have hready : laneReady p need c.inst = true := by
    by_cases e : p = .always
    · simp [laneReady, hn, e]
    · obtain ⟨k, hk⟩ := hp e
      simp [laneReady, hn, hk]
  exact ⟨_, firing_always _ _ h hready, fireToken_sends _ _ hlat h hr⟩

/-- A lane without a result where one condition holds is one with a result where the other does. -/
theorem ite_none_eq {A C : Bool} (h : C = !A) (v : LaneRes) : (if A then none else v) = if C then v else none := by
  subst h; cases A <;> rfl

theorem hasPred_always (c : Ctx) : HasPred .always c := fun h => absurd rfl h

/-! ### Three operands -/

/-- The lanes of a form of three operands. -/
theorem lanes3_eq (y : LaneTy) (op : Nat → Nat → Nat → Nat × Flags) {c : Ctx} {x z k : Token} (hx : c.inst.l = some x) (hz : c.inst.r = some z)
    (hk : c.inst.p = some k) : lanes3 y op c = laneToken y.width ((List.range y.count).map fun i =>
      if liveLane .always y [x, z, k] c i then some (op (laneAt y x i) (laneAt y z i) (laneAt y k i)) else none) := by
  refine congrArg (laneToken y.width) (List.map_congr_left fun i _ => ?_)
  simp only [Ctx.l, Ctx.r, Ctx.p, hx, hz, hk, Option.getD_some, liveLane, predLane, List.all_cons, List.all_nil]
  exact ite_none_eq (by simp [Bool.and_assoc]) _

/-- A form of three operands fires when its tokens are there, and sends its lanes. -/
theorem lanes3_sends {s : State} {c : Ctx} {a b : Option Target} {x z k : Token} {y : LaneTy} (op : RMode → Nat → Nat → Nat → Nat × Flags) (h : Fires s c)
    (hx : c.inst.l = some x) (hz : c.inst.r = some z) (hk : c.inst.p = some k) (hr : Room c a b) :
    ∃ t, laneFire .always needLRP 4 a b (fun c => lanes3 y (op c.rm) c) s = .next t ∧ SendsLanes s t c a b 4 y.width y.count fun i =>
      if liveLane .always y [x, z, k] c i then some (op c.rm (laneAt y x i) (laneAt y z i) (laneAt y k i)) else none := by
  obtain ⟨t, ht, hsent⟩ := laneFire_sends (fun c => lanes3 y (op c.rm) c) (by decide : 0 < 4) h (need := needLRP) (by simp [needLRP, hx, hz, hk]) (hasPred_always c) hr
  rw [lanes3_eq y (op c.rm) hx hz hk] at hsent
  exact ⟨t, ht, _, _, laneToken_out _ _ _ y.width_count.1.le y.width_count.2.le, hsent⟩

/-! ### The tree of FREDADD -/

theorem redLevel_cons (y : LaneTy) (rm : RMode) (a b : LaneRes) (l : List LaneRes) :
    redLevel y rm (a :: b :: l) = joinNodes y rm a b :: redLevel y rm l := by
  cases a <;> cases b <;> rfl

/-- A level joins neighbours, the lower index on the left (R191). -/
theorem redLevel_range (y : LaneTy) (rm : RMode) (g : Nat → LaneRes) (n : Nat) :
    redLevel y rm ((List.range (2 * n)).map g) = (List.range n).map fun j => joinNodes y rm (g (2 * j)) (g (2 * j + 1)) := by
  induction n generalizing g with
  | zero => rfl
  | succ n ih =>
    have hr : (List.range (2 * (n + 1))).map g = g 0 :: g 1 :: (List.range (2 * n)).map fun i => g (i + 2) := by
      rw [show 2 * (n + 1) = 2 * n + 1 + 1 by ring, List.range_succ_eq_map, List.range_succ_eq_map]
      simp [Function.comp_def]
    rw [hr, redLevel_cons, ih, List.range_succ_eq_map]
    simp [Function.comp_def, Nat.mul_succ, Nat.add_right_comm]

theorem redLevel_treeNode (y : LaneTy) (rm : RMode) (leaf : Nat → LaneRes) (k n : Nat) :
    redLevel y rm ((List.range (2 * n)).map (treeNode y rm leaf k)) = (List.range n).map (treeNode y rm leaf (k + 1)) :=
  redLevel_range y rm _ n

theorem LaneTy.float_cases {y : LaneTy} (hy : y.isFloat = true) : y = .f16 ∨ y = .bf16 ∨ y = .f32 := by
  revert hy; cases y <;> decide

/-- A NaN rounds to the canonical one of a format that has one (R104). -/
theorem roundLane_nan {f : MFmt} {q : Nat} (hi : f.isInt = false) (hq : f.canonNan false = some q) (sig : Bool) (rm : RMode) :
    roundLane (.nan sig) f rm = (nanOrZero f false, flagIf sig flagNV) := by
  simp [roundLane, ieeeRound, roundFmt, nanOrZero, hi, hq]

/-- The root, canonical where it is a NaN: NV is raised where it is a signalling one that no addition met (R104). -/
theorem redRoot_eq {y : LaneTy} (hy : y.isFloat = true) (rm : RMode) (r : Nat) (f : Flags) :
    redRoot y rm r f = (if (laneVal y r).isNan then nanOrZero y.fmt false else r, f ||| snanFlag [laneVal y r]) := by
  obtain ⟨q, hi, hq⟩ : ∃ q, y.fmt.isInt = false ∧ y.fmt.canonNan false = some q := by
    rcases LaneTy.float_cases hy with rfl | rfl | rfl <;> exact ⟨_, rfl, rfl⟩
  cases hv : laneVal y r with
  | nan sig => simp [redRoot, hv, roundLane_nan hi hq, Val.isNan, snanFlag, Val.isSnan]
  | inf neg => simp [redRoot, hv, Val.isNan, snanFlag, Val.isSnan, flagIf]
  | fin neg num den exp => simp [redRoot, hv, Val.isNan, snanFlag, Val.isSnan, flagIf]

/-- The leaves of the tree: the live lanes. -/
def redLeaf (p : Pred) (y : LaneTy) (c : Ctx) (x : Token) (i : Nat) : LaneRes := if liveLane p y [x] c i then some (laneAt y x i, 0#6) else none

theorem fredadd_eq (p : Pred) {y : LaneTy} (hy : y.isFloat = true) {c : Ctx} {x : Token} (hx : c.inst.l = some x) :
    fredadd p y c = match treeNode y c.rm (redLeaf p y c x) (if y = .f32 then 2 else 3) 0 with
      | some r => ({ data := BitVec.ofNat 128 (if (laneVal y r.1).isNan then nanOrZero y.fmt false else r.1) }, r.2 ||| snanFlag [laneVal y r.1])
      | none => (nullToken, 0#6) := by
  have hleaf : ((List.range y.count).map fun i => if laneNull c.l y i || !predLane p c.pt y i then none else some (noFlag (getLane c.l.data y i))) =
      (List.range y.count).map (treeNode y c.rm (redLeaf p y c x) 0) := by
    refine List.map_congr_left fun i _ => ?_
    simp only [Ctx.l, Ctx.pt, hx, Option.getD_some, treeNode, redLeaf, liveLane, List.all_cons, List.all_nil]
    exact ite_none_eq (by simp) _
  have hlevel := redLevel_treeNode y c.rm (redLeaf p y c x)
  have hroot : (if y.count = 8 then redLevel y c.rm (redLevel y c.rm (redLevel y c.rm ((List.range y.count).map (treeNode y c.rm (redLeaf p y c x) 0))))
      else redLevel y c.rm (redLevel y c.rm ((List.range y.count).map (treeNode y c.rm (redLeaf p y c x) 0)))) =
      [treeNode y c.rm (redLeaf p y c x) (if y = .f32 then 2 else 3) 0] := by
    rcases LaneTy.float_cases hy with rfl | rfl | rfl
    · rw [if_pos (by decide), if_neg (by decide), show LaneTy.f16.count = 2 * 4 from rfl, hlevel 0 4, hlevel 1 2, hlevel 2 1]
      rfl
    · rw [if_pos (by decide), if_neg (by decide), show LaneTy.bf16.count = 2 * 4 from rfl, hlevel 0 4, hlevel 1 2, hlevel 2 1]
      rfl
    · rw [if_neg (by decide), if_pos rfl, show LaneTy.f32.count = 2 * 2 from rfl, hlevel 0 2, hlevel 1 1]
      rfl
  simp only [fredadd, hleaf, hroot]
  cases treeNode y c.rm (redLeaf p y c x) (if y = .f32 then 2 else 3) 0 with
  | none => rfl
  | some r => simp only [redRoot_eq hy]

/-- Settles O8: FMA and FMS lane by lane, and FREDADD level by level of its tree. -/
theorem fusedResults : Obligations.FusedResults := by
  unfold Obligations.FusedResults
  intro y a b s c x h hy hx hr rm res
  refine ⟨fun z k hz hk => ⟨?_, ?_⟩, fun p hp => ?_⟩
  · exact lanes3_sends (fFma false y) h hx hz hk hr
  · exact lanes3_sends (fFma true y) h hx hz hk hr
  · obtain ⟨t, ht, hsent⟩ := laneFire_sends (fredadd p y) (lat := if y = .f32 then 8 else 12) (by split <;> decide) h (need := needL) (by simp [needL, hx]) hp hr
    refine ⟨t, ht, ?_⟩
    rw [fredadd_eq p hy hx] at hsent
    rw [show (fun i => if liveLane p y [x] c i then some (laneAt y x i, 0#6) else none) = redLeaf p y c x from rfl, show rm = c.rm from rfl]
    cases hroot : treeNode y c.rm (redLeaf p y c x) (if y = .f32 then 2 else 3) 0 with
    | none => simpa only [hroot] using hsent
    | some r => simpa only [hroot] using hsent

end Sys2Proof.Machine
end

section
/-! What a commit changes: one slot, and of its core what orders the slots (spec/05_block_engine.md R149 to R155). -/

namespace Sys2Proof.Machine

/-! ### Updates of one slot -/

theorem State.modSlot_modSlot (s : State) (c q : Nat) (f g : Slot → Slot) : (s.modSlot c q f).modSlot c q g = s.modSlot c q fun x => g (f x) := by
  simp [State.modSlot, State.setSlot, State.slotAt, mput_mput_same]

theorem State.runAt_eq (s : State) (c q : Nat) : s.runAt c q = (s.slotAt c q).run := rfl

/-- From s to t nothing has changed but one slot, and of the cores the register store, the priority and the clk of the last commit. -/
structure OnlySlot (s t : State) (core slot : Nat) : Prop where
  rest : { t with slots := s.slots, cores := s.cores } = s
  others : ∀ k, k ≠ slotKey core slot → mget t.slots k {} = mget s.slots k {}
  cores : ∀ k, { t.coreAt k with
    rlines := (s.coreAt k).rlines, prio := (s.coreAt k).prio, prioQ := (s.coreAt k).prioQ, commitAt := (s.coreAt k).commitAt } = s.coreAt k

theorem OnlySlot.refl (s : State) (core slot : Nat) : OnlySlot s s core slot := ⟨rfl, fun _ _ => rfl, fun _ => rfl⟩

section
variable {s t u : State} {core slot : Nat}

/-- What reads neither slots nor cores is as it was. -/
theorem OnlySlot.field (h : OnlySlot s t core slot) {β : Type} (f : State → β) (hf : ∀ (x : State) m n, f { x with slots := m, cores := n } = f x) :
    f t = f s :=
  (hf t s.slots s.cores).symm.trans (congrArg f h.rest)

theorem OnlySlot.coreField (h : OnlySlot s t core slot) {β : Type} (f : Core → β)
    (hf : ∀ (x : Core) l p q c, f { x with rlines := l, prio := p, prioQ := q, commitAt := c } = f x) (k : Nat) : f (t.coreAt k) = f (s.coreAt k) :=
  (hf (t.coreAt k) _ _ _ _).symm.trans (congrArg f (h.cores k))

theorem OnlySlot.slotAt (h : OnlySlot s t core slot) {c q : Nat} (hk : slotKey c q ≠ slotKey core slot) : t.slotAt c q = s.slotAt c q :=
  h.others _ hk

theorem OnlySlot.trans (h : OnlySlot s t core slot) (h' : OnlySlot t u core slot) : OnlySlot s u core slot where
  rest := by
    have e := congrArg (fun x : State => { x with slots := s.slots, cores := s.cores }) h'.rest
    exact e.trans h.rest
  others := fun k hk => (h'.others k hk).trans (h.others k hk)
  cores := fun k => by
    have e := congrArg (fun x : Core => { x with
      rlines := (s.coreAt k).rlines, prio := (s.coreAt k).prio, prioQ := (s.coreAt k).prioQ, commitAt := (s.coreAt k).commitAt }) (h'.cores k)
    exact e.trans (h.cores k)

theorem onlySlot_modSlot (s : State) (core slot : Nat) (f : Slot → Slot) : OnlySlot s (s.modSlot core slot f) core slot :=
  ⟨rfl, fun k hk => by simp [mget_mput, hk.symm], fun _ => rfl⟩

theorem onlySlot_modRun (s : State) (core slot : Nat) (f : Run → Run) : OnlySlot s (s.modRun core slot f) core slot := onlySlot_modSlot s core slot _

theorem onlySlot_modCore (s : State) (core slot k : Nat) {f : Core → Core}
    (hf : ∀ x, { f x with rlines := x.rlines, prio := x.prio, prioQ := x.prioQ, commitAt := x.commitAt } = x) : OnlySlot s (s.modCore k f) core slot where
  rest := rfl
  others := fun _ _ => rfl
  cores := fun j => by
    rw [State.modCore_coreAt]
    split_ifs with e
    · subst e; exact hf _
    · rfl

end

/-! ### Registers and controls of a commit -/

/-- A WRITE's token takes its register; a null one leaves it. -/
def Slot.takes (sl : Slot) (w : Nat × Token) : Slot := if w.2.isNull then sl else sl.setReg w.1 (mergeBytes (sl.reg w.1) w.2)

/-- Steps 1 and 2 of R155, on the slot. -/
def Slot.commitRegs (sl : Slot) (r : Run) (folded : Bool) : Slot :=
  let x := r.writes.foldl Slot.takes { sl with ctl := r.commitCtl sl.ctl folded }
  let x := if r.calls then x.setReg 63 (r.link.setWidth 128) else x
  let x := r.tailRegs.foldl Slot.markEmpty x
  if r.wrcs.any fun w => w.1 == 32 || w.1 == 33 then { x with look := x.look.map fun k => { k with got := .asked } } else x

theorem State.commitRegs_eq (s : State) (core slot : Nat) (r : Run) :
    s.commitRegs core slot r = s.modSlot core slot (Slot.commitRegs · r (s.foldImgs.contains (s.slotAt core slot).ctl.imga.toNat)) := by
  simp only [State.commitRegs, Slot.commitRegs, State.modSlot_modSlot]
  cases hc : r.calls <;> cases hw : r.wrcs.any (fun w => w.1 == 32 || w.1 == 33) <;> simp [State.modSlot_modSlot] <;> rfl

theorem apply_ite_eq {α β : Type} (f : α → β) {p : Prop} [Decidable p] {a b : α} {c : β} (ha : f a = c) (hb : f b = c) : f (if p then a else b) = c := by
  split_ifs <;> assumption

section
variable {β : Type} (f : Slot → β)

theorem Slot.takes_field (hf : ∀ x g h, f { x with g := g, full := h } = f x) (sl : Slot) (w : Nat × Token) : f (sl.takes w) = f sl := by
  unfold Slot.takes
  split_ifs
  · rfl
  · exact hf sl _ _

theorem foldl_takes_field (hf : ∀ x g h, f { x with g := g, full := h } = f x) (ws : List (Nat × Token)) (sl : Slot) :
    f (ws.foldl Slot.takes sl) = f sl := by
  induction ws generalizing sl with
  | nil => rfl
  | cons w ws ih => exact (ih (sl.takes w)).trans (sl.takes_field f hf w)

theorem foldl_markEmpty_field (hf : ∀ x h, f { x with full := h } = f x) (ns : List Nat) (sl : Slot) : f (ns.foldl Slot.markEmpty sl) = f sl := by
  induction ns generalizing sl with
  | nil => rfl
  | cons n ns ih => exact (ih (sl.markEmpty n)).trans (hf sl _)

/-- What neither holds registers nor the lookup is as the control registers' step leaves it. -/
theorem Slot.commitRegs_ctlField (hf : ∀ x g h l, f { x with g := g, full := h, look := l } = f x) (sl : Slot) (r : Run) (folded : Bool) :
    f (sl.commitRegs r folded) = f { sl with ctl := r.commitCtl sl.ctl folded } := by
  have h (x : Slot) : f (r.tailRegs.foldl Slot.markEmpty x) = f x := foldl_markEmpty_field f (fun x h => hf x x.g h x.look) _ _
  have h' := foldl_takes_field f (fun x g h => hf x g h x.look) r.writes { sl with ctl := r.commitCtl sl.ctl folded }
  have h'' : f (if r.calls then (r.writes.foldl Slot.takes { sl with ctl := r.commitCtl sl.ctl folded }).setReg 63 (r.link.setWidth 128)
      else r.writes.foldl Slot.takes { sl with ctl := r.commitCtl sl.ctl folded }) = f { sl with ctl := r.commitCtl sl.ctl folded } :=
    apply_ite_eq f ((hf _ _ _ _).trans h') h'
  exact apply_ite_eq f ((hf _ _ _ _).trans ((h _).trans h'')) ((h _).trans h'')

end

@[simp] theorem Slot.commitRegs_ctl (sl : Slot) (r : Run) (folded : Bool) : (sl.commitRegs r folded).ctl = r.commitCtl sl.ctl folded :=
  sl.commitRegs_ctlField Slot.ctl (fun _ _ _ _ => rfl) r folded

/-- What a commit does not change in a slot. -/
theorem Slot.commitRegs_field {β : Type} (f : Slot → β) (hf : ∀ x c g h l, f { x with ctl := c, g := g, full := h, look := l } = f x) (sl : Slot) (r : Run)
    (folded : Bool) : f (sl.commitRegs r folded) = f sl :=
  (sl.commitRegs_ctlField f (fun x g h l => hf x x.ctl g h l) r folded).trans (hf sl _ _ _ _)

/-! ### The commit up to what leaves the core -/

/-- The lookup that a block that holds ALIGN makes at its commit (R163). -/
def Slot.looksAhead (sl : Slot) (r : Run) (now : Nat) : Slot :=
  match r.exit with
  | some ⟨.susp, _⟩ => sl
  | some ⟨.retire, _⟩ => sl
  | some e => if r.holdsAlign then sl.makeLook (r.lookup e.target now) else sl
  | none => sl

theorem Slot.looksAhead_field {β : Type} (f : Slot → β) (hf : ∀ x l m, f { x with look := l, looks := m } = f x) (sl : Slot) (r : Run) (now : Nat) :
    f (sl.looksAhead r now) = f sl := by
  unfold Slot.looksAhead
  split
  · rfl
  · rfl
  · exact apply_ite_eq f (hf _ _ _) rfl
  · rfl

/-- A slot whose block commits. -/
def Slot.commits (sl : Slot) (r : Run) (folded : Bool) (now time : Nat) : Slot :=
  let x := sl.commitRegs r folded
  Slot.looksAhead { x with run := some (r.commits x.ctl.fpf time), replays := 0 } r now

@[simp] theorem Slot.commits_run (sl : Slot) (r : Run) (folded : Bool) (now time : Nat) :
    (sl.commits r folded now time).run = some (r.commits (r.commitCtl sl.ctl folded).fpf time) := by
  unfold Slot.commits
  rw [Slot.looksAhead_field Slot.run fun _ _ _ => rfl]
  simp

/-- What the lookup and the block of a slot do not show of a commit. -/
theorem Slot.commits_regsField {β : Type} (f : Slot → β) (hf : ∀ x r n l m, f { x with run := r, replays := n, look := l, looks := m } = f x) (sl : Slot)
    (r : Run) (folded : Bool) (now time : Nat) : f (sl.commits r folded now time) = f (sl.commitRegs r folded) := by
  unfold Slot.commits
  rw [Slot.looksAhead_field f fun x l m => hf x x.run x.replays l m]
  exact hf _ _ _ _ _

/-- The priority of a block that commits ends, and its core has committed in this clk. -/
def Core.commits (k : Core) (slot now : Nat) : Core := { k.dropPrio slot with commitAt := some now }

/-- The register store and the core of a block that commits. -/
def State.marksCommit (s : State) (core slot : Nat) (r : Run) : State :=
  (s.touchLines core slot r).modCore core (Core.commits · slot (s.cyc core))

/-- A block has committed, and nothing of it has left its core. -/
def State.committed (s : State) (core slot : Nat) (r : Run) : State :=
  ((s.modSlot core slot (Slot.commits · r (s.foldImgs.contains (s.slotAt core slot).ctl.imga.toNat) (s.cyc core) s.time)).marksCommit core slot r).account
    core slot 6 1

theorem onlySlot_touchLines (s : State) (core slot : Nat) (r : Run) : OnlySlot s (s.touchLines core slot r) core slot := by
  unfold State.touchLines
  exact onlySlot_modCore s core slot core fun _ => rfl

theorem onlySlot_marksCommit (s : State) (core slot : Nat) (r : Run) : OnlySlot s (s.marksCommit core slot r) core slot := by
  unfold State.marksCommit
  refine (onlySlot_touchLines s core slot r).trans (onlySlot_modCore _ core slot core fun x => ?_)
  unfold Core.commits Core.dropPrio
  split_ifs <;> rfl

theorem onlySlot_committed (s : State) (core slot : Nat) (r : Run) : OnlySlot s (s.committed core slot r) core slot := by
  unfold State.committed State.account
  exact ((onlySlot_modSlot ..).trans (onlySlot_marksCommit ..)).trans (onlySlot_modSlot ..)

@[simp] theorem State.marksCommit_slotAt (s : State) (core slot : Nat) (r : Run) (c q : Nat) : (s.marksCommit core slot r).slotAt c q = s.slotAt c q := rfl

/-- A slot after a commit, but for its account. -/
theorem State.committed_slotField {β : Type} (f : Slot → β) (hf : ∀ x a, f { x with account := a } = f x) (s : State) (core slot : Nat) (r : Run) :
    f ((s.committed core slot r).slotAt core slot) =
      f ((s.slotAt core slot).commits r (s.foldImgs.contains (s.slotAt core slot).ctl.imga.toNat) (s.cyc core) s.time) := by
  unfold State.committed State.account
  rw [State.modSlot_slotAt_same, hf]
  simp

@[simp] theorem State.committed_runAt (s : State) (core slot : Nat) (r : Run) : (s.committed core slot r).runAt core slot =
    some (r.commits (r.commitCtl (s.slotAt core slot).ctl (s.foldImgs.contains (s.slotAt core slot).ctl.imga.toNat)).fpf s.time) :=
  (s.committed_slotField Slot.run (fun _ _ => rfl) core slot r).trans (Slot.commits_run ..)

/-- The lookup of a block that holds ALIGN, as a step of the machine. -/
def State.looksAhead (s : State) (core slot : Nat) (r : Run) : State :=
  match r.exit with
  | some ⟨.susp, _⟩ => s
  | some ⟨.retire, _⟩ => s
  | some e => if r.holdsAlign then s.modSlot core slot fun sl => sl.makeLook (r.lookup e.target (s.cyc core)) else s
  | none => s

theorem State.looksAhead_modSlot (s : State) (core slot : Nat) (r : Run) (f : Slot → Slot) :
    (s.modSlot core slot f).looksAhead core slot r = s.modSlot core slot fun x => (f x).looksAhead r (s.cyc core) := by
  unfold State.looksAhead Slot.looksAhead
  split <;> try rfl
  split_ifs
  · exact State.modSlot_modSlot ..
  · rfl

/-- What follows a commit of registers: null tokens, what leaves the core, and the siblings that replay. -/
def State.departed (s u : State) (core slot : Nat) (r : Run) : State :=
  (((List.range r.words.length).flatMap fun i => r.sups.filter fun o => decide (o.ix = i)).foldl (fun u o => u.sendSup core slot o)
    (r.ops.foldl (fun u e => u.issueOp core slot (s.slotAt core slot) r e.2) (u.nullTokens core slot r))).replaySiblings core slot (s.commitWords core r)

theorem State.departed_eq (s u : State) (core slot : Nat) (r : Run) (hs : r.sups = []) : s.departed u core slot r =
    (r.ops.foldl (fun u e => u.issueOp core slot (s.slotAt core slot) r e.2) (u.nullTokens core slot r)).replaySiblings core slot (s.commitWords core r) := by
  have h : ((List.range r.words.length).flatMap fun i => r.sups.filter fun o => decide (o.ix = i)) = [] := by simp [hs]
  rw [State.departed, h]
  rfl

/-- The event of a block that has committed, unless its exit lies in its tail. -/
def State.tellEvent (s : State) (core slot : Nat) : State :=
  match s.runAt core slot with
  | some x => if x.exit.isSome then s.lateEvent core slot x else s
  | none => s

/-- A block commits: registers and control registers, the tokens of null forms, what leaves the core, the siblings that replay, the event, and the tail. -/
theorem State.commit_eq (s : State) (core slot : Nat) (r : Run) :
    s.commit core slot r = ((s.departed (s.committed core slot r) core slot r).tellEvent core slot).tailSettle core slot := by
  unfold State.commit
  extract_lets sl words s1 s2 s3 s4 s5 s6 s7 s8
  have h2 : s2 = s.modSlot core slot (Slot.commits · r (s.foldImgs.contains (s.slotAt core slot).ctl.imga.toNat) (s.cyc core) s.time) := by
    have h : s2 = s1.looksAhead core slot r := rfl
    rw [h]
    unfold s1
    rw [s.commitRegs_eq, State.modSlot_modSlot, State.looksAhead_modSlot]
    rfl
  have h7 : s7 = s.departed ((s2.marksCommit core slot r).account core slot 6 1) core slot r := rfl
  have h8 : s8 = s7.tellEvent core slot := by
    clear_value s7
    unfold s8 State.tellEvent
    cases s7.runAt core slot <;> rfl
  rw [h8, h7, h2, State.committed]

end Sys2Proof.Machine
end

section
/-! When a block commits: its test, and that it is over (spec/05_block_engine.md R153, R155). -/

namespace Sys2Proof.Machine

open Claims

theorem Run.withNulls_eq {r : Run} (h : r.nullFlag = false) (now : Nat) : r.withNulls now = r := by simp [Run.withNulls, h]

theorem State.loadLine_present {s : State} {core slot n : Nat} (h : (s.slotAt core slot).present.getLsbD (n / 4) = true) :
    s.loadLine core slot n = some s := by simp [State.loadLine, h]

theorem State.loadLines_present {s : State} {core slot : Nat} {ns : List Nat} (h : ∀ n ∈ ns, (s.slotAt core slot).present.getLsbD (n / 4) = true) :
    s.loadLines core slot ns = .ok s := by
  induction ns with
  | nil => rfl
  | cons n ns ih =>
    rw [State.loadLines, State.loadLine_present (h n (by simp))]
    exact ih fun m hm => h m (by simp [hm])

/-- A complete block has no JOINAD.arm that a block without SUSP may not have. -/
theorem Run.badArm_eq_none {r : Run} (h : ∀ o ∈ r.ops, o.2.kind ≠ .mem (.joinad true)) : r.badArm = none := by
  have hf : r.ops.find? (fun e => decide (e.2.kind = .mem (.joinad true))) = none := by simpa [List.find?_eq_none] using h
  unfold Run.badArm
  split
  · rfl
  · rw [hf]; rfl

section
variable {s : State} {core slot : Nat} {r : Run} {e : Exit}

theorem complete_commitTest (h : Complete s core slot r e) : s.commitTest core slot r = .ready := by
  obtain ⟨htail, hheld, hfrom, -, -⟩ := h.begun
  have hres : (r.outTail.all fun i => !(countedForm (r.shape i)) || r.resolved (s.cyc core) i) = true := by
    rw [List.all_eq_true]
    intro i hi
    cases hc : countedForm (r.shape i)
    · rfl
    · simpa using h.resolved i hi hc
  have hfull : r.needFull.all (s.slotAt core slot).isFull = true := List.all_eq_true.2 fun n hn => (h.full n hn).2
  have hwaits : s.commitWaits core slot r = .ready := by
    rw [State.commitWaits, State.loadLines_present fun n hn => (h.full n hn).1]
    simp [hfull, h.room, h.first.2.2]
  unfold State.commitTest
  simp [htail, hheld, hfrom.not_gt, h.atRest, hres, h.exit, h.sound.1, Run.badArm_eq_none h.sound.2, hwaits]

/-- A block that is complete and has its turn commits. -/
theorem complete_blockCommit (h : Complete s core slot r e) (hr : s.runAt core slot = some r) : s.blockCommit core slot = s.commit core slot r := by
  obtain ⟨-, -, -, hnull, -⟩ := h.begun
  obtain ⟨m, hm, hlt⟩ := h.turn
  have hmet : r.metBefore (s.cyc core) = true := by simp [Run.metBefore, hm, hlt]
  simp [State.blockCommit, hr, Run.withNulls_eq hnull, complete_commitTest h, hmet, h.first.1, h.first.2.1, State.loadLines_present fun n hn => (h.full n hn).1]

end

end Sys2Proof.Machine
end

section
/-! What of a block can still fire as it commits, and how a block without a tail is over (spec/05_block_engine.md R152, R153, R155). -/

namespace Sys2Proof.Machine

open Claims

/-! ### A list made element by element, each out of those before it -/

section
variable {β : Type} (F : List β → Nat → β)

theorem length_foldl_append (n : Nat) : ((List.range n).foldl (fun acc i => acc ++ [F acc i]) []).length = n := by
  induction n with
  | zero => rfl
  | succ n ih => simp [List.range_succ, ih]

theorem getD_foldl_append {n i : Nat} (hi : i < n) (d : β) :
    ((List.range n).foldl (fun acc i => acc ++ [F acc i]) []).getD i d = F ((List.range i).foldl (fun acc i => acc ++ [F acc i]) []) i := by
  induction n with
  | zero => omega
  | succ n ih =>
    rw [List.range_succ, List.foldl_append, List.foldl_cons, List.foldl_nil]
    rcases Nat.lt_succ_iff_lt_or_eq.1 hi with h | rfl
    · rw [← ih h]
      exact List.getD_append _ _ _ _ (by rw [length_foldl_append]; exact h)
    · simp [length_foldl_append]

end

/-! ### What can still fire -/

theorem Run.live_length (r : Run) (now : Nat) : (r.live now).length = r.words.length := by
  unfold Run.live
  exact length_foldl_append _ _

theorem Run.live_wait {r : Run} {i t : Nat} (hi : i < r.words.length) (h : (r.inst i).st = .wait t) (now : Nat) : (r.live now).getD i false = true := by
  unfold Run.live
  rw [getD_foldl_append _ hi]
  simp [h]

/-- Nothing of a block without a tail can fire once nothing outside its tail can. -/
theorem Run.live_any_eq_false {r : Run} {now : Nat} (hq : r.quiet now = true) (ht : r.inTail = []) : (r.live now).any id = false := by
  have hout (i : Nat) (hi : i < r.words.length) : i ∈ r.outTail := by
    have h : i ∉ r.inTail := by simp [ht]
    simp only [Run.inTail, Run.outTail, List.mem_filter, List.mem_range, hi, true_and] at h ⊢
    simpa using h
  rw [List.any_eq_false]
  intro x hx
  obtain ⟨i, hi, rfl⟩ := List.mem_iff_getElem.1 hx
  have h := List.all_eq_true.1 hq i (hout i (by rwa [← r.live_length now]))
  simpa [List.getD, hi] using h

/-! ### The performing forms of a block that commits -/

/-- A performing form that resolved with an effect awaits its result. -/
def Run.awaits (time : Nat) (r : Run) (i : Nat) : Run :=
  if r.performsAt i && decide ((r.inst i).st = .ready) then r.modInst i fun x => { x with st := .wait time } else r

theorem Run.commits_eq (r : Run) (fpf : W64) (time : Nat) : r.commits fpf time = { (List.range r.words.length).foldl (Run.awaits time) r with
    tail := true, flags := 0#6, watch := [], held := none, ops := [], sups := [], evt := eventFlags r.fpc r.flags, evtFpf := fpf, evtTime := time } := rfl

theorem foldl_awaits_field {β : Type} (f : Run → β) (hf : ∀ x l, f { x with insts := l } = f x) (time : Nat) (l : List Nat) (r : Run) :
    f (l.foldl (Run.awaits time) r) = f r := by
  induction l generalizing r with
  | nil => rfl
  | cons i l ih => exact (ih _).trans (apply_ite_eq f (hf r _) rfl)

theorem foldl_awaits_eq {r : Run} (h : ∀ i, r.performsAt i = false) (time : Nat) (l : List Nat) : l.foldl (Run.awaits time) r = r := by
  induction l with
  | nil => rfl
  | cons i l ih => simp [Run.awaits, h, ih]

theorem Run.performsAt_lt {r : Run} {i : Nat} (h : r.performsAt i = true) : i < r.words.length := by
  by_contra hi
  simp [Run.performsAt, Run.instr, List.getElem?_eq_none (not_lt.1 hi)] at h

theorem Run.inst_ready_lt {r : Run} {i : Nat} (h : (r.inst i).st = .ready) : i < r.insts.length := by
  by_contra hi
  simp [Run.inst, List.getD, List.getElem?_eq_none (not_lt.1 hi)] at h

theorem Run.awaits_inst (time : Nat) (r : Run) (i j : Nat) : (r.awaits time i).inst j =
    if i = j ∧ r.performsAt j = true ∧ (r.inst j).st = .ready then { r.inst j with st := .wait time } else r.inst j := by
  unfold Run.awaits
  by_cases h : r.performsAt i = true ∧ (r.inst i).st = .ready
  · simp only [h, decide_true, Bool.and_self, if_true, Run.inst_modInst _ _ _ _ (Run.inst_ready_lt h.2)]
    by_cases e : i = j
    · subst e; simp [h]
    · simp [e]
  · have hd : (r.performsAt i && decide ((r.inst i).st = .ready)) = false := by simpa using h
    rw [hd, if_neg Bool.false_ne_true, if_neg]
    rintro ⟨rfl, h'⟩
    exact h h'

theorem foldl_awaits_inst (time : Nat) (r : Run) (n j : Nat) : ((List.range n).foldl (Run.awaits time) r).inst j =
    if j < n ∧ r.performsAt j = true ∧ (r.inst j).st = .ready then { r.inst j with st := .wait time } else r.inst j := by
  induction n with
  | zero => simp
  | succ n ih =>
    have hp : ((List.range n).foldl (Run.awaits time) r).performsAt j = r.performsAt j :=
      foldl_awaits_field (fun x => x.performsAt j) (fun _ _ => rfl) time _ r
    rw [List.range_succ, List.foldl_append, List.foldl_cons, List.foldl_nil, Run.awaits_inst, hp, ih]
    rcases Nat.lt_trichotomy j n with h | rfl | h
    · simp [h, h.ne', Nat.lt_succ_of_lt h]
    · simp
    · simp [h.ne, h.not_gt, show ¬j < n + 1 by omega]

/-! ### A block without a tail is over -/

/-- How a block leaves a slot when it is over. -/
def Slot.leaves (sl : Slot) (r : Run) (e : Exit) : Slot :=
  let ends : Option EndKind := match e.kind with | .susp => some .susp | .retire => some .retire | _ => none
  { sl with
    run := none
    evp := sl.evp || sl.run.any Run.park
    look := if ends.isSome then none else sl.look
    pc := match e.kind with | .retire => r.addr | _ => e.target
    ending := if ends.isSome then ends else sl.ending }

theorem Ctl.mergeFpf_zero (x : W64) : mergeFpf x 0#6 = x := by simp [mergeFpf]

/-- A block without a tail whose flags were merged and told at its commit ends where its exit leads. -/
theorem State.endBlock_tailless {s : State} {core slot : Nat} {r : Run} {e : Exit} (ht : r.inTail = []) (hf : r.flags = 0#6)
    (hv : r.evt = 0#6 ∨ r.told = true) (he : r.exit = some e) :
    s.endBlock core slot r = (s.modSlot core slot fun sl => sl.leaves r e).settle core slot := by
  have hlate : s.lateEvent core slot r = s := by
    unfold State.lateEvent
    rcases hv with h | h <;> simp [h]
  have hregs : r.tailRegs = [] := by simp [Run.tailRegs, ht]
  have hevt : eventFlags r.fpc r.flags = 0#6 := by simp [hf, eventFlags]
  have hkeep : (s.modSlot core slot fun sl => { sl with ctl := { sl.ctl with fpf := mergeFpf sl.ctl.fpf r.flags } }) = s.modSlot core slot fun sl => sl := by
    simp only [hf, Ctl.mergeFpf_zero]
  unfold State.endBlock
  simp only [hlate, ht, hregs, hevt, he, List.filterMap_nil, List.any_nil, List.foldl_nil, List.contains_nil, Bool.or_false, Bool.and_false, Bool.false_and,
    Bool.false_eq_true, if_false, decide_true, Bool.true_or, if_true, hkeep, State.modSlot_modSlot]
  rfl

end Sys2Proof.Machine
end

section
/-! A slot moves on from a boundary: what it keeps (spec/05_block_engine.md R160, R162). -/

namespace Sys2Proof.Machine

open Claims

/-- From s to t one slot has moved on from a boundary: its registers, its controls and its program counter are as they were, and nothing has changed but slots
and the packets sent. -/
structure MovesOn (s t : State) (core slot : Nat) : Prop where
  rest : { t with slots := s.slots, pkts := s.pkts, nextId := s.nextId } = s
  regs : (t.slotAt core slot).g = (s.slotAt core slot).g ∧ (t.slotAt core slot).full = (s.slotAt core slot).full
  ctl : (t.slotAt core slot).ctl = (s.slotAt core slot).ctl
  pc : (t.slotAt core slot).pc = (s.slotAt core slot).pc

section
variable {s t u : State} {core slot : Nat}

theorem MovesOn.refl (s : State) (core slot : Nat) : MovesOn s s core slot := ⟨rfl, ⟨rfl, rfl⟩, rfl, rfl⟩

theorem MovesOn.trans (h : MovesOn s t core slot) (h' : MovesOn t u core slot) : MovesOn s u core slot where
  rest := (congrArg (fun x : State => { x with slots := s.slots, pkts := s.pkts, nextId := s.nextId }) h'.rest).trans h.rest
  regs := ⟨h'.regs.1.trans h.regs.1, h'.regs.2.trans h.regs.2⟩
  ctl := h'.ctl.trans h.ctl
  pc := h'.pc.trans h.pc

theorem MovesOn.field (h : MovesOn s t core slot) {β : Type} (f : State → β) (hf : ∀ (x : State) m p n, f { x with slots := m, pkts := p, nextId := n } = f x) :
    f t = f s :=
  (hf t s.slots s.pkts s.nextId).symm.trans (congrArg f h.rest)

theorem movesOn_modSlot (s : State) (core slot : Nat) {f : Slot → Slot}
    (hf : ∀ x, (f x).g = x.g ∧ (f x).full = x.full ∧ (f x).ctl = x.ctl ∧ (f x).pc = x.pc) : MovesOn s (s.modSlot core slot f) core slot := by
  obtain ⟨hg, hfull, hctl, hpc⟩ := hf (s.slotAt core slot)
  exact ⟨rfl, by simp [hg, hfull], by simp [hctl], by simp [hpc]⟩

theorem movesOn_sendPkt (s : State) (site core slot : Nat) (ws : List W64) : MovesOn s (s.sendPkt site core slot ws) core slot :=
  ⟨rfl, ⟨rfl, rfl⟩, rfl, rfl⟩

theorem movesOn_freezeWith (s : State) (core slot cause ix : Nat) (tail repl : Bool) (va info : Nat) :
    MovesOn s (s.freezeWith core slot cause ix tail repl va info) core slot := by
  unfold State.freezeWith State.faultPkt
  refine .trans (.trans (movesOn_modSlot _ _ _ ?_) (movesOn_modSlot _ _ _ ?_)) (movesOn_sendPkt ..) <;> exact fun _ => ⟨rfl, rfl, rfl, rfl⟩

theorem movesOn_raise (hr : s.runAt core slot = none) (cause ix : Nat) (repl : Bool) (va info : Nat) :
    MovesOn s (s.raise core slot cause ix repl va info) core slot := by
  rw [State.raise, hr]
  exact movesOn_freezeWith ..

theorem movesOn_loadBlock (s : State) (core slot : Nat) (k : Lookup) (hd : Nat) (ws : List Nat) : MovesOn s (s.loadBlock core slot k hd ws) core slot := by
  unfold State.loadBlock
  exact movesOn_modSlot _ _ _ fun _ => ⟨rfl, rfl, rfl, rfl⟩

/-- A lookup that is refused, or whose block is illegal, is given up and raises its fault. -/
theorem movesOn_lookRaise (hr : s.runAt core slot = none) (cause ix : Nat) (repl : Bool) (va info : Nat) :
    MovesOn s ((s.modSlot core slot fun sl => { sl with look := none }).raise core slot cause ix repl va info) core slot := by
  refine .trans (movesOn_modSlot s core slot ?_) (movesOn_raise ?_ ..)
  · exact fun _ => ⟨rfl, rfl, rfl, rfl⟩
  · rw [State.runAt_eq] at hr ⊢
    simpa using hr

/-- A slot without a failure to report moves on. -/
theorem movesOn_settle (hf : (s.slotAt core slot).failed = []) : MovesOn s (s.settle core slot) core slot := by
  unfold State.settle
  dsimp only
  rw [hf]
  dsimp only
  split_ifs with hb
  · exact .refl ..
  · exact movesOn_modSlot _ _ _ fun _ => ⟨rfl, rfl, rfl, rfl⟩
  · exact .refl ..
  · have hr : s.runAt core slot = none := by
      simp only [Bool.or_eq_true, not_or, Bool.not_eq_true, Option.isSome_eq_false_iff, Option.isNone_iff_eq_none] at hb
      exact hb.2
    split
    · exact movesOn_modSlot _ _ _ fun _ => ⟨rfl, rfl, rfl, rfl⟩
    · split
      · exact .refl ..
      · exact .refl ..
      · exact movesOn_lookRaise hr ..
      · split
        · exact movesOn_loadBlock ..
        · exact movesOn_lookRaise hr ..

/-- A slot that is held, or whose continuation is ending, moves on to no block and raises nothing. -/
theorem State.settle_stays (hf : (s.slotAt core slot).failed = []) (hh : (s.slotAt core slot).held = true ∨ (s.slotAt core slot).ending.isSome = true) :
    s.settle core slot = s ∨ s.settle core slot = s.modSlot core slot fun sl =>
      { sl with frz := sl.frz || sl.deferFrz, stop := sl.stop || sl.deferStop, deferFrz := false, deferStop := false, look := none } := by
  have hb : ((s.slotAt core slot).held || s.boundaryHeld core slot) = true := by
    rcases hh with h | h <;> simp [h, State.boundaryHeld]
  unfold State.settle
  dsimp only
  rw [hf]
  dsimp only
  rw [if_pos hb]
  split_ifs
  · exact .inl rfl
  · exact .inr rfl
  · exact .inl rfl

end

end Sys2Proof.Machine
end

section
/-! The registers and the control registers that a block writes (spec/05_block_engine.md R110, R149, R151, R159). -/

namespace Sys2Proof.Machine

open Claims

/-! ### Bytes laid over a register -/

theorem getLsbD_byteMask (i k : Nat) : (255#128 <<< (8 * i)).getLsbD k = (decide (k < 128) && decide (k / 8 = i)) := by
  have h255 (j : Nat) : (255#128).getLsbD j = decide (j < 8) := by
    rw [BitVec.getLsbD_ofNat, show (255 : Nat) = 2 ^ 8 - 1 from rfl, Nat.testBit_two_pow_sub_one]
    simp only [Bool.and_eq_right_iff_imp, decide_eq_true_eq]
    omega
  rw [BitVec.getLsbD_shiftLeft, h255]
  by_cases hk : k < 128
  · simp only [hk, decide_true, Bool.true_and, ← decide_not, ← Bool.decide_and]
    exact decide_eq_decide.2 (by omega)
  · simp [hk]

/-- A value with byte i of a token laid over it. -/
def laysByte (t : Token) (v : W128) (i : Nat) : W128 :=
  if t.mask.getLsbD i then v else (v &&& ~~~(255#128 <<< (8 * i))) ||| (t.data &&& (255#128 <<< (8 * i)))

theorem laysByte_getLsbD (t : Token) (v : W128) (i : Nat) {k : Nat} (hk : k < 128) :
    (laysByte t v i).getLsbD k = if k / 8 = i ∧ t.mask.getLsbD i = false then t.data.getLsbD k else v.getLsbD k := by
  unfold laysByte
  cases hm : t.mask.getLsbD i
  · rw [if_neg Bool.false_ne_true, BitVec.getLsbD_or, BitVec.getLsbD_and, BitVec.getLsbD_and, BitVec.getLsbD_not, getLsbD_byteMask]
    by_cases e : k / 8 = i <;> simp only [hk, e] <;> simp
  · simp

theorem mergeBytes_getLsbD (old : W128) (t : Token) {k : Nat} (hk : k < 128) :
    (mergeBytes old t).getLsbD k = if t.mask.getLsbD (k / 8) then old.getLsbD k else t.data.getLsbD k := by
  have h (n : Nat) : ((List.range n).foldl (laysByte t) old).getLsbD k =
      if k / 8 < n ∧ t.mask.getLsbD (k / 8) = false then t.data.getLsbD k else old.getLsbD k := by
    induction n with
    | zero => simp
    | succ n ih =>
      rw [List.range_succ, List.foldl_append, List.foldl_cons, List.foldl_nil, laysByte_getLsbD _ _ _ hk, ih]
      rcases Nat.lt_trichotomy (k / 8) n with h | rfl | h
      · simp [h, h.ne, Nat.lt_succ_of_lt h]
      · simp
      · simp [h.ne', h.not_gt, show ¬k / 8 < n + 1 by omega]
  refine (h 16).trans ?_
  rw [if_congr (and_iff_right (by omega)) rfl rfl]
  cases t.mask.getLsbD (k / 8) <;> simp

/-- Byte i of a number, bit by bit. -/
theorem testBit_byte (x i j : Nat) : (x / 256 ^ i % 256).testBit j = (decide (j < 8) && x.testBit (8 * i + j)) := by
  rw [show (256 : Nat) = 2 ^ 8 from rfl, ← Nat.pow_mul, Nat.testBit_mod_two_pow, Nat.testBit_div_two_pow, Nat.add_comm]

theorem laidOver_mergeBytes (old : W128) (t : Token) : laidOver old t (mergeBytes old t) := by
  intro i hi
  have h (j : Nat) (hj : j < 8) : (mergeBytes old t).toNat.testBit (8 * i + j) =
      if t.mask.getLsbD i then old.toNat.testBit (8 * i + j) else t.data.toNat.testBit (8 * i + j) := by
    have h := mergeBytes_getLsbD old t (k := 8 * i + j) (by omega)
    rwa [show (8 * i + j) / 8 = i by omega] at h
  refine Nat.eq_of_testBit_eq fun j => ?_
  by_cases hj : j < 8
  · split_ifs with hm <;> simp [testBit_byte, h j hj, hm]
  · split_ifs <;> simp [testBit_byte, hj]

theorem mergeBytes_null (old : W128) {t : Token} (h : t.isNull = true) : mergeBytes old t = old := by
  have hm : t.mask = 0xFFFF#16 := by simpa [Token.isNull] using h
  refine BitVec.eq_of_getLsbD_eq fun k hk => ?_
  have hb : t.mask.getLsbD (k / 8) = true := by
    rw [hm]
    exact (by decide : ∀ j < 16, (0xFFFF#16).getLsbD j = true) _ (by omega)
  rw [mergeBytes_getLsbD _ _ hk, hb, if_pos rfl]

/-! ### Registers set and marked empty -/

theorem Slot.setReg_reg (sl : Slot) (n m : Nat) (v : W128) : mget (sl.setReg n v).g m 0#128 = if n = m then v else mget sl.g m 0#128 := mget_mset ..

theorem Slot.setReg_getLsbD (sl : Slot) (n : Nat) (v : W128) {m : Nat} (hm : m < 64) :
    (sl.setReg n v).full.getLsbD m = (sl.full.getLsbD m || decide (n = m)) := by
  have h : (1#64 <<< n).getLsbD m = decide (n = m) := by
    rw [← BitVec.twoPow_eq, BitVec.getLsbD_twoPow]
    simp only [Bool.and_eq_right_iff_imp, decide_eq_true_eq]
    omega
  rw [Slot.setReg, BitVec.getLsbD_or, h]

theorem Slot.markEmpty_getLsbD (sl : Slot) (n : Nat) {m : Nat} (hm : m < 64) : (sl.markEmpty n).full.getLsbD m = (sl.full.getLsbD m && decide (n ≠ m)) := by
  have h : (1#64 <<< n).getLsbD m = decide (n = m) := by
    rw [← BitVec.twoPow_eq, BitVec.getLsbD_twoPow]
    simp only [Bool.and_eq_right_iff_imp, decide_eq_true_eq]
    omega
  rw [Slot.markEmpty, BitVec.getLsbD_and, BitVec.getLsbD_not, h]
  simp [hm]

theorem foldl_markEmpty_getLsbD (ns : List Nat) (sl : Slot) {m : Nat} (hm : m < 64) :
    (ns.foldl Slot.markEmpty sl).full.getLsbD m = (sl.full.getLsbD m && decide (m ∉ ns)) := by
  induction ns generalizing sl with
  | nil => simp
  | cons n ns ih =>
    rw [List.foldl_cons, ih, Slot.markEmpty_getLsbD _ _ hm, Bool.and_assoc, ← Bool.decide_and]
    simp [not_or, eq_comm]

/-! ### The WRITEs of a block -/

theorem Slot.takes_reg (sl : Slot) (w : Nat × Token) (m : Nat) :
    mget (sl.takes w).g m 0#128 = if w.1 = m then mergeBytes (mget sl.g m 0#128) w.2 else mget sl.g m 0#128 := by
  unfold Slot.takes
  split_ifs with hn e e
  · exact (mergeBytes_null _ hn).symm
  · rfl
  · subst e; exact (sl.setReg_reg ..).trans (if_pos rfl)
  · exact (sl.setReg_reg ..).trans (if_neg e)

theorem Slot.takes_getLsbD (sl : Slot) (w : Nat × Token) {m : Nat} (hm : m < 64) :
    (sl.takes w).full.getLsbD m = (sl.full.getLsbD m || (!w.2.isNull && decide (w.1 = m))) := by
  unfold Slot.takes
  split_ifs with hn
  · simp [hn]
  · simp [hn, Slot.setReg_getLsbD _ _ _ hm]

theorem foldl_takes_other {ws : List (Nat × Token)} {m : Nat} (h : ∀ w ∈ ws, w.1 ≠ m) (sl : Slot) :
    mget (ws.foldl Slot.takes sl).g m 0#128 = mget sl.g m 0#128 ∧ (m < 64 → (ws.foldl Slot.takes sl).full.getLsbD m = sl.full.getLsbD m) := by
  induction ws generalizing sl with
  | nil => exact ⟨rfl, fun _ => rfl⟩
  | cons w ws ih =>
    have hw : w.1 ≠ m := h w (by simp)
    obtain ⟨hg, hf⟩ := ih (fun w hw => h w (by simp [hw])) (sl.takes w)
    exact ⟨by rw [List.foldl_cons, hg, Slot.takes_reg, if_neg hw], fun hm => by rw [List.foldl_cons, hf hm, Slot.takes_getLsbD _ _ hm]; simp [hw]⟩

/-- Where each register has one WRITE, each takes its token. -/
theorem foldl_takes_reg {ws : List (Nat × Token)} (hd : (ws.map Prod.fst).Nodup) {w : Nat × Token} (hw : w ∈ ws) (sl : Slot) :
    mget (ws.foldl Slot.takes sl).g w.1 0#128 = mergeBytes (mget sl.g w.1 0#128) w.2 := by
  induction ws generalizing sl with
  | nil => simp at hw
  | cons v ws ih =>
    rw [List.map_cons, List.nodup_cons] at hd
    rcases List.mem_cons.1 hw with rfl | hw
    · have h : ∀ x ∈ ws, x.1 ≠ w.1 := fun x hx e => hd.1 (e ▸ List.mem_map_of_mem hx)
      rw [List.foldl_cons, (foldl_takes_other h _).1, Slot.takes_reg, if_pos rfl]
    · have h : v.1 ≠ w.1 := fun e => hd.1 (e ▸ List.mem_map_of_mem hw)
      rw [List.foldl_cons, ih hd.2 hw, Slot.takes_reg, if_neg h]

/-- A register full before a block's WRITEs is full after them. -/
theorem foldl_takes_full {m : Nat} (hm : m < 64) (ws : List (Nat × Token)) (sl : Slot) (h : sl.full.getLsbD m = true) :
    (ws.foldl Slot.takes sl).full.getLsbD m = true := by
  induction ws generalizing sl with
  | nil => exact h
  | cons w ws ih => exact ih _ (by rw [Slot.takes_getLsbD _ _ hm, h, Bool.true_or])

end Sys2Proof.Machine
end

section
/-! The control registers that a block writes (spec/05_block_engine.md R110, R151). -/

namespace Sys2Proof.Machine

open Claims

/-! ### Control registers: each holds the last value written to it -/

/-- A part of the control registers that writes of register n alone set, each to what it makes of its value. -/
def SetBy {β : Type} (folded : Bool) (n : Nat) (f : Ctl → β) (trim : W64 → β) : Prop :=
  (∀ (x : Ctl) v, f (x.write folded n v) = trim v) ∧ ∀ (x : Ctl) m v, m ≠ n → f (x.write folded m v) = f x

theorem SetBy.foldl {β : Type} {folded : Bool} {n : Nat} {f : Ctl → β} {trim : W64 → β} (h : SetBy folded n f trim) (ws : List (Nat × W64)) (x : Ctl) :
    f (ws.foldl (fun x w => x.write folded w.1 w.2) x) = (((ws.filter fun w => decide (w.1 = n)).getLast?).map Prod.snd).elim (f x) trim := by
  induction ws using List.reverseRecOn with
  | nil => rfl
  | append_singleton ws w ih =>
    rw [List.foldl_append, List.foldl_cons, List.foldl_nil, List.filter_append]
    by_cases e : w.1 = n
    · rw [e, h.1]; simp [e]
    · have hw : ([w] : List (Nat × W64)).filter (fun w => decide (w.1 = n)) = [] := by simp [e]
      rw [h.2 _ _ _ e, ih, hw, List.append_nil]

/-- The writes of FPF, which come before the flags. -/
theorem filter_fpf_foldl (ws : List (Nat × W64)) (folded : Bool) (x : Ctl) :
    (ws.filter fun w => w.1 == 1).foldl (fun x w => x.write folded 1 w.2) x = (ws.filter fun w => w.1 == 1).foldl (fun x w => x.write folded w.1 w.2) x := by
  refine List.foldl_ext _ _ _ fun y w hw => ?_
  have h : w.1 = 1 := by simpa using (List.mem_filter.1 hw).2
  rw [h]

theorem setBy_fpf (folded : Bool) : SetBy folded 1 Ctl.fpf (· &&& 0x3F#64) := by
  refine ⟨fun _ _ => rfl, fun x m v hm => ?_⟩
  unfold Ctl.write
  split <;> (try contradiction) <;> cases folded <;> rfl

theorem setBy_written {folded : Bool} {x : Nat × (Ctl → W64) × (W64 → W64)} (hx : x ∈ writtenControls) (h7 : x.1 = 7 → folded = false) :
    SetBy folded x.1 x.2.1 x.2.2 := by
  simp only [writtenControls, List.mem_cons, List.not_mem_nil, or_false] at hx
  rcases hx with rfl | rfl | rfl | rfl | rfl | rfl | rfl | rfl | rfl | rfl
  case inr.inr.inr.inr.inr.inl =>
    rw [h7 rfl]
    refine ⟨fun _ _ => rfl, fun c m v hm => ?_⟩
    unfold Ctl.write
    split <;> (try contradiction) <;> rfl
  all_goals
    refine ⟨fun c v => rfl, fun c m v hm => ?_⟩
    unfold Ctl.write
    split <;> (try contradiction) <;> cases folded <;> rfl

theorem lastWritten_eq (r : Run) (n : Nat) : lastWritten r n = ((r.wrcs.filter fun w => decide (w.1 = n)).getLast?).map Prod.snd := rfl

/-- FPF takes the block's last WRC of it, and then its flags. -/
theorem Run.commitCtl_fpf (r : Run) (x : Ctl) (folded : Bool) :
    (r.commitCtl x folded).fpf = mergeFpf ((lastWritten r 1).elim x.fpf (· &&& 0x3F#64)) r.flags := by
  have hb : ((r.wrcs.filter fun w => w.1 == 1).filter fun w => decide (w.1 = 1)) = r.wrcs.filter fun w => decide (w.1 = 1) := by
    rw [List.filter_filter]
    exact List.filter_congr fun w _ => by simp [beq_eq_decide]
  have ha : ((r.wrcs.filter fun w => w.1 != 1).filter fun w => decide (w.1 = 1)) = [] := by
    rw [List.filter_filter, List.filter_eq_nil_iff]
    intro w _
    simp
  unfold Run.commitCtl
  dsimp only
  rw [(setBy_fpf folded).foldl, ha, filter_fpf_foldl]
  refine congrArg (mergeFpf · r.flags) ?_
  rw [(setBy_fpf folded).foldl, hb, lastWritten_eq]

/-- Every other control register takes the block's last WRC of it. -/
theorem Run.commitCtl_written (r : Run) (y : Ctl) {folded : Bool} {x : Nat × (Ctl → W64) × (W64 → W64)} (hx : x ∈ writtenControls)
    (h7 : x.1 = 7 → folded = false) : x.2.1 (r.commitCtl y folded) = (lastWritten r x.1).elim (x.2.1 y) x.2.2 := by
  have h := setBy_written hx h7
  have hne : x.1 ≠ 1 := (by decide : ∀ n ∈ writtenControls.map Prod.fst, n ≠ 1) _ (List.mem_map_of_mem hx)
  have hkeep (c : Ctl) (v : W64) : x.2.1 { c with fpf := v } = x.2.1 c := by
    simp only [writtenControls, List.mem_cons, List.not_mem_nil, or_false] at hx
    rcases hx with rfl | rfl | rfl | rfl | rfl | rfl | rfl | rfl | rfl | rfl <;> rfl
  have hb : ((r.wrcs.filter fun w => w.1 == 1).filter fun w => decide (w.1 = x.1)) = [] := by
    rw [List.filter_filter, List.filter_eq_nil_iff]
    intro w _
    simp only [Bool.and_eq_true, decide_eq_true_eq, beq_iff_eq, not_and]
    exact fun e e' => hne (e.symm.trans e')
  have ha : ((r.wrcs.filter fun w => w.1 != 1).filter fun w => decide (w.1 = x.1)) = r.wrcs.filter fun w => decide (w.1 = x.1) := by
    rw [List.filter_filter]
    refine List.filter_congr fun w _ => ?_
    by_cases e : w.1 = x.1
    · simp [e, hne]
    · simp [e]
  unfold Run.commitCtl
  dsimp only
  rw [h.foldl, ha, hkeep, filter_fpf_foldl, h.foldl, hb, lastWritten_eq]
  rfl

end Sys2Proof.Machine
end

section
/-! A complete block without a tail commits (spec/05_block_engine.md R110, R149, R151, R153, R155, R159). -/

namespace Sys2Proof.Machine

open Claims

section
variable {s : State} {core slot : Nat} {r : Run}

/-- No null token goes out where no performing form resolved as null. -/
theorem State.nullTokens_eq (h : ∀ i, r.performsAt i = true → (r.inst i).st ≠ .null) (s : State) (core slot : Nat) : s.nullTokens core slot r = s := by
  have h' (i : Nat) : (r.performsAt i && decide ((r.inst i).st = .null)) = false := by
    cases hp : r.performsAt i
    · rfl
    · simpa using h i hp
  unfold State.nullTokens
  simp only [h', Bool.false_eq_true, if_false]
  induction List.range r.words.length with
  | nil => rfl
  | cons i l ih => exact ih

/-- A sibling of a block that commits replays where it has loaded a word that the block writes (R156). -/
def State.replaySibling (core slot : Nat) (ws : List Nat) (s : State) (n : Nat) : State :=
  match s.runAt core n with
  | some x => if n ≠ slot && !x.tail && ws.any x.watch.contains then s.replay core n else s
  | none => s

theorem State.replaySiblings_foldl (s : State) (core slot : Nat) (ws : List Nat) :
    s.replaySiblings core slot ws = (List.range 8).foldl (State.replaySibling core slot ws) s := rfl

theorem State.replaySibling_eq {ws : List Nat} {n : Nat} (h : ws = [] ∨ n = slot ∨ s.runAt core n = none) : s.replaySibling core slot ws n = s := by
  unfold State.replaySibling
  rcases h with rfl | rfl | h
  · cases s.runAt core n <;> simp
  · cases s.runAt core n <;> simp
  · rw [h]

/-- No sibling replays where the block wrote nothing, or stands alone. -/
theorem State.replaySiblings_eq {ws : List Nat} (h : ws = [] ∨ ∀ n, n < 8 → n ≠ slot → s.runAt core n = none) : s.replaySiblings core slot ws = s := by
  have hfold (l : List Nat) (hl : ∀ n ∈ l, n < 8) : l.foldl (State.replaySibling core slot ws) s = s := by
    induction l with
    | nil => rfl
    | cons n l ih =>
      have hn : ws = [] ∨ n = slot ∨ s.runAt core n = none := h.imp_right fun h => or_iff_not_imp_left.2 fun e => h n (hl n (by simp)) e
      rw [List.foldl_cons, State.replaySibling_eq hn]
      exact ih fun m hm => hl m (by simp [hm])
  rw [State.replaySiblings_foldl]
  exact hfold _ fun n hn => List.mem_range.1 hn

theorem eventFlags_eq (r : Run) : eventFlags r.fpc r.flags = enabledFlags r := by
  have h : (r.fpc >>> 8).setWidth 6 = BitVec.ofNat 6 (r.fpc.toNat / 2 ^ 8) := by
    apply BitVec.eq_of_toNat_eq
    simp [Nat.shiftRight_eq_div_pow]
  rw [eventFlags, fpcEn, h, enabledFlags]

/-- Of a block without a tail nothing can fire once it has committed. -/
theorem commits_live {now : Nat} (hq : r.quiet now = true) (ht : Tailless r) (fpf : W64) (time : Nat) : ((r.commits fpf time).live now).any id = false := by
  rw [Run.commits_eq, foldl_awaits_eq ht.2]
  exact Run.live_any_eq_false (r := r) hq ht.1

theorem commits_field {β : Type} (f : Run → β) (hf : ∀ (x : Run) a b c d e g h i j k, f { x with
      insts := a, tail := b, flags := c, watch := d, held := e, ops := g, sups := h, evt := i, evtFpf := j, evtTime := k } = f x) (r : Run) (fpf : W64) (time : Nat) :
    f (r.commits fpf time) = f r := by
  rw [Run.commits_eq]
  exact (hf _ ((List.range r.words.length).foldl (Run.awaits time) r).insts _ _ _ _ _ _ _ _ _).trans
    (foldl_awaits_field f (fun x l => hf x l x.tail x.flags x.watch x.held x.ops x.sups x.evt x.evtFpf x.evtTime) time _ r)

/-- A block none of whose instructions can fire is over. -/
theorem State.tailSettle_over {e : Exit} (hr : s.runAt core slot = some r) (htail : r.tail = true) (hl : (r.live (s.cyc core)).any id = false) (ht : r.inTail = [])
    (hf : r.flags = 0#6) (hv : r.evt = 0#6 ∨ r.told = true) (he : r.exit = some e) :
    s.tailSettle core slot = (s.modSlot core slot fun sl => sl.leaves r e).settle core slot := by
  rw [← State.endBlock_tailless ht hf hv he]
  simp [State.tailSettle, hr, htail, hl]

theorem State.departed_noOps (h : ∀ i, r.performsAt i = true → (r.inst i).st ≠ .null) (hops : r.ops = []) (hsups : r.sups = []) (s u : State) (core slot : Nat) :
    s.departed u core slot r = u := by
  have hw : s.commitWords core r = [] := by simp [State.commitWords, Run.writtenWords, hops]
  rw [State.departed_eq _ _ _ _ _ hsups, hops, List.foldl_nil, State.nullTokens_eq h, State.replaySiblings_eq (.inl hw)]

theorem State.tellEvent_eq (hr : s.runAt core slot = some r) (hv : r.evt = 0#6) : s.tellEvent core slot = s := by
  simp [State.tellEvent, hr, State.lateEvent, hv]

/-- A block without a tail and without an event is over once it has committed, and its slot moves on. -/
theorem movesOn_tailSettle {u : State} {e : Exit} {fpf : W64} {time : Nat} (hc : Complete s core slot r e) (ht : Tailless r) (hfl : enabledFlags r = 0#6)
    (hx : u.runAt core slot = some (r.commits fpf time)) (hcyc : u.cyc core = s.cyc core) (hfail : (u.slotAt core slot).failed = []) :
    MovesOn (u.modSlot core slot fun sl => sl.leaves (r.commits fpf time) e) (u.tailSettle core slot) core slot := by
  have hover : u.tailSettle core slot = (u.modSlot core slot fun sl => sl.leaves (r.commits fpf time) e).settle core slot := by
    refine State.tailSettle_over hx rfl ?_ ?_ rfl (.inl ?_) ?_
    · rw [hcyc]; exact commits_live hc.atRest ht fpf time
    · rw [commits_field Run.inTail fun _ _ _ _ _ _ _ _ _ _ _ => rfl]; exact ht.1
    · exact (eventFlags_eq r).trans hfl
    · rw [commits_field Run.exit fun _ _ _ _ _ _ _ _ _ _ _ => rfl]; exact hc.exit
  rw [hover]
  exact movesOn_settle (by simpa [Slot.leaves] using hfail)

end

/-! ### What a slot holds after the registers' steps of a commit -/

/-- The registers after a block's WRITEs and its link. -/
def Slot.writes (sl : Slot) (r : Run) (folded : Bool) : Slot :=
  let x := r.writes.foldl Slot.takes { sl with ctl := r.commitCtl sl.ctl folded }
  if r.calls then x.setReg 63 (r.link.setWidth 128) else x

theorem Slot.commitRegs_noTail {r : Run} (h : r.inTail = []) {β : Type} (f : Slot → β) (hf : ∀ x l, f { x with look := l } = f x) (sl : Slot) (folded : Bool) :
    f (sl.commitRegs r folded) = f (sl.writes r folded) := by
  have ht : r.tailRegs = [] := by simp [Run.tailRegs, h]
  unfold Slot.commitRegs Slot.writes
  rw [ht]
  exact apply_ite_eq f (hf _ _) rfl

section
variable (sl : Slot) (r : Run) (folded : Bool)

theorem Slot.writes_other {m : Nat} (hm : ∀ w ∈ r.writes, w.1 ≠ m) (hl : ¬(m = 63 ∧ r.calls = true)) :
    mget (sl.writes r folded).g m 0#128 = mget sl.g m 0#128 ∧ (m < 64 → (sl.writes r folded).full.getLsbD m = sl.full.getLsbD m) := by
  have h := foldl_takes_other hm { sl with ctl := r.commitCtl sl.ctl folded }
  unfold Slot.writes
  dsimp only
  split_ifs with hc
  · have hne : ¬63 = m := fun e => hl ⟨e.symm, hc⟩
    exact ⟨by rw [Slot.setReg_reg, if_neg hne]; exact h.1, fun hlt => by rw [Slot.setReg_getLsbD _ _ _ hlt, h.2 hlt]; simp [hne]⟩
  · exact h

theorem Slot.writes_written (hd : (r.writes.map Prod.fst).Nodup) {w : Nat × Token} (hw : w ∈ r.writes) (hl : ¬(w.1 = 63 ∧ r.calls = true)) :
    mget (sl.writes r folded).g w.1 0#128 = mergeBytes (mget sl.g w.1 0#128) w.2 := by
  have h := foldl_takes_reg hd hw { sl with ctl := r.commitCtl sl.ctl folded }
  unfold Slot.writes
  dsimp only
  split_ifs with hc
  · have hne : ¬63 = w.1 := fun e => hl ⟨e.symm, hc⟩
    rw [Slot.setReg_reg, if_neg hne]; exact h
  · exact h

theorem Slot.writes_full {m : Nat} (h : sl.full.getLsbD m = true) : (sl.writes r folded).full.getLsbD m = true := by
  have hm : m < 64 := BitVec.lt_of_getLsbD h
  have hx := foldl_takes_full hm r.writes { sl with ctl := r.commitCtl sl.ctl folded } h
  unfold Slot.writes
  dsimp only
  split_ifs
  · rw [Slot.setReg_getLsbD _ _ _ hm, hx, Bool.true_or]
  · exact hx

theorem Slot.writes_link (hc : r.calls = true) :
    mget (sl.writes r folded).g 63 0#128 = r.link.setWidth 128 ∧ (sl.writes r folded).full.getLsbD 63 = true := by
  unfold Slot.writes
  simp only [hc, if_true]
  exact ⟨(Slot.setReg_reg ..).trans (if_pos rfl), by rw [Slot.setReg_getLsbD _ _ _ (by decide)]; simp⟩

end

theorem Run.calls_iff {r : Run} {e : Exit} (he : r.exit = some e) : r.calls = true ↔ e.kind = .call ∨ e.kind = .calli := by
  obtain ⟨k, a⟩ := e
  cases k <;> simp [Run.calls, he]

/-- The link as the statement has it (R159). -/
theorem Run.link_eq (r : Run) : r.link.setWidth 128 = BitVec.ofNat 128 ((r.addr.toNat + 8 + 2 * (r.hd / 2 ^ 40 % 2 ^ 8) + 15) / 16 * 16 % 2 ^ 64) := by
  apply BitVec.eq_of_toNat_eq
  simp [Run.link, w64, bits]

theorem Slot.leaves_pc {sl : Slot} {r : Run} {e : Exit} (h : e.kind ≠ .retire) : (sl.leaves r e).pc = e.target := by
  obtain ⟨k, a⟩ := e
  cases k <;> simp_all [Slot.leaves]

/-! ### The commit -/

section
variable {s : State} {core slot : Nat} {r : Run} {e : Exit}

theorem committed_failed (hc : Complete s core slot r e) : ((s.committed core slot r).slotAt core slot).failed = [] := by
  rw [State.committed_slotField Slot.failed fun _ _ => rfl, Slot.commits_regsField Slot.failed fun _ _ _ _ _ => rfl,
    Slot.commitRegs_field Slot.failed fun _ _ _ _ _ => rfl]
  exact hc.begun.2.2.2.2

/-- What reads neither the lookup, the block nor the account of a slot is, once a block without a tail has committed, as its writes leave it. -/
theorem committed_writes {β : Type} (f : Slot → β) (hf : ∀ x r n l m a, f { x with run := r, replays := n, look := l, looks := m, account := a } = f x)
    (ht : Tailless r) : f ((s.committed core slot r).slotAt core slot) =
      f ((s.slotAt core slot).writes r (s.foldImgs.contains (s.slotAt core slot).ctl.imga.toNat)) := by
  rw [State.committed_slotField f fun x a => hf x x.run x.replays x.look x.looks a, Slot.commits_regsField f fun x r n l m => hf x r n l m x.account,
    Slot.commitRegs_noTail ht.1 f fun x l => hf x x.run x.replays l x.looks x.account]

/-- A complete block without a tail and without stores commits, and its slot moves on from what its writes have left. -/
theorem movesOn_commit (hr : s.runAt core slot = some r) (hc : Complete s core slot r e) (ht : Tailless r) (hops : r.ops = []) (hsups : r.sups = [])
    (hfl : enabledFlags r = 0#6) {x : Run} (hx : (s.committed core slot r).runAt core slot = some x) :
    MovesOn ((s.committed core slot r).modSlot core slot fun sl => sl.leaves x e) (s.blockCommit core slot) core slot := by
  obtain rfl := Option.some.inj ((State.committed_runAt ..).symm.trans hx)
  rw [complete_blockCommit hc hr, State.commit_eq, State.departed_noOps (fun i hi => by simp [ht.2 i] at hi) hops hsups,
    State.tellEvent_eq hx ((eventFlags_eq r).trans hfl)]
  exact movesOn_tailSettle hc ht hfl hx ((onlySlot_committed s core slot r).field (State.cyc · core) fun _ _ _ => rfl) (committed_failed hc)

end

/-- A complete block without a tail commits its registers, its link, its control registers and its exit together (R153, R155). -/
theorem blockCommits : BlockCommits := by
  intro s core slot r e hr hc ht hops hsups hk hk' hnd hfl
  have h := movesOn_commit hr hc ht hops hsups hfl (State.committed_runAt ..)
  have hcalls := Run.calls_iff hc.exit
  have hg := h.regs.1.trans (congrArg Slot.g (State.modSlot_slotAt_same ..))
  have hfull := h.regs.2.trans (congrArg Slot.full (State.modSlot_slotAt_same ..))
  have hctl := h.ctl.trans (congrArg Slot.ctl (State.modSlot_slotAt_same ..))
  have hpc := h.pc.trans (congrArg Slot.pc (State.modSlot_slotAt_same ..))
  replace hg := hg.trans (committed_writes Slot.g (fun _ _ _ _ _ _ => rfl) ht)
  replace hfull := hfull.trans (committed_writes Slot.full (fun _ _ _ _ _ _ => rfl) ht)
  replace hctl : ((s.blockCommit core slot).slotAt core slot).ctl = r.commitCtl (s.slotAt core slot).ctl _ :=
    hctl.trans ((State.committed_slotField Slot.ctl (fun _ _ => rfl) s core slot r).trans
      ((Slot.commits_regsField Slot.ctl (fun _ _ _ _ _ => rfl) ..).trans (Slot.commitRegs_ctl ..)))
  refine ⟨_, exec_blockCommit s core slot, ?_⟩
  dsimp only
  rw [hg, hfull, hctl, ← hcalls]
  refine ⟨fun w hw hl => ⟨?_, fun hm => ?_⟩, fun hl => ?_, fun m hm hw hl => ?_, ?_, fun x hx h7 => ?_, ?_, ?_⟩
  · rw [Slot.writes_written _ _ _ hnd hw hl]
    exact laidOver_mergeBytes _ _
  · refine Slot.writes_full _ _ _ (hc.full w.1 ?_).2
    have hn : w.2.isNull = false := by simpa [Token.isNull] using hm
    have h : w.1 ∈ (r.writes.filter fun w => !w.2.isNull).map Prod.fst := List.mem_map_of_mem (List.mem_filter.2 ⟨hw, by simp [hn]⟩)
    simp [Run.needFull, h]
  · rw [(Slot.writes_link _ _ _ hl).1, Run.link_eq]
    exact ⟨rfl, (Slot.writes_link _ _ _ hl).2⟩
  · have h := (s.slotAt core slot).writes_other r (s.foldImgs.contains (s.slotAt core slot).ctl.imga.toNat) hw hl
    exact ⟨h.1, h.2 hm⟩
  · rw [Run.commitCtl_fpf]
    cases lastWritten r 1 <;> rfl
  · have hfold (h : x.1 = 7) : s.foldImgs.contains (s.slotAt core slot).ctl.imga.toNat = false := by simpa using h7 h
    rw [r.commitCtl_written _ hx hfold]
    cases lastWritten r x.1 <;> rfl
  · exact hpc.trans (Slot.leaves_pc hk')
  · exact (h.field State.mem fun _ _ _ _ => rfl).trans ((onlySlot_committed s core slot r).field State.mem fun _ _ _ => rfl)

end Sys2Proof.Machine
end

section
/-! The event of a block that commits with an enabled flag (spec/03_numbers.md R112; spec/06_lane_engine.md R199). -/

namespace Sys2Proof.Machine

open Claims

/-- The low 48 bits of an address. -/
theorem and_mask48 (a : W64) : a &&& 0xFFFFFFFFFFFF#64 = BitVec.ofNat 64 (a.toNat % 2 ^ 48) := by
  apply BitVec.eq_of_toNat_eq
  rw [BitVec.toNat_and, BitVec.toNat_ofNat, BitVec.toNat_ofNat, show 0xFFFFFFFFFFFF % 2 ^ 64 = 2 ^ 48 - 1 from rfl, Nat.and_two_pow_sub_one_eq_mod]
  omega

theorem Ctl.write_wid (x : Ctl) (folded : Bool) (n : Nat) (v : W64) : (x.write folded n v).wid = x.wid := by
  unfold Ctl.write
  split <;> cases folded <;> rfl

theorem foldl_write_wid (folded : Bool) (n : Nat × W64 → Nat) (ws : List (Nat × W64)) (x : Ctl) :
    (ws.foldl (fun x w => x.write folded (n w) w.2) x).wid = x.wid := by
  induction ws generalizing x with
  | nil => rfl
  | cons w ws ih => exact (ih _).trans (x.write_wid folded _ _)

@[simp] theorem Run.commitCtl_wid (r : Run) (x : Ctl) (folded : Bool) : (r.commitCtl x folded).wid = x.wid := by
  unfold Run.commitCtl
  exact (foldl_write_wid folded Prod.fst _ _).trans (foldl_write_wid folded (fun _ => 1) _ x)

section
variable {s : State} {core slot : Nat} {r : Run} {e : Exit}

/-- A block that has told its event, as the thread parks for it. -/
def Run.tells (r : Run) : Run := { r with told := true, park := !r.retires }

/-- An event goes out, and the thread is to park. -/
theorem State.tellEvent_tells (hr : s.runAt core slot = some r) (he : r.exit = some e) (hv : r.evt ≠ 0#6) (hn : r.told = false) :
    s.tellEvent core slot = (s.fpEvent core slot r r.eventNext r.evt false r.evtFpf r.evtTime).modRun core slot fun x => { x with told := true, park := !x.retires } := by
  simp [State.tellEvent, hr, he, State.lateEvent, hv, hn]

theorem State.tellEvent_runAt (hr : s.runAt core slot = some r) (he : r.exit = some e) (hv : r.evt ≠ 0#6) (hn : r.told = false) :
    (s.tellEvent core slot).runAt core slot = some r.tells := by
  rw [State.tellEvent_tells hr he hv hn, State.modRun_runAt_same]
  exact congrArg (Option.map _) hr

/-- What of a slot the event does not change. -/
theorem State.tellEvent_slotField {β : Type} (f : Slot → β) (hf : ∀ x r, f { x with run := r } = f x) (hr : s.runAt core slot = some r) (he : r.exit = some e)
    (hv : r.evt ≠ 0#6) (hn : r.told = false) : f ((s.tellEvent core slot).slotAt core slot) = f (s.slotAt core slot) := by
  rw [State.tellEvent_tells hr he hv hn, State.modRun_slotAt_same, hf]
  rfl

theorem Run.eventNext_eq (he : r.exit = some e) : r.eventNext = if e.kind = .retire then 0#64 else e.target := by
  obtain ⟨k, a⟩ := e
  cases k <;> simp [Run.eventNext, Run.retires, Run.tailPc, he]

theorem Run.retires_eq (he : r.exit = some e) : r.retires = decide (e.kind = .retire) := by simp [Run.retires, he]

/-- What a slot holds when its block is over, and that it stands there: parked for its event, or its continuation retired. -/
theorem State.settle_leaves {u : State} {x : Run} (he : x.exit = some e) (hx : u.runAt core slot = some x.tells) (hfail : (u.slotAt core slot).failed = [])
    (hev : (u.slotAt core slot).evp = false) :
    let t := (u.modSlot core slot fun sl => sl.leaves x.tells e).settle core slot
    let sl := t.slotAt core slot
    t.pkts = u.pkts ∧ sl.evp = decide (e.kind ≠ .retire) ∧ sl.run = none ∧ sl.pc = (if e.kind = .retire then x.addr else e.target) ∧
      sl.ending = (if e.kind = .susp then some .susp else if e.kind = .retire then some .retire else (u.slotAt core slot).ending) ∧
      sl.ctl = (u.slotAt core slot).ctl := by
  have hpark : ((u.slotAt core slot).evp || (u.slotAt core slot).run.any Run.park) = decide (e.kind ≠ .retire) := by
    rw [hev, ← State.runAt_eq, hx]
    simp [Run.tells, Run.retires_eq he]
  have hslot : (u.modSlot core slot fun sl => sl.leaves x.tells e).slotAt core slot = (u.slotAt core slot).leaves x.tells e := State.modSlot_slotAt_same ..
  have hstand : ((u.slotAt core slot).leaves x.tells e).held = true ∨ ((u.slotAt core slot).leaves x.tells e).ending.isSome = true := by
    by_cases hk : e.kind = .retire
    · right; simp [Slot.leaves, hk]
    · left; simp only [Slot.held, Slot.leaves, hpark]; simp [hk]
  have hends : ((u.slotAt core slot).leaves x.tells e).evp = decide (e.kind ≠ .retire) ∧
      ((u.slotAt core slot).leaves x.tells e).pc = (if e.kind = .retire then x.addr else e.target) ∧
      ((u.slotAt core slot).leaves x.tells e).ending = (if e.kind = .susp then some .susp else if e.kind = .retire then some .retire else (u.slotAt core slot).ending) := by
    refine ⟨hpark, ?_⟩
    obtain ⟨k, a⟩ := e
    cases k <;> exact ⟨rfl, rfl⟩
  intro t sl
  have ht := State.settle_stays (s := u.modSlot core slot fun sl => sl.leaves x.tells e) (core := core) (slot := slot)
    (by rw [hslot]; exact hfail) (by rw [hslot]; exact hstand)
  have hsl : sl.evp = ((u.slotAt core slot).leaves x.tells e).evp ∧ sl.run = none ∧ sl.pc = ((u.slotAt core slot).leaves x.tells e).pc ∧
      sl.ending = ((u.slotAt core slot).leaves x.tells e).ending ∧ sl.ctl = (u.slotAt core slot).ctl ∧ t.pkts = u.pkts := by
    unfold sl t
    rcases ht with h | h
    · rw [h, hslot]
      exact ⟨rfl, rfl, rfl, rfl, rfl, rfl⟩
    · rw [h, State.modSlot_slotAt_same, hslot]
      exact ⟨rfl, rfl, rfl, rfl, rfl, rfl⟩
  obtain ⟨hevp, hrun, hpc, hend, hctl, hpk⟩ := hsl
  exact ⟨hpk, hevp.trans hends.1, hrun, hpc.trans hends.2.1, hend.trans hends.2.2, hctl⟩

end

/-- The words of an event at a commit are those of Table 6-1. -/
theorem eventWords_eq (core slot : Nat) (r : Run) (next wid fpf : W64) (time : Nat) :
    [w64 (0x40 + coreSite core * 2 ^ 8 + coreNum core * 2 ^ 17 + slot * 2 ^ 21 + (enabledFlags r).toNat * 2 ^ 24 + false.toNat * 2 ^ 30),
      r.addr &&& 0xFFFFFFFFFFFF#64, next &&& 0xFFFFFFFFFFFF#64, wid, fpf, w64 time, 0#64, 0#64] = eventWords core slot r next wid fpf time := by
  rw [and_mask48, and_mask48, Bool.toNat_false, Nat.zero_mul, Nat.add_zero]
  unfold eventWords w64
  rfl

/-- A block that commits with a flag raised whose event is enabled sends one event, and its thread parks, is suspended, or is retired (R112, R199). -/
theorem floatEvents : FloatEvents := by
  intro s core slot r e hr hc ht hops hsups hfl htold hpark
  let u := s.committed core slot r
  have hou : OnlySlot s u core slot := onlySlot_committed s core slot r
  let x := r.commits (r.commitCtl (s.slotAt core slot).ctl (s.foldImgs.contains (s.slotAt core slot).ctl.imga.toNat)).fpf s.time
  have hux : u.runAt core slot = some x := State.committed_runAt ..
  have hxe : x.exit = some e := (commits_field Run.exit (fun _ _ _ _ _ _ _ _ _ _ _ => rfl) ..).trans hc.exit
  have hxt : x.told = false := (commits_field Run.told (fun _ _ _ _ _ _ _ _ _ _ _ => rfl) ..).trans htold
  have hxa : x.addr = r.addr := commits_field Run.addr (fun _ _ _ _ _ _ _ _ _ _ _ => rfl) ..
  have hxv : x.evt = enabledFlags r := eventFlags_eq r
  have hux' := State.tellEvent_runAt hux hxe (hxv ▸ hfl) hxt
  have hkeep {β : Type} (f : Slot → β) (hf : ∀ x c g h l r n m a, f { x with ctl := c, g := g, full := h, look := l, run := r, replays := n, looks := m, account := a } = f x) :
      f ((u.tellEvent core slot).slotAt core slot) = f (s.slotAt core slot) := by
    rw [State.tellEvent_slotField f (fun x r => hf x x.ctl x.g x.full x.look r x.replays x.looks x.account) hux hxe (hxv ▸ hfl) hxt,
      State.committed_slotField f fun x a => hf x x.ctl x.g x.full x.look x.run x.replays x.looks a,
      Slot.commits_regsField f fun x r n l m => hf x x.ctl x.g x.full l r n m x.account,
      Slot.commitRegs_field f fun x c g h l => hf x c g h l x.run x.replays x.looks x.account]
  have hctl : ((u.tellEvent core slot).slotAt core slot).ctl = r.commitCtl (s.slotAt core slot).ctl (s.foldImgs.contains (s.slotAt core slot).ctl.imga.toNat) := by
    rw [State.tellEvent_slotField Slot.ctl (fun _ _ => rfl) hux hxe (hxv ▸ hfl) hxt, State.committed_slotField Slot.ctl fun _ _ => rfl,
      Slot.commits_regsField Slot.ctl fun _ _ _ _ _ => rfl, Slot.commitRegs_ctl]
  have hover : s.blockCommit core slot = ((u.tellEvent core slot).modSlot core slot fun sl => sl.leaves x.tells e).settle core slot := by
    rw [complete_blockCommit hc hr, State.commit_eq, State.departed_noOps (fun i hi => by simp [ht.2 i] at hi) hops hsups]
    refine State.tailSettle_over hux' rfl ?_ ?_ rfl (.inr rfl) hxe
    · have hcyc : (u.tellEvent core slot).cyc core = s.cyc core := by
        rw [State.tellEvent_tells hux hxe (hxv ▸ hfl) hxt]
        exact hou.field (State.cyc · core) fun _ _ _ => rfl
      rw [hcyc]
      have hlive : (x.live (s.cyc core)).any id = false := commits_live hc.atRest ht _ _
      exact hlive
    · have hin : x.inTail = r.inTail := commits_field Run.inTail (fun _ _ _ _ _ _ _ _ _ _ _ => rfl) _ _ _
      exact hin.trans ht.1
  have hevp0 : (s.slotAt core slot).evp = false := by
    have h := hc.begun.2.1
    simp only [Slot.held, Bool.or_eq_false_iff] at h
    exact h.2
  obtain ⟨hpk, hevp, hrun, hpc, hend, hct⟩ := State.settle_leaves hxe hux'
    ((hkeep Slot.failed fun _ _ _ _ _ _ _ _ _ => rfl).trans hc.begun.2.2.2.2)
    ((hkeep Slot.evp fun _ _ _ _ _ _ _ _ _ => rfl).trans hevp0)
  refine ⟨_, exec_blockCommit s core slot, ?_⟩
  dsimp only
  rw [hover, hct, hctl]
  refine ⟨hpk.trans ?_, ?_, hrun, by rw [hpc, hxa], hend.trans ?_⟩
  · have hwid : (u.slotAt core slot).ctl.wid = (s.slotAt core slot).ctl.wid := by
      rw [State.committed_slotField (fun x => x.ctl.wid) fun _ _ => rfl, Slot.commits_regsField (fun x => x.ctl.wid) fun _ _ _ _ _ => rfl, Slot.commitRegs_ctl,
        Run.commitCtl_wid]
    have hid := hou.field State.nextId fun _ _ _ => rfl
    have hpkts := hou.field State.pkts fun _ _ _ => rfl
    have hsite := hou.field (State.siteAt · (coreSite core)) fun _ _ _ => rfl
    have htime := hou.field State.time fun _ _ _ => rfl
    rw [State.tellEvent_tells hux hxe (hxv ▸ hfl) hxt, ← eventWords_eq, ← hwid, ← Run.eventNext_eq hxe, ← hxa, ← hxv, ← hid, ← hpkts, ← hsite, ← htime]
    rw [Nat.mul_comm (coreSite core) 16]
    rfl
  · rw [hevp]; simp
  · rw [hkeep Slot.ending fun _ _ _ _ _ _ _ _ _ => rfl]

end Sys2Proof.Machine
end

section
/-! A fault discards its block; a block that nothing can complete (spec/05_block_engine.md R153, R174, R175). -/

namespace Sys2Proof.Machine

open Claims

section
variable {s : State} {core slot : Nat} {r : Run}

/-- The slot of a block that has taken a fault, but for the packet it keeps. -/
def Slot.faults (sl : Slot) (r : Run) (cause ix : Nat) (repl : Bool) (now : Nat) : Slot :=
  { sl with
    run := none, look := none, pc := r.addr, replays := 0, tailBit := false
    frz := if repl then sl.frz else true
    rty := if repl then true else sl.rty
    cause := BitVec.ofNat 8 cause, index := BitVec.ofNat 7 ix, faultAt := some now }

/-- The core of a block that has taken a fault. -/
def Core.faults (k : Core) (slot : Nat) : Core := (k.dropPrio slot).dropTurn slot

theorem Core.faults_lcid (k : Core) (slot : Nat) : (k.faults slot).lcid = k.lcid := by
  have h (x : Core) : (x.dropTurn slot).lcid = x.lcid := by
    unfold Core.dropTurn
    split
    · exact apply_ite_eq Core.lcid rfl rfl
    · rfl
  unfold Core.faults
  rw [h]
  unfold Core.dropPrio
  exact apply_ite_eq Core.lcid rfl rfl

@[simp] theorem State.sendPkt_slots (s : State) (site core slot : Nat) (ws : List W64) : (s.sendPkt site core slot ws).slots = s.slots := rfl
@[simp] theorem State.sendPkt_slotAt (s : State) (site core slot : Nat) (ws : List W64) (c q : Nat) : (s.sendPkt site core slot ws).slotAt c q = s.slotAt c q := rfl

/-- A block discarded and its thread frozen, before its packet goes out. -/
def State.frozen (s : State) (core slot : Nat) (r : Run) (cause ix : Nat) (repl : Bool) : State :=
  ((s.withdraw core slot).modCore core (Core.faults · slot)).modSlot core slot fun sl => sl.faults r cause ix repl (s.cyc core)

@[simp] theorem State.frozen_slotAt (s : State) (core slot : Nat) (r : Run) (cause ix : Nat) (repl : Bool) :
    (s.frozen core slot r cause ix repl).slotAt core slot = (s.slotAt core slot).faults r cause ix repl (s.cyc core) := by
  rw [State.frozen, State.modSlot_slotAt_same]
  rfl

/-- A fault of an uncommitted block, where no failure waits to be reported. -/
theorem State.raise_eq (hr : s.runAt core slot = some r) (ht : r.tail = false) (hf : (s.slotAt core slot).failed = []) (cause ix : Nat) (repl : Bool) (va info : Nat) :
    s.raise core slot cause ix repl va info = (s.frozen core slot r cause ix repl).faultPkt core slot cause ix false repl va info := by
  have hd : s.discard core slot = ((s.withdraw core slot).modCore core (Core.faults · slot)).modSlot core slot
      fun sl => { sl with run := none, look := none, pc := r.addr } := by
    simp only [State.discard, hr]
    rfl
  have hslot : (s.withdraw core slot).slotAt core slot = s.slotAt core slot := rfl
  have htell : (s.discard core slot).tellFailed core slot = s.discard core slot := by
    rw [State.tellFailed, hd, State.modSlot_slotAt_same, State.modCore_slotAt, hslot]
    simp only [hf]
  unfold State.raise
  simp only [hr, ht, Bool.false_eq_true, if_false, htell]
  rw [hd, State.freezeWith, State.modSlot_modSlot]
  rfl

/-- The words of a fault's packet are those of Table 14-2. -/
theorem State.packetWords_eq (s : State) (core slot cause ix : Nat) (repl : Bool) (pc : W64) (va info : Nat) (sl : Slot) :
    packetWords 0x41 (coreSite core) (coreNum core) slot cause ix false repl false pc.toNat va sl.ctl.wid info s.time (s.coreAt core).lcid sl.ctl.vcore.toNat =
      faultWords s core slot cause ix repl pc va info sl := by
  unfold packetWords faultWords w64
  have h : (if repl = true then 2 ^ 40 else 0) = repl.toNat * 2 ^ 40 := by
    cases repl
    · exact (Nat.zero_mul _).symm
    · exact (Nat.one_mul _).symm
  rw [h, Bool.toNat_false, Nat.zero_mul, Nat.zero_mul, Nat.add_zero, Nat.add_zero]

/-- The packet of a frozen thread has the words of Table 14-2. -/
theorem State.frozen_words (s : State) (core slot : Nat) (r : Run) (cause ix : Nat) (repl : Bool) (va info : Nat) :
    (let u := s.frozen core slot r cause ix repl
     let sl := u.slotAt core slot
     packetWords 0x41 (coreSite core) (coreNum core) slot cause ix false repl false sl.pc.toNat va sl.ctl.wid info u.time (u.coreAt core).lcid sl.ctl.vcore.toNat) =
      faultWords s core slot cause ix repl r.addr va info (s.slotAt core slot) := by
  have hl : ((s.frozen core slot r cause ix repl).coreAt core).lcid = (s.coreAt core).lcid := by
    unfold State.frozen
    rw [State.modSlot_coreAt, State.modCore_coreAt_same, Core.faults_lcid]
    rfl
  rw [← State.packetWords_eq, ← hl]
  dsimp only
  rw [State.frozen_slotAt]
  rfl

/-- An uncommitted block whose thread has no failure to report takes a fault as R174 says. -/
theorem faultTaken_raise (hr : s.runAt core slot = some r) (ht : r.tail = false) (hf : (s.slotAt core slot).failed = []) (cause ix : Nat) (repl : Bool) (va info : Nat) :
    FaultTaken s (s.raise core slot cause ix repl va info) core slot r cause ix repl va info := by
  have hw := s.frozen_words core slot r cause ix repl va info
  dsimp only at hw
  rw [State.raise_eq hr ht hf]
  unfold State.faultPkt
  dsimp only
  rw [hw]
  refine ⟨?_, ?_, fun q hq => ?_, fun q hq hn => ?_, fun k hk => ?_, rfl⟩
  · rw [State.sendPkt_slotAt, State.modSlot_slotAt_same, State.frozen_slotAt]
    rfl
  · unfold State.sendPkt State.riderCore coreOf
    rw [Nat.mul_comm 16]
    rfl
  · have h := List.mem_filter.1 (show q ∈ s.reqs.filter fun q => !q.ofBlock core slot from hq)
    refine ⟨h.1, fun hn => ?_⟩
    simp [Req.ofBlock, hn] at h
  · refine (List.mem_filter.2 ⟨hq, ?_⟩ : q ∈ s.reqs.filter fun q => !q.ofBlock core slot)
    rw [Bool.not_eq_true', Bool.eq_false_iff]
    exact fun hb => hn (by simpa [Req.ofBlock, and_assoc] using hb)
  · rw [State.sendPkt_slots]
    exact ((onlySlot_modSlot (s.frozen core slot r cause ix repl) core slot _).others k hk).trans
      ((onlySlot_modSlot ((s.withdraw core slot).modCore core (Core.faults · slot)) core slot _).others k hk)

end

/-- A block that cannot complete any more raises 0x22 (R153). -/
theorem blockIncomplete : BlockIncomplete := by
  intro s core slot r hr hnull htail hheld hfail hfrom hq he ht
  refine ⟨_, exec_blockCommit s core slot, ?_⟩
  have htest : s.commitTest core slot r = .faults 0x22 127 := by
    unfold State.commitTest
    simp [htail, hheld, hfrom.not_gt, hq, he, ht]
  have hb : s.blockCommit core slot = (s.modRun core slot fun _ => r).raise core slot 0x22 127 false 0 0 := by
    simp [State.blockCommit, hr, Run.withNulls_eq hnull, htest]
  have hslot : (s.modRun core slot fun _ => r).slotAt core slot = s.slotAt core slot := by
    rw [State.modRun_slotAt_same, ← State.runAt_eq, hr]
    exact congrArg (fun x => { s.slotAt core slot with run := x }) hr.symm
  rw [hb]
  obtain ⟨h1, h2, h3, h4, h5, h6⟩ := faultTaken_raise (s := s.modRun core slot fun _ => r) (core := core) (slot := slot) (r := r)
    (by rw [State.runAt_eq, hslot]; exact hr) htail (by rw [hslot]; exact hfail) 0x22 127 false 0 0
  rw [hslot] at h1 h2
  exact ⟨h1, h2, h3, h4, fun k hk => (h5 k hk).trans ((onlySlot_modRun s core slot fun _ => r).others k hk), h6⟩

end Sys2Proof.Machine
end

section
/-! What leaves the core for memory as a block commits, and a block whose tail begins (spec/05_block_engine.md R152, R155). -/

namespace Sys2Proof.Machine

open Claims

/-- From s to t forms of the block of one slot have left the core for memory: requests are added or marked, and registers of the slot become empty. -/
structure LeftForMemory (s t : State) (core slot : Nat) : Prop where
  rest : { t with slots := s.slots, reqs := s.reqs, nextId := s.nextId } = s
  others : ∀ k, k ≠ slotKey core slot → mget t.slots k {} = mget s.slots k {}
  thread : { t.slotAt core slot with full := (s.slotAt core slot).full } = s.slotAt core slot
  empty : ∀ n, (s.slotAt core slot).full.getLsbD n = false → (t.slotAt core slot).full.getLsbD n = false

section
variable {s t u : State} {core slot : Nat} {r : Run} {e : Exit}

theorem LeftForMemory.refl (s : State) (core slot : Nat) : LeftForMemory s s core slot := ⟨rfl, fun _ _ => rfl, rfl, fun _ h => h⟩

theorem LeftForMemory.trans (h : LeftForMemory s t core slot) (h' : LeftForMemory t u core slot) : LeftForMemory s u core slot where
  rest := (congrArg (fun x : State => { x with slots := s.slots, reqs := s.reqs, nextId := s.nextId }) h'.rest).trans h.rest
  others := fun k hk => (h'.others k hk).trans (h.others k hk)
  thread := (congrArg (fun x : Slot => { x with full := (s.slotAt core slot).full }) h'.thread).trans h.thread
  empty := fun n hn => h'.empty n (h.empty n hn)

theorem LeftForMemory.field (h : LeftForMemory s t core slot) {β : Type} (f : State → β)
    (hf : ∀ (x : State) m q n, f { x with slots := m, reqs := q, nextId := n } = f x) : f t = f s :=
  (hf t s.slots s.reqs s.nextId).symm.trans (congrArg f h.rest)

theorem LeftForMemory.slotField (h : LeftForMemory s t core slot) {β : Type} (f : Slot → β) (hf : ∀ x m, f { x with full := m } = f x) :
    f (t.slotAt core slot) = f (s.slotAt core slot) :=
  (hf _ (s.slotAt core slot).full).symm.trans (congrArg f h.thread)

theorem leftForMemory_reqs (s : State) (core slot n : Nat) (q : List Req) : LeftForMemory s { s with reqs := q, nextId := n } core slot :=
  ⟨rfl, fun _ _ => rfl, rfl, fun _ h => h⟩

theorem leftForMemory_markEmpty (s : State) (core slot n : Nat) : LeftForMemory s (s.modSlot core slot fun sl => sl.markEmpty n) core slot := by
  refine ⟨rfl, (onlySlot_modSlot s core slot _).others, by rw [State.modSlot_slotAt_same]; rfl, fun m hm => ?_⟩
  rw [State.modSlot_slotAt_same, Slot.markEmpty, BitVec.getLsbD_and, hm, Bool.false_and]

theorem leftForMemory_issueMem (s : State) (core slot : Nat) (sl : Slot) (r : Run) (op : Op) (k : MemKind) :
    LeftForMemory s (s.issueMem core slot sl r op k) core slot := by
  unfold State.issueMem
  split_ifs
  · exact .refl ..
  · exact leftForMemory_reqs ..
  · dsimp only
    split
    · exact (leftForMemory_reqs s core slot _ _).trans (leftForMemory_markEmpty ..)
    · exact leftForMemory_reqs ..

theorem leftForMemory_ops {ops : List (Nat × Op)} (h : ∀ o ∈ ops, ∃ k, o.2.kind = .mem k) (s : State) (core slot : Nat) (sl : Slot) (r : Run) :
    LeftForMemory s (ops.foldl (fun u e => u.issueOp core slot sl r e.2) s) core slot := by
  induction ops generalizing s with
  | nil => exact .refl ..
  | cons o ops ih =>
    obtain ⟨k, hk⟩ := h o (by simp)
    have ho : s.issueOp core slot sl r o.2 = s.issueMem core slot sl r o.2 k := by simp [State.issueOp, hk]
    exact (ho ▸ leftForMemory_issueMem s core slot sl r o.2 k).trans (ih (fun o ho => h o (by simp [ho])) _)

end

theorem slotKey_ne {core n slot : Nat} (h : n ≠ slot) : slotKey core n ≠ slotKey core slot := by
  unfold slotKey
  omega

/-- The registers that a tail writes are empty after the commit. -/
theorem Slot.commitRegs_tailRegs (sl : Slot) (r : Run) (folded : Bool) {n : Nat} (hn : n ∈ r.tailRegs) (h : n < 64) :
    (sl.commitRegs r folded).full.getLsbD n = false := by
  unfold Slot.commitRegs
  refine apply_ite_eq (fun x : Slot => x.full.getLsbD n) ?_ ?_ <;>
    exact (foldl_markEmpty_getLsbD _ _ h).trans (by simp [hn])

/-- The tail of a block with performing forms begins as it commits (R152, R155). -/
theorem tailStarts : TailStarts := by
  intro s core slot r e hr hc hsups halone hops ⟨i, hi⟩ hready hfl
  let u := s.committed core slot r
  let x := r.commits (r.commitCtl (s.slotAt core slot).ctl (s.foldImgs.contains (s.slotAt core slot).ctl.imga.toNat)).fpf s.time
  let t := r.ops.foldl (fun u e => u.issueOp core slot (s.slotAt core slot) r e.2) u
  have hou : OnlySlot s u core slot := onlySlot_committed s core slot r
  have hut : LeftForMemory u t core slot := leftForMemory_ops hops u core slot _ r
  have hx : t.runAt core slot = some x := (hut.slotField Slot.run fun _ _ => rfl).trans (State.committed_runAt ..)
  have hwait (j : Nat) (hj : r.performsAt j = true) : (x.inst j).st = .wait s.time := by
    have h := foldl_awaits_inst s.time r r.words.length j
    rw [if_pos ⟨Run.performsAt_lt hj, hj, hready j hj⟩] at h
    exact congrArg Inst.st h
  have hdep : s.departed u core slot r = t := by
    rw [State.departed_eq _ _ _ _ _ hsups, State.nullTokens_eq fun i hi => by simp [hready i hi]]
    refine State.replaySiblings_eq (.inr fun n hn hne => ?_)
    have h : t.slotAt core n = s.slotAt core n := (hut.others _ (slotKey_ne hne)).trans (hou.slotAt (slotKey_ne hne))
    rw [State.runAt_eq, h]
    exact halone n hn hne
  have hlive : (x.live (t.cyc core)).any id = true := by
    have hw : x.words = r.words := commits_field Run.words (fun _ _ _ _ _ _ _ _ _ _ _ => rfl) _ _ _
    have hlt : i < x.words.length := hw ▸ Run.performsAt_lt hi
    have h := Run.live_wait hlt (hwait i hi) (t.cyc core)
    have hl : i < (x.live (t.cyc core)).length := by rwa [Run.live_length]
    refine List.any_eq_true.2 ⟨_, List.getElem_mem hl, ?_⟩
    simpa [List.getD, hl] using h
  have hst : s.blockCommit core slot = t := by
    rw [complete_blockCommit hc hr, State.commit_eq, hdep, State.tellEvent_eq hx ((eventFlags_eq r).trans hfl)]
    simp [State.tailSettle, hx, hlive]
  refine ⟨_, x, exec_blockCommit s core slot, ?_⟩
  rw [hst]
  refine ⟨hx, rfl, rfl, commits_field Run.addr (fun _ _ _ _ _ _ _ _ _ _ _ => rfl) _ _ _, commits_field Run.exit (fun _ _ _ _ _ _ _ _ _ _ _ => rfl) _ _ _,
    hwait, fun n hn h => hut.empty n ?_, ?_, ?_⟩
  · rw [State.committed_slotField Slot.full fun _ _ => rfl, Slot.commits_regsField Slot.full fun _ _ _ _ _ => rfl]
    exact Slot.commitRegs_tailRegs _ _ _ hn h
  · rw [hut.slotField Slot.pc fun _ _ => rfl, State.committed_slotField Slot.pc fun _ _ => rfl, Slot.commits_regsField Slot.pc fun _ _ _ _ _ => rfl,
      Slot.commitRegs_field Slot.pc fun _ _ _ _ _ => rfl]
  · exact (hut.field State.mem fun _ _ _ _ => rfl).trans (hou.field State.mem fun _ _ _ => rfl)

end Sys2Proof.Machine
end

section
/-! What an engine command asks for as it leaves its core: translations and lines (spec/04_ordering.md R131; spec/07_slice_engine.md R208 to R210). -/

namespace Sys2Proof.Machine

open Claims

/-- From s to t lines have been translated and asked for: caches are filled, errors corrected or counted, and requests sent. No slot, basin or engine has changed,
and of a core its counters of errors alone. -/
structure Asked (s t : State) : Prop where
  slots : t.slots = s.slots
  basins : t.basins = s.basins
  engines : t.mats = s.mats ∧ t.copies = s.copies ∧ t.hvs = s.hvs
  cores : ∀ k, { t.coreAt k with ce := (s.coreAt k).ce, ue := (s.coreAt k).ue, ulast := (s.coreAt k).ulast } = s.coreAt k

section
variable {s t u : State}

theorem Asked.refl (s : State) : Asked s s := ⟨rfl, rfl, ⟨rfl, rfl, rfl⟩, fun _ => rfl⟩

theorem Asked.trans (h : Asked s t) (h' : Asked t u) : Asked s u where
  slots := h'.slots.trans h.slots
  basins := h'.basins.trans h.basins
  engines := ⟨h'.engines.1.trans h.engines.1, h'.engines.2.1.trans h.engines.2.1, h'.engines.2.2.trans h.engines.2.2⟩
  cores k := (congrArg (fun x : Core => { x with ce := (s.coreAt k).ce, ue := (s.coreAt k).ue, ulast := (s.coreAt k).ulast }) (h'.cores k)).trans (h.cores k)

theorem Asked.coreField (h : Asked s t) {β : Type} (f : Core → β) (hf : ∀ (x : Core) a b c, f { x with ce := a, ue := b, ulast := c } = f x) (k : Nat) :
    f (t.coreAt k) = f (s.coreAt k) :=
  (hf (t.coreAt k) _ _ _).symm.trans (congrArg f (h.cores k))

theorem Corrected.asked (h : Corrected s t) : Asked s t where
  slots := h.field State.slots fun _ _ _ _ => rfl
  basins := h.field State.basins fun _ _ _ _ => rfl
  engines := ⟨h.field State.mats fun _ _ _ _ => rfl, h.field State.copies fun _ _ _ _ => rfl, h.field State.hvs fun _ _ _ _ => rfl⟩
  cores k := congrArg (fun x : Core => { x with ue := (s.coreAt k).ue, ulast := (s.coreAt k).ulast }) (h.cores k)

theorem asked_setSite (s : State) (n : Nat) (v : Site) : Asked s (s.setSite n v) := ⟨rfl, rfl, ⟨rfl, rfl, rfl⟩, fun _ => rfl⟩

theorem asked_countUe (s : State) (pa : Nat) : Asked s (s.countUe pa) := by
  unfold State.countUe
  dsimp only
  split
  · exact asked_setSite ..
  · refine ⟨rfl, rfl, ⟨rfl, rfl, rfl⟩, fun k => ?_⟩
    rw [State.setCore_coreAt]
    split_ifs with e
    · rw [e]
    · rfl

theorem asked_afterWalk (s : State) (b root va : Nat) : Asked s (s.afterWalk b root va) := by
  have h := (corrected_correct s (s.walkReads b root va)).asked
  unfold State.afterWalk
  dsimp only
  split
  · exact h
  · split_ifs
    · exact h.trans (asked_countUe ..)
    · exact h

theorem asked_fillL1 (s : State) (core asn vpn leaf : Nat) : Asked s (s.fillL1 core asn vpn leaf) := ⟨rfl, rfl, ⟨rfl, rfl, rfl⟩, fun _ => rfl⟩
theorem asked_fillL2 (s : State) (b asn vpn leaf : Nat) : Asked s (s.fillL2 b asn vpn leaf) := ⟨rfl, rfl, ⟨rfl, rfl, rfl⟩, fun _ => rfl⟩

theorem asked_touchL1 (s : State) (sp : Space) (va : Nat) : Asked s (s.touchL1 sp va) := by
  unfold State.touchL1
  split
  · exact .refl s
  · split
    · exact asked_fillL1 ..
    · exact .refl s

theorem asked_xlate (s : State) (sp : Space) (va : Nat) (need : Need) : Asked s (s.xlate sp va need).2 := by
  unfold State.xlate
  split
  · dsimp only
    split
    · exact (asked_fillL2 ..).trans (asked_fillL1 ..)
    · split
      · exact ((asked_afterWalk ..).trans (asked_fillL2 ..)).trans (asked_fillL1 ..)
      · exact asked_afterWalk ..
  · exact asked_touchL1 ..

theorem asked_engineXl (s : State) (sp : Space) (va : Nat) (need : Need) : Asked s (s.engineXl sp va need).2 := by
  have h := asked_xlate s sp va need
  unfold State.engineXl State.engineAt
  split <;> simp_all

theorem asked_aimLine (s : State) (sp : Space) (lw : LineWrite) : Asked s (s.aimLine sp lw).2 := by
  have h := asked_engineXl s sp lw.va .write
  unfold State.aimLine
  split <;> simp_all

theorem asked_aimLines (sp : Space) (ls : List LineWrite) (s : State) : Asked s (s.aimLines sp ls).2 := by
  induction ls generalizing s with
  | nil => exact .refl s
  | cons l ls ih => exact (asked_aimLine s sp l).trans (ih _)

theorem asked_askLines (c : Cmd) (ls : List LineWrite) (s : State) : Asked s (s.askLines c ls) := by
  induction ls generalizing s with
  | nil => exact .refl s
  | cons l ls ih =>
    unfold State.askLines
    refine .trans ?_ (ih _)
    split_ifs
    · exact .refl s
    · exact ⟨rfl, rfl, ⟨rfl, rfl, rfl⟩, fun _ => rfl⟩

theorem asked_askPeer (s : State) (c : Cmd) (va : Nat) : Asked s (s.askPeer c va) := by
  unfold State.askPeer
  split
  · exact .refl s
  · unfold State.peerSend
    dsimp only
    split_ifs <;> exact ⟨rfl, rfl, ⟨rfl, rfl, rfl⟩, fun _ => rfl⟩

theorem asked_askPeers (c : Cmd) (ls : List LineWrite) (s : State) : Asked s (ls.foldl (fun s lw => s.askPeer c lw.va) s) := by
  induction ls generalizing s with
  | nil => exact .refl s
  | cons l ls ih => exact (asked_askPeer s c l.va).trans (ih _)

theorem asked_copyLines (s : State) (c : Cmd) (fe : Option Bool) : Asked s (s.copyLines c fe).2 := by
  unfold State.copyLines
  dsimp only
  split
  · exact .refl s
  · exact .refl s
  · split_ifs
    · exact .refl s
    · exact asked_aimLines ..

theorem asked_askCopyAtCommit (s : State) (c : Cmd) : Asked s (s.askCopyAtCommit c) := by
  have h := asked_copyLines s c none
  unfold State.askCopyAtCommit State.askCopy
  dsimp only
  split_ifs
  · exact .refl s
  · exact .refl s
  · exact h.trans (asked_askLines ..)
  · exact h.trans (asked_askPeers ..)
  · exact h

theorem asked_askDrain (s : State) (c : Cmd) : Asked s (s.askDrain c) := by
  unfold State.askDrain
  split_ifs
  · exact (asked_aimLines ..).trans (asked_askLines ..)
  · exact .refl s

theorem asked_askHv (s : State) (c : Cmd) : Asked s (s.askHv c) := by
  unfold State.askHv
  split_ifs
  · exact (asked_aimLines ..).trans (asked_askLines ..)
  · exact .refl s

end

end Sys2Proof.Machine
end

section
/-! What leaves the core as a block without a tail commits: its stores, or its engine command (spec/05_block_engine.md R150, R155; spec/01_organisation.md R43). -/

namespace Sys2Proof.Machine

open Claims

section
variable {s : State} {core slot : Nat} {r : Run} {e : Exit}

/-- The machine as what a block leaves has left its core. -/
def State.issued (s : State) (core slot : Nat) (r : Run) : State :=
  r.ops.foldl (fun u e => u.issueOp core slot (s.slotAt core slot) r e.2) (s.committed core slot r)

/-- From s to t nothing has changed that a slot's end depends on: the clks, the other slots, and of the slot all but what registers are full. -/
structure KeepsThread (s t : State) (core slot : Nat) : Prop where
  basins : t.basins = s.basins
  others : ∀ k, k ≠ slotKey core slot → mget t.slots k {} = mget s.slots k {}
  thread : { t.slotAt core slot with full := (s.slotAt core slot).full } = s.slotAt core slot

theorem KeepsThread.slotField {s t : State} (h : KeepsThread s t core slot) {β : Type} (f : Slot → β) (hf : ∀ x m, f { x with full := m } = f x) :
    f (t.slotAt core slot) = f (s.slotAt core slot) :=
  (hf _ (s.slotAt core slot).full).symm.trans (congrArg f h.thread)

/-- A complete block without a tail, alone on its core, commits: once what it leaves has left, it is over, and its slot moves on. -/
theorem movesOn_departs (hr : s.runAt core slot = some r) (hc : Complete s core slot r e) (ht : Tailless r) (hsups : r.sups = [])
    (halone : ∀ n, n < 8 → n ≠ slot → s.runAt core n = none) (hfl : enabledFlags r = 0#6)
    (hk : KeepsThread (s.committed core slot r) (s.issued core slot r) core slot) :
    ∃ x : Run, MovesOn ((s.issued core slot r).modSlot core slot fun sl => sl.leaves x e) (s.blockCommit core slot) core slot := by
  have hou := onlySlot_committed s core slot r
  have hx : (s.issued core slot r).runAt core slot = some _ := (hk.slotField Slot.run fun _ _ => rfl).trans (State.committed_runAt ..)
  have hdep : s.departed (s.committed core slot r) core slot r = s.issued core slot r := by
    rw [State.departed_eq _ _ _ _ _ hsups, State.nullTokens_eq fun i hi => by simp [ht.2 i] at hi]
    refine State.replaySiblings_eq (.inr fun n hn hne => ?_)
    have h : (s.issued core slot r).slotAt core n = s.slotAt core n := (hk.others _ (slotKey_ne hne)).trans (hou.slotAt (slotKey_ne hne))
    exact (congrArg Slot.run h).trans (halone n hn hne)
  have hcyc : (s.issued core slot r).cyc core = s.cyc core :=
    (congrArg (fun b => (mget b (coreBasin core) ({} : Basin)).cyc) hk.basins).trans (hou.field (State.cyc · core) fun _ _ _ => rfl)
  refine ⟨r.commits (r.commitCtl (s.slotAt core slot).ctl (s.foldImgs.contains (s.slotAt core slot).ctl.imga.toNat)).fpf s.time, ?_⟩
  rw [complete_blockCommit hc hr, State.commit_eq, hdep, State.tellEvent_eq hx ((eventFlags_eq r).trans hfl)]
  exact movesOn_tailSettle hc ht hfl hx hcyc ((hk.slotField Slot.failed fun _ _ => rfl).trans (committed_failed hc))

/-! ### Stores -/

/-- A plain store leaves as a request. -/
theorem issueOp_store {v : State} {op : Op} {n i : Nat} (hk : op.kind = .mem (.st n)) (sl : Slot) (hid : v.nextId = s.nextId + i) (htime : v.time = s.time)
    (hcyc : v.cyc core = s.cyc core) :
    v.issueOp core slot sl r op = { v with nextId := s.nextId + (i + 1), reqs := v.reqs ++ [departing s core slot r (.st n) op i] } := by
  simp [State.issueOp, State.issueMem, hk, MemKind.reserves, State.bump, departing, hid, htime, hcyc, Nat.add_assoc]

/-- The kind of a form of the slice engine. -/
def Op.memKind (op : Op) : MemKind := match op.kind with | .mem k => k | _ => .probe

/-- Plain stores leave one after another, in their order. -/
theorem issueStores {ops : List (Nat × Op)} (hops : ∀ o ∈ ops, ∃ n, o.2.kind = .mem (.st n)) (sl : Slot) {v : State} {i : Nat} (hid : v.nextId = s.nextId + i)
    (htime : v.time = s.time) (hcyc : v.cyc core = s.cyc core) :
    (ops.foldl (fun u e => u.issueOp core slot sl r e.2) v).reqs =
      v.reqs ++ (ops.zipIdx i).map fun o => departing s core slot r o.1.2.memKind o.1.2 o.2 := by
  induction ops generalizing v i with
  | nil => simp
  | cons o ops ih =>
    obtain ⟨n, hn⟩ := hops o (by simp)
    have hk : o.2.memKind = .st n := by simp [Op.memKind, hn]
    have h := ih (fun o ho => hops o (by simp [ho])) (i := i + 1)
      (v := { v with nextId := s.nextId + (i + 1), reqs := v.reqs ++ [departing s core slot r (.st n) o.2 i] }) rfl htime hcyc
    rw [List.foldl_cons, issueOp_store hn sl hid htime hcyc, h, List.zipIdx_cons, List.map_cons, hk, List.append_assoc]
    rfl

/-! ### Commands -/

/-- The machine as a command has left its core, before its lines are asked for. -/
def State.pushed (u : State) (core slot : Nat) (c : Cmd) (op : Op) : State :=
  let t := (u.bump.tagUp core c.tag).pushIntake c
  if c.kind.isFill then t.modSlot core slot fun sl => sl.markEmpty op.reg else t

/-- An engine command as it leaves its core. -/
def State.command (s : State) (core slot : Nat) (sl : Slot) (r : Run) (op : Op) (k : CmdKind) : Cmd :=
  { id := s.nextId, kind := k, v := op.v, core := core, slot := slot, seq := r.seq, lsid := op.lsid, l := op.l, r := op.r,
    fpc := r.fpc, nanm := r.nanm, mfmt := sl.ctl.mfmt, msca := sl.ctl.msca, mscb := sl.ctl.mscb, hvc := sl.ctl.hvc,
    sp := sl.space core slot, grp := sl.group, wid := sl.ctl.wid, tag := s.physTag core sl.group (bits op.r.toNat 5 0), reg := op.reg,
    iw := r.words.getD op.ix 0 }

theorem issueCmd_asked (u : State) (core slot : Nat) (sl : Slot) (r : Run) (op : Op) (k : CmdKind) :
    Asked (u.pushed core slot (u.command core slot sl r op k) op) (u.issueCmd core slot sl r op k) := by
  unfold State.issueCmd
  extract_lets g c s1 s2
  have h : s2 = u.pushed core slot (u.command core slot sl r op k) op := rfl
  rw [← h]
  clear_value s2 c
  split
  · exact asked_askDrain ..
  · exact asked_askDrain ..
  · exact asked_askHv ..
  · exact asked_askHv ..
  · split_ifs
    · exact asked_askCopyAtCommit ..
    · exact .refl _

theorem keepsThread_asked {u v w : State} (h : KeepsThread u v core slot) (h' : Asked v w) : KeepsThread u w core slot where
  basins := h'.basins.trans h.basins
  others k hk := (congrArg (mget · k {}) h'.slots).trans (h.others k hk)
  thread := by
    have e : w.slotAt core slot = v.slotAt core slot := congrArg (fun m => mget m (slotKey core slot) ({} : Slot)) h'.slots
    rw [e]
    exact h.thread

section
variable (u : State) (c : Cmd)

theorem tagUp_rest (core t : Nat) : { u.tagUp core t with cores := u.cores } = u := by
  unfold State.tagUp
  split_ifs <;> rfl

theorem tagUp_field (core t : Nat) {β : Type} (f : State → β) (hf : ∀ (x : State) m, f { x with cores := m } = f x) : f (u.tagUp core t) = f u :=
  (hf _ u.cores).symm.trans (congrArg f (tagUp_rest u core t))

theorem pushIntake_field {β : Type} (f : State → β) (hf : ∀ (x : State) m c h, f { x with mats := m, copies := c, hvs := h } = f x) : f (u.pushIntake c) = f u := by
  unfold State.pushIntake
  split <;> exact hf _ _ _ _

theorem intakeOf_pushIntake : intakeOf (u.pushIntake c) c.core c.kind.engine = intakeOf u c.core c.kind.engine ++ [c] := by
  unfold State.pushIntake
  cases h : c.kind.engine <;> simp [intakeOf]

end

theorem intakeOf_congr {u v : State} (h : v.mats = u.mats ∧ v.copies = u.copies ∧ v.hvs = u.hvs) (core : Nat) (g : EngineId) :
    intakeOf v core g = intakeOf u core g := by
  obtain ⟨hm, hc, hh⟩ := h
  cases g
  · exact congrArg (fun m => (mget m core ({} : MatEng)).intake) hm
  · exact congrArg (fun m => (mget m core ({} : CopyEng)).intake) hc
  · exact congrArg (fun m => (mget m core ({} : HvEng)).intake) hh

/-- A command pushed is the last of its engine's intake, and counts on its tag. -/
theorem pushed_intake (u : State) (slot : Nat) (c : Cmd) (op : Op) :
    intakeOf (u.pushed c.core slot c op) c.core c.kind.engine = intakeOf u c.core c.kind.engine ++ [c] := by
  have h : intakeOf (u.pushed c.core slot c op) c.core c.kind.engine = intakeOf ((u.bump.tagUp c.core c.tag).pushIntake c) c.core c.kind.engine := by
    unfold State.pushed
    dsimp only
    split_ifs
    · exact intakeOf_congr ⟨rfl, rfl, rfl⟩ _ _
    · rfl
  rw [h, intakeOf_pushIntake]
  refine congrArg (· ++ [c]) (intakeOf_congr ⟨?_, ?_, ?_⟩ _ _) <;> exact tagUp_field _ _ _ _ fun _ _ => rfl

theorem pushed_core (u : State) (slot : Nat) (c : Cmd) (op : Op) (h : c.tag < 64) : (u.pushed c.core slot c op).coreAt c.core =
    { u.coreAt c.core with
      tags := (u.coreAt c.core).tags &&& ~~~(1#64 <<< c.tag)
      counts := mset 0 (u.coreAt c.core).counts c.tag (mget (u.coreAt c.core).counts c.tag 0 + 1) } := by
  have h1 : (u.pushed c.core slot c op).coreAt c.core = (u.bump.tagUp c.core c.tag).coreAt c.core := by
    unfold State.pushed
    exact apply_ite_eq (State.coreAt · c.core) (pushIntake_field _ c (State.coreAt · c.core) fun _ _ _ _ => rfl)
      (pushIntake_field _ c (State.coreAt · c.core) fun _ _ _ _ => rfl)
  rw [h1, State.tagUp, if_neg h.not_ge, State.modCore_coreAt_same]
  rfl

theorem pushed_fill (u : State) (core slot : Nat) (c : Cmd) (op : Op) (hf : c.kind.isFill = true) (h : op.reg < 64) :
    ((u.pushed core slot c op).slotAt core slot).full.getLsbD op.reg = false := by
  unfold State.pushed
  simp only [hf, if_true, State.modSlot_slotAt_same]
  rw [Slot.markEmpty_getLsbD _ _ h]
  simp

theorem keepsThread_pushed (u : State) (core slot : Nat) (c : Cmd) (op : Op) : KeepsThread u (u.pushed core slot c op) core slot := by
  have hp {β : Type} (f : State → β) (hf : ∀ (x : State) m c h k n, f { x with mats := m, copies := c, hvs := h, cores := k, nextId := n } = f x) :
      f ((u.bump.tagUp core c.tag).pushIntake c) = f u :=
    (pushIntake_field _ c f fun x m c h => hf x m c h x.cores x.nextId).trans
      ((tagUp_field _ core c.tag f fun x k => hf x x.mats x.copies x.hvs k x.nextId).trans (hf u u.mats u.copies u.hvs u.cores _))
  have hb := hp State.basins fun _ _ _ _ _ _ => rfl
  have hs := hp State.slots fun _ _ _ _ _ _ => rfl
  have hsl : ((u.bump.tagUp core c.tag).pushIntake c).slotAt core slot = u.slotAt core slot := congrArg (fun m => mget m (slotKey core slot) ({} : Slot)) hs
  unfold State.pushed
  dsimp only
  split_ifs
  · refine ⟨hb, fun k hk => ((onlySlot_modSlot _ core slot _).others k hk).trans (congrArg (mget · k {}) hs), ?_⟩
    rw [State.modSlot_slotAt_same, hsl]
    rfl
  · exact ⟨hb, fun k _ => congrArg (mget · k {}) hs, by rw [hsl]⟩

/-! ### The statement -/

theorem departs_stores (hr : s.runAt core slot = some r) (hc : Complete s core slot r e) (ht : Tailless r) (hsups : r.sups = [])
    (halone : ∀ n, n < 8 → n ≠ slot → s.runAt core n = none) (hfl : enabledFlags r = 0#6) (hops : ∀ o ∈ r.ops, ∃ n, o.2.kind = .mem (.st n)) :
    (s.blockCommit core slot).reqs = s.reqs ++ r.ops.zipIdx.map fun o => departing s core slot r o.1.2.memKind o.1.2 o.2 := by
  have hou := onlySlot_committed s core slot r
  have hl : LeftForMemory (s.committed core slot r) (s.issued core slot r) core slot :=
    leftForMemory_ops (fun o ho => let ⟨_, hn⟩ := hops o ho; ⟨_, hn⟩) _ core slot _ r
  obtain ⟨x, h⟩ := movesOn_departs hr hc ht hsups halone hfl ⟨hl.field State.basins fun _ _ _ _ => rfl, hl.others, hl.thread⟩
  have hreqs := issueStores (slot := slot) (r := r) hops (s.slotAt core slot) (v := s.committed core slot r) (i := 0) (hou.field State.nextId fun _ _ _ => rfl)
    (hou.field State.time fun _ _ _ => rfl) (hou.field (State.cyc · core) fun _ _ _ => rfl)
  rw [hou.field State.reqs fun _ _ _ => rfl] at hreqs
  exact (h.field State.reqs fun _ _ _ _ => rfl).trans hreqs

/-- A block with one command: where it has gone, what it carries, and what counts on it. -/
theorem departs_command (hr : s.runAt core slot = some r) (hc : Complete s core slot r e) (ht : Tailless r) (hsups : r.sups = [])
    (halone : ∀ n, n < 8 → n ≠ slot → s.runAt core n = none) (hfl : enabledFlags r = 0#6) {n : Nat} {op : Op} {k : CmdKind} (hops : r.ops = [(n, op)])
    (hk : op.kind = .cmd k) :
    let c := (s.committed core slot r).command core slot (s.slotAt core slot) r op k
    let t := s.blockCommit core slot
    intakeOf t core k.engine = intakeOf s core k.engine ++ [c] ∧
      (c.tag < 64 → (t.coreAt core).tags.getLsbD c.tag = false ∧ mget (t.coreAt core).counts c.tag 0 = mget (s.coreAt core).counts c.tag 0 + 1) ∧
      (k.isFill = true → op.reg < 64 → (t.slotAt core slot).full.getLsbD op.reg = false) := by
  intro c t
  have hou := onlySlot_committed s core slot r
  have hissued : s.issued core slot r = (s.committed core slot r).issueCmd core slot (s.slotAt core slot) r op k := by
    simp [State.issued, hops, State.issueOp, hk]
  have hask : Asked ((s.committed core slot r).pushed core slot c op) (s.issued core slot r) := hissued ▸ issueCmd_asked _ core slot (s.slotAt core slot) r op k
  obtain ⟨x, h⟩ := movesOn_departs hr hc ht hsups halone hfl (keepsThread_asked (keepsThread_pushed _ core slot c op) hask)
  refine ⟨?_, fun htag => ?_, fun hf hreg => ?_⟩
  · have h1 : intakeOf t core k.engine = intakeOf (s.issued core slot r) core k.engine :=
      intakeOf_congr ⟨h.field State.mats fun _ _ _ _ => rfl, h.field State.copies fun _ _ _ _ => rfl, h.field State.hvs fun _ _ _ _ => rfl⟩ _ _
    have h2 : intakeOf (s.committed core slot r) core k.engine = intakeOf s core k.engine :=
      intakeOf_congr ⟨hou.field State.mats fun _ _ _ => rfl, hou.field State.copies fun _ _ _ => rfl, hou.field State.hvs fun _ _ _ => rfl⟩ _ _
    rw [h1, intakeOf_congr hask.engines, ← h2]
    exact pushed_intake _ slot c op
  · have hcore := pushed_core (s.committed core slot r) slot c op htag
    have h1 : t.coreAt core = (s.issued core slot r).coreAt core := h.field (State.coreAt · core) fun _ _ _ _ => rfl
    have htags := (hask.coreField Core.tags (fun _ _ _ _ => rfl) core).trans (congrArg Core.tags hcore)
    have hcounts := (hask.coreField Core.counts (fun _ _ _ _ => rfl) core).trans (congrArg Core.counts hcore)
    rw [h1, htags, hcounts, ← hou.coreField Core.counts (fun _ _ _ _ _ => rfl) core]
    refine ⟨?_, ?_⟩
    · rw [BitVec.getLsbD_and, BitVec.getLsbD_not]
      simp [htag]
    · rw [mget_mset, if_pos rfl]
      rfl
  · have h1 : (t.slotAt core slot).full = ((s.issued core slot r).slotAt core slot).full := by
      rw [h.regs.2, State.modSlot_slotAt_same]
      rfl
    have h2 : (s.issued core slot r).slotAt core slot = ((s.committed core slot r).pushed core slot c op).slotAt core slot :=
      congrArg (fun m => mget m (slotKey core slot) ({} : Slot)) hask.slots
    rw [h1, h2]
    exact pushed_fill _ core slot c op hf hreg

end

/-- What leaves the core with a commit: plain stores, or one command (R43, R150, R155). -/
theorem blockDeparts : BlockDeparts := by
  intro s core slot r e hr hc ht hsups halone hfl
  refine ⟨fun hops => ⟨_, exec_blockCommit s core slot, ?_⟩, fun n op k hops hk => ⟨_, (s.committed core slot r).command core slot (s.slotAt core slot) r op k,
    exec_blockCommit s core slot, ?_⟩⟩
  · exact departs_stores hr hc ht hsups halone hfl hops
  · obtain ⟨hin, htag, hfill⟩ := departs_command hr hc ht hsups halone hfl hops hk
    exact ⟨hin, rfl, rfl, rfl, rfl, rfl, rfl, rfl, rfl, rfl, htag, hfill⟩

end Sys2Proof.Machine
end

section
/-! How a block ends (spec/05_block_engine.md R149 to R157). -/

namespace Sys2Proof.Machine

open Claims

/-- Settles O31: a block commits, sends what it left, begins its tail, parks for an event, or is incomplete, each a rule of its own. -/
theorem blockEnds : Obligations.BlockEnds := by
  unfold Obligations.BlockEnds
  exact ⟨blockCommits, blockDeparts, tailStarts, floatEvents, blockIncomplete⟩

end Sys2Proof.Machine
end

section
/-! The matrix engine's commands: tags, what leaves the engines alone, and updates of one engine (spec/01_organisation.md R43; spec/08_matrix_engine.md R246). -/

namespace Sys2Proof.Machine

open Claims

section
variable (s : State)

/-! ### Updates of one engine -/

theorem State.setMat_setMat (k : Nat) (a b : MatEng) : (s.setMat k a).setMat k b = s.setMat k b := by
  simp [State.setMat, mput_mput_same]

theorem matNow_setMat (k : Nat) (m : MatEng) : MatNow s (s.setMat k m) k m :=
  ⟨State.setMat_matAt_same .., fun j hj => by rw [State.setMat_matAt, if_neg hj.symm], rfl⟩

/-! ### Completion tags (R43, R134) -/

theorem tagFalls_tagDown (core tag : Nat) : TagFalls s (s.tagDown core tag) core tag := by
  by_cases h : 64 ≤ tag
  · have e : s.tagDown core tag = s := if_pos h
    rw [e]
    exact ⟨rfl, fun _ _ => rfl, rfl, fun _ => rfl, fun _ => rfl, fun h' => absurd h h'.not_ge⟩
  · have e : s.tagDown core tag = s.modCore core _ := if_neg h
    rw [e]
    refine ⟨rfl, fun k hk => by rw [State.modCore_coreAt, if_neg hk.symm], ?_⟩
    dsimp only
    rw [State.modCore_coreAt_same]
    refine ⟨rfl, fun hr => ?_, fun h' => absurd h' h, fun _ => ⟨?_, fun j => ?_⟩⟩
    · refine apply_ite_eq id ?_ rfl
      simp [ReplayPort.tagSet, hr]
    · exact if_congr (by omega) rfl rfl
    · exact (mget_mset ..).trans (if_congr eq_comm rfl rfl)

theorem tagRises_tagUp (core tag : Nat) : TagRises s (s.tagUp core tag) core tag := by
  by_cases h : 64 ≤ tag
  · have e : s.tagUp core tag = s := if_pos h
    rw [e]
    exact ⟨rfl, fun _ _ => rfl, rfl, fun _ => rfl, fun h' => absurd h h'.not_ge⟩
  · have e : s.tagUp core tag = s.modCore core _ := if_neg h
    rw [e]
    refine ⟨rfl, fun k hk => by rw [State.modCore_coreAt, if_neg hk.symm], ?_⟩
    dsimp only
    rw [State.modCore_coreAt_same]
    refine ⟨rfl, fun h' => absurd h' h, fun _ => ⟨rfl, fun j => ?_⟩⟩
    rw [mget_mset]
    by_cases e : tag = j
    · subst e; simp
    · simp [e, Ne.symm e]

/-- A command that is not replayed completes for its tag alone. -/
theorem State.cmdDone_eq {c : Cmd} (h : c.rp = false) : s.cmdDone c = s.tagDown c.core c.tag := by simp [State.cmdDone, h]

theorem State.tagDown_mats (core tag : Nat) : (s.tagDown core tag).mats = s.mats := apply_ite_eq State.mats rfl rfl

end

/-! ### What a fault leaves of the engines -/

theorem foldl_mats {α : Type} {f : State → α → State} (hf : ∀ u a, (f u a).mats = u.mats) (l : List α) (s : State) : (l.foldl f s).mats = s.mats := by
  induction l generalizing s with
  | nil => rfl
  | cons a l ih => exact (ih _).trans (hf s a)

section
variable (s : State) (core slot : Nat)

theorem State.freezeTail_mats (fs : List (Nat × Nat × Nat × Nat)) : (s.freezeTail core slot fs).mats = s.mats := by
  cases fs with
  | nil => rfl
  | cons f fs =>
    refine foldl_mats ?_ fs _
    exact fun _ _ => rfl

theorem State.tellFailed_mats : (s.tellFailed core slot).mats = s.mats := by
  unfold State.tellFailed
  split
  · rfl
  · change (List.foldl _ s _).mats = s.mats
    refine foldl_mats ?_ _ s
    exact fun _ _ => rfl

theorem State.lateEvent_mats (r : Run) : (s.lateEvent core slot r).mats = s.mats := apply_ite_eq State.mats rfl rfl

theorem State.discard_mats : (s.discard core slot).mats = s.mats := by
  unfold State.discard
  split <;> rfl

theorem State.raise_mats (cause ix : Nat) (repl : Bool) (va info : Nat) : (s.raise core slot cause ix repl va info).mats = s.mats := by
  unfold State.raise
  split
  · rfl
  · refine apply_ite_eq State.mats ?_ ?_
    · exact (State.tellFailed_mats _ core slot).trans (s.lateEvent_mats core slot _)
    · exact (State.tellFailed_mats _ core slot).trans (s.discard_mats core slot)

theorem State.failAfter_mats (cause ix va info : Nat) : (s.failAfter core slot cause ix va info).mats = s.mats := by
  unfold State.failAfter
  refine apply_ite_eq State.mats rfl ?_
  split
  · exact s.freezeTail_mats core slot _
  · refine apply_ite_eq State.mats rfl (apply_ite_eq State.mats (s.raise_mats core slot ..) ?_)
    exact (State.freezeTail_mats _ core slot _).trans (s.discard_mats core slot)

theorem State.reportFault_mats (c : Cmd) (cause va sub : Nat) : (s.reportFault c cause va sub).mats = s.mats := by
  have h : (if c.rp then s.modCore c.core fun k => { k with replay := { k.replay with cause := cause } } else s).mats = s.mats := apply_ite_eq State.mats rfl rfl
  unfold State.reportFault
  refine apply_ite_eq State.mats h ?_
  split
  · exact (State.failAfter_mats ..).trans h
  · exact h

theorem State.cmdDone_mats (c : Cmd) : (s.cmdDone c).mats = s.mats := by
  unfold State.cmdDone
  exact apply_ite_eq State.mats (State.tagDown_mats ..) (apply_ite_eq State.mats rfl (State.tagDown_mats ..))

theorem State.cmdDone_waitq (c : Cmd) : (s.cmdDone c).waitq = s.waitq := by
  have h (u : State) : (u.tagDown c.core c.tag).waitq = u.waitq := apply_ite_eq State.waitq rfl rfl
  unfold State.cmdDone
  exact apply_ite_eq State.waitq (h _) (apply_ite_eq State.waitq rfl (h _))

end

section
variable {s : State}

/-- Where no one waits at a home, a command that releases its lines does no more. -/
theorem State.releaseLines_eq (h : s.waitq = []) (cmd : Nat) : s.releaseLines cmd =
    { s with owned := s.owned.filter fun o => decide (o.cmd ≠ cmd), ownReqs := s.ownReqs.filter fun o => decide (o.cmd ≠ cmd) } := by
  unfold State.releaseLines
  refine State.retestAll_of_noWaiters _ ?_ _
  exact h

/-- A command that holds no line and has asked for none releases none. -/
theorem State.releaseLines_none (h : s.waitq = []) {cmd : Nat} (ho : ∀ o ∈ s.owned, o.cmd ≠ cmd) (hr : ∀ o ∈ s.ownReqs, o.cmd ≠ cmd) :
    s.releaseLines cmd = s := by
  have ho' : (s.owned.filter fun o => decide (o.cmd ≠ cmd)) = s.owned := List.filter_eq_self.2 fun o h => by simpa using ho o h
  have hr' : (s.ownReqs.filter fun o => decide (o.cmd ≠ cmd)) = s.ownReqs := List.filter_eq_self.2 fun o h => by simpa using hr o h
  rw [State.releaseLines_eq h, ho', hr']

theorem foldl_releaseLines_mats (l : List Cmd) (h : s.waitq = []) : (l.foldl (fun s c => s.releaseLines c.id) s).mats = s.mats := by
  induction l generalizing s with
  | nil => rfl
  | cons c l ih =>
    rw [List.foldl_cons, State.releaseLines_eq h]
    exact ih h

/-- The engine as a fault of one of its commands leaves it. -/
def MatEng.stopsFor (m : MatEng) (r : Running) (isTask : Bool) (cause sub va row : Nat) : MatEng :=
  let other := fun (x : Running) => decide (x.cmd.id ≠ r.cmd.id)
  { m.unswap.haltFor r.cmd isTask cause sub va row with
    load := m.unswap.load.filter other, stream := m.unswap.stream.filter other, task := m.unswap.task.filter other
    faulted := some { r with todo := [], planned := false, cmd := { r.cmd with row := if row = 0 then r.cmd.row else some row, feed := [] } } }

/-- Where no one waits at a home, a matrix fault stops its command, and reports it. -/
theorem State.matFault_matAt (h : s.waitq = []) (r : Running) (isTask : Bool) (cause sub va row : Nat) :
    (s.matFault r isTask cause sub va row).matAt r.cmd.core = (s.matAt r.cmd.core).stopsFor r isTask cause sub va row := by
  let u := s.setMat r.cmd.core ((s.matAt r.cmd.core).stopsFor r isTask cause sub va row)
  have hw : ((u.releaseLines r.cmd.id).cmdDone r.cmd).waitq = [] := by
    rw [State.cmdDone_waitq, State.releaseLines_eq (s := u) h]
    exact h
  have hm : (((u.releaseLines r.cmd.id).cmdDone r.cmd).releaseQueued r.cmd.core).mats = u.mats := by
    unfold State.releaseQueued
    rw [foldl_releaseLines_mats _ hw, State.cmdDone_mats, State.releaseLines_eq (s := u) h]
  have hf : (s.matFault r isTask cause sub va row).mats = u.mats := (State.reportFault_mats ..).trans hm
  have e := congrArg (fun m => mget m r.cmd.core ({} : MatEng)) hf
  exact e.trans (State.setMat_matAt_same ..)

theorem MatEng.unswap_intake (m : MatEng) : m.unswap.intake = m.intake := by
  unfold MatEng.unswap
  split
  · exact apply_ite_eq MatEng.intake rfl rfl
  · rfl

end

end Sys2Proof.Machine
end

section
/-! The matrix engine's commands reach the intake, start, and those that read nothing complete (spec/08_matrix_engine.md R237, R244 to R249, R256, R257, R259, R262). -/

namespace Sys2Proof.Machine

open Claims

/-! ### Sparse maps filtered by key -/

theorem mget?_filter {α : Type} (p : Nat → Bool) (m : SMap α) (k : Nat) : mget? (m.filter fun x => p x.1) k = if p k then mget? m k else none := by
  induction m with
  | nil => simp [mget?]
  | cons e m ih =>
    obtain ⟨a, x⟩ := e
    by_cases ha : p a = true
    · rw [List.filter_cons_of_pos (by simpa using ha)]
      by_cases hk : a = k
      · subst hk; simp [mget?, ha]
      · simp only [mget?, hk, if_false, ih]
    · rw [List.filter_cons_of_neg (by simpa using ha), ih]
      by_cases hk : a = k
      · subst hk; simp [ha]
      · simp only [mget?, hk, if_false]

theorem rowsCleared_clearRows (acc : SMap AccEl) (lo n : Nat) : RowsCleared acc (clearRows acc lo n) lo n := by
  intro k
  have h := mget?_filter (fun a => !(decide (64 * lo ≤ a) && decide (a < 64 * (lo + n)))) acc k
  unfold mget clearRows
  rw [h]
  by_cases hk : 64 * lo ≤ k ∧ k < 64 * (lo + n)
  · simp [hk]
  · rw [if_neg hk, if_pos (by simpa only [Bool.not_eq_true', ← Bool.decide_and, decide_eq_false_iff_not] using hk)]

theorem getLsbD_foldl_or {α : Type} (p : α → Bool) (g : α → Flags) (l : List α) (f : Flags) (k : Nat) :
    (l.foldl (fun f x => if p x then f ||| g x else f) f).getLsbD k = true ↔ f.getLsbD k = true ∨ ∃ x ∈ l, p x = true ∧ (g x).getLsbD k = true := by
  induction l generalizing f with
  | nil => simp
  | cons a l ih =>
    rw [List.foldl_cons, ih]
    by_cases ha : p a = true
    · simp [ha, or_assoc]
    · simp [ha]

theorem closedFlags_clearFlags (acc : SMap AccEl) (lo n : Nat) : ClosedFlags acc lo n (clearFlags acc lo n) := by
  intro k
  refine (getLsbD_foldl_or (fun x : Nat × AccEl => decide (64 * lo ≤ x.1) && decide (x.1 < 64 * (lo + n))) (fun x => x.2.close.2) acc 0#6 k).trans ?_
  simp [and_assoc]

section
variable {s : State} {core : Nat} {c : Cmd} {l : List Cmd}

theorem State.foldBase_plain (h : (s.coreAt core).foldK < 2) (g : Group) : s.foldBase core g = 0 := if_pos h

theorem State.swapPlanes_plain (h : (s.coreAt core).foldK < 2) (g : Group) : s.swapPlanes core g = some s := by
  have hp : s.planesOther core g = false := by simp [State.planesOther, Nat.not_le.2 h]
  simp [State.swapPlanes, hp]

/-! ### Arrival (R246) -/

theorem State.traceCmd_untraced (h : (s.basinAt (coreBasin c.core)).traces = []) : s.traceCmd c = s := by
  unfold State.traceCmd
  dsimp only
  rw [State.tracers_of_none (h := h)]
  rfl

/-- A command that nothing holds arrives: it enters the intake, or faults. -/
theorem State.matArrive_eq (hi : (s.matAt core).intake = c :: l) (ha : c.arrived = false) (ht : (s.basinAt (coreBasin c.core)).traces = [])
    (hl : (s.copyAt core).intake = []) (hh : s.commandHeld core c.slot c.seq c.lsid = false) (v : Option Nat) (hv : s.matCheck c = v) :
    s.matArrive core = v.elim (s.setMat core { s.matAt core with intake := { c with arrived := true } :: l }) fun e =>
      (s.setMat core { s.matAt core with
        intake := ({ c with arrived := true } :: l).filter fun x => decide (x.id ≠ c.id) }).matFault { cmd := { c with arrived := true } } false e 0 0 0 := by
  have h1 : arriveFirst (s.matAt core).intake = some ({ c with arrived := true }, { c with arrived := true } :: l) := by simp [hi, arriveFirst, ha]
  have h2 : s.listUnread core c.slot c.id = false := by simp [State.listUnread, hl]
  have h3 : s.matCheck { c with arrived := true } = v := hv
  have h4 (u : MatEng) : (s.setMat core u).traceCmd { c with arrived := true } = s.setMat core u := State.traceCmd_untraced ht
  unfold State.matArrive
  cases v with
  | none => simp [h1, hh, h2, h3, h4]
  | some e => simp [h1, hh, h2, h3, h4]

theorem matrixArrival (hi : (s.matAt core).intake = c :: l) (hc : c.core = core) (ha : c.arrived = false) (ht : (s.basinAt (coreBasin c.core)).traces = [])
    (hl : (s.copyAt core).intake = []) (hh : s.commandHeld core c.slot c.seq c.lsid = false) :
    (s.matCheck c = none → ∃ t, exec (.matrixIntakeArrival core) s = .next t ∧ MatNow s t core { s.matAt core with intake := { c with arrived := true } :: l }) ∧
      (s.tagOk c = false ∨ c.matFields (s.foldRows core) = false → s.waitq = [] → ∃ t, exec (.matrixIntakeArrival core) s = .next t ∧
        (t.matAt core).cause = 0x44 ∧ (t.matAt core).halt = true ∧ ∀ x ∈ (t.matAt core).intake, x.id ≠ c.id) := by
  refine ⟨fun h => ⟨_, congrArg Host.Outcome.next (State.matArrive_eq hi ha ht hl hh _ h), matNow_setMat ..⟩, fun h hw => ?_⟩
  have hchk : s.matCheck c = some 0x44 := by
    subst hc
    refine if_pos ?_
    rcases h with h | h <;> simp [h]
  subst hc
  let u := s.setMat c.core { s.matAt c.core with intake := ({ c with arrived := true } :: l).filter fun x => decide (x.id ≠ c.id) }
  have hm := State.matFault_matAt (s := u) hw { cmd := { c with arrived := true } } false 0x44 0 0 0
  refine ⟨_, congrArg Host.Outcome.next (State.matArrive_eq hi ha ht hl hh _ hchk), ?_⟩
  refine ⟨congrArg MatEng.cause hm, congrArg MatEng.halt hm, fun x hx => ?_⟩
  have hx' := (congrArg MatEng.intake hm) ▸ hx
  have hx'' : x ∈ ({ c with arrived := true } :: l).filter fun x => decide (x.id ≠ c.id) := by
    have e : ((u.matAt c.core).stopsFor { cmd := { c with arrived := true } } false 0x44 0 0 0).intake = (u.matAt c.core).unswap.intake := rfl
    rw [e, MatEng.unswap_intake, State.setMat_matAt_same] at hx'
    exact hx'
  simpa using (List.mem_filter.1 hx'').2

/-! ### Start (R257) -/

/-- A direct command that may start leaves the intake and begins. -/
theorem State.matStart_ready (h : MatReady s core c l) (hk : c.kind ≠ .mtask) :
    s.matStart core = (s.setMat core { s.matAt core with intake := l }).matBegin c := by
  obtain ⟨hc, ha, hd⟩ := h.here
  obtain ⟨hh, ht, hl, hst⟩ := h.idle
  have hp : s.planesOther core c.grp = false := by simp [State.planesOther, Nat.not_le.2 h.plain]
  unfold State.matStart
  simp only [h.intake, hl, hst, State.swapPlanes_plain h.plain]
  rw [if_neg, if_neg (by simp [hk])]
  cases c.kind <;> simp [ha, hh, ht, hp, hd]

/-- The checks of a command see nothing of the engines. -/
theorem State.matCheck_setMat (m : MatEng) (v : Option Nat) (h : s.matCheck c = v) : (s.setMat core m).matCheck c = v := h

theorem State.matCheck_unformatted (h : MatReady s core c l) (hk : c.kind = .mswap ∨ c.kind = .mzero ∨ c.kind = .mstream) : s.matCheck c = none := by
  obtain ⟨ht, hf⟩ := h.fields
  rw [← h.here.1] at hf
  rcases hk with hk | hk | hk <;> simp [State.matCheck, ht, hf, hk]

theorem State.matCheck_mls (h : MatReady s core c l) (hk : c.kind = .mls) {f : MFmt} (hb : c.fb = some f) (hf8 : f ≠ .c8) : s.matCheck c = none := by
  obtain ⟨ht, hf⟩ := h.fields
  rw [← h.here.1] at hf
  simp only [State.matCheck, ht, hf, hk, hb]
  cases f <;> simp_all

end

end Sys2Proof.Machine
end

section
/-! The matrix engine's direct commands start; those that read nothing complete; tasks start; a halted engine goes on (spec/08_matrix_engine.md R248 to R250, R256, R257, R259, R262). -/

namespace Sys2Proof.Machine

open Claims

section
variable {s : State} {core : Nat} {c : Cmd} {l : List Cmd}

/-! ### Starts -/

/-- A direct command that may start changes the engine to m', where its beginning does. -/
theorem matStart_now {m' : MatEng} (h : MatReady s core c l) (hk : c.kind ≠ .mtask)
    (e : (s.setMat core { s.matAt core with intake := l }).matBegin c = (s.setMat core { s.matAt core with intake := l }).setMat core m') :
    ∃ t, exec (.matrixCommandStart core) s = .next t ∧ MatNow s t core m' := by
  refine ⟨_, congrArg Host.Outcome.next (State.matStart_ready h hk), ?_⟩
  rw [e, State.setMat_setMat]
  exact matNow_setMat ..

theorem matStart_mswap (h : MatReady s core c l) (hk : c.kind = .mswap) :
    ∃ t, exec (.matrixCommandStart core) s = .next t ∧ MatNow s t core { s.matAt core with intake := l, load := some { cmd := c } } := by
  refine matStart_now h (by simp [hk]) ?_
  have hchk := State.matCheck_setMat (m := { s.matAt core with intake := l }) (core := core) _ (State.matCheck_unformatted h (.inl hk))
  obtain ⟨rfl, -, -⟩ := h.here
  simp [State.matBegin, hchk, hk, State.setMat_matAt_same]

theorem matStart_mzero (h : MatReady s core c l) (hk : c.kind = .mzero) :
    ∃ t, exec (.matrixCommandStart core) s = .next t ∧ MatNow s t core { s.matAt core with intake := l, stream := some { cmd := c } } := by
  refine matStart_now h (by simp [hk]) ?_
  have hchk := State.matCheck_setMat (m := { s.matAt core with intake := l }) (core := core) _ (State.matCheck_unformatted h (.inr (.inl hk)))
  obtain ⟨rfl, -, -⟩ := h.here
  simp [State.matBegin, hchk, hk, State.setMat_matAt_same]

theorem matStart_mls (h : MatReady s core c l) (hk : c.kind = .mls) (hf : ∃ f, c.fb = some f ∧ f ≠ .c8) :
    ∃ t, exec (.matrixCommandStart core) s = .next t ∧ MatNow s t core
      { s.matAt core with intake := l, load := some { cmd := c }, shadow := { (s.matAt core).shadow with valid := false } } := by
  obtain ⟨f, hb, hf8⟩ := hf
  refine matStart_now h (by simp [hk]) ?_
  have hchk := State.matCheck_setMat (m := { s.matAt core with intake := l }) (core := core) _ (State.matCheck_mls h hk hb hf8)
  obtain ⟨rfl, -, -⟩ := h.here
  simp [State.matBegin, hchk, hk, State.setMat_matAt_same]

/-- The checks of a stream see nothing of the intake. -/
theorem State.streamCheck_setMat_intake (adds : Bool) : (s.setMat c.core { s.matAt c.core with intake := l }).streamCheck c adds = s.streamCheck c adds := by
  unfold State.streamCheck
  rw [State.setMat_matAt_same]
  rfl

theorem matStart_mstream (h : MatReady s core c l) (hk : c.kind = .mstream) (hr : c.row = none) (hs : s.streamCheck c false = none) :
    ∃ t acc f, exec (.matrixCommandStart core) s = .next t ∧
      MatNow s t core { s.matAt core with
        intake := l, stream := some { cmd := { c with row := some 0 } }, acc := acc, flg := (s.matAt core).flg ||| f } ∧
      RowsCleared (s.matAt core).acc acc c.arow c.nrow ∧ ClosedFlags (s.matAt core).acc c.arow c.nrow f := by
  refine ⟨_, clearRows (s.matAt core).acc c.arow c.nrow, clearFlags (s.matAt core).acc c.arow c.nrow,
    congrArg Host.Outcome.next (State.matStart_ready h (by simp [hk])), ?_, rowsCleared_clearRows _ _ _, closedFlags_clearFlags _ _ _⟩
  have hchk := State.matCheck_setMat (m := { s.matAt core with intake := l }) (core := core) _ (State.matCheck_unformatted h (.inr (.inr hk)))
  have hbase := State.foldBase_plain h.plain c.grp
  obtain ⟨rfl, -, -⟩ := h.here
  have hadds : (CmdKind.mstream == .mstreama) = false := rfl
  have hst := (State.streamCheck_setMat_intake (l := l) false).trans hs
  have hb : (s.setMat c.core { s.matAt c.core with intake := l }).foldBase c.core c.grp = 0 := hbase
  have e : (s.setMat c.core { s.matAt c.core with intake := l }).matBegin c = (s.setMat c.core { s.matAt c.core with intake := l }).setMat c.core
      { ({ s.matAt c.core with intake := l } : MatEng).clear c.arow c.nrow with stream := some { cmd := { c with row := some 0 } } } := by
    simp [State.matBegin, hchk, hk, State.setMat_matAt_same, hr, hadds, hst, hb]
  rw [e, State.setMat_setMat]
  exact matNow_setMat ..

/-! ### Completions (R248, R250, R259) -/

/-- Where the engine of a core alone has become m, a further change of that engine is the only one. -/
theorem matNow_setMat_after {u : State} {m : MatEng} (h : MatNow s u core m) (m' : MatEng) : MatNow s (u.setMat core m') core m' := by
  obtain ⟨-, ho, hr⟩ := h
  refine ⟨State.setMat_matAt_same .., fun k hk => ?_, hr⟩
  rw [State.setMat_matAt, if_neg hk.symm]
  exact ho k hk

/-- What a unit, 0 the load and 1 the stream unit, runs. -/
def MatEng.unit (m : MatEng) (unit : Nat) : Option Running := if unit = 0 then m.load else m.stream
def MatEng.setUnit (m : MatEng) (unit : Nat) (r : Option Running) : MatEng := if unit = 0 then { m with load := r } else { m with stream := r }

theorem State.matComplete_done {unit : Nat} {r : Running} {u : State} (hu : unit < 2) (hr : (s.matAt core).unit unit = some r) (hc : r.cmd.core = core)
    (hrp : r.cmd.rp = false) (ha : s.advDirect r = (.done, u)) :
    s.matComplete core unit = (u.setMat core ((u.matAt core).setUnit unit none)).tagDown core r.cmd.tag := by
  obtain rfl | rfl : unit = 0 ∨ unit = 1 := by omega
  · have hr : (s.matAt core).load = some r := hr
    simp [State.matComplete, MatEng.setUnit, hr, ha, State.cmdDone_eq _ hrp, hc]
  · have hr : (s.matAt core).stream = some r := hr
    simp [State.matComplete, MatEng.setUnit, hr, ha, State.cmdDone_eq _ hrp, hc]

/-- A direct command of a unit that reaches its end leaves its unit, and its tag counts one fewer. -/
theorem matDone {unit : Nat} {r : Running} {u : State} {m : MatEng} (hu : unit < 2) (hr : (s.matAt core).unit unit = some r) (hc : r.cmd.core = core)
    (hrp : r.cmd.rp = false) (ha : s.advDirect r = (.done, u)) (hm : MatNow s u core m) :
    ∃ t v, exec (.matrixCommandComplete core unit) s = .next t ∧ MatNow s v core (m.setUnit unit none) ∧ TagFalls v t core r.cmd.tag := by
  have e := State.matComplete_done hu hr hc hrp ha
  rw [hm.1] at e
  exact ⟨_, u.setMat core (m.setUnit unit none), congrArg Host.Outcome.next e, matNow_setMat_after hm _, tagFalls_tagDown ..⟩

/-- A direct command of a unit that goes on keeps its unit. -/
theorem matStays {unit : Nat} {r q : Running} {u : State} {m : MatEng} (hu : unit < 2) (hr : (s.matAt core).unit unit = some r)
    (ha : s.advDirect r = (.stay q, u)) (hm : MatNow s u core m) :
    ∃ t, exec (.matrixCommandComplete core unit) s = .next t ∧ MatNow s t core (m.setUnit unit (some q)) := by
  refine ⟨_, congrArg Host.Outcome.next (?_ : _ = u.setMat core (m.setUnit unit (some q))), matNow_setMat_after hm _⟩
  obtain rfl | rfl : unit = 0 ∨ unit = 1 := by omega
  · have hr : (s.matAt core).load = some r := hr
    simp [State.matComplete, MatEng.setUnit, hr, ha, hm.1]
  · have hr : (s.matAt core).stream = some r := hr
    simp [State.matComplete, MatEng.setUnit, hr, ha, hm.1]

theorem matComplete_mswap {r : Running} (hc : r.cmd.core = core) (hrp : r.cmd.rp = false) (hk : r.cmd.kind = .mswap) (hl : (s.matAt core).load = some r) :
    ∃ t u, exec (.matrixCommandComplete core 0) s = .next t ∧
      MatNow s u core { s.matAt core with active := (s.matAt core).shadow, shadow := (s.matAt core).active, load := none } ∧ TagFalls u t core r.cmd.tag := by
  refine matDone (unit := 0) (by omega) hl hc hrp ?_ (matNow_setMat s core (s.matAt core).swap)
  simp [State.advDirect, hk, hc]

theorem matComplete_mzero {r : Running} (hc : r.cmd.core = core) (hrp : r.cmd.rp = false) (hf : (s.coreAt core).foldK < 2) (hk : r.cmd.kind = .mzero)
    (hl : (s.matAt core).stream = some r) :
    ∃ t u acc f, exec (.matrixCommandComplete core 1) s = .next t ∧
      MatNow s u core { s.matAt core with acc := acc, flg := if r.cmd.v = 1 then 0#6 else (s.matAt core).flg ||| f, stream := none } ∧
      RowsCleared (s.matAt core).acc acc r.cmd.arow r.cmd.nrow ∧ ClosedFlags (s.matAt core).acc r.cmd.arow r.cmd.nrow f ∧ TagFalls u t core r.cmd.tag := by
  let m := (s.matAt core).clear r.cmd.arow r.cmd.nrow
  obtain ⟨t, u, he, hn, ht⟩ := matDone (unit := 1) (by omega) hl hc hrp (by simp [State.advDirect, hk, hc, State.foldBase_plain hf]; rfl)
    (matNow_setMat s core { m with flg := if r.cmd.v = 1 then 0#6 else m.flg })
  exact ⟨t, u, _, _, he, hn, rowsCleared_clearRows _ _ _, closedFlags_clearFlags _ _ _, ht⟩

/-! ### Tasks (R256) -/

theorem matTaskStart_now {k : Cmd} (hh : (s.matAt core).halt = false) (hi : (s.matAt core).intake = []) (hl : (s.matAt core).load = none)
    (hs : (s.matAt core).stream = none) (ht : (s.matAt core).task = none) (hk : (s.matAt core).tasks = [k]) (hd : k.ditch = false) (hr : s.taskReady k = true)
    (hf : (s.coreAt core).foldK < 2) (hn : k.taskDrains = false) :
    ∃ t, exec (.matrixTaskStart core) s = .next t ∧ MatNow { s with nextId := s.nextId + 1 } t core { s.matAt core with
      tasks := [], task := some { cmd := { k with id := s.nextId, row := none, feed := [] } }, shadow := { (s.matAt core).shadow with valid := false } } := by
  have ho : s.taskOwned k = k := by simp [State.taskOwned, hd]
  have hdr : ({ k with id := s.nextId, row := none, feed := [] } : Cmd).taskDrains = false := hn
  refine ⟨_, rfl, ?_⟩
  have e : s.matTaskStart core = ({ s with nextId := s.nextId + 1 } : State).setMat core { s.matAt core with
      tasks := [], task := some { cmd := { k with id := s.nextId, row := none, feed := [] } }, shadow := { (s.matAt core).shadow with valid := false } } := by
    simp [State.matTaskStart, hh, hi, hl, hs, ht, hk, hr, ho, State.swapPlanes_plain hf, hdr]
    rfl
  rw [e]
  exact matNow_setMat { s with nextId := s.nextId + 1 } ..

/-! ### RETRY, SKIP and FLUSH (R262) -/

section
variable {r : Running} (hh : (s.matAt core).halt = true) (hr : (s.matAt core).faulted = some r) (hi : r.isTask = false)
include hh hr hi

theorem matRetry_now : ∃ t u, exec (.matrixRetry core) s = .next t ∧ TagRises s u core r.cmd.tag ∧
    MatNow u t core { s.matAt core with halt := false, faulted := none, intake := { r.cmd with
      arrived := true, feed := [], row := if r.cmd.kind = .mls ∨ r.cmd.kind = .mlsc then none else r.cmd.row } :: (s.matAt core).intake } := by
  refine ⟨_, s.tagUp core r.cmd.tag, rfl, tagRises_tagUp .., ?_⟩
  have hl : (r.cmd.kind.onLoad = true) = (r.cmd.kind = .mls ∨ r.cmd.kind = .mlsc) := by
    cases r.cmd.kind <;> simp [CmdKind.onLoad]
  have e : s.matRetry core = (s.tagUp core r.cmd.tag).setMat core { s.matAt core with halt := false, faulted := none, intake := { r.cmd with
      arrived := true, feed := [], row := if r.cmd.kind = .mls ∨ r.cmd.kind = .mlsc then none else r.cmd.row } :: (s.matAt core).intake } := by
    simp [State.matRetry, hh, hr, hi, hl]
  rw [e]
  exact matNow_setMat ..

omit hh in
theorem MatEng.unswap_direct : (s.matAt core).unswap = s.matAt core := by simp [MatEng.unswap, hr, hi]

theorem matSkip_now : ∃ t, exec (.matrixSkip core) s = .next t ∧ MatNow s t core { s.matAt core with halt := false, faulted := none } := by
  refine ⟨_, rfl, ?_⟩
  have e : s.matSkip core = s.setMat core { s.matAt core with halt := false, faulted := none } := by
    simp [State.matSkip, hh, MatEng.unswap_direct hr hi]
  rw [e]
  exact matNow_setMat ..

theorem matFlush_now (hin : (s.matAt core).intake = [c]) (ht : (s.matAt core).tasks = []) (hc : c.core = core) (hrp : c.rp = false) (hw : s.waitq = [])
    (ho : ∀ o ∈ s.owned, o.cmd ≠ c.id) (hq : ∀ o ∈ s.ownReqs, o.cmd ≠ c.id) :
    ∃ t u, exec (.matrixFlush core) s = .next t ∧ MatNow s u core { s.matAt core with halt := false, faulted := none, intake := [] } ∧ TagFalls u t core c.tag := by
  let u := s.setMat core { s.matAt core with halt := false, faulted := none, intake := [] }
  refine ⟨_, u, rfl, matNow_setMat .., ?_⟩
  have e : s.matFlush core = (u.releaseLines c.id).cmdDone c := by
    simp [State.matFlush, hh, MatEng.unswap_direct hr hi, hin, ht, u]
  rw [e, State.releaseLines_none (s := u) hw ho hq, State.cmdDone_eq _ hrp, hc]
  exact tagFalls_tagDown ..

end

theorem matrixCommands : MatrixCommands := by
  intro s core m
  refine ⟨fun c l hi hc ha ht hl hh => matrixArrival hi hc ha ht hl hh, fun c l h => ?_, fun r hc hrp hf => ?_, ?_, fun hh r hr hi => ?_⟩
  · exact ⟨matStart_mswap h, matStart_mzero h, matStart_mls h, matStart_mstream h⟩
  · exact ⟨matComplete_mswap hc hrp, matComplete_mzero hc hrp hf⟩
  · exact fun k hh hi hl hs ht hk _ hd hr hf hn => matTaskStart_now hh hi hl hs ht hk hd hr hf hn
  · exact ⟨matRetry_now hh hr hi, matSkip_now hh hr hi, fun c => matFlush_now hh hr hi⟩

end

end Sys2Proof.Machine
end

section
/-! The matrix engine's loads: the words they read, and the plane they load (spec/08_matrix_engine.md R133, R235, R247). -/

namespace Sys2Proof.Machine

open Claims

/-! ### Runs out of the words read -/

section
variable {row va w : Nat} {f : List Nat}

/-- A run of whole words whose words are all read. -/
theorem fedRun_words (hw : ∀ x ∈ f, x < 2 ^ 64) (hl : w ≤ f.length) (ha : va % 8 = 0) {fuel : Nat} (hf : w ≤ fuel) :
    fedRun row va (8 * w) f fuel = .ok (packElems 64 (f.take w), f.drop w) := by
  induction w generalizing va f fuel with
  | zero => cases fuel <;> simp [fedRun, packElems]
  | succ w ih =>
    obtain ⟨fuel, rfl⟩ : ∃ n, fuel = n + 1 := ⟨fuel - 1, by omega⟩
    obtain ⟨v, f, rfl⟩ := List.exists_cons_of_length_pos (show 0 < f.length by omega)
    have hk : min (8 * (w + 1)) (8 - va % 8) = 8 := by omega
    have hn : 8 * (w + 1) - 8 = 8 * w := by omega
    have hv : v < 2 ^ 64 := hw v (by simp)
    have hr := ih (va := va + 8) (f := f) (fuel := fuel) (fun x hx => hw x (by simp [hx])) (by simpa using hl) (by omega) (by omega)
    rw [fedRun, if_neg (by omega)]
    simp only [hk, hn, hr, Fed.bind, List.take_succ_cons, List.drop_succ_cons, packElems, Nat.mod_eq_of_lt hv]
    rw [Nat.mul_comm (packElems 64 _)]

/-- A run of whole words of which some are yet to be read needs the next of them. -/
theorem fedRun_needs (hl : f.length < w) (ha : va % 8 = 0) {fuel : Nat} (hf : w ≤ fuel) :
    fedRun row va (8 * w) f fuel = .need (va + 8 * f.length) 8 row := by
  induction f generalizing va w fuel with
  | nil =>
    obtain ⟨fuel, rfl⟩ : ∃ n, fuel = n + 1 := ⟨fuel - 1, by simp at hl; omega⟩
    have hk : min (8 * w) (8 - va % 8) = 8 := by simp at hl; omega
    rw [fedRun, if_neg (by simp at hl; omega)]
    simp [hk]
  | cons v f ih =>
    obtain ⟨fuel, rfl⟩ : ∃ n, fuel = n + 1 := ⟨fuel - 1, by omega⟩
    have hk : min (8 * w) (8 - va % 8) = 8 := by simp at hl; omega
    have hn : 8 * w - 8 = 8 * (w - 1) := by omega
    have hr := ih (va := va + 8) (w := w - 1) (fuel := fuel) (by simp at hl; omega) (by omega) (by omega)
    rw [fedRun, if_neg (by simp at hl; omega)]
    simp only [hk, hn, hr, Fed.bind, List.length_cons]
    congr 1
    omega

theorem fedBytes_words (hw : ∀ x ∈ f, x < 2 ^ 64) (hl : w ≤ f.length) (ha : va % 8 = 0) :
    fedBytes row va (8 * w) f = .ok (packElems 64 (f.take w), f.drop w) := fedRun_words hw hl ha (by omega)

theorem fedBytes_needs (hl : f.length < w) (ha : va % 8 = 0) : fedBytes row va (8 * w) f = .need (va + 8 * f.length) 8 row :=
  fedRun_needs hl ha (by omega)

/-- Runs of w words each whose words are all read. -/
theorem fedRuns_words {as : List Nat} (hw : ∀ x ∈ f, x < 2 ^ 64) (hl : as.length * w ≤ f.length) (ha : ∀ a ∈ as, a % 8 = 0) :
    fedRuns (8 * w) row f as = .ok ((List.range as.length).map fun k => packElems 64 ((f.drop (k * w)).take w), f.drop (as.length * w)) := by
  induction as generalizing row f with
  | nil => simp [fedRuns]
  | cons a as ih =>
    have hlen : (as.length + 1) * w ≤ f.length := hl
    rw [Nat.add_mul, Nat.one_mul] at hlen
    have hr := ih (row := row + 1) (f := f.drop w) (fun x hx => hw x (List.mem_of_mem_drop hx)) (by simp; omega) (fun x hx => ha x (by simp [hx]))
    simp only [fedRuns, fedBytes_words hw (show w ≤ f.length by omega) (ha a (by simp)), Fed.bind, hr, List.length_cons, List.range_succ_eq_map,
      List.map_cons, List.map_map, List.drop_drop]
    simp [Function.comp_def, Nat.add_mul, Nat.add_comm]

/-- Runs of w words each of which some are yet to be read need the next of them. -/
theorem fedRuns_needs {as : List Nat} {a : Nat} (hw : ∀ x ∈ f, x < 2 ^ 64) (hpos : 0 < w) (hi : as[f.length / w]? = some a) (ha : ∀ a ∈ as, a % 8 = 0) :
    fedRuns (8 * w) row f as = .need (a + 8 * (f.length % w)) 8 (row + f.length / w) := by
  induction as generalizing row f with
  | nil => simp at hi
  | cons b as ih =>
    by_cases hl : f.length < w
    · rw [Nat.div_eq_of_lt hl] at hi ⊢
      obtain rfl : b = a := by simpa using hi
      rw [fedRuns, fedBytes_needs hl (ha b (by simp)), Nat.mod_eq_of_lt hl]
      rfl
    · have hd : f.length / w = (f.drop w).length / w + 1 := by
        rw [List.length_drop, Nat.div_eq_sub_div hpos (by omega)]
      have hm : f.length % w = (f.drop w).length % w := by
        rw [List.length_drop, Nat.mod_eq_sub_mod (by omega)]
      rw [hd, List.getElem?_cons_succ] at hi
      have hr := ih (row := row + 1) (f := f.drop w) (fun x hx => hw x (List.mem_of_mem_drop hx)) hi (fun x hx => ha x (by simp [hx]))
      rw [fedRuns, fedBytes_words hw (by omega) (ha b (by simp)), hm, hd]
      simp only [Fed.bind, hr]
      congr 1
      omega

end

/-! ### One event of a load -/

section
variable {s : State} {core : Nat} {c : Cmd}

/-- A command that needs a word which it can read reads it. -/
theorem State.feed_reads {α : Type} {x : Fed α} {va n row pa : Nat} (hx : x = .need va n row) (h : CanRead s c va pa) :
    s.feed c x = (.more { c with feed := c.feed ++ [s.mem.read pa n] }, s) := by
  obtain ⟨hl, ⟨hw, hh⟩, he⟩ := h
  have hr : s.readPiece c va n = (.ok (s.mem.read pa n), s) := by
    simp [State.readPiece, hl, hw, hh, State.firstPoisoned_of_noErrs s he, State.correct_of_noErrs s he]
  simp [State.feed, hx, hr]

/-- The plane that a load of a format makes of its rows, where no block scales are read. -/
def Cmd.planeOf (c : Cmd) (fb : MFmt) (elems : List Nat) : Plane :=
  { valid := true, fmt := fb.code, nanm := c.nanmBit, pbs := pbsOf c.mscb, usc := uscOf c.mscb, ktl := matrixRows c.core * fb.density, elems := elems }

variable {r : Running} {fb : MFmt}

theorem Cmd.loadPlane_ok {elems rest : List Nat} (hs : (pbsOf c.mscb && fb.cls == .scaled) = false) (hr : c.loadRows fb = .ok (elems, rest)) :
    c.loadPlane fb = .ok (c.planeOf fb elems) := by
  have hs' : ¬(pbsOf c.mscb = true ∧ fb.cls = .scaled) := by simpa using hs
  simp only [Cmd.loadPlane, hr, Fed.bind]
  rw [if_neg (by simpa using hs')]
  rfl

theorem Cmd.loadPlane_need {va n row : Nat} (hr : c.loadRows fb = .need va n row) : c.loadPlane fb = .need va n row := by
  simp only [Cmd.loadPlane, hr, Fed.bind]

/-- A load whose rows are all read loads the shadow plane with them, and is complete. -/
theorem load_ends {elems rest : List Nat} (hc : r.cmd.core = core) (hrp : r.cmd.rp = false) (hm : (s.matAt core).load = some r)
    (hk : r.cmd.kind = .mls ∨ r.cmd.kind = .mlsc) (hfb : r.cmd.fb = some fb) (hs : (pbsOf r.cmd.mscb && fb.cls == .scaled) = false)
    (hr : r.cmd.loadRows fb = .ok (elems, rest)) :
    ∃ t u, exec (.matrixCommandComplete core 0) s = .next t ∧
      MatNow s u core { s.matAt core with load := none, shadow := r.cmd.planeOf fb elems } ∧ TagFalls u t core r.cmd.tag := by
  refine matDone (unit := 0) (by omega) hm hc hrp ?_ (matNow_setMat s core { s.matAt core with shadow := r.cmd.planeOf fb elems })
  rcases hk with hk | hk <;> simp [State.advDirect, hk, State.advLoad, hfb, Cmd.loadPlane_ok hs hr, State.feed, hc]

/-- A load that needs a word which it can read goes on with it. -/
theorem load_reads {va row pa : Nat} (hm : (s.matAt core).load = some r) (hk : r.cmd.kind = .mls) (hfb : r.cmd.fb = some fb)
    (hr : r.cmd.loadRows fb = .need va 8 row) (h : CanRead s r.cmd va pa) :
    ∃ t, exec (.matrixCommandComplete core 0) s = .next t ∧
      MatNow s t core { s.matAt core with load := some { r with cmd := { r.cmd with feed := r.cmd.feed ++ [s.mem.read pa 8] } } } := by
  refine matStays (unit := 0) (by omega) hm ?_ ⟨rfl, fun _ _ => rfl, rfl⟩
  simp [State.advDirect, hk, State.advLoad, hfb, State.feed_reads (Cmd.loadPlane_need hr) h]

/-! ### The rows of a load (R247) -/

/-- The addresses of the rows of MLS. -/
def Cmd.rowAddrs (c : Cmd) (fb : MFmt) : List Nat := (List.range (matrixRows c.core * fb.density)).map fun k => c.addr + k * c.pitch

theorem Cmd.rowAddrs_aligned (ha : c.addr % 8 = 0) (hp : c.pitch % 8 = 0) : ∀ a ∈ c.rowAddrs fb, a % 8 = 0 := by
  intro a h
  obtain ⟨k, -, rfl⟩ := List.mem_map.1 h
  simp [Nat.add_mod, Nat.mul_mod, ha, hp]

theorem Cmd.loadRows_mls (hk : c.kind = .mls) : c.loadRows fb = fedRuns (8 * fb.width) 0 c.feed (c.rowAddrs fb) := by
  simp [Cmd.loadRows, hk, Cmd.rowAddrs]

theorem width_pos (f : MFmt) : 0 < f.width := by cases f <;> decide

theorem Cmd.loadRows_mls_read (hk : c.kind = .mls) (ha : c.addr % 8 = 0) (hp : c.pitch % 8 = 0) (hw : WordsFit c)
    (hl : c.feed.length = matrixRows c.core * fb.density * fb.width) :
    c.loadRows fb = .ok ((List.range (matrixRows c.core * fb.density)).map fun k => wordsRead c (k * fb.width) fb.width,
      c.feed.drop (matrixRows c.core * fb.density * fb.width)) := by
  have hn : (c.rowAddrs fb).length = matrixRows c.core * fb.density := by simp [Cmd.rowAddrs]
  rw [Cmd.loadRows_mls hk, fedRuns_words hw (by rw [hn, hl]) (Cmd.rowAddrs_aligned ha hp), hn]
  rfl

theorem Cmd.loadRows_mls_need (hk : c.kind = .mls) (ha : c.addr % 8 = 0) (hp : c.pitch % 8 = 0) (hw : WordsFit c)
    (hl : c.feed.length < matrixRows c.core * fb.density * fb.width) :
    c.loadRows fb = .need (c.addr + c.feed.length / fb.width * c.pitch + 8 * (c.feed.length % fb.width)) 8 (0 + c.feed.length / fb.width) := by
  have hi : (c.rowAddrs fb)[c.feed.length / fb.width]? = some (c.addr + c.feed.length / fb.width * c.pitch) := by
    have hlt : c.feed.length / fb.width < matrixRows c.core * fb.density := (Nat.div_lt_iff_lt_mul (width_pos fb)).2 hl
    simp [Cmd.rowAddrs, hlt]
  rw [Cmd.loadRows_mls hk, fedRuns_needs hw (width_pos fb) hi (Cmd.rowAddrs_aligned ha hp)]

theorem Cmd.loadRows_mlsc (hk : c.kind = .mlsc) {cols : List (List Nat)} {rest : List Nat} (h : fedC8 0 c.addr c.feed 64 = .ok (cols, rest)) :
    c.loadRows fb = .ok ((List.range (matrixRows c.core)).map fun k =>
      packElems 8 (cols.map fun col => col.getD ((if matrixRows c.core = 32 ∧ c.v = 1 then 32 else 0) + k) 0), rest) := by
  simp [Cmd.loadRows, hk, h, Fed.bind]

end

end Sys2Proof.Machine
end

section
/-! The matrix engine's streams: a pass over the elements of a row of the accumulator file, and the row that a stream adds (spec/08_matrix_engine.md R97 to R102, R235, R241, R242, R249). -/

namespace Sys2Proof.Machine

open Claims

/-! ### A pass over elements of the accumulator file -/

/-- The elements at distinct keys each updated once: what becomes of them, and what each update gives besides. -/
def passOver {ι β : Type} (key : ι → Nat) (F : ι → AccEl → AccEl × β) (acc : SMap AccEl) : List ι → SMap AccEl × List β
  | [] => (acc, [])
  | i :: l =>
    let d := F i (mget acc (key i) {})
    let r := passOver key F (mset {} acc (key i) d.1) l
    (r.1, d.2 :: r.2)

section
variable {ι β : Type} (key : ι → Nat) (F : ι → AccEl → AccEl × β) {acc : SMap AccEl} {l : List ι}

/-- An element whose key is not among those passed stays as it is. -/
theorem passOver_other {k : Nat} (hk : ∀ i ∈ l, key i ≠ k) : mget (passOver key F acc l).1 k {} = mget acc k {} := by
  induction l generalizing acc with
  | nil => rfl
  | cons i l ih =>
    rw [passOver]
    rw [ih fun j hj => hk j (by simp [hj]), mget_mset, if_neg (hk i (by simp))]

theorem passOver_get (hl : (l.map key).Nodup) : ∀ i ∈ l, mget (passOver key F acc l).1 (key i) {} = (F i (mget acc (key i) {})).1 := by
  induction l generalizing acc with
  | nil => simp
  | cons j l ih =>
    obtain ⟨hj, hl⟩ := List.nodup_cons.1 hl
    have hne (i : ι) (hi : i ∈ l) : key i ≠ key j := fun e => hj (e ▸ List.mem_map_of_mem hi)
    intro i hi
    rw [passOver]
    rcases List.mem_cons.1 hi with rfl | hi
    · rw [passOver_other key F hne, mget_mset, if_pos rfl]
    · rw [ih hl i hi, mget_mset, if_neg (hne i hi).symm]

theorem passOver_gives (hl : (l.map key).Nodup) : (passOver key F acc l).2 = l.map fun i => (F i (mget acc (key i) {})).2 := by
  induction l generalizing acc with
  | nil => rfl
  | cons j l ih =>
    obtain ⟨hj, hl⟩ := List.nodup_cons.1 hl
    have hne (i : ι) (hi : i ∈ l) : key j ≠ key i := fun e => hj (e ▸ List.mem_map_of_mem hi)
    rw [passOver, ih hl]
    simp only [List.map_cons, List.cons.injEq, true_and]
    refine List.map_congr_left fun i hi => ?_
    rw [mget_mset, if_neg (hne i hi)]

end

theorem getLsbD_foldl_orAll (l : List Flags) (f : Flags) (k : Nat) :
    (l.foldl (· ||| ·) f).getLsbD k = true ↔ f.getLsbD k = true ∨ ∃ x ∈ l, x.getLsbD k = true := by
  simpa using getLsbD_foldl_or (fun _ => true) id l f k

/-! ### One row streamed (R249) -/

section
variable (acc : SMap AccEl) (e : Nat) (k : MClass) (as : List Val) (cols : List (List Val)) (sAs : List Nat) (sBs : List (List Nat)) (nb : Nat)

/-- What a stream does to the element of column n. -/
def addColumn (n : Nat) (el : AccEl) : AccEl × Flags := el.addRow k as (cols.getD n []) sAs (sBs.getD n []) nb

theorem streamRow_eq : streamRow acc e k as cols sAs sBs nb =
    ((passOver (64 * e + ·) (addColumn k as cols sAs sBs nb) acc (List.range 64)).1,
      (passOver (64 * e + ·) (addColumn k as cols sAs sBs nb) acc (List.range 64)).2.foldl (· ||| ·) 0#6) := by
  have h (l : List Nat) (acc : SMap AccEl) (f : Flags) : l.foldl (fun r n =>
      let el := (mget r.1 (64 * e + n) {}).addRow k as (cols.getD n []) sAs (sBs.getD n []) nb
      (mset {} r.1 (64 * e + n) el.1, r.2 ||| el.2)) (acc, f) =
      ((passOver (64 * e + ·) (addColumn k as cols sAs sBs nb) acc l).1, (passOver (64 * e + ·) (addColumn k as cols sAs sBs nb) acc l).2.foldl (· ||| ·) f) := by
    induction l generalizing acc f with
    | nil => rfl
    | cons n l ih => rw [List.foldl_cons, ih]; rfl
  exact h ..

theorem rowKeys_nodup : ((List.range 64).map (64 * e + ·)).Nodup :=
  List.nodup_range.map fun _ _ h => Nat.add_left_cancel h

theorem streamRow_get {n : Nat} (hn : n < 64) : mget (streamRow acc e k as cols sAs sBs nb).1 (64 * e + n) {} =
    (addColumn k as cols sAs sBs nb n (mget acc (64 * e + n) {})).1 := by
  simp only [streamRow_eq]
  exact passOver_get (64 * e + ·) (addColumn k as cols sAs sBs nb) (rowKeys_nodup e) n (List.mem_range.2 hn)

theorem streamRow_other {j : Nat} (hj : j / 64 ≠ e) : mget (streamRow acc e k as cols sAs sBs nb).1 j {} = mget acc j {} := by
  simp only [streamRow_eq]
  refine passOver_other _ _ fun n hn => ?_
  have := List.mem_range.1 hn
  omega

theorem streamRow_flags (j : Nat) : (streamRow acc e k as cols sAs sBs nb).2.getLsbD j = true ↔
    ∃ n < 64, (addColumn k as cols sAs sBs nb n (mget acc (64 * e + n) {})).2.getLsbD j = true := by
  rw [streamRow_eq, getLsbD_foldl_orAll, passOver_gives _ _ (rowKeys_nodup e)]
  simp

end

/-! ### A row added by the engine -/

section
variable (m : MatEng) (c : Cmd) (fa fb : MFmt) (kt row run : Nat) (sA : List Nat)

theorem getD_range_map {α : Type} (g : Nat → α) (d : α) {n k : Nat} (h : k < n) : ((List.range n).map g).getD k d = g k := by
  simp [h]

/-- The elements of a column of the active plane. -/
theorem planeColumn (es : List Nat) {n : Nat} (hn : n < 64) :
    (((es.map fun run => (List.range 64).map fun n => fmtValue (packedElem run fb.width n) fb m.active.nanm).take kt).map fun r => r.getD n (.zero false)) =
      (es.take kt).map fun x => fmtValue (packedElem x fb.width n) fb m.active.nanm := by
  rw [← List.map_take, List.map_map]
  exact List.map_congr_left fun x _ => getD_range_map _ _ hn

/-- The row that the engine adds, as a row streamed. -/
def MatEng.addedRow (m : MatEng) (c : Cmd) (fa fb : MFmt) (kt row run : Nat) (sA : List Nat) : SMap AccEl × Flags :=
  streamRow m.acc (c.arow + row) fa.cls ((List.range kt).map fun i => fmtValue (packedElem run fa.width i) fa c.nanmBit)
    ((List.range 64).map fun n => ((m.active.elems.map fun run => (List.range 64).map fun n => fmtValue (packedElem run fb.width n) fb m.active.nanm).take kt).map
      fun r => r.getD n (.zero false)) sA
    ((List.range 64).map fun n => if m.active.pbs then m.active.scales.map fun run => packedElem run 16 n else List.replicate (kt / 32) m.active.usc) (kt / 32)

theorem MatEng.addRow_eq : m.addRow c fa fb kt 0 row (run, sA) =
    { m with acc := (m.addedRow c fa fb kt row run sA).1, flg := m.flg ||| (m.addedRow c fa fb kt row run sA).2 } := rfl

theorem streamed_eq {n : Nat} (hn : n < 64) : streamed m c fa fb kt row n run sA =
    addColumn fa.cls ((List.range kt).map fun i => fmtValue (packedElem run fa.width i) fa c.nanmBit)
      ((List.range 64).map fun n => ((m.active.elems.map fun run => (List.range 64).map fun n => fmtValue (packedElem run fb.width n) fb m.active.nanm).take kt).map
        fun r => r.getD n (.zero false)) sA
      ((List.range 64).map fun n => if m.active.pbs then m.active.scales.map fun run => packedElem run 16 n else List.replicate (kt / 32) m.active.usc) (kt / 32) n
      (mget m.acc (64 * (c.arow + row) + n) {}) := by
  unfold addColumn
  rw [getD_range_map _ _ hn, getD_range_map _ _ hn, planeColumn m fb kt _ hn]
  rfl

theorem addedRow_get {n : Nat} (hn : n < 64) :
    mget (m.addedRow c fa fb kt row run sA).1 (64 * (c.arow + row) + n) {} = (streamed m c fa fb kt row n run sA).1 :=
  (streamRow_get _ _ _ _ _ _ _ _ hn).trans (congrArg Prod.fst (streamed_eq m c fa fb kt row run sA hn).symm)

theorem addedRow_other {k : Nat} (hk : k / 64 ≠ c.arow + row) : mget (m.addedRow c fa fb kt row run sA).1 k {} = mget m.acc k {} :=
  streamRow_other _ _ _ _ _ _ _ _ hk

theorem addedRow_flags (k : Nat) : (m.addedRow c fa fb kt row run sA).2.getLsbD k = true ↔ ∃ n < 64, (streamed m c fa fb kt row n run sA).2.getLsbD k = true := by
  refine (streamRow_flags _ _ _ _ _ _ _ _ k).trans (exists_congr fun n => and_congr_right fun hn => ?_)
  rw [streamed_eq m c fa fb kt row run sA hn]

end

section
variable {s : State} {core : Nat} {r : Running} {fa fb : MFmt} {row run : Nat} {sA : List Nat}

/-- One row of a stream whose words are all read: what the advance of the stream gives. -/
theorem State.advDirect_row (hc : r.cmd.core = core) (hf : (s.coreAt core).foldK < 2) (hk : r.cmd.kind ∈ streamKinds) (hfa : r.cmd.fa = some fa)
    (hfb : MFmt.ofCode (s.matAt core).active.fmt = some fb) (hrow : r.cmd.row = some row) (hlt : row < r.cmd.nrow)
    (hw : r.cmd.streamWords fa (ktOf (matrixRows core) fa fb) fa.cls row = .ok (run, sA)) :
    s.advDirect r = (if r.cmd.nrow ≤ row + 1 then .done else .stay { r with cmd := { r.cmd with row := some (row + 1), feed := [] } },
      s.setMat core ((s.matAt core).addRow r.cmd fa fb (ktOf (matrixRows core) fa fb) 0 row (run, sA))) := by
  have ha : s.advDirect r = s.advStream r := by
    have hk' : r.cmd.kind = .mstream ∨ r.cmd.kind = .mstreama := by simpa [streamKinds] using hk
    rcases hk' with hk | hk <;> simp [State.advDirect, hk]
  subst hc
  rw [ha]
  simp only [State.advStream, hfa, hfb, hrow, Option.getD_some, if_neg hlt.not_ge, State.foldBase_plain hf, hw, State.feed]
  split <;> rfl

/-- A stream whose words of a row are all read adds the row through the active plane, and ends with its last. -/
theorem stream_row (hc : r.cmd.core = core) (hrp : r.cmd.rp = false) (hf : (s.coreAt core).foldK < 2) (hm : (s.matAt core).stream = some r)
    (hk : r.cmd.kind ∈ streamKinds) (hfa : r.cmd.fa = some fa) (hfb : MFmt.ofCode (s.matAt core).active.fmt = some fb) (hrow : r.cmd.row = some row)
    (hlt : row < r.cmd.nrow) (hw : r.cmd.streamWords fa (ktOf (matrixRows core) fa fb) fa.cls row = .ok (run, sA)) :
    let d := (s.matAt core).addedRow r.cmd fa fb (ktOf (matrixRows core) fa fb) row run sA
    (row + 1 = r.cmd.nrow → ∃ t u, exec (.matrixCommandComplete core 1) s = .next t ∧
      MatNow s u core { s.matAt core with acc := d.1, flg := (s.matAt core).flg ||| d.2, stream := none } ∧ TagFalls u t core r.cmd.tag) ∧
    (row + 1 < r.cmd.nrow → ∃ t, exec (.matrixCommandComplete core 1) s = .next t ∧ MatNow s t core { s.matAt core with
      acc := d.1, flg := (s.matAt core).flg ||| d.2, stream := some { r with cmd := { r.cmd with row := some (row + 1), feed := [] } } }) := by
  have ha := State.advDirect_row hc hf hk hfa hfb hrow hlt hw
  rw [MatEng.addRow_eq] at ha
  have hn := matNow_setMat s core { s.matAt core with
    acc := ((s.matAt core).addedRow r.cmd fa fb (ktOf (matrixRows core) fa fb) row run sA).1
    flg := (s.matAt core).flg ||| ((s.matAt core).addedRow r.cmd fa fb (ktOf (matrixRows core) fa fb) row run sA).2 }
  refine ⟨fun h => matDone (unit := 1) (by omega) hm hc hrp ?_ hn, fun h => matStays (unit := 1) (by omega) hm ?_ hn⟩
  · rw [ha, if_pos h.ge]
  · rw [ha, if_neg (by omega)]

end

end Sys2Proof.Machine
end

section
/-! The matrix engine's drains: the row that a drain closes and codes, and its last write (spec/08_matrix_engine.md R251, R259). -/

namespace Sys2Proof.Machine

open Claims

/-! ### A row drained -/

section
variable (acc : SMap AccEl) (e : Nat) (c : Cmd) (fo : MFmt)

theorem drainRow_eq :
    let p := passOver id (fun _ el => drainEl el c fo) acc (rowKeys e)
    drainRow acc e c fo = (p.1, packElems fo.width (p.2.map Prod.fst), (p.2.map Prod.snd).foldl (· ||| ·) 0#6) := by
  have h (l : List Nat) (acc : SMap AccEl) (vs : List Nat) (f : Flags) : l.foldl (fun (r : SMap AccEl × List Nat × Flags) k =>
      let d := drainEl (mget r.1 k {}) c fo
      (mset {} r.1 k d.1, r.2.1 ++ [d.2.1], r.2.2 ||| d.2.2)) (acc, vs, f) =
      ((passOver id (fun _ el => drainEl el c fo) acc l).1, vs ++ (passOver id (fun _ el => drainEl el c fo) acc l).2.map Prod.fst,
        ((passOver id (fun _ el => drainEl el c fo) acc l).2.map Prod.snd).foldl (· ||| ·) f) := by
    induction l generalizing acc vs f with
    | nil => simp [passOver]
    | cons k l ih => simp [ih, passOver]
  simp only [drainRow, h, List.nil_append]

theorem drainRow_get {n : Nat} (hn : n < 64) : mget (drainRow acc e c fo).1 (64 * e + n) {} = (drainEl (mget acc (64 * e + n) {}) c fo).1 := by
  simp only [drainRow_eq]
  refine passOver_get id (fun _ el => drainEl el c fo) ?_ (64 * e + n) (List.mem_map.2 ⟨n, List.mem_range.2 hn, rfl⟩)
  rw [List.map_id]
  exact rowKeys_nodup e

theorem drainRow_other {k : Nat} (hk : k / 64 ≠ e) : mget (drainRow acc e c fo).1 k {} = mget acc k {} := by
  simp only [drainRow_eq]
  refine passOver_other id _ fun i hi => ?_
  obtain ⟨n, hn, rfl⟩ := List.mem_map.1 hi
  have := List.mem_range.1 hn
  simp only [id_eq]
  omega

theorem passOver_rowKeys : (passOver id (fun _ el => drainEl el c fo) acc (rowKeys e)).2 =
    (List.range 64).map fun n => (drainEl (mget acc (64 * e + n) {}) c fo).2 := by
  rw [passOver_gives id _ (by rw [List.map_id]; exact rowKeys_nodup e), rowKeys, List.map_map]
  rfl

theorem drainRow_codes : (drainRow acc e c fo).2.1 = packElems fo.width ((List.range 64).map fun n => (drainEl (mget acc (64 * e + n) {}) c fo).2.1) := by
  simp only [drainRow_eq, passOver_rowKeys, List.map_map]
  rfl

theorem drainRow_flags (k : Nat) : (drainRow acc e c fo).2.2.getLsbD k = true ↔
    ∃ n < 64, (drainEl (mget acc (64 * e + n) {}) c fo).2.2.getLsbD k = true := by
  simp only [drainRow_eq, passOver_rowKeys, List.map_map, getLsbD_foldl_orAll]
  simp

end

/-- The lines of a run at an address are told apart by their addresses. -/
theorem rowPieces_unique {va n v row : Nat} {fe : Option Bool} {p q : LineWrite} (hp : p ∈ rowPieces va n v row fe) (hq : q ∈ rowPieces va n v row fe)
    (h : p.va = q.va) : p = q := by
  obtain ⟨a, -, rfl⟩ := List.mem_map.1 hp
  obtain ⟨b, -, rfl⟩ := List.mem_map.1 hq
  obtain rfl : a = b := h
  rfl

/-- A line of a drain with its bytes, where it is of the row at hand. -/
def LineWrite.filled (lw : LineWrite) (data : List LineWrite) (row : Nat) : LineWrite :=
  match data.find? fun p => decide (lw.row = row) && decide (p.va = lw.va) with
  | some p => { lw with data := p.data }
  | none => lw

theorem LineWrite.filled_rest (lw : LineWrite) (data : List LineWrite) (row : Nat) : { lw.filled data row with data := lw.data } = lw := by
  unfold LineWrite.filled
  split <;> rfl

theorem LineWrite.filled_data {lw p : LineWrite} {va n v row : Nat} {fe : Option Bool} (hp : p ∈ rowPieces va n v row fe) (hr : lw.row = row) (hv : lw.va = p.va) :
    (lw.filled (rowPieces va n v row fe) row).data = p.data := by
  have hs : ((rowPieces va n v row fe).find? fun p => decide (lw.row = row) && decide (p.va = lw.va)).isSome = true :=
    List.find?_isSome.2 ⟨p, hp, by simp [hr, hv]⟩
  obtain ⟨q, hq⟩ := Option.isSome_iff_exists.1 hs
  have hqv := List.find?_some hq
  have e : q = p := rowPieces_unique (List.mem_of_find?_eq_some hq) hp (by simp at hqv; omega)
  simp [LineWrite.filled, hq, e]

section
variable {s : State} {core : Nat} {r : Running} {fo : MFmt} {lw : LineWrite} {l : List LineWrite}

theorem State.advDirect_drain (hk : r.cmd.kind = .mdrain ∨ r.cmd.kind = .mdrainn) : s.advDirect r = s.advDrain r := by
  rcases hk with hk | hk <;> simp [State.advDirect, hk]

/-- A drain that is to write a row first closes the groups of the row and forms its codes. -/
theorem drain_plans (hc : r.cmd.core = core) (hf : (s.coreAt core).foldK < 2) (hm : (s.matAt core).stream = some r)
    (hk : r.cmd.kind = .mdrain ∨ r.cmd.kind = .mdrainn) (hfo : r.cmd.fo = some fo) (ht : r.todo = lw :: l) (hp : r.planned = false) {d : SMap AccEl × Nat × Flags}
    (hd : drainRow (s.matAt core).acc (r.cmd.arow + lw.row) r.cmd fo = d) :
    ∃ t, exec (.matrixCommandComplete core 1) s = .next t ∧ MatNow s t core { s.matAt core with
      acc := d.1, flg := (s.matAt core).flg ||| d.2.2
      stream := some { r with
        todo := r.todo.map fun x => x.filled (rowPieces (r.cmd.addr + lw.row * r.cmd.pitch) (8 * fo.width) d.2.1 lw.row none) lw.row, planned := true } } := by
  have ha : s.advDirect r = (.stay { r with
      todo := r.todo.map fun x => x.filled (rowPieces (r.cmd.addr + lw.row * r.cmd.pitch) (8 * fo.width) d.2.1 lw.row none) lw.row, planned := true },
      s.setMat core { s.matAt core with acc := d.1, flg := (s.matAt core).flg ||| d.2.2 }) := by
    subst hc
    rw [State.advDirect_drain hk]
    simp only [State.advDrain, hfo, ht, hp, State.drainHead, State.foldBase_plain hf, Nat.add_zero, hd]
    rfl
  exact matStays (unit := 1) (by omega) hm ha (matNow_setMat s core { s.matAt core with acc := d.1, flg := (s.matAt core).flg ||| d.2.2 })

end

end Sys2Proof.Machine
end

section
/-! The last write of a drained row, and the matrix engine as a whole (spec/08_matrix_engine.md R131, R251, R259). -/

namespace Sys2Proof.Machine

open Claims

/-! ### Writing a part of a line -/

/-- A masked write changes the bytes whose bit in the mask is 0. -/
theorem Memory.byte_write_masked (m : Memory) (a v mask n x : Nat) : (m.write a v mask n).byte x =
    if a ≤ x ∧ x < a + n ∧ mask.testBit (x - a) = false then BitVec.ofNat 8 (v / 256 ^ (x - a)) else m.byte x := by
  induction n generalizing m a v mask with
  | zero => rw [Memory.write, if_neg (by omega)]
  | succ n ih =>
    have hb (hne : a ≠ x) : (if mask % 2 = 0 then m.setByte a (BitVec.ofNat 8 v) else m).byte x = m.byte x := by
      split
      · rw [Memory.byte_setByte, if_neg hne]
      · rfl
    rw [Memory.write, ih]
    rcases lt_trichotomy x a with h | rfl | h
    · rw [hb h.ne', if_neg fun hx => h.not_ge (by omega), if_neg fun hx => h.not_ge hx.1]
    · rw [if_neg fun hx => absurd hx.1 (by omega)]
      by_cases hm : mask % 2 = 0 <;> simp [hm, Memory.byte_setByte, Nat.testBit_zero]
    · rw [hb h.ne]
      obtain ⟨d, rfl⟩ := Nat.exists_eq_add_of_lt h
      have e1 : a + d + 1 - (a + 1) = d := by omega
      have e2 : a + d + 1 - a = d + 1 := by omega
      rw [e1, e2, Nat.testBit_succ, Nat.pow_succ', Nat.div_div_eq_div_mul]
      refine if_congr ⟨?_, ?_⟩ rfl rfl <;> exact fun ⟨h1, h2, h3⟩ => ⟨by omega, by omega, h3⟩

/-- The mask of the j-th 16 bytes of a line. -/
theorem pieceMask_piece : ∀ j < 4, ∀ k < 4, pieceMask (65535 * 2 ^ (16 * j)) k = if k = j then 65535 * 2 ^ (16 * j) else 0 := by decide

theorem testBit_otherBytes {j i : Nat} (hj : j < 4) (hi : i < 64) :
    (2 ^ 64 - 1 - 65535 * 2 ^ (16 * j) % 2 ^ 64).testBit i = false ↔ 16 * j ≤ i ∧ i < 16 * j + 16 := by
  have hlt : 65535 * 2 ^ (16 * j) < 2 ^ 64 := by interval_cases j <;> norm_num
  have e : 2 ^ 64 - 1 - 65535 * 2 ^ (16 * j) = 2 ^ 64 - (65535 * 2 ^ (16 * j) + 1) := by omega
  rw [Nat.mod_eq_of_lt hlt, e, Nat.testBit_two_pow_sub_succ hlt, Nat.testBit_mul_two_pow]
  have h16 : (65535 : Nat) = 2 ^ 16 - 1 := by norm_num
  rw [h16, Nat.testBit_two_pow_sub_one]
  simp [hi]
  omega

/-- The write of the j-th 16 bytes of a line. -/
theorem written_piece (m : Memory) (a data : Nat) {j : Nat} (hj : j < 4) :
    Written m (m.write a data (2 ^ 64 - 1 - 65535 * 2 ^ (16 * j) % 2 ^ 64) 64) (a + 16 * j) 16 (data / 2 ^ (128 * j)) 0 := by
  intro x
  rw [Memory.byte_write_masked]
  by_cases h : a ≤ x ∧ x < a + 64
  · have ht := testBit_otherBytes (i := x - a) hj (by omega)
    by_cases hp : a + 16 * j ≤ x ∧ x < a + 16 * j + 16
    · have e : x - a = 16 * j + (x - (a + 16 * j)) := by omega
      have hpow : 256 ^ (x - a) = 2 ^ (128 * j) * 256 ^ (x - (a + 16 * j)) := by
        rw [e, Nat.pow_add, Nat.pow_mul, Nat.pow_mul]
      rw [if_pos ⟨h.1, h.2, ht.2 (by omega)⟩, if_pos ⟨hp.1, hp.2, Nat.zero_testBit _⟩, hpow, Nat.div_div_eq_div_mul]
    · rw [if_neg fun hx => hp (by have := ht.1 hx.2.2; omega), if_neg fun hx => hp ⟨hx.1, hx.2.1⟩]
  · rw [if_neg (by omega), if_neg (by omega)]

section
variable {s : State} {core : Nat} {r : Running} {fo : MFmt} {lw : LineWrite} {j cmd : Nat}

theorem Memory.poisoned_of_noErrs {m : Memory} (h : m.errs = []) (w : Nat) : m.poisoned w = false := by simp [Memory.poisoned, h, mget?]

theorem State.heal_of_noErrs (h : s.mem.errs = []) (ws : List Nat) : s.heal ws = s := by
  have hm : (ws.foldl (fun (m : Memory) w => if m.poisoned w then (m.setErr w none).setFull w true else m) s.mem) = s.mem := by
    induction ws with
    | nil => rfl
    | cons w ws ih => rw [List.foldl_cons, Memory.poisoned_of_noErrs h]; exact ih
  unfold State.heal
  rw [hm]

theorem mem_maskWords {line mask w : Nat} (h : w ∈ maskWords line mask) : w / 8 = line := by
  obtain ⟨k, hk, e⟩ := List.mem_filterMap.1 h
  have := List.mem_range.1 hk
  split at e
  · simp at e; omega
  · simp at e

/-- The one part of a line that is yet to be written, where no word of the line is reserved. -/
theorem State.freePieces_one (hj : j < 4) (hm : lw.mask = 65535 * 2 ^ (16 * j)) (hr : ∀ x ∈ s.resv, x.1 / 8 ≠ lw.line) : s.freePieces lw = [j] := by
  have hfree (k : Nat) : (s.resv.any fun e => (maskWords lw.line (pieceMask lw.mask k)).contains e.1) = false :=
    List.any_eq_false.2 fun x hx => by
      simp only [List.contains_iff_mem]
      exact fun h => hr x hx (mem_maskWords h)
  have hpiece (k : Nat) (hk : k ∈ List.range 4) : (pieceMask lw.mask k ≠ 0 && !(s.resv.any fun e => (maskWords lw.line (pieceMask lw.mask k)).contains e.1)) =
      decide (k = j) := by
    rw [hfree, hm, pieceMask_piece j hj k (List.mem_range.1 hk)]
    by_cases h : k = j <;> simp [h]
  unfold State.freePieces
  rw [List.filter_congr hpiece]
  interval_cases j <;> rfl

/-- The state after a command has written the last part of a line and has released it. -/
def State.lineWritten (s : State) (cmd : Nat) (lw : LineWrite) : State :=
  { s with
    mem := s.mem.write (64 * lw.line) lw.data (2 ^ 64 - 1 - lw.mask % 2 ^ 64) 64
    owned := s.owned.filter fun o => !(decide (o.line = lw.line) && decide (o.cmd = cmd)) }

theorem State.writePiece_last (hj : j < 4) (hm : lw.mask = 65535 * 2 ^ (16 * j)) (hfe : lw.fe = none) (hh : s.retiredHome (64 * lw.line) = false)
    (hr : ∀ x ∈ s.resv, x.1 / 8 ≠ lw.line) (hw : s.waitq = []) (he : s.mem.errs = []) :
    s.writePiece cmd lw false = (.ok { lw with mask := 0 }, s.lineWritten cmd lw) := by
  have hp : pieceMask lw.mask j = lw.mask := by rw [hm, pieceMask_piece j hj j hj, if_pos rfl]
  have hx : Nat.xor lw.mask lw.mask = 0 := Nat.xor_self _
  have hlr : s.lineRefused lw = none := by simp [State.lineRefused, hh, Memory.poisoned_of_noErrs he]
  have hput : s.putLine lw = s.putMem (64 * lw.line) lw.data (2 ^ 64 - 1 - lw.mask % 2 ^ 64) 64 := by
    simp only [State.putLine, State.correct_of_noErrs s he, State.heal_of_noErrs he, hfe]
  have hret : (s.lineWritten cmd lw).retestAll (lineWords [lw.line]) = s.lineWritten cmd lw := State.retestAll_of_noWaiters (s.lineWritten cmd lw) hw _
  have hafter : (s.putMem (64 * lw.line) lw.data (2 ^ 64 - 1 - lw.mask % 2 ^ 64) 64).afterPiece cmd { lw with mask := 0 } j false = s.lineWritten cmd lw := rfl
  have hchoose : s.choose 1 = (0, s) := rfl
  unfold State.writePiece
  simp only [State.freePieces_one hj hm hr, List.length_singleton, hchoose, List.getD_cons_zero, hp, hlr, hx, hput, hafter, hret]

/-- The engine once the last write of a row has performed. -/
def MatEng.rowEnd (m : MatEng) (c : Cmd) (row : Nat) : MatEng :=
  if c.kind = .mdrainn then m else { m with acc := clearRows m.acc (c.arow + row) 1 }

theorem kind_of_drain {e : CmdKind × Bool} (he : e ∈ drainKinds) {k : CmdKind} (hk : k = e.1) : k = .mdrain ∨ k = .mdrainn := by
  have he' : e = (.mdrain, true) ∨ e = (.mdrainn, false) := by simpa [drainKinds] using he
  rcases he' with rfl | rfl
  · exact .inl hk
  · exact .inr hk

theorem rowsCleared_rowEnd (m : MatEng) {e : CmdKind × Bool} (he : e ∈ drainKinds) {c : Cmd} (hk : c.kind = e.1) (row : Nat) :
    RowsCleared m.acc (m.rowEnd c row).acc (c.arow + row) (if e.2 then 1 else 0) := by
  have he' : e = (.mdrain, true) ∨ e = (.mdrainn, false) := by simpa [drainKinds] using he
  rcases he' with rfl | rfl
  · rw [MatEng.rowEnd, if_neg (by simp [hk])]
    exact rowsCleared_clearRows _ _ _
  · rw [MatEng.rowEnd, if_pos hk]
    intro k
    rw [if_neg (by simp)]

/-- A drain that writes the last part of its last line is complete. -/
theorem State.advDirect_lastWrite (hc : r.cmd.core = core) (hf : (s.coreAt core).foldK < 2) (hk : r.cmd.kind = .mdrain ∨ r.cmd.kind = .mdrainn)
    (hfo : r.cmd.fo = some fo) (ht : r.todo = [lw]) (hp : r.planned = true) (hb : lw.bad = none) (hfe : lw.fe = none) (hj : j < 4)
    (hm : lw.mask = 65535 * 2 ^ (16 * j)) (hl : s.lineReady r.cmd.id lw = true) (hh : s.retiredHome (64 * lw.line) = false)
    (hr : ∀ x ∈ s.resv, x.1 / 8 ≠ lw.line) (hw : s.waitq = []) (he : s.mem.errs = []) :
    ∃ u, s.advDirect r = (.done, u) ∧ u.cores = s.cores ∧ u.mem = (s.lineWritten r.cmd.id lw).mem ∧ u.matAt core = (s.matAt core).rowEnd r.cmd lw.row := by
  subst hc
  have ha : s.advDirect r = (.done, (s.lineWritten r.cmd.id lw).rowDone r.cmd lw.row) := by
    have hag : writesAgain lw.line [] = false := rfl
    rw [State.advDirect_drain hk]
    simp [State.advDrain, hfo, ht, hp, hb, hl, hag, State.writePiece_last hj hm hfe hh hr hw he]
  have hbase : (s.lineWritten r.cmd.id lw).foldBase r.cmd.core r.cmd.grp = 0 := State.foldBase_plain hf _
  refine ⟨_, ha, ?_⟩
  unfold State.rowDone MatEng.rowEnd
  split
  · exact ⟨rfl, rfl, rfl⟩
  · refine ⟨rfl, rfl, ?_⟩
    rw [State.setMat_matAt_same, hbase]
    rfl

theorem drain_lastWrite {e : CmdKind × Bool} (hke : e ∈ drainKinds) (hk : r.cmd.kind = e.1) (hc : r.cmd.core = core) (hrp : r.cmd.rp = false)
    (hf : (s.coreAt core).foldK < 2) (hst : (s.matAt core).stream = some r) (hfo : r.cmd.fo = some fo) (ht : r.todo = [lw]) (hp : r.planned = true)
    (hb : lw.bad = none) (hfe : lw.fe = none) (hj : j < 4) (hm : lw.mask = 65535 * 2 ^ (16 * j)) (hl : s.lineReady r.cmd.id lw = true)
    (hh : s.retiredHome (64 * lw.line) = false) (hr : ∀ x ∈ s.resv, x.1 / 8 ≠ lw.line) (hw : s.waitq = []) (he : s.mem.errs = []) :
    ∃ t u acc, exec (.matrixCommandComplete core 1) s = .next t ∧ TagFalls u t core r.cmd.tag ∧ u.cores = s.cores ∧
      Written s.mem t.mem (64 * lw.line + 16 * j) 16 (lw.data / 2 ^ (128 * j)) 0 ∧ t.matAt core = { s.matAt core with acc := acc, stream := none } ∧
      RowsCleared (s.matAt core).acc acc (r.cmd.arow + lw.row) (if e.2 then 1 else 0) := by
  obtain ⟨u, ha, hcores, hmem, hmat⟩ := State.advDirect_lastWrite hc hf (kind_of_drain hke hk) hfo ht hp hb hfe hj hm hl hh hr hw he
  have hd := State.matComplete_done (unit := 1) (by omega) hst hc hrp ha
  have hmt (v : State) : (v.tagDown core r.cmd.tag).matAt core = v.matAt core := congrArg (fun m => mget m core ({} : MatEng)) (v.tagDown_mats core r.cmd.tag)
  have hme (v : State) : (v.tagDown core r.cmd.tag).mem = v.mem := apply_ite_eq State.mem rfl rfl
  refine ⟨_, u.setMat core ((u.matAt core).setUnit 1 none), ((s.matAt core).rowEnd r.cmd lw.row).acc, congrArg Host.Outcome.next hd, tagFalls_tagDown .., hcores, ?_, ?_,
    rowsCleared_rowEnd _ hke hk _⟩
  · rw [hme, State.setMat_mem, hmem, State.lineWritten, hm]
    exact written_piece _ _ _ hj
  · rw [hmt, State.setMat_matAt_same, hmat]
    unfold MatEng.rowEnd
    split <;> rfl

end

/-! ### What the commands compute -/

theorem matrixResults : MatrixResults := by
  intro s core r hc hrp hf m c ends goes loaded
  refine ⟨fun fb hm hfb hs hw => ⟨fun hk _ ha hp => ⟨fun hl => ?_, fun pa hl h => ?_⟩, fun hk cols rest h => ?_⟩, ?_, ?_⟩
  · subst hc
    exact load_ends rfl hrp hm (.inl hk) hfb hs (Cmd.loadRows_mls_read hk ha hp hw hl)
  · subst hc
    exact load_reads hm hk hfb (Cmd.loadRows_mls_need hk ha hp hw hl) h
  · subst hc
    exact load_ends rfl hrp hm (.inr hk) hfb hs (Cmd.loadRows_mlsc hk h)
  · intro fa fb row run sA hm hk hfa hfb hrow hlt kt hws
    obtain ⟨hlast, hmore⟩ := stream_row hc hrp hf hm hk hfa hfb hrow hlt hws
    exact ⟨_, _, fun n hn => addedRow_get _ _ _ _ _ _ _ _ hn, fun k hk => addedRow_other _ _ _ _ _ _ _ _ hk, fun k _ => addedRow_flags _ _ _ _ _ _ _ _ k, hlast, hmore⟩
  · intro e he fo lw l hm hk hfo ht row
    refine ⟨fun hp => ?_, fun j hj hp hl hb hfe hmask hready hh hr hw herr => ?_⟩
    · obtain ⟨d, hd⟩ : ∃ d, drainRow m.acc (c.arow + lw.row) c fo = d := ⟨_, rfl⟩
      have hget (n : Nat) (hn : n < 64) : mget d.1 (64 * (c.arow + lw.row) + n) {} = (row n).1 := hd ▸ drainRow_get _ _ _ _ hn
      have hother (k : Nat) (hk : k / 64 ≠ c.arow + lw.row) : mget d.1 k {} = mget m.acc k {} := hd ▸ drainRow_other _ _ _ _ hk
      have hflags (k : Nat) : d.2.2.getLsbD k = true ↔ ∃ n < 64, (row n).2.2.getLsbD k = true := hd ▸ drainRow_flags ..
      have hcodes : packElems fo.width ((List.range 64).map fun n => (row n).2.1) = d.2.1 := hd ▸ (drainRow_codes ..).symm
      refine ⟨d.1, d.2.2, _, drain_plans hc hf hm (kind_of_drain he hk) hfo ht hp hd, hget, hother, fun k _ => hflags k, List.length_map _, fun i x hx =>
        ⟨_, List.getElem?_map.trans (congrArg _ hx), LineWrite.filled_rest .., ?_⟩⟩
      rw [hcodes]
      exact fun p hp hxr hxv => LineWrite.filled_data hp hxr hxv
    · subst hl
      exact drain_lastWrite he hk hc hrp hf hm hfo ht hp hb hfe hj hmask hready hh hr hw herr

/-- Settles O36: what each command of the matrix engine does to its engine and its tag, and what the loads, streams and drains compute. -/
theorem matrixEvents : Obligations.MatrixEvents := ⟨matrixCommands, matrixResults⟩

end Sys2Proof.Machine
end

section
/-! SUPPORT. The slice forms as they fire: where the address leads, and what the form then sends or leaves for commit (spec/07_slice_engine.md R212, R217 to R225;
spec/04_ordering.md R118). -/

namespace Sys2Proof.Machine

open Claims

/-! ### The state but for a block, the requests and a translation cache -/

theorem onlyRequests_modRun {s u : State} {core slot : Nat} (h : OnlyRequests s u core slot) (f : Run → Run) : OnlyRequests s (u.modRun core slot f) core slot where
  fields := h.fields
  others k hk := (mget_mput_ne _ _ _ hk.symm).trans (h.others k hk)
  own := by rw [State.modRun_slotAt_same]; exact h.own

theorem onlyRequests_touched (s : State) (core slot : Nat) (tl : SMap (List TlbEntry)) (qs : List Req) (n : Nat) :
    OnlyRequests s { s with tlb1 := tl, reqs := qs, nextId := n } core slot := ⟨rfl, fun _ _ => rfl, rfl⟩

theorem State.touchL1_eq (s : State) (sp : Space) (va : Nat) : ∃ tl, s.touchL1 sp va = { s with tlb1 := tl } := by
  rw [State.touchL1]
  split
  · exact ⟨_, rfl⟩
  · split
    · exact ⟨_, rfl⟩
    · exact ⟨_, rfl⟩

/-! ### The way of an address -/

theorem effAddr_eq (x : Token) (o : BitVec 6) (size : Nat) : effAddr x.lo o size = effective x o size := by
  rw [effAddr, effective, wrap64, BitVec.ofInt_add, BitVec.ofInt_mul, BitVec.ofInt_natCast, BitVec.ofInt_natCast, BitVec.ofNat_toNat, BitVec.setWidth_eq]
  rfl

/-- An address that leads to a word of memory names no configuration space. -/
theorem State.paSpace_of_memory {s : State} {sp : Space} {load : Bool} {pa : Nat} (hm : ∀ site off, s.place (coreBasin sp.core) pa ≠ .config site off)
    (hc : s.checkMem sp load pa = none) : paSpace pa ≠ 3 := by
  intro h3
  rcases hp : s.place (coreBasin sp.core) pa with _ | _ | ⟨site, off⟩ | cause
  case config => exact hm _ _ hp
  case refused => simp [State.checkMem, hp] at hc
  all_goals
    simp only [State.place, classifyPa, h3] at hp
    grind

section
variable {s : State} {c : Ctx} {f : MForm} {ea pa : Nat} {rgn : Option Nat}

/-- An address that reaches memory passes the checks that follow translation (R202 to R204). -/
theorem State.memChecked_reaches {sp : Space} (hsp : c.sl.space c.core c.slot = sp) (hcore : sp.core = c.core) (u : State) (hr : u.redirect pa = pa)
    (hm : ∀ site off, u.place (coreBasin c.core) pa ≠ .config site off) (hc : u.checkMem sp f.kind.isLoad pa = none) (w x svo : Bool) :
    ∃ info, u.memChecked c f ea pa w x svo rgn = u.memSend c f ea pa info rgn := by
  have h3 : paSpace pa ≠ 3 := State.paSpace_of_memory (sp := sp) (by rwa [hcore]) hc
  refine ⟨w.toNat + 2 * x.toNat + 4 * svo.toNat + 8 * pa, ?_⟩
  rw [State.memChecked, hr, hsp]
  split
  · next h => simp [h3] at h
  · rcases hp : u.place (coreBasin c.core) pa with _ | _ | ⟨site, off⟩ | cause <;> simp only [hc]
    exact absurd hp (hm _ _)

/-- A form of aligned address that reaches memory, its operands there and not null, sends what it has to send. -/
theorem memExec_reaches {p : Pred} (h : Fires s c) (ha : Admits p c) (hs : f.slots c.inst = true) (hn : f.isNull c = false) (hk : f.kind ≠ .probe)
    (hal : effective c.l f.off f.size % f.size = 0) (hR : Reaches s c f.kind.need f.kind.isLoad (effective c.l f.off f.size) pa rgn) :
    ∃ tl info, memExec p f s = .next (({ s with tlb1 := tl } : State).memSend c f (effective c.l f.off f.size) pa info rgn) := by
  obtain ⟨⟨w, x, svo, hxl⟩, hred, hmem, hallow⟩ := hR
  obtain ⟨tl, htl⟩ := s.touchL1_eq (c.sl.space c.core c.slot) (effective c.l f.off f.size)
  obtain ⟨info, hi⟩ := State.memChecked_reaches (f := f) (ea := effective c.l f.off f.size) (rgn := rgn) rfl rfl ({ s with tlb1 := tl } : State) hred hmem hallow w x svo
  refine ⟨tl, info, ?_⟩
  rw [memExec, firing_go _ _ h ha hs, State.memFire, effAddr_eq, hn, if_neg Bool.false_ne_true, if_neg (by simp [hal])]
  simp only [hk, if_false, htl, hxl, State.memXl, hi]

/-! ### Operands -/

theorem MForm.slots_of (h : ∀ n, f.kind ≠ .st n) : f.slots = if f.kind.usesP then needLRP else if f.kind.usesR then needLR else needL := by
  unfold MForm.slots
  split
  · next n hk => exact absurd hk (h n)
  · rfl

theorem MemKind.usesR_of_usesP {k : MemKind} (h : k.usesP = true) : k.usesR = true := by
  unfold MemKind.usesP at h
  split at h
  · rfl
  · cases h

theorem MForm.slots_eq_true {i : Inst} (hl : i.l.isSome = true) (hr : f.kind.usesR = true → i.r.isSome = true) (hst : ∀ n, f.kind = .st n → i.r.isSome = true)
    (hp : f.kind.usesP = true → i.p.isSome = true) : f.slots i = true := by
  by_cases hk : ∃ n, f.kind = .st n
  · obtain ⟨n, hk⟩ := hk
    simp [MForm.slots, hk, needLR, hl, hst n hk]
  · rw [MForm.slots_of fun n hn => hk ⟨n, hn⟩]
    split_ifs with h1 h2
    · simp [needLRP, hl, hr (MemKind.usesR_of_usesP h1), hp h1]
    · simp [needLR, hl, hr h2]
    · simp [needL, hl]

theorem MForm.isNull_eq_false (hl : c.l.nullIn 8 = false) (hr : f.kind.usesR = true → c.r.nullIn 8 = false) (hp : f.kind.usesP = true → c.p.nullIn 8 = false)
    (hst : ∀ n, f.kind = .st n → c.r.mask.toNat % 2 ^ n ≠ 2 ^ n - 1) : f.isNull c = false := by
  have hr' : (f.kind.usesR && c.r.nullIn 8) = false := by cases h : f.kind.usesR <;> simp_all
  have hp' : (f.kind.usesP && c.p.nullIn 8) = false := by cases h : f.kind.usesP <;> simp_all
  rw [MForm.isNull, hl, hr', hp']
  split
  · next n hk => simpa using hst n hk
  · rfl

/-! ### What a form leaves -/

/-- The operation that a form leaves for commit. -/
def MForm.op (f : MForm) (c : Ctx) (ea pa req : Nat) (rgn : Option Nat) : Op :=
  { kind := .mem f.kind, ix := c.ix, lsid := f.lsid, l := c.l.data, r := c.r.data, p := c.p.data, rmask := c.r.mask,
    va := ea, pa := pa, size := f.size, reg := f.reg, req := req, rgn := rgn }

theorem leftRun_st (h : Fires s c) (n : BitVec 4) (st : InstSt) (op : Op) : ((leftRun c n st op).inst c.ix).st = st := by
  have e := Run.inst_modInst ({ c.run with ops := mput c.run.ops n.toNat op } : Run) c.ix c.ix (fun i => { i with st := st }) h.lt
  rw [leftRun, e, if_pos rfl]

theorem leftRun_op (c : Ctx) (n : BitVec 4) (st : InstSt) (op : Op) : mget? (leftRun c n st op).ops n.toNat = some op := mget?_mput_same ..

/-- The block once an operation has been left under its LSID and its instruction has come to a standing. -/
theorem runAt_left {u : State} (hrun : u.runAt c.core c.slot = some c.run) (op : Op) {n : BitVec 4} (hn : op.lsid = n.toNat) (st : InstSt) (qs : List Req) (i : Nat) :
    (({ u.addOp c.core c.slot op with reqs := qs, nextId := i } : State).setSt c.core c.slot c.ix st).runAt c.core c.slot = some (leftRun c n st op) := by
  have he : ({ u.addOp c.core c.slot op with reqs := qs, nextId := i } : State).runAt c.core c.slot = (u.addOp c.core c.slot op).runAt c.core c.slot := rfl
  rw [State.setSt_runAt_same, he, State.addOp, State.modRun_runAt_same, hrun, hn]
  rfl

theorem onlyRequests_left (s : State) (core slot ix : Nat) (tl : SMap (List TlbEntry)) (op : Op) (st : InstSt) (qs : List Req) (i : Nat) :
    OnlyRequests s (({ ({ s with tlb1 := tl } : State).addOp core slot op with reqs := qs, nextId := i } : State).setSt core slot ix st) core slot :=
  onlyRequests_modRun (onlyRequests_modRun (onlyRequests_touched s core slot tl qs i) fun r => { r with ops := mput r.ops op.lsid op })
    fun r => r.modInst ix fun x => { x with st := st }

/-- A store-mask form that reserves nothing resolves, and leaves its operation (R118, R152). -/
theorem memSend_pending (h : Fires s c) (hm : f.kind.storeMask = true) (hr : f.kind.reserves = false) {n : BitVec 4} (hn : f.lsid = n.toNat)
    (tl : SMap (List TlbEntry)) (info : Nat) :
    Pending s (({ s with tlb1 := tl } : State).memSend c f ea pa info rgn) c f.kind n ea pa f.size c.r.data c.r.mask := by
  have he : ({ s with tlb1 := tl } : State).memSend c f ea pa info rgn =
      (({ s with tlb1 := tl } : State).addOp c.core c.slot (f.op c ea pa s.nextId rgn)).setSt c.core c.slot c.ix .ready := by
    rw [State.memSend, if_pos hm, if_neg (by simp [hr])]
    rfl
  rw [he]
  exact ⟨rfl, ⟨_, _, runAt_left h.run _ hn .ready s.reqs s.nextId, leftRun_st h .., leftRun_op .., ⟨rfl, rfl, hn⟩, ⟨rfl, rfl, rfl⟩, rfl, rfl⟩,
    onlyRequests_left s c.core c.slot c.ix tl (f.op c ea pa s.nextId rgn) .ready s.reqs s.nextId⟩

/-- A form that reserves its word sends its request and leaves its operation, which names the request (R154, R221). -/
theorem memSend_reserving (h : Fires s c) (hm : f.kind.storeMask = true) (hr : f.kind.reserves = true) (hsz : f.size = 8) {n : BitVec 4} (hn : f.lsid = n.toNat)
    (tl : SMap (List TlbEntry)) (info : Nat) :
    Reserving s (({ s with tlb1 := tl } : State).memSend c f ea pa info rgn) c f.kind n ea pa c.r := by
  have hfired : s.firedAt c = s.time := by rw [State.firedAt, h.idle]
  have he : ({ s with tlb1 := tl } : State).memSend c f ea pa info rgn =
      ({ ({ s with tlb1 := tl } : State).addOp c.core c.slot (f.op c ea pa s.nextId rgn) with
        reqs := s.reqs ++ [s.newReq c f ea pa info rgn], nextId := s.nextId + 1 } : State).setSt c.core c.slot c.ix (.wait (s.firedAt c)) := by
    rw [State.memSend, if_pos hm, if_pos hr]
    rfl
  have hrun := runAt_left (u := { s with tlb1 := tl }) h.run (f.op c ea pa s.nextId rgn) hn (.wait (s.firedAt c)) (s.reqs ++ [s.newReq c f ea pa info rgn]) (s.nextId + 1)
  rw [he]
  refine ⟨⟨⟨_, rfl, ⟨rfl, ⟨rfl, rfl, rfl, rfl, hn⟩, ⟨rfl, rfl, rfl, hsz, rfl⟩, rfl, rfl, hfired⟩⟩, ⟨_, hrun, ?_⟩, onlyRequests_left ..⟩,
    _, _, hrun, leftRun_op .., ⟨⟨rfl, rfl, hn⟩, ⟨rfl, rfl, hsz⟩, rfl, rfl⟩, rfl⟩
  rw [leftRun_st h, hfired]

end

end Sys2Proof.Machine
end

section
/-! The forms that leave their operation for commit as they fire: stores, LDD and atomics; TAKE, GIVE and AMEND; the fences (spec/04_ordering.md R118, R126, R154;
spec/07_slice_engine.md R220 to R223). -/

namespace Sys2Proof.Machine

open Claims

/-! ### The forms by kind and size -/

theorem commitForms_kind : ∀ e ∈ commitForms, e.2.1.storeMask = true ∧ e.2.1.reserves = false ∧ e.2.1.need = .write ∧ e.2.1.isLoad = false ∧ e.2.1.usesP = false ∧
    (e.2.1.usesR = e.2.2.2) ∧ ∀ n, e.2.1 = .st n → n = e.2.2.1 ∧ e.2.2.2 = false := by
  simp [commitForms, MemKind.storeMask, MemKind.reserves, MemKind.need, MemKind.isLoad, MemKind.usesP, MemKind.usesR]

section
variable {s : State} {c : Ctx} {p : Pred} {n : BitVec 4} {o : BitVec 6} {a : Option Target} {x y : Token} {pa : Nat} {rgn : Option Nat}

theorem exec_commitForm {e : SliceForm × MemKind × Nat × Bool} (he : e ∈ commitForms) :
    exec (e.1 p n o a) s = memExec p { kind := e.2.1, size := e.2.2.1, off := o, lsid := n.toNat } s := by
  simp only [commitForms, List.mem_cons, List.not_mem_nil, or_false] at he
  rcases he with rfl | rfl | rfl | rfl | rfl | rfl | rfl | rfl | rfl <;> rfl

theorem exec_atomicForm {e : (Pred → Order → BitVec 4 → BitVec 6 → Option Target → Instr) × AtomOp} (he : e ∈ atomicForms) (m : Order) :
    exec (e.1 p m n o a) s = memExec p { kind := .atomic e.2 m, size := 8, off := o, lsid := n.toNat, t := a } s ∧ (MemKind.atomic e.2 m).usesP = false := by
  simp only [atomicForms, List.mem_cons, List.not_mem_nil, or_false] at he
  rcases he with rfl | rfl | rfl | rfl | rfl | rfl | rfl | rfl | rfl <;> exact ⟨rfl, rfl⟩

theorem exec_fillForm {e : (Pred → BitVec 4 → BitVec 6 → BitVec 6 → Instr) × LdSize × Nat} (he : e ∈ fillForms) (g : BitVec 6) :
    exec (e.1 p n g o) s = memExec p { kind := .ldd e.2.1 g.toNat, size := e.2.2, off := o, lsid := n.toNat, reg := g.toNat } s := by
  simp only [fillForms, List.mem_cons, List.not_mem_nil, or_false] at he
  rcases he with rfl | rfl | rfl | rfl | rfl | rfl | rfl | rfl <;> rfl

/-- A form of the block that reserves nothing, its operands there and not null, whose address reaches memory. -/
theorem exec_pending {i : Instr} {f : MForm} (hi : exec i s = memExec p f s) (h : Fires s c) (ha : Admits p c) (hl : c.inst.l = some x)
    (hs : f.slots c.inst = true) (hn : f.isNull c = false) (hm : f.kind.storeMask = true) (hr : f.kind.reserves = false) (hoff : f.lsid = n.toNat)
    (hal : effective x f.off f.size % f.size = 0) (hR : Reaches s c f.kind.need f.kind.isLoad (effective x f.off f.size) pa rgn) :
    ∃ t, exec i s = .next t ∧ Pending s t c f.kind n (effective x f.off f.size) pa f.size c.r.data c.r.mask := by
  obtain rfl : c.l = x := by simp [Ctx.l, hl]
  obtain ⟨tl, info, he⟩ := memExec_reaches h ha hs hn (by rintro hk; simp [hk, MemKind.storeMask] at hm) hal hR
  exact ⟨_, hi.trans he, memSend_pending h hm hr hoff tl info⟩

end

/-- Settles O18: each form's address reaches memory, and the form leaves its operation. -/
theorem pendingForms : Obligations.PendingForms := by
  unfold Obligations.PendingForms
  intro p n o a s c x pa rgn h ha hl hx z
  have hcl : c.l.nullIn 8 = false := by rwa [Ctx.l, hl]
  have hls : c.inst.l.isSome = true := by rw [hl]; rfl
  refine ⟨fun e he y hy hal hR hnull => ?_, fun hal hR => ⟨?_, fun y hy hyn => ⟨fun m e he => ?_, fun m k hk hkn => ?_⟩⟩, fun e he g hal hR => ?_⟩
  · obtain ⟨hm, hr, hneed, hload, hp, hu, hst⟩ := commitForms_kind e he
    obtain rfl : c.r = y := by simp [Ctx.r, hy]
    refine exec_pending (exec_commitForm he) h ha hl (MForm.slots_eq_true hls ?_ ?_ ?_) (MForm.isNull_eq_false hcl ?_ ?_ ?_) hm hr rfl hal (by rwa [hneed, hload])
    · simp [hy]
    · simp [hy]
    · simp [hp]
    · intro hur
      rw [if_pos (hu.symm.trans hur)] at hnull
      exact hnull
    · simp [hp]
    · intro k hk
      obtain ⟨rfl, hf⟩ := hst k hk
      rw [if_neg (by simp [hf])] at hnull
      exact hnull
  · exact exec_pending (f := formWord .void n o none) rfl h ha hl (MForm.slots_eq_true hls nofun nofun nofun) (MForm.isNull_eq_false hcl nofun nofun nofun) rfl rfl rfl hal hR
  · obtain ⟨hi, hp⟩ := exec_atomicForm (p := p) (n := n) (o := o) (a := a) (s := s) he m
    obtain rfl : c.r = y := by simp [Ctx.r, hy]
    exact exec_pending hi h ha hl (MForm.slots_eq_true hls (fun _ => by simp [hy]) nofun (by simp [hp])) (MForm.isNull_eq_false hcl (fun _ => hyn) (by simp [hp]) nofun)
      rfl rfl rfl hal hR
  · obtain rfl : c.r = y := by simp [Ctx.r, hy]
    obtain rfl : c.p = k := by simp [Ctx.p, hk]
    exact exec_pending (p := .always) (f := formWord (.atomic .acas m) n o a) rfl h trivial hl
      (MForm.slots_eq_true hls (fun _ => by simp [hy]) nofun fun _ => by simp [hk]) (MForm.isNull_eq_false hcl (fun _ => hyn) (fun _ => hkn) nofun) rfl rfl rfl hal hR
  · exact exec_pending (exec_fillForm he g) h ha hl (MForm.slots_eq_true hls nofun nofun nofun) (MForm.isNull_eq_false hcl nofun nofun nofun) rfl rfl rfl hal hR

/-! ### Forms that reserve their word, and fences -/

theorem exec_reserving {s : State} {c : Ctx} {p : Pred} {n : BitVec 4} {x : Token} {pa : Nat} {rgn : Option Nat} {i : Instr} {f : MForm}
    (hi : exec i s = memExec p f s) (h : Fires s c) (ha : Admits p c) (hl : c.inst.l = some x) (hs : f.slots c.inst = true) (hn : f.isNull c = false)
    (hm : f.kind.storeMask = true) (hr : f.kind.reserves = true) (hoff : f.lsid = n.toNat) (hsz : f.size = 8) (hal : effective x f.off 8 % 8 = 0)
    (hR : Reaches s c f.kind.need f.kind.isLoad (effective x f.off 8) pa rgn) :
    ∃ t, exec i s = .next t ∧ Reserving s t c f.kind n (effective x f.off 8) pa c.r := by
  obtain rfl : c.l = x := by simp [Ctx.l, hl]
  obtain ⟨tl, info, he⟩ := memExec_reaches h ha hs hn (by rintro hk; simp [hk, MemKind.storeMask] at hm) (by rwa [hsz]) (by rwa [hsz])
  rw [hsz] at he
  exact ⟨_, hi.trans he, memSend_reserving h hm hr hsz hoff tl info⟩

/-- A fence leaves its operation, where the reads of its block have performed in an order that it allows. -/
theorem fenceExec_left {s : State} {c : Ctx} {p : Pred} (h : Fires s c) (ha : Admits p c) (sc : Scope) (n : BitVec 4)
    (hd : (leftRun c n .ready { kind := .mem (.fence sc), ix := c.ix, lsid := n.toNat }).disordered = false) :
    ∃ t, fenceExec p sc n s = .next t ∧ BlockNow s t c (leftRun c n .ready { kind := .mem (.fence sc), ix := c.ix, lsid := n.toNat }) := by
  let op : Op := { kind := .mem (.fence sc), ix := c.ix, lsid := n.toNat }
  have hrun : ((s.addOp c.core c.slot op).setSt c.core c.slot c.ix .ready).runAt c.core c.slot = some (leftRun c n .ready op) :=
    runAt_left h.run op rfl .ready s.reqs s.nextId
  have hre : ((s.addOp c.core c.slot op).setSt c.core c.slot c.ix .ready).reorder c.core c.slot = (s.addOp c.core c.slot op).setSt c.core c.slot c.ix .ready := by
    simp only [State.reorder, hrun, op, hd, Bool.false_and, Bool.false_eq_true, if_false]
  refine ⟨_, firing_go _ _ h ha rfl, ?_, ?_⟩
  · rw [hre]; exact hrun
  · rw [hre]
    exact (modRun_onlyBlock ..).trans (modRun_onlyBlock ..)

/-- Settles O19: a form that reserves sends its request and leaves its operation; a fence leaves its operation alone. -/
theorem reservingForms : Obligations.ReservingForms := by
  unfold Obligations.ReservingForms
  intro p n o a s c h ha
  refine ⟨fun x pa rgn hl hx hal => ?_, fun e he hd => ?_⟩
  · have hcl : c.l.nullIn 8 = false := by rwa [Ctx.l, hl]
    have hls : c.inst.l.isSome = true := by rw [hl]; rfl
    refine ⟨fun hR => ?_, fun y hy hyn hR => ?_⟩
    · exact exec_reserving (f := formWord .take n o a) rfl h ha hl (MForm.slots_eq_true hls nofun nofun nofun) (MForm.isNull_eq_false hcl nofun nofun nofun) rfl rfl rfl rfl hal hR
    · obtain rfl : c.r = y := by simp [Ctx.r, hy]
      have hyr : c.inst.r.isSome = true := by rw [hy]; rfl
      exact ⟨exec_reserving (f := formWord .give n o none) rfl h ha hl (MForm.slots_eq_true hls (fun _ => hyr) nofun nofun)
          (MForm.isNull_eq_false hcl (fun _ => hyn) nofun nofun) rfl rfl rfl rfl hal hR,
        exec_reserving (f := formWord .amend n o none) rfl h ha hl (MForm.slots_eq_true hls (fun _ => hyr) nofun nofun)
          (MForm.isNull_eq_false hcl (fun _ => hyn) nofun nofun) rfl rfl rfl rfl hal hR⟩
  · simp only [List.mem_cons, List.not_mem_nil, or_false] at he
    rcases he with rfl | rfl | rfl
    · exact fenceExec_left h ha .core n hd
    · exact fenceExec_left h ha .basin n hd
    · exact fenceExec_left h ha .sys n hd

end Sys2Proof.Machine
end

section
/-! SUPPORT. A request at its home: that it is ready there, that its words are sound, and what it then does (spec/04_ordering.md R114 to R132; spec/07_slice_engine.md R219 to R231). -/

namespace Sys2Proof.Machine

open Claims

/-! ### Memory as the statements speak of it -/

theorem written_write (m : Memory) (a v mask n : Nat) : Written m (m.write a v mask n) a n v mask := fun x => m.byte_write_masked a v mask n x

theorem written_none (m : Memory) (a v mask : Nat) : Written m m a 0 v mask := fun x => by rw [if_neg (by omega)]

theorem marked_write (m : Memory) (a v mask n : Nat) (b : Bool) : Marked m (m.write a v mask n) [] b := fun w => by simp [Memory.full_write]

theorem marked_setFull (m : Memory) (w : Nat) (b : Bool) : Marked m (m.setFull w b) [w] b := fun x => by
  rw [Memory.full_setFull]
  exact if_congr (by simp [eq_comm]) rfl rfl

theorem Memory.write_errs (m : Memory) (a v mask n : Nat) : (m.write a v mask n).errs = m.errs := by
  induction n generalizing m a v mask with
  | zero => rfl
  | succ n ih => rw [Memory.write, ih]; split <;> rfl

theorem Memory.read_lt (m : Memory) (a n : Nat) : m.read a n < 256 ^ n := by
  induction n generalizing a with
  | zero => simp [Memory.read]
  | succ n ih =>
    have hb := (m.byte a).isLt
    have hr := ih (a + 1)
    rw [Memory.read, Nat.pow_succ]
    omega

/-- Byte i of a number read is the byte i places on. -/
theorem Memory.byte_of_read (m : Memory) (a : Nat) {n i : Nat} (h : i < n) : BitVec.ofNat 8 (m.read a n / 256 ^ i) = m.byte (a + i) := by
  induction n generalizing a i with
  | zero => omega
  | succ n ih =>
    have hb := (m.byte a).isLt
    rw [Memory.read]
    cases i with
    | zero =>
      refine BitVec.eq_of_toNat_eq ?_
      simpa [Nat.add_mul_mod_self_left] using hb
    | succ i =>
      rw [Nat.pow_succ', ← Nat.div_div_eq_div_mul, show ((m.byte a).toNat + 256 * m.read (a + 1) n) / 256 = m.read (a + 1) n by omega, ih (a + 1) (by omega)]
      congr 1
      omega

/-- A word written with what it holds is as it was. -/
theorem written_read (m : Memory) (a n : Nat) : Written m m a n (m.read a n) 0 := fun x => by
  split_ifs with h
  · rw [m.byte_of_read a (show x - a < n by omega)]
    congr 1
    omega
  · rfl

/-! ### Words without errors -/

theorem State.correct_of_sound (s : State) {ws : List Nat} (h : ∀ w ∈ ws, mget? s.mem.errs w = none) : s.correct ws = s := by
  induction ws with
  | nil => rfl
  | cons w ws ih =>
    rw [State.correct, if_neg (by simp [Memory.correctable, h w (by simp)])]
    exact ih fun x hx => h x (List.mem_cons_of_mem _ hx)

theorem State.firstPoisoned_of_sound (s : State) {ws : List Nat} (h : ∀ w ∈ ws, mget? s.mem.errs w = none) : s.firstPoisoned ws = none :=
  List.find?_eq_none.2 fun w hw => by simp [Memory.poisoned, h w hw]

theorem State.heal_of_sound (s : State) {ws : List Nat} (h : ∀ w ∈ ws, mget? s.mem.errs w = none) : s.heal ws = s := by
  have hm : (ws.foldl (fun (m : Memory) w => if m.poisoned w then (m.setErr w none).setFull w true else m) s.mem) = s.mem := by
    induction ws with
    | nil => rfl
    | cons w ws ih =>
      rw [List.foldl_cons, if_neg (by simp [Memory.poisoned, h w (by simp)])]
      exact ih fun x hx => h x (List.mem_cons_of_mem _ hx)
  unfold State.heal
  rw [hm]

theorem Req.meets_subset (q : Req) : q.meets ⊆ q.words := by
  unfold Req.meets
  split
  · exact List.filter_subset_self _
  · exact List.nil_subset _
  · exact List.nil_subset _
  · exact List.Subset.refl _

theorem Req.covers_subset (q : Req) : q.covers ⊆ q.words := by
  unfold Req.covers
  split
  · exact List.filter_subset_self _
  · exact List.Subset.refl _
  · exact List.Subset.refl _
  · exact List.nil_subset _

/-! ### What a read sees -/

theorem bit_eq_testBit (x i : Nat) : bit x i = x.testBit i := by
  simp [bit, Nat.testBit_eq_decide_div_mod_eq, beq_eq_decide]

/-- A write all of whose bytes are null lays nothing. -/
theorem layBytes_masked (pa n : Nat) (v : Nat × Nat) (d : Nat) : layBytes pa n v pa n d (2 ^ n - 1) = v := by
  unfold layBytes
  refine List.foldlRecOn (motive := fun x => x = v) _ _ rfl fun x hx i hi => ?_
  have hi := List.mem_range.1 hi
  rw [if_neg (by simp [bit_eq_testBit, Nat.testBit_two_pow_sub_one, hi]), hx]

theorem State.valueFor_home {s : State} {q : Req} (h : s.forwarded q = (0, 0)) : s.valueFor q = s.mem.read q.pa q.size := by
  simp only [State.valueFor, h, Nat.sub_zero, layBytes_masked]

/-- An access that has left its core and is no plain load takes nothing from it. -/
theorem State.forwarded_left (s : State) {q : Req} (hl : q.left = true) (hk : q.kind.forwards = false) : s.forwarded q = (0, 0) := by
  simp [State.forwarded, State.pendingFor, State.viewsFor, hl, hk]

theorem State.served_none {s : State} {q : Req} (h : s.forwarded q = (0, 0)) (hn : 0 < q.size) : s.served q = false := by
  have : 2 ^ q.size - 1 ≠ 0 := by
    have := Nat.one_lt_two_pow hn.ne'
    omega
  simp [State.served, h, this.symm]

/-! ### At the home -/

theorem State.dropReq_eq {s : State} (q : Req) (h : s.waitq = []) : s.dropReq q = without s q := by
  unfold State.dropReq without
  rw [h]
  rfl

section
variable {s : State} {q : Req}

theorem atHome_homeRefuses (h : AtHome s q) : s.homeRefuses q = none := by
  obtain ⟨herrs, hhome, hrgn⟩ := h.sound
  have hp : s.firstPoisoned q.meets = none := s.firstPoisoned_of_sound fun w hw => herrs w (q.meets_subset hw)
  simp [State.homeRefuses, hhome, h.route.2, hrgn, hp]

theorem atHome_homeReady (h : AtHome s q) (hg : s.gateOpen q = true) : s.homeReady q = true := by
  have ho : s.ownedAgainst q = false := by
    simp only [State.ownedAgainst, Bool.or_eq_false_iff, List.any_eq_false, Bool.and_eq_true, List.contains_iff_mem]
    exact ⟨fun o ho hx => h.unowned.1 o ho hx.1.1, fun o ho hx => h.unowned.2 o ho hx.1.1⟩
  have hr : s.reservedAgainst q = false := by
    simp only [State.reservedAgainst, List.any_eq_false, Bool.and_eq_true, List.contains_iff_mem, decide_eq_true_eq]
    exact fun e he hx => h.unreserved e he hx.1.2 hx.1.1
  simp [State.homeReady, ho, hr, h.unheld.2.2, hg]

theorem atHome_homeShut (h : AtHome s q) (hs : s.served q = false) (hg : s.gateOpen q = false) : s.homeReady q = false := by
  simp [State.homeReady, hs, h.sound.2.1, hg, atHome_homeRefuses h]

theorem atHome_homeAccess (h : AtHome s q) (hf : q.kind.isFence = false) : s.homeAccess q.id = s.accessMemory q := by
  simp only [State.homeAccess, h.found, State.accessReq, h.route.1, hf, h.memory]
  simp

/-- A request that its home can serve is served there, and then those who wait at its words. -/
theorem atHome_homeAccess_ready (h : AtHome s q) (hf : q.kind.isFence = false) (hst : q.st = .sent) (hg : s.gateOpen q = true) :
    s.homeAccess q.id = (s.serve q).retestAll q.words := by
  rw [atHome_homeAccess h hf, State.accessMemory, if_neg (by simp [hf]), if_neg (by simp [h.unheld.1, h.unheld.2.1])]
  simp only [hst, atHome_homeReady h hg, if_true]

theorem atHome_homeAccess_reserved (h : AtHome s q) (hf : q.kind.isFence = false) (hst : q.st = .reserved) (hl : q.left = true) :
    s.homeAccess q.id = (s.serve q).retestAll q.words := by
  rw [atHome_homeAccess h hf, State.accessMemory, if_neg (by simp [hf]), if_neg (by simp [h.unheld.1, h.unheld.2.1])]
  simp only [hst, hl, h.unheld.2.2, Bool.not_false, Bool.and_true, if_true]

theorem atHome_healed (h : AtHome s q) : (s.correct q.words).heal q.covers = s := by
  obtain ⟨herrs, -, -⟩ := h.sound
  have hc : s.correct q.words = s := s.correct_of_sound herrs
  rw [hc, s.heal_of_sound fun w hw => herrs w (q.covers_subset hw)]

end

end Sys2Proof.Machine
end

section
/-! Stores, atomics and full/empty forms at their homes, and the grant of a reservation (spec/04_ordering.md R115, R152, R154; spec/07_slice_engine.md R219 to R222). -/

namespace Sys2Proof.Machine

open Claims

section
variable {s t : State} {q : Req}

theorem Memory.word_value (m : Memory) (a : Nat) : (w64 (m.read a 8)).setWidth 128 = BitVec.ofNat 128 (m.read a 8) := by
  have h : m.read a 8 < 2 ^ 64 := m.read_lt a 8
  refine BitVec.eq_of_toNat_eq ?_
  simp only [w64, BitVec.toNat_setWidth, BitVec.toNat_ofNat]
  omega

/-! ### What each form does at its one instant -/

section
variable (h : AtHome s q)
include h

theorem perform_st {n : Nat} (hk : q.kind = .st n) : s.perform q = (without s q).putMem q.pa q.data.toNat q.mask.toNat n := by
  simp [State.perform, State.served, MemKind.blockLoad, hk, atHome_homeRefuses h, atHome_healed h, State.dropReq_eq q h.quiet]

theorem perform_strel {sc : Scope} (hk : q.kind = .strel sc) : s.perform q = (without s q).putMem q.pa q.data.toNat 0 8 := by
  simp [State.perform, State.served, MemKind.blockLoad, hk, atHome_homeRefuses h, atHome_healed h, State.dropReq_eq q h.quiet]

theorem perform_void (hk : q.kind = .void) : s.perform q = (without s q).putFull (q.pa / 8) false := by
  simp [State.perform, State.served, MemKind.blockLoad, hk, atHome_homeRefuses h, atHome_healed h, State.dropReq_eq q h.quiet, wordOf]

/-- POST, GIVE and AMEND write their word and leave it full (Table 7-5a). -/
theorem perform_fills (hk : q.kind = .post ∨ q.kind = .give ∨ q.kind = .amend) :
    s.perform q = ((without s q).putMem q.pa q.data.toNat 0 8).putFull (q.pa / 8) true := by
  rcases hk with hk | hk | hk <;>
    simp [State.perform, State.served, MemKind.blockLoad, hk, atHome_homeRefuses h, atHome_healed h, State.dropReq_eq q h.quiet, wordOf]

section
variable (hl : q.left = true)
include hl

theorem perform_take (hk : q.kind = .take) (hs : q.size = 8) :
    s.perform q = ((without s q).putFull (q.pa / 8) false).sendResult q (some (BitVec.ofNat 128 (s.mem.read q.pa 8))) := by
  have hf := s.forwarded_left hl (by rw [hk]; rfl)
  simp [State.perform, State.served, MemKind.blockLoad, hk, atHome_homeRefuses h, atHome_healed h, State.dropReq_eq q h.quiet, State.valueFor_home hf, wordOf, hs, Memory.word_value]

/-- The memory that an atomic leaves (R222). -/
def State.atomicMem (s : State) (q : Req) (op : AtomOp) : Memory :=
  match atomicValue op (BitVec.ofNat 64 (s.mem.read q.pa 8)) (q.data.setWidth 64) q.cmp with
  | some n => s.mem.write q.pa n.toNat 0 8
  | none => s.mem

theorem perform_atomic {op : AtomOp} {m : Order} (hk : q.kind = .atomic op m) (hs : q.size = 8) :
    s.perform q = ({ without s q with mem := s.atomicMem q op } : State).sendResult q (some ((BitVec.ofNat 64 (s.mem.read q.pa 8)).setWidth 128)) := by
  have hf := s.forwarded_left hl (by rw [hk]; rfl)
  simp only [State.perform, State.served, MemKind.blockLoad, hk, atHome_homeRefuses h, atHome_healed h, State.dropReq_eq q h.quiet, State.valueFor_home hf,
    State.atomicMem, hs, w64]
  cases atomicValue op (BitVec.ofNat 64 (s.mem.read q.pa 8)) (q.data.setWidth 64) q.cmp <;> rfl

end

end

/-! ### What has performed -/

theorem State.serve_perform (h : (q.kind.reserves && !q.left) = false) : s.serve q = s.perform q := by
  rw [State.serve, h, if_neg (by simp)]

/-- An access that its home serves, and no one waits there afterwards. -/
theorem exec_homeAccess_serves (ha : s.homeAccess q.id = (s.serve q).retestAll q.words) (hs : s.serve q = t) (hw : t.waitq = []) :
    exec (.homeAccess q.id) s = .next t := by
  have he : exec (.homeAccess q.id) s = .next (s.homeAccess q.id) := rfl
  rw [he, ha, hs, State.retestAll_of_noWaiters t hw]

theorem exec_homeAccess_performs (hl : q.left = true) (ha : s.homeAccess q.id = (s.serve q).retestAll q.words) (hp : s.perform q = t) (hw : t.waitq = []) :
    exec (.homeAccess q.id) s = .next t := exec_homeAccess_serves ha ((State.serve_perform (by simp [hl])).trans hp) hw

theorem performed_put (v mask n : Nat) : Performed s ((without s q).putMem q.pa v mask n) q v mask n none none :=
  ⟨written_write s.mem q.pa v mask n, marked_write s.mem q.pa v mask n true, Memory.write_errs .., rfl⟩

theorem performed_fill (v : Nat) : Performed s (((without s q).putMem q.pa v 0 8).putFull (q.pa / 8) true) q v 0 8 (some true) none := by
  refine ⟨written_write s.mem q.pa v 0 8, fun w => ?_, Memory.write_errs .., rfl⟩
  exact (marked_setFull (s.mem.write q.pa v 0 8) (q.pa / 8) true w).trans (if_congr Iff.rfl rfl (Memory.full_write ..))

/-- The functions of the atomics are those of the model. -/
theorem atomicValue_eq {e : AtomOp × (W64 → W64 → W64 → W64)} (he : e ∈ atomicFunctions) (a b c : W64) : (atomicValue e.1 a b c).getD a = e.2 a b c := by
  simp only [atomicFunctions, List.mem_cons, List.not_mem_nil, or_false] at he
  rcases he with rfl | rfl | rfl | rfl | rfl | rfl | rfl | rfl | rfl | rfl
  · rfl
  · rfl
  · rfl
  · rfl
  · simp only [atomicValue, fMins, wrap64, min_def, Option.getD_some]
    split_ifs <;> simp
  · simp only [atomicValue, fMaxs, wrap64, max_comm a.toInt, max_def, Option.getD_some]
    split_ifs <;> simp
  · simp only [atomicValue, fMinn, wrap64, min_def, Option.getD_some]
    split_ifs <;> simp
  · simp only [atomicValue, fMaxn, wrap64, max_comm a.toNat, max_def, Option.getD_some]
    split_ifs <;> simp
  · rfl
  · simp only [atomicValue]
    split_ifs <;> rfl

/-- An atomic writes its function of the old word; ACAS, where it does not compare equal, leaves the word as it was. -/
theorem atomicMem_effect {e : AtomOp × (W64 → W64 → W64 → W64)} (he : e ∈ atomicFunctions) :
    Written s.mem (s.atomicMem q e.1) q.pa 8 (e.2 (BitVec.ofNat 64 (s.mem.read q.pa 8)) (q.data.setWidth 64) q.cmp).toNat 0 ∧
      Marked s.mem (s.atomicMem q e.1) [] true ∧ (s.atomicMem q e.1).errs = s.mem.errs := by
  rw [← atomicValue_eq he, State.atomicMem]
  rcases atomicValue e.1 (BitVec.ofNat 64 (s.mem.read q.pa 8)) (q.data.setWidth 64) q.cmp with _ | n
  · have hlt : s.mem.read q.pa 8 < 2 ^ 64 := s.mem.read_lt q.pa 8
    refine ⟨?_, fun w => by simp, rfl⟩
    rw [Option.getD_none, BitVec.toNat_ofNat, Nat.mod_eq_of_lt hlt]
    exact written_read s.mem q.pa 8
  · exact ⟨written_write s.mem q.pa n.toNat 0 8, marked_write s.mem q.pa n.toNat 0 8 true, Memory.write_errs ..⟩

theorem performed_atomic {e : AtomOp × (W64 → W64 → W64 → W64)} (he : e ∈ atomicFunctions) :
    let old := BitVec.ofNat 64 (s.mem.read q.pa 8)
    Performed s (({ without s q with mem := s.atomicMem q e.1 } : State).sendResult q (some (old.setWidth 128))) q
      (e.2 old (q.data.setWidth 64) q.cmp).toNat 0 8 none (some (old.setWidth 128)) := by
  obtain ⟨hw, hm, herrs⟩ := atomicMem_effect (s := s) (q := q) he
  exact ⟨hw, hm, herrs, rfl⟩

end

theorem storesPerform : StoresPerform := by
  intro s q h hl does b
  have hw : (without s q).waitq = [] := h.quiet
  refine ⟨fun hst => ⟨fun n hk => ?_, fun sc hk => ?_, fun hk => ?_, fun hk => ?_, fun e he m hk hs => ?_⟩, fun hst => ⟨fun hk => ?_, fun hk hs => ?_⟩⟩
  · exact ⟨_, exec_homeAccess_performs hl (atHome_homeAccess_ready h (by rw [hk]; rfl) hst (by simp [State.gateOpen, hk])) (perform_st h hk) hw, performed_put ..⟩
  · exact ⟨_, exec_homeAccess_performs hl (atHome_homeAccess_ready h (by rw [hk]; rfl) hst (by simp [State.gateOpen, hk])) (perform_strel h hk) hw, performed_put ..⟩
  · exact ⟨_, exec_homeAccess_performs hl (atHome_homeAccess_ready h (by rw [hk]; rfl) hst (by simp [State.gateOpen, hk])) (perform_fills h (.inl hk)) hw, performed_fill _⟩
  · exact ⟨_, exec_homeAccess_performs hl (atHome_homeAccess_ready h (by rw [hk]; rfl) hst (by simp [State.gateOpen, hk])) (perform_void h hk) hw,
      written_none s.mem q.pa _ 0, marked_setFull s.mem (q.pa / 8) false, rfl, rfl⟩
  · exact ⟨_, exec_homeAccess_performs hl (atHome_homeAccess_ready h (by rw [hk]; rfl) hst (by simp [State.gateOpen, hk])) (perform_atomic h hl hk hs) hw,
      performed_atomic he⟩
  · have hf : q.kind.isFence = false := by rcases hk with hk | hk <;> rw [hk] <;> rfl
    exact ⟨_, exec_homeAccess_performs hl (atHome_homeAccess_reserved h hf hst hl) (perform_fills h (.inr hk)) hw, performed_fill _⟩
  · exact ⟨_, exec_homeAccess_performs hl (atHome_homeAccess_reserved h (by rw [hk]; rfl) hst hl) (perform_take h hl hk hs) hw,
      written_none s.mem q.pa _ 0, marked_setFull s.mem (q.pa / 8) false, rfl, rfl⟩

/-- The gates of the forms that reserve (Table 7-5a). -/
theorem gateOpen_reserving {s : State} {q : Req}
    (hg : q.kind = .take ∧ s.mem.full (q.pa / 8) = true ∨ q.kind = .give ∧ s.mem.full (q.pa / 8) = false ∨ q.kind = .amend ∧ s.mem.full (q.pa / 8) = true) :
    s.gateOpen q = true ∧ q.kind.reserves = true ∧ q.kind.isFence = false := by
  rcases hg with ⟨hk, hf⟩ | ⟨hk, hf⟩ | ⟨hk, hf⟩ <;> simp [State.gateOpen, hk, wordOf, hf, MemKind.reserves, MemKind.isFence]

theorem reservationsGranted : ReservationsGranted := by
  intro s q h hl hst hg
  obtain ⟨hopen, hr, hf⟩ := gateOpen_reserving hg
  let t : State := ({ s with
    resv := s.resv ++ [(q.pa / 8, q.id)]
    reqs := s.reqs.map fun a => if a.id = q.id then { a with st := .reserved } else a } : State).setSt q.core q.slot q.ix .ready
  have hc : s.correct q.words = s := s.correct_of_sound h.sound.1
  have hw : (s.waitq.filter fun i => decide (i ≠ q.id)) = s.waitq := by rw [h.quiet]; rfl
  have hs : s.serve q = t := by
    simp only [State.serve, hr, hl, State.reserve, atHome_homeRefuses h, hc, h.back.1, hw, Bool.not_false, Bool.and_self, if_true,
      Bool.false_eq_true, if_false]
    rfl
  exact exec_homeAccess_serves (atHome_homeAccess_ready h hf hst hopen) hs h.quiet

end Sys2Proof.Machine
end

section
/-! Fences and reads at their homes (spec/04_ordering.md R115, R116, R119, R126; spec/07_slice_engine.md R219 to R223). -/

namespace Sys2Proof.Machine

open Claims

/-! ### Fences -/

/-- A slot at a boundary with no lookup made makes one there (R126, R162). -/
theorem atBoundary_settle {t : State} {core slot : Nat} (h : AtBoundary (t.slotAt core slot) t core slot) (hl : (t.slotAt core slot).look = none) :
    t.settle core slot = t.modSlot core slot fun sl => sl.makeLook { addr := sl.pc, made := t.cyc core } := by
  obtain ⟨hbusy, hrun, hfail, hend⟩ := h.running
  obtain ⟨hstop, hfrz, hrty, hevp, hdf, hds, htlb⟩ := h.unheld
  have hf : t.fencePending core slot = false := by
    simp only [State.fencePending, List.any_eq_false, Bool.and_eq_true, decide_eq_true_eq, not_and]
    intro q hq ⟨⟨hc, hs⟩, hleft⟩ hk
    split at hk
    · next sc he => exact h.fences q hq hc hs hleft sc he
    · cases hk
  simp [State.settle, hbusy, hrun, hfail, hend, hstop, hfrz, hrty, hevp, hdf, hds, hl, htlb, hf, Slot.held, State.boundaryHeld]

theorem fenceDone_of_first {s : State} {q : Req} (ha : ∀ a ∈ s.reqs, a.left = true → a.core = q.core → a.slot = q.slot → q.ord ≤ a.ord) (hr : s.recvs = [])
    (hp : s.pops = []) (hm : s.qmsgs = []) (hd : s.appends = []) : s.fenceDone q = true := by
  have hn : (s.reqs.any fun a => a.left && a.sameThread q && decide (a.ord < q.ord)) = false := by
    simp only [Req.sameThread, List.any_eq_false, Bool.and_eq_true, decide_eq_true_eq, not_and]
    exact fun a hmem hx => Nat.not_lt.2 (ha a hmem hx.1 hx.2.1 hx.2.2)
  simp [State.fenceDone, hn, State.acquirePending, State.deferredPending, State.messagesDone, hr, hp, hm, hd]

theorem homeAccess_fence {s : State} {q : Req} {sc : Scope} (hq : s.reqs.find? (fun a => a.id == q.id) = some q) (hk : q.kind = .fence sc)
    (hd : s.fenceDone q = true) : s.homeAccess q.id = (s.dropReq q).settle q.core q.slot := by
  simp [State.homeAccess, hq, State.accessReq, State.reqHeld, State.accessMemory, hk, MemKind.isFence, hd]

theorem fencesComplete : FencesComplete := by
  intro s q sc hq hk ha hr hp hm hd hw hb hl
  have he : exec (.homeAccess q.id) s = .next (s.homeAccess q.id) := rfl
  have hsettle : (without s q).settle q.core q.slot = (without s q).modSlot q.core q.slot fun sl => sl.makeLook { addr := sl.pc, made := s.cyc q.core } :=
    atBoundary_settle hb hl
  rw [he, homeAccess_fence hq hk (fenceDone_of_first ha hr hp hm hd), State.dropReq_eq q hw, hsettle]
  rfl

/-! ### The token of a waiting form -/

theorem waitsAt_lt {s : State} {c : Ctx} {since : Nat} {i : Instr} (h : WaitsAt s c since i) : c.ix < c.run.insts.length := by
  have hi := h.instr
  unfold Run.instr at hi
  rw [h.sized]
  split at hi
  · cases hi
  · next hw => exact (List.getElem?_eq_some_iff.1 hw).1

/-- A form of a loaded block whose result has come sends its token, and is done (R145, R146). -/
theorem giveToken_sends {s : State} {c : Ctx} {a : Option Target} (tok : Token) (hrun : s.runAt c.core c.slot = some c.run) (hlt : c.ix < c.run.insts.length)
    (hsized : c.run.insts.length = c.run.words.length) (ht : (c.run.shape c.ix).t = a) (hr : Room c a none) :
    Sends s (s.giveToken c.core c.slot c.ix tok) c a none 1 tok 0#6 := by
  let r := c.run.modInst c.ix fun x => { x with st := .done }
  have hslot : ∀ j sl, (r.inst j).slot sl = (c.run.inst j).slot sl := by
    intro j sl
    simp only [r, Run.inst_modInst _ _ _ _ hlt]
    split
    · next e => subst e; cases sl <;> rfl
    · rfl
  have hshut : ∀ now j, r.shut now j = c.run.shut now j := by
    intro now j
    have : (r.inst j).p = (c.run.inst j).p ∧ (r.inst j).l = (c.run.inst j).l := ⟨hslot j .p, hslot j .l⟩
    show resolvedUnfired (c.run.shape j) _ now (r.inst j) = _
    simp only [resolvedUnfired, Run.shut, this]
    rfl
  have hdone : (s.setSt c.core c.slot c.ix .done).runAt c.core c.slot = some r := by simp [hrun, r]
  obtain ⟨hsent, honly⟩ := sendTo_eq a { tok with usable := s.cyc c.core + 1 } hdone fun g hg => by rw [hslot]; exact (hr.first g hg).2
  have hgive : s.giveToken c.core c.slot c.ix tok = (s.setSt c.core c.slot c.ix .done).sendTo c.core c.slot a { tok with usable := s.cyc c.core + 1 } := by
    simp only [State.giveToken, State.targetOf, hrun, ht]
    rfl
  refine ⟨⟨_, by rw [hgive]; exact hsent, ?_, ?_, ?_, ?_, ?_⟩, by rw [hgive]; exact (modRun_onlyBlock ..).trans honly⟩
  · rw [sentRun_st]
    simp [r, Run.inst_modInst _ _ _ _ hlt]
  · intro j hj
    rw [sentRun_st]
    simp only [r, Run.inst_modInst _ _ _ _ hlt, if_neg hj.symm]
  · rw [sentRun_flags]
    simp [r, Run.modInst, Run.setInst]
  · intro j sl
    have hl : ∀ g, a = some g → g.idx.toNat < r.insts.length := fun g hg => by
      have := (hr.first g hg).1
      simp only [r, Run.modInst_length]
      omega
    rw [sentRun_slot _ _ _ _ hl, hslot]
    exact if_congr (by rw [← hshut]; rfl) rfl rfl
  · rw [sentRun_rest]
    rfl

/-! ### Answers on their way -/

/-- Where no message lies in a sump, none lies behind one that does. -/
theorem State.wayHeld_noSump {s : State} (h : ∀ e ∈ s.sites, e.2.sump = []) (f : Flight) :
    s.wayHeld f = (s.routeHeld (coreSite f.src) (coreSite f.dst) f.key || s.seamHeld (s.path f).2) := by
  have hf : (s.sites.filter fun e => !e.2.sump.isEmpty) = [] := List.filter_eq_nil_iff.2 fun e he => by simp [h e he]
  have hi : s.inSumpOf f.id = false := List.any_eq_false.2 fun e he => by simp [h e he]
  simp [State.wayHeld, hf, hi]

/-- The way back of an answer does not depend on the requests, nor on what the slots hold. -/
theorem replyHeld_without {s : State} {q : Req} (h : AtHome s q) (f : Run → Run) : ((without s q).modRun q.core q.slot f).replyHeld q = false := by
  rw [← h.back.1]
  have hs : ∀ e ∈ s.sites, e.2.sump = [] := h.back.2
  have ht : ∀ e ∈ ((without s q).modRun q.core q.slot f).sites, e.2.sump = [] := h.back.2
  simp only [State.replyHeld, State.sendHeld, State.wayHeld_noSump hs, State.wayHeld_noSump ht]
  rfl

/-! ### Reads before commit -/

/-- What a form that reads before commit delivers. -/
def readValue (s : State) (q : Req) : W128 :=
  match q.kind with
  | .ld z => loaded z (s.mem.read q.pa q.size)
  | .febit => if s.mem.full (q.pa / 8) then 1#128 else 0#128
  | _ => BitVec.ofNat 128 (s.mem.read q.pa q.size)

theorem extendLoad_eq (z : LdSize) (x : Nat) : extendLoad z x = loaded z x := by
  cases z <;> rfl

/-- The forms that read before commit. -/
theorem tokenForms_kind {e : SliceForm × MemKind × Nat} (he : e ∈ tokenForms) :
    (∃ z, e.2.1 = .ld z) ∨ e.2.2 = 8 ∧ (e.2.1 = .look ∨ e.2.1 = .febit ∨ ∃ sc, e.2.1 = .ldacq sc) := by
  simp only [tokenForms, List.mem_cons, List.not_mem_nil, or_false] at he
  rcases he with rfl | rfl | rfl | rfl | rfl | rfl | rfl | rfl | rfl | rfl | rfl | rfl | rfl <;> simp

section
variable {s : State} {q : Req} (h : AtHome s q) (hf : s.forwarded q = (0, 0)) (hn : 0 < q.size)
include h hf hn

theorem perform_reads {e : SliceForm × MemKind × Nat} (he : e ∈ tokenForms) (hk : q.kind = e.2.1) (hs : q.size = e.2.2) :
    s.perform q = (without s q).readAnswer q { data := readValue s q } := by
  have hserved := State.served_none hf hn
  have hv := State.valueFor_home hf
  have hd := State.dropReq_eq q h.quiet
  rcases tokenForms_kind he with ⟨z, hz⟩ | ⟨h8, hz | hz | ⟨sc, hz⟩⟩
  · simp [State.perform, hserved, hk.trans hz, atHome_homeRefuses h, atHome_healed h, hd, hv, readValue, extendLoad_eq]
  · simp [State.perform, hserved, hk.trans hz, atHome_homeRefuses h, atHome_healed h, hd, hv, readValue, hs.trans h8, Memory.word_value]
  · simp only [State.perform, hserved, hk.trans hz, atHome_homeRefuses h, atHome_healed h, hd, readValue, scalarToken, boolWord, wordOf]
    cases s.mem.full (q.pa / 8) <;> rfl
  · simp [State.perform, hserved, hk.trans hz, atHome_homeRefuses h, atHome_healed h, hd, hv, readValue, hs.trans h8, Memory.word_value]

end

theorem perform_ldd {s : State} {q : Req} {z : LdSize} {reg : Nat} (hk : q.kind = .ldd z reg) (hr : s.homeRefuses q = none)
    (herrs : ∀ w ∈ q.words, mget? s.mem.errs w = none) (hw : s.waitq = []) (hf : s.forwarded q = (0, 0)) : s.perform q = { without s q with
      nextId := s.nextId + 1
      fills := s.fills ++ [{ id := s.nextId, core := q.core, slot := q.slot, reg := reg, val := loaded z (s.mem.read q.pa q.size), src := q.answerSrc, since := s.time }] } := by
  have hc : s.correct q.words = s := s.correct_of_sound herrs
  have hh : s.heal q.covers = s := s.heal_of_sound fun w hw => herrs w (q.covers_subset hw)
  rw [State.perform, if_neg (by simp [hk]), if_neg (by simp [State.served, hk, MemKind.blockLoad])]
  simp only [hr, hc, hh, hk, State.dropReq_eq q hw, State.valueFor_home hf, extendLoad_eq]
  rfl


/-- A change of a slot's block depends on that block alone. -/
theorem State.modRun_congr {s : State} {core slot : Nat} {r : Run} {f g : Run → Run} (hr : s.runAt core slot = some r) (h : f r = g r) :
    s.modRun core slot f = s.modRun core slot g := by
  rw [State.runAt_eq] at hr
  simp [State.modRun, State.modSlot, hr, h]

theorem tokenForms_target {e : SliceForm × MemKind × Nat} (he : e ∈ tokenForms) (p : Pred) (n : BitVec 4) (o : BitVec 6) (a : Option Target) :
    (e.1 p n o a).shape.t = a := by
  simp only [tokenForms, List.mem_cons, List.not_mem_nil, or_false] at he
  rcases he with rfl | rfl | rfl | rfl | rfl | rfl | rfl | rfl | rfl | rfl | rfl | rfl | rfl <;> rfl

/-- The read of a block whose reads have performed in an order they may have is answered at once (R120). -/
theorem readAnswer_sends {s : State} {q : Req} {c : Ctx} {since : Nat} {i : Instr} {a : Option Target} (h : AtHome s q) (hc : q.core = c.core)
    (hsl : q.slot = c.slot) (hx : q.ix = c.ix) (hw : WaitsAt s c since i) (ht : i.shape.t = a) (hr : Room c a none) (tok : Token) :
    let r := { c.run with seen := c.run.seen ++ (wordsOf q.pa q.size).map fun w => (c.ix, w) }
    r.disordered = false →
      Sends ((without s q).modRun c.core c.slot fun _ => r) ((without s q).readAnswer q tok) { c with run := r } a none 1 tok 0#6 := by
  intro r hord
  have hrun : (without s q).runAt q.core q.slot = some c.run := by rw [hc, hsl]; exact hw.run
  have hsee : ({ c.run with seen := c.run.seen ++ q.words.map fun w => (q.ix, w) } : Run) = r := by rw [hx]; rfl
  have hmod : ((without s q).modRun q.core q.slot fun r => { r with seen := r.seen ++ q.words.map fun w => (q.ix, w) }) =
      (without s q).modRun c.core c.slot fun _ => r := by
    rw [← hc, ← hsl]
    exact State.modRun_congr hrun hsee
  have hanswer : (without s q).readAnswer q tok = ((without s q).modRun c.core c.slot fun _ => r).giveToken c.core c.slot c.ix tok := by
    simp only [State.readAnswer, hrun, hsee, hord, Bool.false_eq_true, if_false]
    rw [State.answer, replyHeld_without h, if_neg (by simp), hmod, hc, hsl, hx]
  rw [hanswer]
  refine giveToken_sends (c := { c with run := r }) tok ?_ (show c.ix < c.run.insts.length from waitsAt_lt hw) hw.sized ?_ ⟨hr.first, hr.second, hr.apart⟩
  · rw [State.modRun_runAt_same, ← hc, ← hsl, hrun]
    rfl
  · have hshape : r.shape c.ix = c.run.shape c.ix := rfl
    rw [hshape, Run.shape, hw.instr]
    exact ht

theorem tokenForms_serves {s : State} {q : Req} {e : SliceForm × MemKind × Nat} (he : e ∈ tokenForms) (hk : q.kind = e.2.1)
    (hlook : q.kind = .look → s.mem.full (q.pa / 8) = true) : q.kind.isFence = false ∧ q.kind.reserves = false ∧ s.gateOpen q = true := by
  rcases tokenForms_kind he with ⟨z, hz⟩ | ⟨-, hz | hz | ⟨sc, hz⟩⟩ <;> rw [← hk] at hz
  · simp [hz, MemKind.isFence, MemKind.reserves, State.gateOpen]
  · simp [hz, MemKind.isFence, MemKind.reserves, State.gateOpen, wordOf, hlook hz]
  · simp [hz, MemKind.isFence, MemKind.reserves, State.gateOpen]
  · simp [hz, MemKind.isFence, MemKind.reserves, State.gateOpen]

/-- A LOOK at an empty word waits at the word's home (R128, R221). -/
theorem homeAccess_look_waits {s : State} {q : Req} (h : AtHome s q) (hst : q.st = .sent) (hs : s.served q = false) (hk : q.kind = .look)
    (hempty : s.mem.full (q.pa / 8) = false) : s.homeAccess q.id = { s with
      nextId := s.nextId + 1
      waitq := [q.id]
      reqs := s.reqs.map fun a => if a.id = q.id then { a with st := .waiting, arr := s.nextId } else a } := by
  have hshut : s.homeReady q = false := atHome_homeShut h hs (by simp [State.gateOpen, hk, wordOf, hempty])
  have hroom : s.waitRoom (homeOf q.pa) = true := by simp [State.waitRoom, h.quiet]
  rw [atHome_homeAccess h (by rw [hk]; rfl), State.accessMemory, if_neg (by simp [hk, MemKind.isFence]), if_neg (by simp [h.unheld.1, h.unheld.2.1])]
  simp only [hst, hshut, Bool.false_eq_true, if_false, State.enqueue, hroom, if_true, h.quiet, List.nil_append]
  rfl

theorem loadsPerform : LoadsPerform := by
  intro s q h hst hf hn x
  refine ⟨?_, ?_, ?_⟩
  · intro hl c since p n o a hc hsl hx hroom e he hw hk hs hlook r hord
    obtain ⟨hfence, hres, hgate⟩ := tokenForms_serves he hk hlook
    have hsends := readAnswer_sends h hc hsl hx hw (tokenForms_target he p n o a) hroom { data := readValue s q } hord
    have hquiet : ((without s q).readAnswer q { data := readValue s q }).waitq = [] :=
      (congrArg State.waitq hsends.frame.fields).trans h.quiet
    refine ⟨_, exec_homeAccess_serves (atHome_homeAccess_ready h hfence hst hgate)
      ((State.serve_perform (by simp [hres])).trans (perform_reads h hf hn he hk hs)) hquiet, ?_⟩
    rw [← hk]
    exact hsends
  · intro z reg hl hk
    exact ⟨_, exec_homeAccess_performs hl (atHome_homeAccess_ready h (by rw [hk]; rfl) hst (by simp [State.gateOpen, hk])) (perform_ldd hk (atHome_homeRefuses h) h.sound.1 h.quiet hf) h.quiet, rfl⟩
  · intro hl hk hempty
    exact ⟨_, congrArg Host.Outcome.next (homeAccess_look_waits h hst (State.served_none hf hn) hk hempty), rfl⟩

/-- Settles O34: at its home a request has nothing in its way and its words are sound, so it performs at once, is granted its reservation, or waits at an empty word;
what a read answers goes to its target as any token does. -/
theorem homeAccesses : Obligations.HomeAccesses := ⟨storesPerform, reservationsGranted, fencesComplete, loadsPerform⟩

end Sys2Proof.Machine
end

section
/-! The other events at homes: resent requests, line ownership, scrub, soft errors and combined reads (spec/04_ordering.md R131, R143; spec/07_slice_engine.md R228, R231; spec/11_flume.md R336). -/

namespace Sys2Proof.Machine

open Claims

/-! ### Resending -/

theorem resend_sent {s : State} {q : Req} {n : Nat} (hq : q ∈ s.reqs) (hst : q.st = .refused n) (hn : n + 64 ≤ s.cyc q.core) :
    { q with st := .sent } ∈ (s.resend q.id).reqs := by
  refine List.mem_map.2 ⟨q, hq, ?_⟩
  simp [hst, hn]

theorem resend_others {s : State} {i : Nat} {a : Req} (ha : a ∈ s.reqs) (hi : a.id ≠ i) : a ∈ (s.resend i).reqs := by
  refine List.mem_map.2 ⟨a, ha, ?_⟩
  split
  · rw [if_neg (by simp [hi])]
  · rfl

/-! ### Ownership -/

section
variable {s : State} {o : OwnReq} (hq : s.reqs = []) (hr : s.recvs = []) (hp : s.pops = []) (hm : s.qmsgs = []) (ha : s.appends = [])
  (hi : (s.copyAt o.core).intake = [])
  (hfirst : ∀ x ∈ s.ownReqs, x.core = o.core → homeOf (64 * x.line) = homeOf (64 * o.line) → o.id ≤ x.id ∧ o.ord ≤ x.ord)

include hq hr hp hm ha hi hfirst in
/-- Nothing of its core holds the first request for a line (R121, R124, R131, R283). -/
theorem requestHeld_first : s.requestHeld o = false := by
  have hown : (s.ownReqs.any fun x => decide (x.core = o.core) && decide (x.id < o.id) && decide (x.line = o.line)) = false := by
    simp only [List.any_eq_false, Bool.and_eq_true, decide_eq_true_eq, not_and]
    exact fun x hx ⟨hc, hlt⟩ hl => absurd hlt (Nat.not_lt.2 (hfirst x hx hc (by rw [hl])).1)
  simp [State.requestHeld, hown, State.acquirePending, State.deferredPending, State.listUnread, hq, hr, hp, hm, ha, hi]

include hq hfirst in
/-- The first request to a home has none of its core before it on the channel (R138). -/
theorem sentAhead_first : s.sentAhead o.core (homeOf (64 * o.line)) o.ord o.id = false := by
  have hown : ∀ x ∈ s.ownReqs, x.core = o.core → homeOf (64 * x.line) = homeOf (64 * o.line) → ¬(x.ord < o.ord ∨ x.ord = o.ord ∧ x.id < o.id) := by
    intro x hx hc hh
    have := hfirst x hx hc hh
    omega
  simp only [State.sentAhead, hq, List.any_nil, Bool.false_or, Bool.and_eq_false_iff, List.any_eq_false, Bool.and_eq_true, Bool.or_eq_true, decide_eq_true_eq]
  exact .inr fun x hx ⟨⟨⟨⟨_, hc⟩, hh⟩, ho⟩, _⟩ => hown x hx hc hh ho

end

/-! ### Errors of words -/

theorem lt_of_isCompute {n : Nat} (h : isCompute n = true) : n < 484 := by
  by_contra hge
  have : siteKind n = .outside := if_pos (Nat.not_lt.1 hge)
  simp [isCompute, this] at h

/-- A corrected word of a slice is counted by the core whose slice it is (R231). -/
theorem countCe_slice {s : State} {a core off : Nat} (hc : core < 16) (hs : isCompute (a / 2 ^ 37) = true) (ha : a % 2 ^ 37 = core * 2 ^ 22 + off) (ho : off < 2 ^ 22) :
    s.countCe (8 * (a / 8)) =
      s.setCore (16 * (a / 2 ^ 37) + core) { s.coreAt (16 * (a / 2 ^ 37) + core) with ce := min ((s.coreAt (16 * (a / 2 ^ 37) + core)).ce + 1) (2 ^ 32 - 1) } := by
  have hlt := lt_of_isCompute hs
  have hsite : paSite (8 * (a / 8)) = a / 2 ^ 37 := by simp only [paSite]; omega
  have hbits : bits (8 * (a / 8)) 25 22 = core := by simp only [bits]; omega
  have hkind : siteKind (a / 2 ^ 37) ≠ .memory := fun h => by rw [isCompute, h] at hs; cases hs
  unfold State.countCe
  simp only [hsite, hbits, coreOf]

/-! ### Combined reads -/

/-- Laying the bytes of a write, or writes, over a value, step by step: where the mask is empty at the end, no step lays anything over any value. -/
theorem foldl_lays_nothing {α : Type} {f : Nat × Nat → α → Nat × Nat} (hf : ∀ v a, (f v a).2 = 0 → v.2 = 0 ∧ ∀ x, f x a = x) (l : List α) (v : Nat × Nat)
    (h : (l.foldl f v).2 = 0) : v.2 = 0 ∧ ∀ a ∈ l, ∀ x, f x a = x := by
  induction l generalizing v with
  | nil => exact ⟨h, by simp⟩
  | cons a l ih =>
    obtain ⟨hv, hl⟩ := ih _ h
    obtain ⟨hv', ha⟩ := hf v a hv
    exact ⟨hv', List.forall_mem_cons.2 ⟨ha, hl⟩⟩

theorem foldl_fixed_of_mem {α β : Type} {f : β → α → β} {l : List α} (h : ∀ a ∈ l, ∀ x, f x a = x) (v : β) : l.foldl f v = v := by
  induction l with
  | nil => rfl
  | cons a l ih => rw [List.foldl_cons, h a (by simp), ih fun b hb => h b (by simp [hb])]

theorem layBytes_nothing {pa n wpa wn wdata wmask : Nat} (v : Nat × Nat) (h : (layBytes pa n v wpa wn wdata wmask).2 = 0) :
    v.2 = 0 ∧ ∀ x, layBytes pa n x wpa wn wdata wmask = x := by
  have hstep := foldl_lays_nothing (fun v i hv => ?_) _ v h
  · exact ⟨hstep.1, fun x => foldl_fixed_of_mem hstep.2 x⟩
  · by_cases hc : (decide (wpa ≤ pa + i) && decide (pa + i - wpa < wn) && !bit wmask (pa + i - wpa)) = true
    · simp only [hc, if_true] at hv
      have := congrArg (Nat.testBit · i) hv
      simp at this
    · simp only [hc] at hv ⊢
      exact ⟨hv, fun _ => rfl⟩

/-- A deferred load that takes nothing from its core takes nothing where fewer requests remain. -/
theorem forwarded_fewer {s t : State} {q : Req} (hl : q.left = true) (ht : t.reqs ⊆ s.reqs) (h : s.forwarded q = (0, 0)) : t.forwarded q = (0, 0) := by
  have hv : ∀ x : State, x.viewsFor q = [] := fun x => by simp [State.viewsFor, hl]
  have hsub : t.pendingFor q ⊆ s.pendingFor q := by
    unfold State.pendingFor
    split
    · exact List.Subset.refl _
    · intro a ha
      obtain ⟨hmem, hp⟩ := List.mem_filter.1 ha
      exact List.mem_filter.2 ⟨ht hmem, hp⟩
  simp only [State.forwarded, hv, List.foldl_nil] at h ⊢
  obtain ⟨-, hnone⟩ := foldl_lays_nothing (f := fun v (a : Req) => layBytes q.pa q.size v a.pa a.size a.data.toNat a.mask.toNat)
    (fun v a => layBytes_nothing v) _ _ (congrArg Prod.snd h)
  exact foldl_fixed_of_mem (fun a ha => hnone a (hsub ha)) _

/-- What the combining node asks of each of two reads (R143). -/
theorem exec_combinedRead_both {s : State} {q u : Req} {z : LdSize} {g h : Nat} (hq : AtHome s q) (hu : AtHome s u) (hqs : q.st = .sent) (hus : u.st = .sent)
    (hqk : q.kind = .ldd z g) (huk : u.kind = .ldd z h) (hcore : q.core ≠ u.core) (hsite : coreSite q.core = coreSite u.core) (hpa : q.pa = u.pa)
    (hqc : q.clk ≤ u.clk + 16) (huc : u.clk ≤ q.clk + 16) (hqf : s.forwarded q = (0, 0)) (huf : s.forwarded u = (0, 0)) :
    exec (.combinedRead q.id u.id) s = .next ((s.perform q).perform u) := by
  have he : exec (.combinedRead q.id u.id) s = .next (s.combinedRead q.id u.id) := rfl
  have hid : q.id ≠ u.id := fun e => hcore (by
    have hf := hq.found
    rw [e, hu.found, Option.some_inj] at hf
    rw [hf])
  have hqg : s.homeReady q = true := atHome_homeReady hq (by simp [State.gateOpen, hqk])
  have hug : s.homeReady u = true := atHome_homeReady hu (by simp [State.gateOpen, huk])
  have hqn : s.served q = false := by simp [State.served, hqk, MemKind.blockLoad]
  have hun : s.served u = false := by simp [State.served, huk, MemKind.blockLoad]
  have hqa : s.sentAhead q.core (homeOf u.pa) q.key q.id = false := hpa ▸ hq.unheld.2.1
  have hum := hu.memory
  rw [he, State.combinedRead]
  simp only [hq.found, hu.found]
  rw [if_pos]
  simp [hid, hcore, hsite, hpa, hqk, huk, MemKind.format, MemKind.forwards, hqs, hus, hqc, huc, hqg, hug, hqn, hun, hum, hqf, huf, hq.route.1, hu.route.1, hq.unheld.1,
    hu.unheld.1, hqa, hu.unheld.2.1]

/-- Settles O35: each event finds nothing in its way, so its one clause of the model is what happens; of two combined reads the first leaves memory, homes and the
second's way as they were, and the second takes nothing from its core still. -/
theorem homeEvents : Obligations.HomeEvents := by
  intro s
  refine ⟨fun q n hq hst hn => ?_, fun o ho hq hr hp hm ha hi hw hfirst => ?_, fun a core off hc hs ha ho he => ?_, fun a d he => ?_, ?_⟩
  · exact ⟨s.resend q.id, rfl, rfl, resend_sent hq hst hn, fun a ha hi => resend_others ha hi⟩
  · have hway : (decide (homeOf (64 * o.line) ≠ homeOf (slicePa o.core)) && s.wayHeld o.flight) = false := by
      rcases hw with hw | hw <;> simp [hw]
    refine ⟨s.ownershipRequest o.id, rfl, ?_⟩
    simp only [State.ownershipRequest, ho, requestHeld_first hq hr hp hm ha hi hfirst, sentAhead_first hq hfirst, hway, Bool.or_self, Bool.false_eq_true, if_false]
    rfl
  · have hscrub : s.scrub a = ({ s with mem := s.mem.setErr (a / 8) none } : State).countCe (8 * (a / 8)) := by
      simp [State.scrub, wordOf, Memory.poisoned, he, State.correct, Memory.correctable]
    refine ⟨s.scrub a, rfl, ?_⟩
    rw [hscrub, countCe_slice hc hs ha ho]
    exact ⟨fun w => (mget?_mdel ..).trans (by simp only [eq_comm]), rfl, by simp; rfl⟩
  · refine ⟨s.softError a d, rfl, ?_⟩
    simp [State.softError, Memory.setErr, wordOf, Memory.poisoned, Memory.correctable, he]
  · intro q u z g h hq hu hqs hus hql hul hqk huk hcore hsite hpa hsize hn hqc huc hqf huf
    refine ⟨_, exec_combinedRead_both hq hu hqs hus hqk huk hcore hsite hpa hqc huc hqf huf, ?_⟩
    let t : State := { without s q with
      nextId := s.nextId + 1
      fills := s.fills ++ [{ id := s.nextId, core := q.core, slot := q.slot, reg := g, val := loaded z (s.mem.read q.pa q.size), src := q.answerSrc, since := s.time }] }
    have hfirst : s.perform q = t := perform_ldd hqk (atHome_homeRefuses hq) hq.sound.1 hq.quiet hqf
    have hrefuses : t.homeRefuses u = none := (rfl : t.homeRefuses u = s.homeRefuses u).trans (atHome_homeRefuses (s := s) hu)
    rw [hfirst, perform_ldd huk hrefuses hu.sound.1 hu.quiet (forwarded_fewer hul (List.filter_subset_self _) huf)]
    simp only [t, List.append_assoc]
    rfl

end Sys2Proof.Machine
end

section
/-! The leat: frames, accesses in turn, and answers (spec/16_edges_and_health.md R450 to R453). -/

namespace Sys2Proof.Machine

open Claims

/-! ### Words written in a row -/

theorem full_foldl_keeps {α : Type} {f : Memory → α → Memory} (hf : ∀ m a w, (f m a).full w = m.full w) (l : List α) (m : Memory) (w : Nat) :
    (l.foldl f m).full w = m.full w :=
  List.foldlRecOn (motive := fun x : Memory => x.full w = m.full w) l f rfl fun x hx a _ => (hf x a w).trans hx

theorem byte_foldl_keeps {α : Type} {f : Memory → α → Memory} (hf : ∀ m a x, (f m a).byte x = m.byte x) (l : List α) (m : Memory) (x : Nat) :
    (l.foldl f m).byte x = m.byte x :=
  List.foldlRecOn (motive := fun y : Memory => y.byte x = m.byte x) l f rfl fun y hy a _ => (hf y a x).trans hy

/-- The words of a list marked one by one. -/
theorem marked_foldl (m : Memory) (ws : List Nat) (b : Bool) : Marked m (ws.foldl (fun (m : Memory) w => m.setFull w b) m) ws b := by
  intro x
  induction ws generalizing m with
  | nil => simp
  | cons w ws ih =>
    rw [List.foldl_cons, ih, Memory.full_setFull]
    by_cases hx : x ∈ ws
    · simp [hx]
    · simp [hx, eq_comm]

/-- Words written from an address on are their bytes written there. -/
theorem written_words (m : Memory) (a : Nat) (ws : List W64) :
    Written m ((List.range ws.length).foldl (fun (m : Memory) k => m.write (a + 8 * k) (ws.getD k 0#64).toNat 0 8) m) a (8 * ws.length) (wordsAsBytes ws) 0 := by
  intro x
  rw [Memory.byte_writeWords m a (fun k => (ws.getD k 0#64).toNat)]
  by_cases hx : a ≤ x ∧ x < a + 8 * ws.length
  · rw [if_pos hx, if_pos ⟨hx.1, hx.2, Nat.zero_testBit _⟩, wordsAsBytes, packed_words_byte _ (fun i => (ws.getD i 0#64).isLt) (by omega)]
  · rw [if_neg hx, if_neg fun h => hx ⟨h.1, h.2.1⟩]

theorem wordsOf_aligned {a : Nat} (h : a % 8 = 0) (n : Nat) : wordsOf a (8 * n) = (List.range n).map fun k => a / 8 + k := by
  unfold wordsOf wordOf
  rcases n with _ | n
  · rfl
  · rw [if_neg (by omega), show (a + 8 * (n + 1) - 1) / 8 - a / 8 + 1 = n + 1 by omega]

/-- Bytes of one line lie together, wherever the line has moved (R434). -/
theorem State.redirect_same_line (s : State) {a i : Nat} (hi : a % 64 + i < 64) : s.redirect (a + i) = s.redirect a + i := by
  have hl : (a + i) / 64 = a / 64 := by omega
  have hd : ∀ k, 6 ≤ k → (a + i) / 2 ^ k = a / 2 ^ k := fun k hk => by rw [← line_div (a + i) k hk, ← line_div a k hk, hl]
  have h1 : paSpace (a + i) = paSpace a := by unfold paSpace; rw [hd 46 (by decide)]
  have h2 : paSite (a + i) = paSite a := by unfold paSite; rw [hd 37 (by decide)]
  have h3 : bits (a + i) 25 22 = bits a 25 22 := by unfold bits; rw [hd 22 (by decide)]
  unfold State.redirect
  rw [h1, h2, h3]
  generalize coreOf (paSite a) (bits a 25 22) = k
  by_cases hc : (decide (paSpace a = 0) && isCompute (paSite a)) = true
  · rw [if_pos hc, if_pos hc]
    by_cases hm : (s.coreAt k).rdir = true ∧ a % 2 ^ 22 < 64 * (s.coreAt k).lmoved
    · simp only []
      rw [if_pos hm, if_pos ⟨hm.1, by omega⟩]
      omega
    · simp only []
      rw [if_neg hm, if_neg fun h => hm ⟨h.1, by omega⟩]
  · rw [if_neg hc, if_neg hc]

/-! ### A port -/

theorem State.modLeat_leatAt (s : State) (n : Nat) (f : LeatPort → LeatPort) (k : Nat) : (s.modLeat n f).leatAt k = if n = k then f (s.leatAt n) else s.leatAt k := by
  simp [State.leatAt, State.modLeat, mget_mput]

@[simp] theorem State.modLeat_leatAt_same (s : State) (n : Nat) (f : LeatPort → LeatPort) : (s.modLeat n f).leatAt n = f (s.leatAt n) := by
  simp [State.modLeat_leatAt]

theorem leatNow_modLeat (s : State) (n : Nat) (f : LeatPort → LeatPort) : LeatNow s (s.modLeat n f) n (f (s.leatAt n)) :=
  ⟨rfl, s.modLeat_leatAt_same n f, fun k hk => by rw [State.modLeat_leatAt, if_neg hk.symm]⟩

theorem carried_eq (s : State) (n : Nat) (a : Frame) : Claims.carried s n a = { a with carrier := Carrier.ofMode (s.leatAt n).mode } := by
  unfold Claims.carried Carrier.ofMode
  cases (s.leatAt n).mode <;> rfl

/-- A frame leaves a port whose registers change, MODE apart. -/
theorem leatNow_leatSend (s : State) (n : Nat) {g : LeatPort → LeatPort} (hg : ∀ p, (g p).mode = p.mode) (a : Frame) :
    LeatNow { s with leatOut := s.leatOut ++ [(n, Claims.carried s n a)] } ((s.modLeat n g).leatSend n a) n (g (s.leatAt n)) := by
  obtain ⟨-, hsame, hothers⟩ := leatNow_modLeat s n g
  refine ⟨?_, hsame, hothers⟩
  simp only [State.leatSend, State.modLeat_leatAt_same, hg, carried_eq]
  rfl

section
variable {s : State} {n : Nat} {f : Frame}

section
variable (hn : siteKind n = .hostLink) (hen : (s.leatAt n).en = true)
include hn hen

theorem leatServes_on (f : Frame) : s.leatServes n f = true := by
  simp [State.leatServes, hn, hen]

theorem leatReceive_bad (hg : f.good (s.leatAt n).mode = false) : s.leatReceive n f = s.modLeat n fun p => { p with badf := min (p.badf + 1) (2 ^ 32 - 1) } := by
  simp [State.leatReceive, leatServes_on hn hen, hg]

variable (hg : f.good (s.leatAt n).mode = true) (ho : f.op ≠ 8)
include hg ho

theorem leatReceive_expected (hs : f.seq = (s.leatAt n).expseq) :
    s.leatReceive n f = s.modLeat n fun p => { p with expseq := (p.expseq + 1) % 2 ^ 32, jobs := p.jobs ++ [{ seq := f.seq, frame := f }] } := by
  simp [State.leatReceive, leatServes_on hn hen, hg, ho, hs]

/-- A request past the expected one is refused (R452). -/
theorem leatReceive_ahead (hp : (s.leatAt n).expseq < 2 ^ 32) (hs : f.seq = ((s.leatAt n).expseq + 1) % 2 ^ 32) :
    s.leatReceive n f = (s.modLeat n fun p => { p with naks := min (p.naks + 1) (2 ^ 32 - 1) }).leatSend n (replyFrame 0xA (s.leatAt n).expseq 0 0 0 []) := by
  have hne : f.seq ≠ (s.leatAt n).expseq := by omega
  have hfar : (s.leatAt n).recent f.seq = false := by
    simp only [LeatPort.recent, Bool.and_eq_false_iff, decide_eq_false_iff_not]
    omega
  simp [State.leatReceive, leatServes_on hn hen, hg, ho, hne, hfar]

end

/-! ### The one request of a port -/

section
variable {op k : Nat} {ws : List W64} (h : AskedUpTo s n op f k ws)
include h

theorem askedUpTo_next : s.leatNext n op f = true := by
  simp [State.leatNext, h.1, h.2]

theorem askedUpTo_soFar : s.leatDoneSoFar n f = (k, ws) := by
  simp [State.leatDoneSoFar, h.1]

/-- The one request of a port is answered, and memory is as it was. -/
theorem leatDone_answered (a : Frame) : Answered s (s.leatDone n f a) n a ∧ (s.leatDone n f a).mem = s.mem := by
  obtain ⟨u, hu⟩ : ∃ u, u = (s.leatRan n f none).modLeat n fun p => { p with jobs := p.jobs.map fun j => if j.seq = f.seq then { j with reply := some a } else j } :=
    ⟨_, rfl⟩
  have hjobs : (u.leatAt n).jobs = [{ seq := f.seq, frame := f, at_ := k, words := ws, ran := true, reply := some a }] := by
    simp [hu, State.leatRan, h.1]
  have hmode : (u.leatAt n).mode = (s.leatAt n).mode := by simp [hu, State.leatRan]
  have hout : u.leatOut = s.leatOut := by rw [hu]; rfl
  have hmem : u.mem = s.mem := by rw [hu]; rfl
  have hdone : s.leatDone n f a = u.leatFlush n (u.leatAt n).jobs.length := by rw [hu]; rfl
  rw [hjobs] at hdone
  rw [hdone]
  simp only [List.length_singleton, State.leatFlush, hjobs]
  refine ⟨⟨?_, ?_⟩, hmem⟩
  · rw [carried_eq, ← hmode, ← hout]
    simp only [State.leatSend, State.modLeat_leatAt_same]
    rfl
  · simp [State.leatSend, State.leatAt, State.modLeat]

theorem leatWent_asked (k' : Nat) (ws' : List W64) : AskedUpTo (s.leatWent n f k' ws') n op f k' ws' := by
  refine ⟨?_, h.2⟩
  simp [State.leatWent, h.1]

end

end

section
variable {s : State} {n : Nat} {f : Frame} {k : Nat} {ws : List W64}

/-- An access of a port over memory without errors, at words that none waits for. -/
theorem leatStore_eq {a fe : Nat} {put : List W64} (ha : paSpace a = 0) (hr : s.redirect a = a) (hw : s.waitq = []) (he : s.mem.errs = []) :
    ∃ m, s.leatStore a fe put = { s with mem := m } ∧ (a % 8 = 0 → Written s.mem m a (8 * put.length) (wordsAsBytes put) 0 ∧
      Marked s.mem m (if fe = 0 then [] else (List.range put.length).map fun k => a / 8 + k) (decide (fe = 1))) := by
  let m := (List.range put.length).foldl (fun (m : Memory) k => m.write (a + 8 * k) (put.getD k 0#64).toNat 0 8) s.mem
  let m' := if fe = 0 then m else (wordsOf a (8 * put.length)).foldl (fun (m : Memory) w => m.setFull w (fe == 1)) m
  refine ⟨m', ?_, fun h8 => ?_⟩
  · have hheal := State.heal_of_noErrs he (wordsOf a (8 * put.length))
    have hcor := State.correct_of_noErrs s he (wordsOf a (8 * put.length))
    rw [State.leatStore, if_neg (by omega)]
    simp only [hr, hcor, hheal]
    exact State.retestAll_of_noWaiters ({ s with mem := m' } : State) hw _
  · have hfull : ∀ w, m.full w = s.mem.full w := full_foldl_keeps (fun m k w => Memory.full_write ..) _ _
    by_cases hf : fe = 0
    · simp only [m', hf, if_true]
      exact ⟨written_words s.mem a put, fun w => by rw [if_neg (by simp)]; exact hfull w⟩
    · simp only [m', hf, if_false]
      refine ⟨fun x => ?_, fun w => ?_⟩
      · rw [byte_foldl_keeps (f := fun (m : Memory) w => m.setFull w (fe == 1)) (fun m w x => rfl)]
        exact written_words s.mem a put x
      · rw [marked_foldl, wordsOf_aligned h8, hfull]
        rfl

end

/-! ### Requests -/

section
variable {s : State} {n : Nat} {f : Frame} {k : Nat} {ws : List W64}

/-- An address of which a port serves a word is one of whole words. -/
theorem leatAddrOk_aligned {w : Bool} {a bytes : Nat} (h : s.leatAddrOk w n a bytes = true) : a % 8 = 0 := by
  simp only [State.leatAddrOk, Bool.and_eq_true, beq_iff_eq] at h
  exact h.1

/-- A WRITE in turn refuses its address, or performs its next access and is answered at the last. -/
theorem leatWrite_turn (h : AskedUpTo s n 1 f k ws) (hfe : f.fe ≠ 3) :
    (s.leatAddrOk true n (f.addr + k) (max 8 (f.len - k)) = false → s.leatWrite n f = s.leatDone n f (f.compl 1)) ∧
      let m := min (16 - (f.addr + k) % 16) (f.len - k)
      let t := s.leatStore (f.addr + k) f.fe ((f.payload.drop (k / 8)).take (m / 8))
      (s.leatAddrOk true n (f.addr + k) (max 8 (f.len - k)) = true → s.leatHeld n (f.addr + k) m = false →
        s.leatWrite n f = if k + m < f.len then t.leatWent n f (k + m) [] else t.leatDone n f (f.compl 0)) := by
  refine ⟨fun ha => ?_, fun ha hh => ?_⟩
  · simp [State.leatWrite, askedUpTo_next h, askedUpTo_soFar h, hfe, ha]
  · simp only [State.leatWrite, askedUpTo_next h, askedUpTo_soFar h, hfe, ha, leatPiece, hh, Bool.not_true, Bool.false_eq_true, if_false]

/-- A request whose access has performed in memory alone goes on, or is answered. -/
theorem cameTo_write {op : Nat} {m : Memory} (h : AskedUpTo s n op f k ws) (k' len : Nat) (ws' : List W64) (a : Frame) :
    let t : State := { s with mem := m }
    CameTo s (if k' < len then t.leatWent n f k' ws' else t.leatDone n f a) n op f len k' ws' a ∧
      (if k' < len then t.leatWent n f k' ws' else t.leatDone n f a).mem = m := by
  intro t
  have ht : AskedUpTo t n op f k ws := h
  split
  · next hlt => exact ⟨⟨fun _ => ⟨rfl, leatWent_asked ht k' ws'⟩, fun hge => absurd hlt (by omega)⟩, rfl⟩
  · next hge =>
    obtain ⟨hans, hmem⟩ := leatDone_answered ht a
    exact ⟨⟨fun hlt => absurd hlt hge, fun _ => hans⟩, hmem⟩

/-- The words that a READ reads in one access lie where their first does. -/
theorem leatLoad_eq {a m : Nat} (ha : paSpace a = 0) (hr : s.redirect a = a) (he : s.mem.errs = []) (h8 : a % 8 = 0) (hm : a % 16 + m ≤ 16) :
    s.leatLoad a m = (some ((List.range (m / 8)).map fun k => BitVec.ofNat 64 (s.mem.read (a + 8 * k) 8)), s) := by
  have hwords : s.memWords a (m / 8) = (List.range (m / 8)).map fun k => BitVec.ofNat 64 (s.mem.read (a + 8 * k) 8) := by
    refine List.map_congr_left fun k hk => ?_
    have hk := List.mem_range.1 hk
    rw [s.redirect_same_line (by omega), hr]
    rfl
  rw [State.leatLoad, if_neg (by omega)]
  simp only [hr, State.firstPoisoned_of_noErrs s he, State.correct_of_noErrs s he, hwords]

theorem leatRead_turn (h : AskedUpTo s n 2 f k ws) (hl : 8 ≤ f.rlen) (hu : f.rlen ≤ 4096) (h8 : f.rlen % 8 = 0) :
    (s.leatAddrOk false n (f.addr + k) (f.rlen - k) = false → s.leatRead n f = s.leatDone n f (f.compl 1)) ∧
      let m := min (16 - (f.addr + k) % 16) (f.rlen - k)
      ∀ got, s.leatAddrOk false n (f.addr + k) (f.rlen - k) = true → s.leatHeld n (f.addr + k) m = false → s.leatLoad (f.addr + k) m = (some got, s) →
        s.leatRead n f = if k + m < f.rlen then s.leatWent n f (k + m) (ws ++ got) else s.leatDone n f (f.rdata (ws ++ got)) := by
  have hlen : (decide (f.rlen < 8) || decide (4096 < f.rlen) || decide (f.rlen % 8 ≠ 0)) = false := by
    simp [h8, Nat.not_lt.2 hl, Nat.not_lt.2 hu]
  refine ⟨fun ha => ?_, fun got ha hh hg => ?_⟩
  · simp only [State.leatRead, askedUpTo_next h, askedUpTo_soFar h, hlen, ha, Bool.not_true, Bool.not_false, Bool.false_eq_true, if_false, if_true]
  · simp only [State.leatRead, askedUpTo_next h, askedUpTo_soFar h, hlen, ha, leatPiece, hh, hg, Bool.not_true, Bool.false_eq_true, if_false]

theorem leatDitchw_on (h : AskedOf s n 3 f) (hd : (s.ditchAt f.basin f.ditch).en = true) : s.leatDitchw n f = { s.leatRan n f (some s.nextId) with
    appends := s.appends ++ [{ id := s.nextId, basin := f.basin, ditch := f.ditch, kind := .leat, recs := recordsOf f.payload, since := s.time }]
    nextId := s.nextId + 1 } := by
  simp only [State.leatDitchw, askedUpTo_next h, hd, Bool.not_true, Bool.false_eq_true, if_false]
  rfl

theorem leatLaunch_served (h : AskedOf s n 4 f) (hsp : paSpace f.addr = 0) (ha : s.leatAddrOk false n f.addr 8 = true) :
    s.leatLaunch n f = { s.leatRan n f none with
      submits := s.submits ++ [{ id := s.nextId, basin := basinOf (paSite f.addr), hdr := f.addr, leat := some (n, f.seq, f.tag) }]
      nextId := s.nextId + 1 } := by
  simp only [State.leatLaunch, askedUpTo_next h, hsp, ha, ne_eq, not_true_eq_false, decide_false, Bool.not_true, Bool.or_self, Bool.false_eq_true, if_false]
  rfl

end

/-! ### Host writes -/

theorem mget?_map_values {α : Type} (m : SMap α) (p : α → Prop) [DecidablePred p] (g : α → α) (k : Nat) :
    mget? (m.map fun e => if p e.2 then (e.1, g e.2) else e) k = (mget? m k).map fun x => if p x then g x else x := by
  induction m with
  | nil => rfl
  | cons e m ih =>
    obtain ⟨a, x⟩ := e
    by_cases hx : p x <;> by_cases ha : a = k <;> simp [mget?, hx, ha, ih]

/-- A culvert whose message is acknowledged counts the message's bytes; the other commands are as they were. -/
theorem culvertAcked_active (s : State) (core cmd msg k : Nat) {r : CopyRun} (hr : mget? (s.copyAt core).active k = some r) :
    mget? ((s.culvertAcked core cmd msg).copyAt core).active k = some (if r.cmd.id = cmd then r.acked msg else r) := by
  have hmap := mget?_map_values (s.copyAt core).active (fun x => x.cmd.id = cmd) (fun x => x.acked msg) k
  rw [State.culvertAcked, State.setCopy_copyAt_same]
  rw [hr] at hmap
  exact hmap

section
variable {s : State} {h : HostWrite} {n : Nat} (hw : s.hostWrites = [h]) (hp : h.port = n)
include hw hp

/-- The host has performed a write: its culvert is acknowledged (R453). -/
theorem hostCompl_one : ∃ t, exec (.hostComplArrival n h.seq) s = .next t ∧ t.hostWrites = [] ∧ ∀ k r, mget? (s.copyAt h.core).active k = some r →
    mget? (t.copyAt h.core).active k = some (if r.cmd.id = h.cmd then r.acked h.id else r) := by
  have hfind : (s.hostWrites.find? fun x => decide (x.port = n) && decide (x.seq = h.seq)) = some h := by simp [hw, hp]
  have hrest : (s.hostWrites.filter fun x => decide (x.id ≠ h.id)) = [] := by simp [hw]
  have hcompl : s.hostCompl n h.seq = ({ s with hostWrites := [] } : State).culvertAcked h.core h.cmd h.id := by
    simp only [State.hostCompl, hfind, hrest]
  exact ⟨_, congrArg Host.Outcome.next hcompl, rfl, fun k r hr => culvertAcked_active _ _ _ _ k hr⟩

theorem hostResend_one (ht : h.sentAt + 100000 ≤ s.time) : s.hostResend n h.seq =
    { s with leatOut := s.leatOut ++ [(n, Claims.carried s n h.frame)], hostWrites := [{ h with sentAt := s.time }] } := by
  have hfind : (s.hostWrites.find? fun x => decide (x.port = n) && decide (x.seq = h.seq) && decide (x.sentAt + 100000 ≤ s.time)) = some h := by simp [hw, hp, ht]
  have hmap : (s.hostWrites.map fun x => if x.id = h.id then { x with sentAt := s.time } else x) = [{ h with sentAt := s.time }] := by simp [hw]
  simp only [State.hostResend, hfind, hmap, State.leatSend, carried_eq]

end

/-- Settles O49: a port that holds one request serves it in turn, an access at a time; the last access, or the refusal, is its answer, and the answer leaves alone. -/
theorem leatRequests : Obligations.LeatRequests := by
  intro s n f p
  refine ⟨fun hn hen => ⟨fun hg => ?_, fun hg ho hs => ?_, fun hg ho hp hs => ?_⟩, fun hn w => ?_, fun k ws => ⟨fun h => ⟨fun hfe => ?_, fun hfe ha => ?_,
    fun hfe ha hh hsp hw he hr => ?_⟩, fun h hk hl hu h8 => ⟨fun ha => ?_, fun ha hh hsp he hr => ?_⟩⟩, fun h => ⟨fun hd => ?_, fun hd => ?_⟩, fun h hsp ha => ?_,
    fun h hw hp => ⟨?_, fun ht => ?_⟩⟩
  · exact ⟨_, congrArg Host.Outcome.next (leatReceive_bad hn hen hg), leatNow_modLeat ..⟩
  · exact ⟨_, congrArg Host.Outcome.next (leatReceive_expected hn hen hg ho hs), leatNow_modLeat ..⟩
  · exact ⟨_, congrArg Host.Outcome.next (leatReceive_ahead hn hen hg ho hp hs), leatNow_leatSend s n (g := fun p => { p with naks := min (p.naks + 1) (2 ^ 32 - 1) }) (fun _ => rfl) _⟩
  · have hlink : exec (.leatLinkChange n w) s = .next (s.modLeat n fun p => { p with link := w }) := by
      rw [exec_leatLinkChange, execLeatLinkChange, if_pos hn]
    exact ⟨_, hlink, leatNow_modLeat ..⟩
  · have hdone : s.leatWrite n f = s.leatDone n f (f.compl 6) := by simp [State.leatWrite, askedUpTo_next h, hfe]
    exact ⟨_, congrArg Host.Outcome.next hdone, (leatDone_answered h _).1⟩
  · exact ⟨_, congrArg Host.Outcome.next ((leatWrite_turn h hfe).1 ha), leatDone_answered h _⟩
  · let m := min (16 - (f.addr + k) % 16) (f.len - k)
    obtain ⟨mem, hstore, hmem⟩ := leatStore_eq (fe := f.fe) (put := (f.payload.drop (k / 8)).take (m / 8)) hsp hr hw he
    have hwrite := (leatWrite_turn h hfe).2 ha hh
    rw [hstore] at hwrite
    obtain ⟨hcame, hto⟩ := cameTo_write (m := mem) h (k + m) f.len [] (f.compl 0)
    obtain ⟨hbytes, hmarks⟩ := hmem (leatAddrOk_aligned ha)
    exact ⟨_, congrArg Host.Outcome.next hwrite, hcame, by rw [hto]; exact hbytes, by rw [hto]; exact hmarks⟩
  · exact ⟨_, congrArg Host.Outcome.next ((leatRead_turn h hl hu h8).1 ha), leatDone_answered h _⟩
  · have hload := leatLoad_eq (m := min (16 - (f.addr + k) % 16) (f.rlen - k)) hsp hr he (leatAddrOk_aligned ha) (by omega)
    have hread := (leatRead_turn h hl hu h8).2 _ ha hh hload
    obtain ⟨hcame, hto⟩ := cameTo_write (m := s.mem) h (k + min (16 - (f.addr + k) % 16) (f.rlen - k)) f.rlen _ (f.rdata _)
    exact ⟨_, congrArg Host.Outcome.next hread, hto, hcame⟩
  · have hdone : s.leatDitchw n f = s.leatDone n f (f.compl 4) := by simp [State.leatDitchw, askedUpTo_next h, hd]
    exact ⟨_, congrArg Host.Outcome.next hdone, (leatDone_answered h _).1⟩
  · exact ⟨_, _, congrArg Host.Outcome.next (leatDitchw_on h hd), rfl, rfl, rfl, rfl, rfl, rfl⟩
  · exact ⟨_, _, congrArg Host.Outcome.next (leatLaunch_served h hsp ha), rfl, rfl, rfl, rfl⟩
  · exact hostCompl_one hw hp
  · exact ⟨_, congrArg Host.Outcome.next (hostResend_one hw hp ht), rfl⟩

end Sys2Proof.Machine
end

section
/-! SUPPORT. The copy engine's updates, what a fault leaves of the engines, and what the planning of lines leaves of memory (spec/04_ordering.md R131; spec/09_copy_engine.md R276, R298, R299). -/

namespace Sys2Proof.Machine

open Claims

/-! ### Updates of one engine -/

theorem copyNow_setCopy (s : State) (k : Nat) (m : CopyEng) : CopyNow s (s.setCopy k m) k m :=
  ⟨State.setCopy_copyAt_same .., fun j hj => by rw [State.setCopy_copyAt, if_neg hj.symm], rfl⟩

/-- A running command put back is an update of its entry alone. -/
theorem copyNow_putRun (s : State) (k : Nat) (r : CopyRun) {core : Nat} (hc : r.cmd.core = core) :
    CopyNow s (s.putRun k r) core { s.copyAt core with active := mput (s.copyAt core).active k r } := by
  subst hc
  exact copyNow_setCopy ..

theorem State.putRun_active (s : State) (k : Nat) (r : CopyRun) {core : Nat} (hc : r.cmd.core = core) : mget? ((s.putRun k r).copyAt core).active k = some r := by
  rw [(copyNow_putRun s k r hc).1]
  exact mget?_mput_same ..

/-! ### What leaves the engines as they are -/

/-- From s to t no engine has changed. -/
def SameEngines (s t : State) : Prop := t.mats = s.mats ∧ t.copies = s.copies ∧ t.hvs = s.hvs

theorem SameEngines.refl (s : State) : SameEngines s s := ⟨rfl, rfl, rfl⟩

theorem SameEngines.trans {s t u : State} (h : SameEngines s t) (h' : SameEngines t u) : SameEngines s u :=
  ⟨h'.1.trans h.1, h'.2.1.trans h.2.1, h'.2.2.trans h.2.2⟩

theorem SameEngines.ite {s a b : State} {p : Prop} [Decidable p] (ha : SameEngines s a) (hb : SameEngines s b) : SameEngines s (if p then a else b) := by
  split
  · exact ha
  · exact hb

theorem SameEngines.copyAt {s t : State} (h : SameEngines s t) (core : Nat) : t.copyAt core = s.copyAt core :=
  congrArg (fun m => mget m core ({} : CopyEng)) h.2.1

theorem sameEngines_foldl {α : Type} {f : State → α → State} (hf : ∀ u a, SameEngines u (f u a)) (l : List α) (s : State) : SameEngines s (l.foldl f s) := by
  induction l generalizing s with
  | nil => exact .refl s
  | cons a l ih => exact (hf s a).trans (ih _)

section
variable (s : State) (core slot : Nat)

theorem sameEngines_freezeTail (fs : List (Nat × Nat × Nat × Nat)) : SameEngines s (s.freezeTail core slot fs) := by
  cases fs with
  | nil => exact .refl s
  | cons f fs =>
    change SameEngines s (List.foldl _ _ fs)
    refine .trans ?_ (sameEngines_foldl ?_ fs _)
    · exact ⟨rfl, rfl, rfl⟩
    · exact fun _ _ => ⟨rfl, rfl, rfl⟩

theorem sameEngines_tellFailed : SameEngines s (s.tellFailed core slot) := by
  unfold State.tellFailed
  split
  · exact .refl s
  · have h : SameEngines s (List.foldl (fun s f => s.faultPkt core slot f.1 f.2.1 true false f.2.2.1 f.2.2.2) s (s.slotAt core slot).failed) := by
      refine sameEngines_foldl ?_ _ s
      exact fun _ _ => ⟨rfl, rfl, rfl⟩
    exact h.trans ⟨rfl, rfl, rfl⟩

theorem sameEngines_discard : SameEngines s (s.discard core slot) := by
  unfold State.discard
  split <;> exact ⟨rfl, rfl, rfl⟩

theorem sameEngines_lateEvent (r : Run) : SameEngines s (s.lateEvent core slot r) := .ite ⟨rfl, rfl, rfl⟩ (.refl s)

theorem sameEngines_freezeWith (cause ix : Nat) (tail repl : Bool) (va info : Nat) : SameEngines s (s.freezeWith core slot cause ix tail repl va info) :=
  ⟨rfl, rfl, rfl⟩

theorem sameEngines_raise (cause ix : Nat) (repl : Bool) (va info : Nat) : SameEngines s (s.raise core slot cause ix repl va info) := by
  unfold State.raise
  split
  · exact sameEngines_freezeWith ..
  · next r _ =>
    have hleaves (f : Slot → Slot) (g : Core → Core) : SameEngines s (((s.lateEvent core slot r).modSlot core slot f).modCore core g) :=
      (sameEngines_lateEvent s core slot r).trans ⟨rfl, rfl, rfl⟩
    exact .ite (((hleaves _ _).trans (sameEngines_tellFailed ..)).trans (sameEngines_freezeWith ..))
      (((sameEngines_discard ..).trans (sameEngines_tellFailed ..)).trans (sameEngines_freezeWith ..))

theorem sameEngines_failAfter (cause ix va info : Nat) : SameEngines s (s.failAfter core slot cause ix va info) := by
  unfold State.failAfter
  refine .ite ⟨rfl, rfl, rfl⟩ ?_
  split
  · exact sameEngines_freezeTail ..
  · exact .ite ⟨rfl, rfl, rfl⟩ (.ite (sameEngines_raise ..) ((sameEngines_discard ..).trans (sameEngines_freezeTail ..)))

theorem sameEngines_sendPkt (site dest slot : Nat) (ws : List W64) : SameEngines s (s.sendPkt site dest slot ws) := ⟨rfl, rfl, rfl⟩

theorem sameEngines_reportFault (c : Cmd) (cause va sub : Nat) : SameEngines s (s.reportFault c cause va sub) := by
  have h : SameEngines s (if c.rp then s.modCore c.core fun k => { k with replay := { k.replay with cause := cause } } else s) := .ite ⟨rfl, rfl, rfl⟩ (.refl s)
  unfold State.reportFault
  refine .ite (h.trans (sameEngines_sendPkt ..)) ?_
  split
  · exact h.trans (sameEngines_failAfter ..)
  · exact h.trans (sameEngines_sendPkt ..)

theorem sameEngines_tagDown (tag : Nat) : SameEngines s (s.tagDown core tag) := .ite (.refl s) ⟨rfl, rfl, rfl⟩

theorem sameEngines_cmdDone (c : Cmd) : SameEngines s (s.cmdDone c) := by
  unfold State.cmdDone
  exact .ite (sameEngines_tagDown ..) (.ite ⟨rfl, rfl, rfl⟩ (.trans ⟨rfl, rfl, rfl⟩ (sameEngines_tagDown ..)))

end

/-! ### What leaves memory as it is -/

/-- From s to t memory has not changed, where it held no error. -/
structure SameSound (s t : State) : Prop where
  sound : s.mem.errs = [] → t.mem = s.mem

section
variable {s t u : State}

theorem SameSound.of_mem (h : t.mem = s.mem) : SameSound s t := ⟨fun _ => h⟩

theorem SameSound.trans (h : SameSound s t) (h' : SameSound t u) : SameSound s u where
  sound he := (h'.sound ((h.sound he).symm ▸ he)).trans (h.sound he)

theorem countUe_mem (s : State) (pa : Nat) : (s.countUe pa).mem = s.mem := by
  unfold State.countUe
  dsimp only
  split <;> rfl

theorem sameSound_afterWalk (s : State) (b root va : Nat) : SameSound s (s.afterWalk b root va) := by
  refine ⟨fun he => ?_⟩
  unfold State.afterWalk
  rw [State.correct_of_noErrs s he]
  dsimp only
  split
  · rfl
  · exact apply_ite_eq State.mem (countUe_mem ..) rfl

theorem touchL1_mem (s : State) (sp : Space) (va : Nat) : (s.touchL1 sp va).mem = s.mem := by
  unfold State.touchL1
  split
  · rfl
  · split <;> rfl

theorem sameSound_xlate (s : State) (sp : Space) (va : Nat) (need : Need) : SameSound s (s.xlate sp va need).2 := by
  unfold State.xlate
  split
  · dsimp only
    split
    · exact .of_mem rfl
    · split
      · exact (sameSound_afterWalk ..).trans (.of_mem rfl)
      · exact sameSound_afterWalk ..
  · exact .of_mem (touchL1_mem ..)

theorem sameSound_engineXl (s : State) (sp : Space) (va : Nat) (need : Need) : SameSound s (s.engineXl sp va need).2 := by
  have h := sameSound_xlate s sp va need
  unfold State.engineXl State.engineAt
  split <;> simp_all

theorem sameSound_aimLine (s : State) (sp : Space) (lw : LineWrite) : SameSound s (s.aimLine sp lw).2 := by
  have h := sameSound_engineXl s sp lw.va .write
  unfold State.aimLine
  split <;> simp_all

theorem sameSound_aimLines (sp : Space) (ls : List LineWrite) (s : State) : SameSound s (s.aimLines sp ls).2 := by
  induction ls generalizing s with
  | nil => exact .of_mem rfl
  | cons l ls ih => exact (sameSound_aimLine s sp l).trans (ih _)

theorem askLines_mem (c : Cmd) (ls : List LineWrite) (s : State) : (s.askLines c ls).mem = s.mem := by
  induction ls generalizing s with
  | nil => rfl
  | cons l ls ih =>
    unfold State.askLines
    exact (ih _).trans (apply_ite_eq State.mem rfl rfl)

theorem sameSound_copyLines (s : State) (c : Cmd) (fe : Option Bool) : SameSound s (s.copyLines c fe).2 := by
  unfold State.copyLines
  dsimp only
  split
  · exact .of_mem rfl
  · exact .of_mem rfl
  · split_ifs
    · exact .of_mem rfl
    · exact sameSound_aimLines ..

end

end Sys2Proof.Machine
end

section
/-! A part of a line written by the copy engine: its bytes, its words, and what is left of the line (spec/04_ordering.md R114, R131; spec/09_copy_engine.md R286). -/

namespace Sys2Proof.Machine

open Claims

/-! ### The mask of a part -/

/-- The mask of w bytes of a line from its word n on. -/
def partMask (n w : Nat) : Nat := (2 ^ w - 1) * 2 ^ (8 * n)

theorem partMask_lt {n w : Nat} (h : 8 * n + w ≤ 64) : partMask n w < 2 ^ 64 := by
  have h1 : 0 < 2 ^ w := Nat.two_pow_pos w
  have h2 : 0 < 2 ^ (8 * n) := Nat.two_pow_pos _
  calc partMask n w < 2 ^ w * 2 ^ (8 * n) := Nat.mul_lt_mul_of_pos_right (by omega) h2
    _ = 2 ^ (8 * n + w) := by rw [← Nat.pow_add, Nat.add_comm]
    _ ≤ 2 ^ 64 := Nat.pow_le_pow_right (by omega) h

/-- A write under the other bytes of a line changes those of the part. -/
theorem testBit_otherThan {n w i : Nat} (h : 8 * n + w ≤ 64) (hi : i < 64) : (2 ^ 64 - 1 - partMask n w % 2 ^ 64).testBit i = false ↔ 8 * n ≤ i ∧ i < 8 * n + w := by
  have hlt := partMask_lt h
  have e : 2 ^ 64 - 1 - partMask n w = 2 ^ 64 - (partMask n w + 1) := by omega
  rw [Nat.mod_eq_of_lt hlt, e, Nat.testBit_two_pow_sub_succ hlt, partMask, Nat.testBit_mul_two_pow, Nat.testBit_two_pow_sub_one]
  simp only [hi, decide_true, Bool.true_and, Bool.not_eq_false', Bool.and_eq_true, decide_eq_true_eq]
  omega

theorem written_part (m : Memory) (a data : Nat) {n w : Nat} (h : 8 * n + w ≤ 64) :
    Written m (m.write a data (2 ^ 64 - 1 - partMask n w % 2 ^ 64) 64) (a + 8 * n) w (data / 2 ^ (64 * n)) 0 := by
  intro x
  rw [Memory.byte_write_masked]
  by_cases hx : a ≤ x ∧ x < a + 64
  · have ht := testBit_otherThan (i := x - a) h (by omega)
    by_cases hp : a + 8 * n ≤ x ∧ x < a + 8 * n + w
    · have e : x - a = 8 * n + (x - (a + 8 * n)) := by omega
      have hpow : 256 ^ (x - a) = 2 ^ (64 * n) * 256 ^ (x - (a + 8 * n)) := by
        rw [e, Nat.pow_add, show (256 : Nat) = 2 ^ 8 from rfl, ← Nat.pow_mul, ← Nat.pow_mul]
        ring_nf
      rw [if_pos ⟨hx.1, hx.2, ht.2 (by omega)⟩, if_pos ⟨hp.1, hp.2, Nat.zero_testBit _⟩, hpow, Nat.div_div_eq_div_mul]
    · rw [if_neg fun hy => hp (by have := ht.1 hy.2.2; omega), if_neg fun hy => hp ⟨hy.1, hy.2.1⟩]
  · rw [if_neg (by omega), if_neg (by omega)]

/-- A part is a word, or two at an even place. -/
def IsPart (n w : Nat) : Prop := (w = 8 ∨ w = 16 ∧ n % 2 = 0) ∧ 8 * n + w ≤ 64

theorem partMask_words : ∀ n < 8, ∀ k < 8, (bits (partMask n 8) (8 * k + 7) (8 * k) ≠ 0 ↔ k = n) ∧
    (n % 2 = 0 → (bits (partMask n 16) (8 * k + 7) (8 * k) ≠ 0 ↔ k = n ∨ k = n + 1)) := by
  unfold partMask
  decide

theorem partMask_piece : ∀ n < 8, ∀ k < 4, pieceMask (partMask n 8) k = (if k = n / 2 then partMask n 8 else 0) ∧
    (n % 2 = 0 → pieceMask (partMask n 16) k = if k = n / 2 then partMask n 16 else 0) := by
  unfold partMask
  decide

theorem partMask_count : ∀ n < 8, maskCount (partMask n 8) = 8 ∧ (n % 2 = 0 → maskCount (partMask n 16) = 16) := by
  unfold partMask
  decide

section
variable {n w : Nat} (h : IsPart n w)
include h

theorem IsPart.lt : n < 8 := by
  obtain ⟨hw, hn⟩ := h
  omega

theorem IsPart.piece {k : Nat} (hk : k < 4) : pieceMask (partMask n w) k = if k = n / 2 then partMask n w else 0 := by
  obtain ⟨h8, h16⟩ := partMask_piece n h.lt k hk
  obtain ⟨rfl | ⟨rfl, hn⟩, -⟩ := h
  · exact h8
  · exact h16 hn

theorem IsPart.count : maskCount (partMask n w) = w := by
  obtain ⟨h8, h16⟩ := partMask_count n h.lt
  obtain ⟨rfl | ⟨rfl, hn⟩, -⟩ := h
  · exact h8
  · exact h16 hn

/-- The words of a part. -/
theorem IsPart.mem_words (line x : Nat) : x ∈ maskWords line (partMask n w) ↔ x ∈ (List.range (w / 8)).map (8 * line + n + ·) := by
  have hw (k : Nat) (hk : k < 8) : bits (partMask n w) (8 * k + 7) (8 * k) ≠ 0 ↔ n ≤ k ∧ k < n + w / 8 := by
    obtain ⟨h8, h16⟩ := partMask_words n h.lt k hk
    obtain ⟨rfl | ⟨rfl, hn⟩, -⟩ := h
    · rw [h8]; omega
    · rw [h16 hn]; omega
  have hle : n + w / 8 ≤ 8 := by
    obtain ⟨-, hn⟩ := h
    omega
  simp only [maskWords, List.mem_filterMap, List.mem_range, List.mem_map]
  constructor
  · rintro ⟨k, hk, e⟩
    split at e
    · next hb =>
      have := (hw k hk).1 hb
      exact ⟨k - n, by omega, by simp at e; omega⟩
    · cases e
  · rintro ⟨i, hi, rfl⟩
    exact ⟨n + i, by omega, by rw [if_pos ((hw (n + i) (by omega)).2 (by omega))]; simp; omega⟩

end

/-! ### Memory with a part of a line written -/

/-- Memory with the bytes of a mask of a line written, and their words marked by its rule. -/
def Memory.putPart (m : Memory) (lw : LineWrite) (data mask : Nat) : Memory :=
  let m := m.write (64 * lw.line) data (2 ^ 64 - 1 - mask % 2 ^ 64) 64
  match lw.fe with
  | none => m
  | some b => (maskWords lw.line mask).foldl (fun m w => m.setFull w b) m

theorem written_putPart (m : Memory) (lw : LineWrite) (data : Nat) {n w : Nat} (h : 8 * n + w ≤ 64) :
    Written m (m.putPart lw data (partMask n w)) (64 * lw.line + 8 * n) w (data / 2 ^ (64 * n)) 0 := by
  have hp := written_part m (64 * lw.line) data h
  unfold Memory.putPart
  split
  · exact hp
  · next b _ =>
    intro x
    rw [← hp x]
    exact List.foldlRecOn (motive := fun y : Memory => y.byte x = (m.write (64 * lw.line) data (2 ^ 64 - 1 - partMask n w % 2 ^ 64) 64).byte x) _ _ rfl fun y hy a _ => hy

theorem marked_putPart (m : Memory) (lw : LineWrite) (data : Nat) {n w : Nat} (h : IsPart n w) {b : Bool} (hb : lw.fe = none ∨ lw.fe = some b) :
    Marked m (m.putPart lw data (partMask n w)) (if lw.fe = none then [] else (List.range (w / 8)).map (8 * lw.line + n + ·)) b := by
  intro x
  unfold Memory.putPart
  rcases hb with hb | hb
  · rw [hb, if_pos rfl]
    simp [Memory.full_write]
  · simp only [hb, reduceCtorEq, if_false]
    exact (marked_foldl _ _ b x).trans (if_congr (h.mem_words lw.line x) rfl (Memory.full_write ..))

/-! ### One event of a line -/

section
variable {s : State} {lw : LineWrite} {cmd : Nat}

/-- The parts of a line that are yet to be written, where no word of it is reserved. -/
theorem State.freePieces_unreserved (hr : ∀ x ∈ s.resv, x.1 / 8 ≠ lw.line) : s.freePieces lw = (List.range 4).filter fun k => decide (pieceMask lw.mask k ≠ 0) := by
  unfold State.freePieces
  refine List.filter_congr fun k _ => ?_
  have hfree : (s.resv.any fun e => (maskWords lw.line (pieceMask lw.mask k)).contains e.1) = false :=
    List.any_eq_false.2 fun x hx => by
      simp only [List.contains_iff_mem]
      exact fun h => hr x hx (mem_maskWords h)
  rw [hfree]
  simp

theorem choose_lt (s : State) {n : Nat} (h : 0 < n) : (s.choose n).1 < n := by
  unfold State.choose
  split
  · exact h
  · exact Nat.mod_lt _ h

/-- The state in which a choice leaves the machine: nothing but the count of events has moved. -/
theorem choose_state (s : State) (n : Nat) : ∃ i, (s.choose n).2 = { s with nextId := i } := by
  unfold State.choose
  split
  · exact ⟨s.nextId, rfl⟩
  · exact ⟨_, rfl⟩

/-- Who owns the lines once a part of one is written: its command still, or no longer. -/
def ownedAfter (owned : List Own) (cmd : Nat) (lw : LineWrite) (left k : Nat) : List Own :=
  let mine := fun (o : Own) => decide (o.line = lw.line) && decide (o.cmd = cmd)
  if left = 0 then owned.filter fun o => !mine o else owned.map fun o => if mine o then { o with wrote := Nat.lor o.wrote (2 ^ k) } else o

/-- A command writes one of the parts of a line that it has yet to write, in a machine where nothing is in its way. -/
theorem writePiece_part (hn : s.freePieces lw ≠ []) (hh : s.retiredHome (64 * lw.line) = false) (hw : s.waitq = []) (he : s.mem.errs = []) :
    ∃ k ∈ s.freePieces lw, ∃ i, s.writePiece cmd lw false = (.ok { lw with mask := Nat.xor lw.mask (pieceMask lw.mask k) }, { s with
      nextId := i
      mem := s.mem.putPart lw lw.data (pieceMask lw.mask k)
      owned := ownedAfter s.owned cmd lw (Nat.xor lw.mask (pieceMask lw.mask k)) k }) := by
  obtain ⟨i, hi⟩ := choose_state s (s.freePieces lw).length
  have hlt := choose_lt s (List.length_pos_iff.2 hn)
  have hget : (s.freePieces lw).getD (s.choose (s.freePieces lw).length).1 0 ∈ s.freePieces lw := by
    rw [List.getD_eq_getElem _ _ hlt]
    exact List.getElem_mem _
  refine ⟨_, hget, i, ?_⟩
  unfold State.writePiece
  simp only [hi]
  generalize pieceMask lw.mask ((s.freePieces lw).getD (s.choose (s.freePieces lw).length).1 0) = m
  let u : State := { s with nextId := i }
  have hrefused : u.lineRefused { lw with mask := m } = none := by
    have hu : u.retiredHome (64 * lw.line) = false := hh
    simp [State.lineRefused, hu, Memory.poisoned_of_noErrs (m := u.mem) he]
  have hput : u.putLine { lw with mask := m } = { u with mem := u.mem.putPart lw lw.data m } := by
    unfold State.putLine Memory.putPart
    simp only [State.correct_of_noErrs u he, State.heal_of_noErrs (s := u) he]
    cases lw.fe <;> rfl
  have hret (o : List Own) : ({ u with mem := u.mem.putPart lw lw.data m, owned := o } : State).retestAll (lineWords [lw.line]) =
      { u with mem := u.mem.putPart lw lw.data m, owned := o } := by
    refine State.retestAll_of_noWaiters _ ?_ _
    exact hw
  simp only [u] at hrefused hput hret
  simp only [hrefused, hput, State.afterPiece, Bool.false_eq_true, if_false, ownedAfter]
  split <;> simp only [hret]

end

/-! ### The one line of a command -/

/-- A command of the copy engine that has read its data has one line left, its own, and nothing is in its way there (R131, R154, R231). -/
structure OneLine (s : State) (core k : Nat) (r : CopyRun) (lw : LineWrite) : Prop where
  runs : mget? (s.copyAt core).active k = some r ∧ r.cmd.core = core ∧ r.stage = 0 ∧ r.out = [] ∧ r.todo = [lw]
  line : lw.bad = none
  kind : r.cmd.kind.isCulvert = false
  read : r.cmd.readCount ≤ r.cmd.feed.length ∧ r.cmd.needs lw ≤ r.cmd.feed.length
  free : s.lineReady r.cmd.id lw = true ∧ s.retiredHome (64 * lw.line) = false ∧ (∀ e ∈ s.resv, e.1 / 8 ≠ lw.line) ∧ s.waitq = [] ∧ s.mem.errs = []

/-- The flags of a conversion join those of their virtual core, and no entry changes. -/
theorem copyFlags_active (s : State) (c : Cmd) (f : Flags) : ∃ m, s.copyFlags c f = { s with copies := m } ∧
    ∀ j, (({ s with copies := m } : State).copyAt j).active = (s.copyAt j).active := by
  unfold State.copyFlags
  split
  · exact ⟨s.copies, rfl, fun _ => rfl⟩
  · refine ⟨_, rfl, fun j => ?_⟩
    have h := State.setCopy_copyAt s c.core { s.copyAt c.core with
      flg := mput (s.copyAt c.core).flg ((s.coreAt c.core).vIndex c.grp) (mget (s.copyAt c.core).flg ((s.coreAt c.core).vIndex c.grp) 0#6 ||| f) } j
    refine (congrArg CopyEng.active h).trans ?_
    split
    · next e => rw [e]
    · rfl

section
variable {s : State} {core k : Nat} {r : CopyRun} {lw : LineWrite} (h : OneLine s core k r lw)
include h

theorem oneLine_next : s.nextLine r = some lw := by
  obtain ⟨hr, hc, hst, ho, ht⟩ := h.runs
  have hb : behind [lw] lw = false := by simp [behind]
  simp [State.nextLine, ht, h.read.2, hb, h.line, h.kind, Cmd.offWafer, h.free.1]

/-- All that is left to do is to write, and the line is the one to write to. -/
theorem oneLine_writes : ∃ i, s.copyLineWrite core k = ({ s with nextId := i } : State).copyWrite k r lw := by
  obtain ⟨hr, hc, hst, ho, ht⟩ := h.runs
  obtain ⟨i, hi⟩ := choose_state s 2
  refine ⟨i, ?_⟩
  simp [State.copyLineWrite, hr, hst, oneLine_next h, h.read.1, hi]

omit h in
/-- Of the one line of a command every byte counts (R299). -/
theorem newBytes_one (ht : r.todo = [lw]) (mask : Nat) : r.newBytes lw mask = maskCount mask := by
  have hleft : (r.todo.filter fun x => decide (x.row ≠ lw.row) && decide (x.va % 2 ^ 22 = lw.va % 2 ^ 22)) = [] := by simp [ht]
  have hand : Nat.land mask 0 = 0 := Nat.and_zero mask
  have hxor : Nat.xor mask 0 = mask := Nat.xor_zero mask
  simp only [CopyRun.newBytes, hleft, List.foldl_nil, ite_self, hand, hxor]

omit h in
/-- A part of its one line written, a command has that much less left of it. -/
theorem copyWrite_part {u v : State} {l : LineWrite} (hb : lw.bad = none) (hk : r.cmd.kind.isCulvert = false) (ht : r.todo = [lw]) (ho : r.out = [])
    (hu : s.copyFlags r.cmd (r.cmd.lineData lw).2 = u) (hp : u.writePiece r.cmd.id { lw with data := (r.cmd.lineData lw).1 } false = (.ok l, v)) :
    s.copyWrite k r lw = v.putRun k { r with
      todo := if l.mask = 0 then [] else [{ lw with mask := l.mask }], bdone := r.bdone + maskCount (Nat.xor lw.mask l.mask) } := by
  have hlast : r.todo.filter (· ≠ lw) = [] := by simp [ht]
  have hmap : (r.todo.map fun x => if x = lw then { lw with mask := l.mask } else x) = [{ lw with mask := l.mask }] := by simp [ht]
  have hout : (if l.mask = 0 then r.out.filter fun w => decide (w.va ≠ lw.va) else r.out) = r.out := by simp [ho]
  have hagain : writesAgain lw.line [] = false := rfl
  unfold State.copyWrite
  split
  · next e he => rw [hb] at he; cases he
  · simp only [Cmd.offWafer, hk, hu, hlast, hmap, hout, hagain, hp, newBytes_one ht, Bool.false_and, Bool.false_eq_true, if_false]

/-- One of the parts of the line that are yet to be written is written. -/
theorem oneLine_part : ∃ j ∈ s.freePieces lw, ∃ t, exec (.copyLineWrite core k) s = .next t ∧
    let m := pieceMask lw.mask j
    let left := Nat.xor lw.mask m
    t.mem = s.mem.putPart lw (r.cmd.lineData lw).1 m ∧ t.owned = ownedAfter s.owned r.cmd.id lw left j ∧
      mget? (t.copyAt core).active k = some { r with todo := if left = 0 then [] else [{ lw with mask := left }], bdone := r.bdone + maskCount m } := by
  obtain ⟨hr, hc, hst, ho, ht⟩ := h.runs
  obtain ⟨hready, hhome, hresv, hwait, herrs⟩ := h.free
  obtain ⟨i, hwrites⟩ := oneLine_writes h
  obtain ⟨m, hflags, hactive⟩ := copyFlags_active { s with nextId := i } r.cmd (r.cmd.lineData lw).2
  let u : State := { s with nextId := i, copies := m }
  have hn : u.freePieces { lw with data := (r.cmd.lineData lw).1 } ≠ [] := by
    simp only [State.lineReady, Bool.and_eq_true, Bool.not_eq_true', List.isEmpty_eq_false_iff] at hready
    exact hready.2
  obtain ⟨j, hj, i', hpiece⟩ := writePiece_part (cmd := r.cmd.id) hn hhome hwait herrs
  have hleft : Nat.xor lw.mask (Nat.xor lw.mask (pieceMask lw.mask j)) = pieceMask lw.mask j := Nat.xor_xor_cancel_left ..
  refine ⟨j, hj, _, congrArg Host.Outcome.next hwrites, ?_⟩
  have hwrite := copyWrite_part (k := k) h.line h.kind ht ho hflags hpiece
  rw [hleft] at hwrite
  rw [hwrite]
  exact ⟨rfl, rfl, State.putRun_active _ k _ hc⟩

/-- The last part of the line: it is written, and the line released (R131). -/
theorem oneLine_last {n w : Nat} (hp : IsPart n w) (hm : lw.mask = partMask n w) {b : Bool} (hfe : lw.fe = none ∨ lw.fe = some b) :
    ∃ t, exec (.copyLineWrite core k) s = .next t ∧ Written s.mem t.mem (64 * lw.line + 8 * n) w ((r.cmd.lineData lw).1 / 2 ^ (64 * n)) 0 ∧
      Marked s.mem t.mem (if lw.fe = none then [] else (List.range (w / 8)).map (8 * lw.line + n + ·)) b ∧
      t.owned = s.owned.filter (fun o => !(decide (o.line = lw.line) && decide (o.cmd = r.cmd.id))) ∧
      mget? (t.copyAt core).active k = some { r with todo := [], bdone := r.bdone + w } := by
  obtain ⟨j, hj, t, ht, hmem, hown, hact⟩ := oneLine_part h
  rw [State.freePieces_unreserved h.free.2.2.1, List.mem_filter, decide_eq_true_eq, hm, List.mem_range] at hj
  have hpiece : pieceMask lw.mask j = partMask n w := by
    rw [hm, hp.piece hj.1]
    exact if_pos (by by_contra hne; exact hj.2 (by rw [hp.piece hj.1, if_neg hne]))
  have hleft : Nat.xor lw.mask (partMask n w) = 0 := by rw [hm]; exact Nat.xor_self _
  rw [hpiece] at hmem hown hact
  rw [hleft] at hown hact
  rw [hp.count] at hact
  exact ⟨t, ht, hmem ▸ written_putPart _ _ _ hp.2, hmem ▸ marked_putPart _ _ _ hp hfe, hown, hact⟩

/-- Some part of a line of which nothing is written yet: it is written, and the line stays the command's. -/
theorem oneLine_first (hm : lw.mask = 2 ^ 64 - 1) {b : Bool} (hfe : lw.fe = none ∨ lw.fe = some b) :
    ∃ t j, exec (.copyLineWrite core k) s = .next t ∧ j < 4 ∧ Written s.mem t.mem (64 * lw.line + 8 * (2 * j)) 16 ((r.cmd.lineData lw).1 / 2 ^ (64 * (2 * j))) 0 ∧
      Marked s.mem t.mem (if lw.fe = none then [] else (List.range (16 / 8)).map (8 * lw.line + 2 * j + ·)) b ∧
      t.owned = s.owned.map (fun o => if decide (o.line = lw.line) && decide (o.cmd = r.cmd.id) then { o with wrote := Nat.lor o.wrote (2 ^ j) } else o) ∧
      mget? (t.copyAt core).active k = some { r with todo := [{ lw with mask := 2 ^ 64 - 1 - 65535 * 2 ^ (16 * j) }], bdone := r.bdone + 16 } := by
  obtain ⟨j, hj, t, ht, hmem, hown, hact⟩ := oneLine_part h
  rw [State.freePieces_unreserved h.free.2.2.1, List.mem_filter, List.mem_range] at hj
  have hfull : ∀ j < 4, pieceMask (2 ^ 64 - 1) j = partMask (2 * j) 16 ∧ Nat.xor (2 ^ 64 - 1) (partMask (2 * j) 16) = 2 ^ 64 - 1 - 65535 * 2 ^ (16 * j) ∧
      2 ^ 64 - 1 - 65535 * 2 ^ (16 * j) ≠ 0 := by
    unfold partMask
    decide
  obtain ⟨hpiece, hleft, hne⟩ := hfull j hj.1
  have hp : IsPart (2 * j) 16 := ⟨.inr ⟨rfl, by omega⟩, by omega⟩
  simp only [hm, hpiece, hleft, hp.count, ownedAfter, if_neg hne] at hmem hown hact
  exact ⟨t, j, ht, hj.1, hmem ▸ written_putPart _ _ _ hp.2, hmem ▸ marked_putPart _ _ _ hp hfe, hown, hact⟩

end

end Sys2Proof.Machine
end

section
/-! The data of the copy forms: what they read next, and what they write (spec/09_copy_engine.md R278 to R282). -/

namespace Sys2Proof.Machine

open Claims

/-! ### Bytes of a line -/

/-- What is written depends on the bytes of the number alone. -/
theorem written_congr {m m' : Memory} {a n u v mask : Nat} (h : Written m m' a n u mask) (huv : ∀ j < n, BitVec.ofNat 8 (u / 256 ^ j) = BitVec.ofNat 8 (v / 256 ^ j)) :
    Written m m' a n v mask := by
  intro x
  rw [h x]
  by_cases hx : a ≤ x ∧ x < a + n ∧ mask.testBit (x - a) = false
  · rw [if_pos hx, if_pos hx, huv _ (by omega)]
  · rw [if_neg hx, if_neg hx]

theorem foldl_add_words (p : Nat → Bool) (f : Nat → Nat) (l : List Nat) (d : Nat) :
    l.foldl (fun d n => if p n then d else d + f n * 2 ^ (64 * n)) d = d + packed (l.map fun n => (if p n then 0 else f n, 64 * n)) := by
  induction l generalizing d with
  | nil => rfl
  | cons a l ih =>
    rw [List.foldl_cons, ih, List.map_cons, packed_cons]
    by_cases ha : p a = true
    · simp [ha]
    · simp [ha, Nat.add_assoc]

/-- The bytes of a part, of one word or two, of a line of words. -/
theorem byte_of_words {g : Nat → Nat} (hg : ∀ i, g i < 2 ^ 64) {a b n w j : Nat} (hp : IsPart n w) (ha : g n = a) (hb : w = 16 → g (n + 1) = b) (hb' : b < 2 ^ 64) (hj : j < w) :
    BitVec.ofNat 8 (packed ((List.range 8).map fun i => (g i, 64 * i)) / 2 ^ (64 * n) / 256 ^ j) = BitVec.ofNat 8 ((a + 2 ^ 64 * b) / 256 ^ j) := by
  let f := fun i => if i = 0 then a else b
  have hf : ∀ i, f i < 2 ^ 64 := fun i => by
    simp only [f]
    split
    · exact ha ▸ hg n
    · exact hb'
  have hpair : a + 2 ^ 64 * b = packed ((List.range 2).map fun i => (f i, 64 * i)) := by
    have hl : List.range 2 = [0, 1] := rfl
    simp only [hl, List.map_cons, List.map_nil, packed_cons, packed_nil, f, if_true, one_ne_zero, if_false]
    omega
  have hpow : 2 ^ (64 * n) * 256 ^ j = 256 ^ (8 * n + j) := by
    rw [Nat.pow_add, show (256 : Nat) = 2 ^ 8 from rfl, ← Nat.pow_mul 2 8 (8 * n)]
    ring_nf
  obtain ⟨hw, hle⟩ := hp
  rw [Nat.div_div_eq_div_mul, hpow, packed_words_byte g hg (by omega), hpair, packed_words_byte f hf (by omega), show (8 * n + j) / 8 = n + j / 8 by omega,
    show (8 * n + j) % 8 = j % 8 by omega]
  have hword : g (n + j / 8) = f (j / 8) := by
    rcases Nat.lt_or_ge j 8 with h | h
    · rw [show j / 8 = 0 by omega]
      exact ha
    · rw [show j / 8 = 1 by omega]
      exact hb (by omega)
  rw [hword]

/-! ### Lines of words -/

/-- What a line of a form that moves words, or of a FILL, holds as its i-th word. -/
def Cmd.wordAt (c : Cmd) (lw : LineWrite) (i : Nat) : Nat :=
  if c.kind = .fill then c.xarg else c.feed.getD (c.wordIx lw.row (lw.va + 8 * i - (c.rowSpan lw.row).1)) 0

/-- Whether the i-th word of a line lies outside the row of the command. -/
def Cmd.outside (c : Cmd) (lw : LineWrite) (i : Nat) : Bool :=
  decide (lw.va + 8 * i < (c.rowSpan lw.row).1) || decide ((c.rowSpan lw.row).1 + (c.rowSpan lw.row).2 ≤ lw.va + 8 * i)

section
variable {c : Cmd} {lw : LineWrite}

theorem lineData_words (hk : c.kind ≠ .cpycv) : (c.lineData lw).1 = packed ((List.range 8).map fun i => (if c.outside lw i then 0 else c.wordAt lw i, 64 * i)) := by
  unfold Cmd.lineData
  split
  · next h => exact absurd h hk
  · exact (foldl_add_words (c.outside lw) (c.wordAt lw) (List.range 8) 0).trans (Nat.zero_add _)

theorem wordAt_lt (hf : WordsFit c) (i : Nat) : c.wordAt lw i < 2 ^ 64 := by
  unfold Cmd.wordAt
  split
  · exact Nat.mod_lt _ (by decide)
  · generalize c.wordIx lw.row (lw.va + 8 * i - (c.rowSpan lw.row).1) = j
    rcases Nat.lt_or_ge j c.feed.length with h | h
    · rw [List.getD_eq_getElem _ _ h]
      exact hf _ (List.getElem_mem _)
    · rw [List.getD_eq_default _ _ h]
      decide

/-- A part of a line that lies within the row of a command holds its words. -/
theorem lineData_part (hk : c.kind ≠ .cpycv) (hf : WordsFit c) {n w j : Nat} (hp : IsPart n w) (hlo : (c.rowSpan lw.row).1 ≤ lw.va + 8 * n)
    (hhi : lw.va + 8 * n + w ≤ (c.rowSpan lw.row).1 + (c.rowSpan lw.row).2) (hj : j < w) :
    BitVec.ofNat 8 ((c.lineData lw).1 / 2 ^ (64 * n) / 256 ^ j) = BitVec.ofNat 8 ((c.wordAt lw n + 2 ^ 64 * c.wordAt lw (n + 1)) / 256 ^ j) := by
  have hfit (i : Nat) : (if c.outside lw i then 0 else c.wordAt lw i) < 2 ^ 64 := by
    split
    · decide
    · exact wordAt_lt hf i
  have hin (i : Nat) (hi : n ≤ i) (hiw : 8 * i < 8 * n + w) : (if c.outside lw i then 0 else c.wordAt lw i) = c.wordAt lw i := by
    have : c.outside lw i = false := by
      simp only [Cmd.outside, Bool.or_eq_false_iff, decide_eq_false_iff_not]
      omega
    simp [this]
  obtain ⟨hw, -⟩ := id hp
  rw [lineData_words hk]
  exact byte_of_words hfit hp (hin n (by omega) (by omega)) (fun h => hin (n + 1) (by omega) (by omega)) (wordAt_lt hf _) hj

end

/-! ### The rows and reads of the forms -/

theorem moved_nat (a n : Nat) : moved a (n : Int) = (a + n) % 2 ^ 64 := by
  unfold moved
  omega

/-- A pitch of 32 bits, sign-extended, is that of the whole operand. -/
theorem sext_field (c : Cmd) : c.dpitch = sext (c.r.toNat / 2 ^ 96) 32 ∧ c.spitch = sext (c.r.toNat / 2 ^ 64 % 2 ^ 32) 32 := by
  have h1 : BitVec.ofNat 32 (bits c.xarg 63 32) = BitVec.ofNat 32 (c.r.toNat / 2 ^ 96) := by
    refine BitVec.eq_of_toNat_eq ?_
    simp only [bits, Cmd.xarg, Cmd.rw, BitVec.toNat_ofNat]
    omega
  have h2 : bits c.xarg 31 0 = c.r.toNat / 2 ^ 64 % 2 ^ 32 := by
    simp only [bits, Cmd.xarg, Cmd.rw]
    omega
  unfold Cmd.dpitch Cmd.spitch sext
  rw [h1, h2]
  exact ⟨rfl, rfl⟩

theorem slicePa_coreOf (core : Nat) {i : Nat} (hi : i < 16) : slicePa (coreOf (coreSite core) i) = coreSite core * 2 ^ 37 + i * 2 ^ 22 := by
  unfold slicePa coreOf coreNum coreSite
  rw [show (16 * (core / 16) + i) / 16 = core / 16 by omega, show (16 * (core / 16) + i) % 16 = i by omega]

/-- The copy forms that move words, as the model places their rows and words. -/
theorem wordForms_row {e : CmdKind × (Cmd → Nat → Nat) × (Cmd → Nat → Nat → Nat)} (he : e ∈ wordForms) {c : Cmd} (hk : c.kind = e.1) {i : Nat} (hi : c.kind = .cpymc → i < 16) :
    c.rowSpan i = (e.2.1 c i, c.len) ∧ (∀ off, c.wordIx i off = e.2.2 c i (off / 8)) ∧ c.kind ≠ .cpycv ∧ c.kind ≠ .fill ∧ c.kind.isCulvert = false := by
  simp only [wordForms, List.mem_cons, List.not_mem_nil, or_false] at he
  rcases he with rfl | rfl | rfl | rfl | rfl
  · simp [Cmd.rowSpan, Cmd.wordIx, hk, CmdKind.isCulvert]
  · simp [Cmd.rowSpan, Cmd.wordIx, hk, CmdKind.isCulvert, moved, (sext_field c).1, Cmd.rowWords]
  · exact ⟨by simp only [Cmd.rowSpan, hk, moved_nat], by simp [Cmd.wordIx, hk, Cmd.rowWords], by simp [hk], by simp [hk], by simp [hk, CmdKind.isCulvert]⟩
  · exact ⟨by simp only [Cmd.rowSpan, hk, moved_nat], by simp [Cmd.wordIx, hk, Cmd.rowWords], by simp [hk], by simp [hk], by simp [hk, CmdKind.isCulvert]⟩
  · simp [Cmd.rowSpan, Cmd.wordIx, hk, CmdKind.isCulvert, slicePa_coreOf _ (hi hk)]

/-- The reads of the copy forms, in the model's order. -/
theorem copyReads_at {e : CmdKind × (Cmd → Nat → Nat × Nat)} (he : e ∈ copyReads) {c : Cmd} (hk : c.kind = e.1) (n : Nat) : c.readAt n = e.2 c n := by
  simp only [copyReads, List.mem_cons, List.not_mem_nil, or_false] at he
  rcases he with rfl | rfl | rfl | rfl | rfl
  · simp [Cmd.readAt, hk]
  · simp [Cmd.readAt, hk]
  · simp [Cmd.readAt, hk]
  · simp [Cmd.readAt, hk, moved, (sext_field c).2, Cmd.rowWords, Int.add_assoc]
  · simp only [Cmd.readAt, hk, moved_nat, Cmd.rowWords, Nat.add_assoc]

/-! ### Lines of converted elements (R281) -/

theorem testBit_packElems {w : Nat} (hw : 0 < w) (l : List Nat) (i : Nat) : (packElems w l).testBit i = (l.getD (i / w) 0).testBit (i % w) := by
  induction l generalizing i with
  | nil => simp [packElems]
  | cons e es ih =>
    rw [packElems, Nat.add_comm, Nat.testBit_two_pow_mul_add _ (Nat.mod_lt _ (Nat.two_pow_pos w))]
    split
    · next h => simp [Nat.div_eq_of_lt h, Nat.mod_eq_of_lt h, h]
    · next h =>
      obtain ⟨k, rfl⟩ := Nat.exists_eq_add_of_le (Nat.not_lt.1 h)
      rw [Nat.add_sub_cancel_left, ih, Nat.add_mod_left, Nat.add_div_left _ hw]
      rfl

/-- Two numbers have the same bits where their bytes are the same. -/
theorem byte_eq_of_bits {x y p q : Nat} (h : ∀ b < 8, x.testBit (p + b) = y.testBit (q + b)) : BitVec.ofNat 8 (x / 2 ^ p) = BitVec.ofNat 8 (y / 2 ^ q) := by
  refine BitVec.eq_of_getLsbD_eq fun b hb => ?_
  simp only [BitVec.getLsbD_ofNat, hb, decide_true, Bool.true_and, Nat.testBit_div_two_pow, Nat.add_comm b]
  exact h b hb

/-- The elements from one on and before another, packed, have the bits of all, further on. -/
theorem testBit_packed_slice {w : Nat} (hw : 0 < w) (g : Nat → Nat) {lo hi len i : Nat} (hi' : lo * w + i < w * min hi len) :
    (packElems w ((List.range (hi - lo)).map fun k => g (lo + k))).testBit i = (packElems w ((List.range len).map g)).testBit (lo * w + i) := by
  have hdiv : (lo * w + i) / w = lo + i / w := by rw [Nat.add_comm, Nat.add_mul_div_right _ _ hw, Nat.add_comm]
  have hlt : lo + i / w < min hi len := by
    rw [← hdiv]
    exact Nat.div_lt_of_lt_mul hi'
  rw [testBit_packElems hw, testBit_packElems hw, hdiv, Nat.mul_add_mod_self_right]
  rw [getD_range_map (fun k => g (lo + k)) 0 (by omega), getD_range_map g 0 (by omega)]

section
variable {c : Cmd} {lw : LineWrite} {sf df : MFmt}

/-- The elements that a line needs reach as far as its bits. -/
theorem lt_cvElemsOf (hdf : MFmt.ofCode c.df = some df) {q : Nat} (hline : q < 8 * (lw.va + 64 - c.dst)) (hlen : q < 8 * (c.len * df.width / 8)) :
    q < df.width * min (c.cvElemsOf df lw).2 c.len := by
  have hw := width_pos df
  have hbytes : c.cvBytes = c.len * df.width / 8 := by simp [Cmd.cvBytes, hdf]
  have hceil (m : Nat) : m ≤ df.width * ((m + df.width - 1) / df.width) := by
    have h1 := Nat.div_add_mod (m + df.width - 1) df.width
    have h2 := Nat.mod_lt (m + df.width - 1) hw
    omega
  have hall : q < df.width * c.len := by
    rw [Nat.mul_comm]
    omega
  refine Nat.lt_of_lt_of_le ?_ (Nat.mul_min_mul_left ..).le
  refine Nat.lt_min.2 ⟨?_, hall⟩
  refine Nat.lt_of_lt_of_le ?_ (Nat.mul_min_mul_left ..).le
  refine Nat.lt_min.2 ⟨hall, Nat.lt_of_lt_of_le ?_ (hceil _)⟩
  rw [hbytes]
  omega

/-- A part of a line that lies within the destination of a conversion holds the codes of its elements. -/
theorem lineData_converted (hk : c.kind = .cpycv) (hsf : MFmt.ofCode c.sf = some sf) (hdf : MFmt.ofCode c.df = some df) {n w j : Nat} (hp : IsPart n w)
    (hlo : c.dst ≤ lw.va + 8 * n) (hhi : lw.va + 8 * n + w ≤ c.dst + c.len * df.width / 8) (hj : j < w) :
    BitVec.ofNat 8 ((c.lineData lw).1 / 2 ^ (64 * n) / 256 ^ j) =
      BitVec.ofNat 8 (packElems df.width ((List.range c.len).map fun i => let x := c.cvSource sf i; (cvElem x.1 x.2 sf df c).1) / 2 ^ (8 * (lw.va + 8 * n - c.dst)) / 256 ^ j) := by
  have hw := width_pos df
  let g := fun i => let x := c.cvSource sf i; (cvElem x.1 x.2 sf df c).1
  let lo := max lw.va c.dst
  let e := c.cvElemsOf df lw
  have hdata : (c.lineData lw).1 = packElems df.width ((List.range (e.2 - e.1)).map fun k => g (e.1 + k)) / 2 ^ (8 * (lo - c.dst) - e.1 * df.width) *
      2 ^ (8 * (lo - lw.va)) % 2 ^ 512 := by
    unfold Cmd.lineData
    simp only [hk, hsf, hdf, List.map_map]
    rfl
  obtain ⟨hw16, hle⟩ := hp
  have hpow (p : Nat) : 2 ^ p * 256 ^ j = 2 ^ (p + 8 * j) := by
    rw [show (256 : Nat) = 2 ^ 8 from rfl, ← Nat.pow_mul, ← Nat.pow_add]
  rw [Nat.div_div_eq_div_mul, Nat.div_div_eq_div_mul, hpow, hpow]
  refine byte_eq_of_bits fun b hb => ?_
  have hstart : e.1 * df.width ≤ 8 * (lo - c.dst) := Nat.div_mul_le_self ..
  have hbefore : 8 * (lw.va + 8 * n - c.dst) + 8 * j + b < df.width * min e.2 c.len := by
    refine lt_cvElemsOf hdf ?_ ?_ <;> omega
  have hi : e.1 * df.width + (64 * n + 8 * j + b - 8 * (lo - lw.va) + (8 * (lo - c.dst) - e.1 * df.width)) = 8 * (lw.va + 8 * n - c.dst) + 8 * j + b := by
    omega
  have h512 : 64 * n + 8 * j + b < 512 := by omega
  have hlow : 8 * (lo - lw.va) ≤ 64 * n + 8 * j + b := by omega
  rw [hdata, Nat.testBit_mod_two_pow, Nat.testBit_mul_two_pow, Nat.testBit_div_two_pow, decide_eq_true h512, decide_eq_true hlow, Bool.true_and, Bool.true_and]
  rw [← hi] at hbefore ⊢
  exact testBit_packed_slice hw g hbefore

end

end Sys2Proof.Machine
end

section
/-! The data of the copy forms, read and written as events of their own (spec/09_copy_engine.md R278 to R282). -/

namespace Sys2Proof.Machine

open Claims

section
variable {s : State} {core k : Nat} {r : CopyRun}

/-- No line of a command has its data yet. -/
theorem nextLine_none (h : ∀ lw ∈ r.todo, r.cmd.feed.length < r.cmd.needs lw) : s.nextLine r = none := by
  refine List.find?_eq_none.2 fun lw hlw => ?_
  simp [Nat.not_le.2 (h lw hlw)]

/-- A copy form reads its next piece. -/
theorem copyLineWrite_reads {pa va n : Nat} (hr : mget? (s.copyAt core).active k = some r) (hst : r.stage = 0) (hl : ∀ lw ∈ r.todo, r.cmd.feed.length < r.cmd.needs lw)
    (hat : r.cmd.readAt r.cmd.feed.length = (va, n)) (hm : r.cmd.feed.length < r.cmd.readCount) (h : CanRead s r.cmd va pa) :
    s.copyLineWrite core k = s.putRun k { r with cmd := { r.cmd with feed := r.cmd.feed ++ [s.mem.read pa n] } } := by
  have hneed : r.cmd.nextRead = .need va n 0 := by
    simp [Cmd.nextRead, hat, hm]
  simp [State.copyLineWrite, hr, hst, nextLine_none hl, State.copyRead, State.feed_reads hneed h]

end

section
variable {s : State} {core k n w : Nat} {r : CopyRun} {lw : LineWrite} (h : LastPart s core k r lw n w) (hk : r.cmd.kind.isCulvert = false)
include h

theorem lastPart_isPart : IsPart n w := ⟨h.part.1, h.part.2.1⟩

include hk

theorem lastPart_oneLine : OneLine s core k r lw := ⟨h.runs, h.line.1, hk, ⟨h.read.1, h.read.2.1⟩, h.free⟩

/-- The last part of a command's line is written as the line's data says. -/
theorem lastWritten {v : Nat} (hv : ∀ j < w, BitVec.ofNat 8 ((r.cmd.lineData lw).1 / 2 ^ (64 * n) / 256 ^ j) = BitVec.ofNat 8 (v / 256 ^ j)) :
    ∃ t, exec (.copyLineWrite core k) s = .next t ∧ LastWritten s t core k r lw n w v := by
  have hrule : lw.fe = none ∨ lw.fe = some (decide (r.cmd.v = 1)) := by
    rw [h.line.2.2]
    unfold Cmd.fe
    by_cases h1 : r.cmd.v = 1
    · simp [h1]
    · by_cases h2 : r.cmd.v = 2 <;> simp [h1, h2]
  obtain ⟨t, ht, hw, hm, hown, hact⟩ := oneLine_last (lastPart_oneLine h hk) (lastPart_isPart h) h.part.2.2 hrule
  exact ⟨t, ht, written_congr hw hv, h.line.2.2 ▸ hm, hown, hact⟩

end

theorem copyData : CopyData := by
  intro s core k r
  refine ⟨?_, ?_, ?_⟩
  · intro e he pa hk hr hc hst hl hm _ _ hcan
    have hreads := copyLineWrite_reads hr hst hl (copyReads_at he hk r.cmd.feed.length) hm hcan
    refine ⟨_, congrArg Host.Outcome.next hreads, ?_⟩
    exact copyNow_putRun s k _ hc
  · intro e he lw n w hk h _ _ hi hlo hhi
    obtain ⟨hrow, hix, hcv, hfill, hv⟩ := wordForms_row he hk hi
    have hword (i : Nat) : r.cmd.wordAt lw i = r.cmd.feed.getD (e.2.2 r.cmd lw.row ((lw.va + 8 * i - e.2.1 r.cmd lw.row) / 8)) 0 := by
      simp [Cmd.wordAt, hfill, hrow, hix]
    refine lastWritten h hv fun j hj => ?_
    rw [lineData_part (lw := lw) hcv h.read.2.2 (lastPart_isPart h) (by rwa [hrow]) (by rwa [hrow]) hj, hword, hword]
  · intro lw n w sf df hk hsf hdf h _ hlo hhi
    refine lastWritten h (by simp [hk, CmdKind.isCulvert]) fun j hj => ?_
    exact lineData_converted hk hsf hdf (lastPart_isPart h) hlo hhi hj

end Sys2Proof.Machine
end

section
/-! The commands of the copy engine: arrival, start and completion (spec/09_copy_engine.md R276, R285, R286). -/

namespace Sys2Proof.Machine

open Claims

section
variable {s : State} {core : Nat} {c : Cmd}

/-- A command that reads nothing first reaches the intake. -/
theorem copyArrive_eq (hi : (s.copyAt core).intake = [c]) (hc : c.core = core) (ha : c.arrived = false) (hr : c.kind.readsFirst = false)
    (ht : (s.basinAt (coreBasin c.core)).traces = []) (hh : s.commandHeld core c.slot c.seq c.lsid = false) :
    s.copyArrive core = s.setCopy core { s.copyAt core with intake := [{ c with arrived := true }] } := by
  subst hc
  have hfirst : arriveFirst [c] = some ({ c with arrived := true }, [{ c with arrived := true }]) := by simp [arriveFirst, ha]
  have htrace (u : CopyEng) : (s.setCopy c.core u).traceCmd { c with arrived := true } = s.setCopy c.core u := State.traceCmd_untraced ht
  simp [State.copyArrive, hi, hfirst, hh, hr, State.copyArrived, htrace]

theorem copyArrival (hi : (s.copyAt core).intake = [c]) (hc : c.core = core) (ha : c.arrived = false) (hs : c.kind ≠ .scat) (hd : c.kind.isDesc = false)
    (ht : (s.basinAt (coreBasin c.core)).traces = []) (hh : s.commandHeld core c.slot c.seq c.lsid = false) :
    ∃ t, exec (.copyIntakeArrival core) s = .next t ∧ CopyNow s t core { s.copyAt core with intake := [{ c with arrived := true }] } := by
  have hr : c.kind.readsFirst = false := by
    cases hk : c.kind <;> simp [hk, CmdKind.isDesc, CmdKind.readsFirst] at hs hd ⊢
  exact ⟨_, congrArg Host.Outcome.next (copyArrive_eq hi hc ha hr ht hh), copyNow_setCopy ..⟩

/-! ### Start (R285) -/

theorem copyStart_direct {l : List Cmd} (hi : (s.copyAt core).intake = c :: l) (ha : c.arrived = true) (hk : c.kind ≠ .ctask) (hd : s.threadDone c = true)
    (ht : (s.copyAt core).tasks = []) (hm : (s.copyAt core).active = []) :
    s.copyStart core = (s.setCopy core { s.copyAt core with intake := l }).copyBegin c false 0 := by
  have hhead : s.copyHead core = some c := by simp [State.copyHead, hi, ha, hd, hk]
  have hfree : (s.copyAt core).freeEntry = some 0 := by
    unfold CopyEng.freeEntry
    rw [hm]
    rfl
  simp [State.copyStart, hhead, hfree, ht, hk, hi]

/-- An engine with no command under way has no entry to clear. -/
theorem mdel_idle {m : CopyEng} (h : m.active = []) : { m with active := mdel m.active 0 } = m := by
  cases m
  cases h
  rfl

/-- A command begun by its thread: its entry is the one of its core, and memory stands. -/
theorem copyBegin_direct (hc : c.core = core) (hm : (s.copyAt core).active = []) (hchk : s.copyCheck c = none) (hz : c.copyZero = false) (he : s.mem.errs = []) :
    ∃ todo, ((s.copyBegin c false 0).copyAt core = { s.copyAt core with active := [(0, { cmd := c, todo := todo })] }) ∧ (s.copyBegin c false 0).mem = s.mem := by
  subst hc
  have hcleared := mdel_idle hm
  let u := s.setCopy c.core (s.copyAt c.core)
  let v := if c.offWafer then (u.copyLines c c.fe).2 else (u.copyLines c c.fe).2.askLines c ((u.copyLines c c.fe).1.mergeSort fun a b => decide (a.va ≤ b.va))
  have hchk' : u.copyCheck c = none := hchk
  have hu : u.copyAt c.core = s.copyAt c.core := State.setCopy_copyAt_same ..
  have hlines := asked_copyLines u c c.fe
  have hmem : (u.copyLines c c.fe).2.mem = s.mem := (sameSound_copyLines u c c.fe).sound he
  have hv : v.copyAt c.core = s.copyAt c.core ∧ v.mem = s.mem := by
    unfold v
    split
    · exact ⟨(congrArg (fun m => mget m c.core ({} : CopyEng)) hlines.engines.2.1).trans hu, hmem⟩
    · have hasked := hlines.trans (asked_askLines c ((u.copyLines c c.fe).1.mergeSort fun a b => decide (a.va ≤ b.va)) _)
      exact ⟨(congrArg (fun m => mget m c.core ({} : CopyEng)) hasked.engines.2.1).trans hu, (askLines_mem ..).trans hmem⟩
  have hb : s.copyBegin c false 0 = v.setCopy c.core { v.copyAt c.core with active := mput (v.copyAt c.core).active 0 { cmd := c, todo := (u.copyLines c c.fe).1 } } := by
    unfold State.copyBegin
    simp only [hcleared]
    simp [u, v, hchk', hz]
  refine ⟨(u.copyLines c c.fe).1, ?_, ?_⟩
  · rw [hb, State.setCopy_copyAt_same, hv.1, hm]
    rfl
  · rw [hb]
    exact hv.2

theorem copyStarts {l : List Cmd} (hi : (s.copyAt core).intake = c :: l) (hc : c.core = core) (ha : c.arrived = true) (hk : c.kind ≠ .ctask) (hd : s.threadDone c = true)
    (ht : (s.copyAt core).tasks = []) (hm : (s.copyAt core).active = []) (hchk : s.copyCheck c = none) (hz : c.copyZero = false) (he : s.mem.errs = []) :
    ∃ t r, exec (.copyCommandStart core) s = .next t ∧ t.copyAt core = { s.copyAt core with intake := l, active := [(0, r)] } ∧ r.cmd = c ∧ r.stage = 0 ∧
      r.task = false ∧ t.mem = s.mem := by
  have hu : (s.setCopy core { s.copyAt core with intake := l }).copyAt core = { s.copyAt core with intake := l } := State.setCopy_copyAt_same ..
  obtain ⟨todo, hcopy, hmem⟩ := copyBegin_direct (s := s.setCopy core { s.copyAt core with intake := l }) hc (by rw [hu]; exact hm) hchk hz he
  rw [hu] at hcopy
  exact ⟨_, _, congrArg Host.Outcome.next (copyStart_direct hi ha hk hd ht hm), hcopy, rfl, rfl, rfl, hmem⟩

/-! ### Completion (R134) -/

variable {k : Nat} {r : CopyRun}

/-- A command other than a transfer that has nothing left to read or write completes. -/
theorem copyCompletes (hr : mget? (s.copyAt core).active k = some r) (hc : r.cmd.core = core) (hk : r.cmd.kind.isCulvert = false) (hst : r.stage = 0) (ht : r.todo = [])
    (ho : r.out = []) (hf : r.cmd.readCount ≤ r.cmd.feed.length) (hb : r.bad = none) (hp : r.cmd.rp = false) :
    ∃ t u, exec (.copyCommandComplete core k) s = .next t ∧ CopyNow s u core { s.copyAt core with active := mdel (s.copyAt core).active k } ∧ TagFalls u t core r.cmd.tag := by
  have hkinds : r.cmd.kind ≠ .pghand ∧ r.cmd.kind ≠ .culv := by
    constructor <;> (intro h; simp [h, CmdKind.isCulvert] at hk)
  let u := s.setCopy core { s.copyAt core with active := mdel (s.copyAt core).active k }
  have hdone : s.copyComplete core k = u.tagDown core r.cmd.tag := by
    simp [State.copyComplete, hr, hkinds, hst, ht, ho, hf, hb, State.cmdDone_eq _ hp, hc, u]
  exact ⟨_, u, congrArg Host.Outcome.next hdone, copyNow_setCopy .., tagFalls_tagDown ..⟩

end

end Sys2Proof.Machine
end

section
/-! FILL: its lines, written 16 bytes at a time (spec/04_ordering.md R114, R131; spec/09_copy_engine.md R286). -/

namespace Sys2Proof.Machine

open Claims

section
variable {s : State} {core k : Nat} {r : CopyRun} {lw : LineWrite}

/-- A line that lies within a FILL holds its word throughout. -/
theorem lineData_fill {c : Cmd} (hk : c.kind = .fill) (hlo : c.dst ≤ lw.va) (hhi : lw.va + 64 ≤ c.dst + c.len) {n j : Nat} (hp : IsPart n 16) (hj : j < 16) :
    BitVec.ofNat 8 ((c.lineData lw).1 / 2 ^ (64 * n) / 256 ^ j) = BitVec.ofNat 8 (packed [(c.xarg, 0), (c.xarg, 64)] / 256 ^ j) := by
  have hx : c.xarg < 2 ^ 64 := Nat.mod_lt _ (by decide)
  have hrow : c.rowSpan lw.row = (c.dst, c.len) := by simp [Cmd.rowSpan, hk]
  have hword (i : Nat) : c.wordAt lw i = c.xarg := if_pos hk
  have hin (i : Nat) (hi : i < 8) : (if c.outside lw i then 0 else c.wordAt lw i) = c.xarg := by
    have hout : c.outside lw i = false := by
      simp only [Cmd.outside, hrow, Bool.or_eq_false_iff, decide_eq_false_iff_not]
      omega
    simp [hout, hword]
  have hfit (i : Nat) : (if c.outside lw i then 0 else c.wordAt lw i) < 2 ^ 64 := by
    split
    · decide
    · rwa [hword]
  have hpair : packed [(c.xarg, 0), (c.xarg, 64)] = c.xarg + 2 ^ 64 * c.xarg := by
    simp only [packed_cons, packed_nil]
    omega
  obtain ⟨-, hle⟩ := id hp
  rw [lineData_words (by simp [hk]), hpair]
  exact byte_of_words hfit hp (hin n (by omega)) (fun _ => hin (n + 1) (by omega)) hx hj

/-- The words of 16 bytes of a line, as FILL marks them. -/
theorem fill_marks {fe : Option Bool} {v line n : Nat} (h : fe = if v = 0 then none else some (decide (v = 1))) :
    (if fe = none then [] else (List.range (16 / 8)).map (8 * line + n + ·)) = if v = 0 then [] else [8 * line + n, 8 * line + n + 1] := by
  by_cases hv : v = 0
  · simp [h, hv]
  · simp only [h, if_neg hv, reduceCtorEq, if_false]
    rfl

theorem fill_rule {fe : Option Bool} {v : Nat} (h : fe = if v = 0 then none else some (decide (v = 1))) : fe = none ∨ fe = some (decide (v = 1)) := by
  by_cases hv : v = 0
  · exact .inl (by rw [h, if_pos hv])
  · exact .inr (by rw [h, if_neg hv])

/-- The one line left of a FILL is the one to write. -/
theorem oneLine_fill (hr : mget? (s.copyAt core).active k = some r) (hc : r.cmd.core = core) (hst : r.stage = 0) (ho : r.out = []) (ht : r.todo = [lw]) (hb : lw.bad = none)
    (hk : r.cmd.kind = .fill)
    (hf : s.lineReady r.cmd.id lw = true ∧ s.retiredHome (64 * lw.line) = false ∧ (∀ e ∈ s.resv, e.1 / 8 ≠ lw.line) ∧ s.waitq = [] ∧ s.mem.errs = []) :
    OneLine s core k r lw where
  runs := ⟨hr, hc, hst, ho, ht⟩
  line := hb
  kind := by simp [hk, CmdKind.isCulvert]
  read := by simp [Cmd.readCount, Cmd.needs, hk]
  free := hf

/-- From s to t 16 bytes of a line of a FILL, the j-th, have been written with its word, and their words marked by the rule of its variant. -/
def Filled (s t : State) (c : Cmd) (line j : Nat) : Prop :=
  Written s.mem t.mem (64 * line + 16 * j) 16 (packed [(c.xarg, 0), (c.xarg, 64)]) 0 ∧
    Marked s.mem t.mem (if c.v = 0 then [] else [8 * line + 2 * j, 8 * line + 2 * j + 1]) (decide (c.v = 1))

section
variable (h : OneLine s core k r lw) (hk : r.cmd.kind = .fill) (hlo : r.cmd.dst ≤ lw.va) (hhi : lw.va + 64 ≤ r.cmd.dst + r.cmd.len)
  (hfe : lw.fe = if r.cmd.v = 0 then none else some (decide (r.cmd.v = 1)))
include hk hlo hhi hfe

theorem filled {t : State} {j : Nat} (hj : j < 4) (hw : Written s.mem t.mem (64 * lw.line + 8 * (2 * j)) 16 ((r.cmd.lineData lw).1 / 2 ^ (64 * (2 * j))) 0)
    (hm : Marked s.mem t.mem (if lw.fe = none then [] else (List.range (16 / 8)).map (8 * lw.line + 2 * j + ·)) (decide (r.cmd.v = 1))) : Filled s t r.cmd lw.line j := by
  have hp : IsPart (2 * j) 16 := ⟨.inr ⟨rfl, by omega⟩, by omega⟩
  refine ⟨?_, fill_marks hfe ▸ hm⟩
  rw [show 16 * j = 8 * (2 * j) by omega]
  exact written_congr hw fun i hi => lineData_fill hk hlo hhi hp hi

include h

theorem fill_first (hm : lw.mask = 2 ^ 64 - 1) :
    ∃ t j, exec (.copyLineWrite core k) s = .next t ∧ j < 4 ∧ Filled s t r.cmd lw.line j ∧
      t.owned = s.owned.map (fun o => if decide (o.line = lw.line) && decide (o.cmd = r.cmd.id) then { o with wrote := Nat.lor o.wrote (2 ^ j) } else o) ∧
      mget? (t.copyAt core).active k = some { r with todo := [{ lw with mask := 2 ^ 64 - 1 - 65535 * 2 ^ (16 * j) }], bdone := r.bdone + 16 } := by
  obtain ⟨t, j, ht, hj, hw, hmark, hown, hact⟩ := oneLine_first h hm (fill_rule hfe)
  exact ⟨t, j, ht, hj, filled hk hlo hhi hfe hj hw hmark, hown, hact⟩

theorem fill_last {j : Nat} (hj : j < 4) (hm : lw.mask = 65535 * 2 ^ (16 * j)) :
    ∃ t, exec (.copyLineWrite core k) s = .next t ∧ Filled s t r.cmd lw.line j ∧
      t.owned = s.owned.filter (fun o => !(decide (o.line = lw.line) && decide (o.cmd = r.cmd.id))) ∧
      mget? (t.copyAt core).active k = some { r with todo := [], bdone := r.bdone + 16 } := by
  have hp : IsPart (2 * j) 16 := ⟨.inr ⟨rfl, by omega⟩, by omega⟩
  have hpart : lw.mask = partMask (2 * j) 16 := by
    rw [hm, partMask, show 8 * (2 * j) = 16 * j by omega]
    rfl
  obtain ⟨t, ht, hw, hmark, hown, hact⟩ := oneLine_last h hp hpart (fill_rule hfe)
  exact ⟨t, ht, filled hk hlo hhi hfe hj hw hmark, hown, hact⟩

end

end

end Sys2Proof.Machine
end

section
/-! Transfers off a core: the flag of a culvert, the release of a page handover, and what outlasts its limit (spec/09_copy_engine.md R290 to R292). -/

namespace Sys2Proof.Machine

open Claims

section
variable {s : State} {core k pa va stage cause : Nat} {r : CopyRun} {v : W64}

/-! ### A POST of an engine -/

/-- Nothing is in the way of a POST of an engine at its home. -/
def PostFree (s : State) (pa : Nat) : Prop :=
  s.waferRefuse pa = none ∧ s.retiredHome pa = false ∧ (∀ o ∈ s.owned, o.line ≠ pa / 64) ∧ ∀ e ∈ s.resv, e.1 ≠ pa / 8

/-- Its word is written, and left full. -/
theorem enginePost_eq (h : PostFree s pa) (hw : s.waitq = []) (he : s.mem.errs = []) :
    s.enginePost pa v = some (.ok { s with mem := (s.mem.write pa v.toNat 0 8).setFull (pa / 8) true }) := by
  obtain ⟨hr, hh, ho, hres⟩ := h
  have howned : (s.owned.any fun o => decide (o.line = lineOf pa)) = false :=
    List.any_eq_false.2 fun o h => mt of_decide_eq_true (ho o h)
  have hreserved : (s.resv.any fun e => decide (e.1 = wordOf pa)) = false :=
    List.any_eq_false.2 fun e h => mt of_decide_eq_true (hres e h)
  have hret (m : Memory) : ({ s with mem := m } : State).retestAll [wordOf pa] = { s with mem := m } := by
    refine State.retestAll_of_noWaiters _ ?_ _
    exact hw
  simp only [State.enginePost, hr, hh, howned, hreserved, State.correct_of_noErrs s he, State.heal_of_noErrs he, Bool.or_self, Bool.false_eq_true, if_false]
  exact congrArg (fun u => some (Except.ok u)) (hret _)

/-- A transfer that has nothing under way sends its POST. -/
theorem culvPost_sends (hc : r.cmd.core = core) (ho : r.out = []) :
    CopyNow { s with nextId := s.nextId + 1 } (s.culvPost k r stage pa va v cause) core
      { s.copyAt core with active := mput (s.copyAt core).active k { r with stage := stage, out := [⟨s.nextId, va, s.time, 0⟩] } } := by
  have hsends : s.culvPost k r stage pa va v cause = s.bump.putRun k { r with stage := stage, out := [⟨s.nextId, va, s.time, 0⟩] } := by
    simp [State.culvPost, ho]
  rw [hsends]
  exact copyNow_putRun s.bump k _ hc

/-- From s to t the word at an address has been written and left full, and the run of an entry has nothing under way. -/
def Posted (s t : State) (core k : Nat) (r : CopyRun) (pa : Nat) (v : W64) : Prop :=
  Written s.mem t.mem pa 8 v.toNat 0 ∧ Marked s.mem t.mem [pa / 8] true ∧ mget? (t.copyAt core).active k = some { r with out := [] }

/-- A POST that has been sent performs at its home. -/
theorem culvPost_performs {w : Sent} (hc : r.cmd.core = core) (ho : r.out = [w]) (hs : stage = 1 → s.comes w = true) (h : PostFree s pa) (hw : s.waitq = []) (he : s.mem.errs = []) :
    Posted s (s.culvPost k r stage pa va v cause) core k r pa v := by
  let u : State := { s with mem := (s.mem.write pa v.toNat 0 8).setFull (pa / 8) true }
  have hperforms : s.culvPost k r stage pa va v cause = u.putRun k { r with out := [] } := by
    by_cases h1 : stage = 1
    · simp [State.culvPost, ho, hs h1, enginePost_eq h hw he, u]
    · simp [State.culvPost, ho, h1, enginePost_eq h hw he, u]
  rw [hperforms]
  refine ⟨written_write s.mem pa v.toNat 0 8, fun x => ?_, State.putRun_active u k _ hc⟩
  exact (marked_setFull (s.mem.write pa v.toNat 0 8) (pa / 8) true x).trans (if_congr Iff.rfl rfl (Memory.full_write ..))

/-! ### The flag and the release -/

theorem culvertDataAck_posts (hr : mget? (s.copyAt core).active k = some r) (hk : r.cmd.kind.isCulvert = true) (hf : r.cmd.culvFlag ≠ 0) (hs : paSpace r.cmd.culvFlag = 0)
    (hst : r.stage = 0 ∧ r.todo = [] ∧ r.out = [] ∧ r.cmd.readCount ≤ r.cmd.feed.length ∨ r.stage = 1 ∧ r.out ≠ []) :
    s.culvertDataAck core k = s.culvPost k r 1 (s.redirect r.cmd.culvFlag) r.cmd.culvFlag (r.cmd.desc.getD 4 0#64) 0x56 := by
  rcases hst with ⟨h0, ht, ho, hread⟩ | ⟨h1, ho⟩
  · simp [State.culvertDataAck, hr, hk, hf, hs, h0, ht, ho, hread]
  · simp [State.culvertDataAck, hr, hk, hf, hs, h1, ho]

theorem pghandFlagAck_posts (hr : mget? (s.copyAt core).active k = some r) (hk : r.cmd.kind = .pghand) (hx : s.engineXl r.cmd.sp (r.cmd.dw 5 47 0) .write = (.ok pa, s))
    (hst : r.stage = 1 ∧ r.out = [] ∨ r.stage = 2 ∧ r.out ≠ []) :
    s.pghandFlagAck core k = s.culvPost k r 2 pa (r.cmd.dw 5 47 0) (r.cmd.desc.getD 6 0#64) 0x52 := by
  rcases hst with ⟨h1, ho⟩ | ⟨h2, ho⟩
  · simp [State.pghandFlagAck, hr, hk, hx, h1, ho]
  · simp [State.pghandFlagAck, hr, hk, hx, h2, ho]

/-- The flag of a transfer is sent once its data is acknowledged, and then posted at its home (R290). -/
theorem culvertFlag (hr : mget? (s.copyAt core).active k = some r) (hc : r.cmd.core = core) (hk : r.cmd.kind = .culv ∨ r.cmd.kind = .pghand) (hf : r.cmd.culvFlag ≠ 0)
    (hs : paSpace r.cmd.culvFlag = 0) (hw : s.waitq = []) (he : s.mem.errs = []) :
    (r.stage = 0 → r.todo = [] → r.out = [] → r.cmd.readCount ≤ r.cmd.feed.length → ∃ t, exec (.culvertDataAck core k) s = .next t ∧
      CopyNow { s with nextId := s.nextId + 1 } t core { s.copyAt core with
        active := mput (s.copyAt core).active k { r with stage := 1, out := [⟨s.nextId, r.cmd.culvFlag, s.time, 0⟩] } }) ∧
      ∀ w, r.stage = 1 → r.out = [w] → s.comes w = true → s.redirect r.cmd.culvFlag = r.cmd.culvFlag → PostFree s r.cmd.culvFlag →
        ∃ t, exec (.culvertDataAck core k) s = .next t ∧ Posted s t core k r r.cmd.culvFlag (r.cmd.desc.getD 4 0#64) := by
  have hcul : r.cmd.kind.isCulvert = true := by
    rcases hk with hk | hk <;> rw [hk] <;> rfl
  refine ⟨fun hst ht ho hread => ?_, fun w hst ho hcome hred hfree => ?_⟩
  · have hsends := culvertDataAck_posts hr hcul hf hs (.inl ⟨hst, ht, ho, hread⟩)
    exact ⟨_, congrArg Host.Outcome.next hsends, culvPost_sends hc ho⟩
  · have hposts := culvertDataAck_posts hr hcul hf hs (.inr ⟨hst, by simp [ho]⟩)
    rw [hred] at hposts
    exact ⟨_, congrArg Host.Outcome.next hposts, culvPost_performs hc ho (fun _ => hcome) hfree hw he⟩

/-- The release of a page handover is sent once its flag is acknowledged, and then posted at its home (R291). -/
theorem pghandRelease (hr : mget? (s.copyAt core).active k = some r) (hc : r.cmd.core = core) (hk : r.cmd.kind = .pghand)
    (hx : s.engineXl r.cmd.sp (r.cmd.dw 5 47 0) .write = (.ok pa, s)) (hw : s.waitq = []) (he : s.mem.errs = []) :
    (r.stage = 1 → r.out = [] → ∃ t, exec (.pghandFlagAck core k) s = .next t ∧ CopyNow { s with nextId := s.nextId + 1 } t core { s.copyAt core with
        active := mput (s.copyAt core).active k { r with stage := 2, out := [⟨s.nextId, r.cmd.dw 5 47 0, s.time, 0⟩] } }) ∧
      ∀ w, r.stage = 2 → r.out = [w] → PostFree s pa → ∃ t, exec (.pghandFlagAck core k) s = .next t ∧ Posted s t core k r pa (r.cmd.desc.getD 6 0#64) := by
  refine ⟨fun hst ho => ?_, fun w hst ho hfree => ?_⟩
  · exact ⟨_, congrArg Host.Outcome.next (pghandFlagAck_posts hr hk hx (.inl ⟨hst, ho⟩)), culvPost_sends hc ho⟩
  · have hposts := pghandFlagAck_posts hr hk hx (.inr ⟨hst, by simp [ho]⟩)
    exact ⟨_, congrArg Host.Outcome.next hposts, culvPost_performs hc ho (fun h => absurd h (by decide)) hfree hw he⟩

/-! ### An acknowledgement that outlasts CLIM -/

/-- A failing command leaves its engine: the cause, the address and what it had done stand there, and none of its entries (R298, R299). -/
theorem copyFault_copyAt (hw : s.waitq = []) (r : CopyRun) (cause sub va stage : Nat) (flagq : Bool) :
    let m := s.copyAt r.cmd.core
    (s.copyFault r cause sub va stage flagq).copyAt r.cmd.core = { m with
      active := m.active.filter fun e => decide (e.2.cmd.id ≠ r.cmd.id)
      cause := cause, faddr := va % 2 ^ 48
      fthread := coreSite r.cmd.core + coreNum r.cmd.core * 2 ^ 9 + r.cmd.slot % 8 * 2 ^ 13
      taskf := r.task || decide (8 ≤ r.cmd.slot), ftag := r.cmd.faultTag, sub := sub, stage := stage, flagq := flagq, bdone := r.bdone } := by
  unfold State.copyFault
  refine ((sameEngines_reportFault ..).copyAt _).trans (((sameEngines_cmdDone ..).copyAt _).trans ?_)
  rw [State.releaseLines_eq (by exact hw)]
  exact State.setCopy_copyAt_same ..

theorem culvertExpires {w : Sent} (hr : mget? (s.copyAt core).active k = some r) (hc : r.cmd.core = core) (hst : r.stage = 1) (ho : r.out = [w]) (hv : w.va < 2 ^ 48)
    (hlate : w.sentAt + (s.copyAt core).clim * 1000 < s.time) (hl : ∀ e ∈ s.links, e.2.waiting = []) (hw : s.waitq = []) :
    ∃ t, exec (.culvertLimitExpiry core k) s = .next t ∧ (t.copyAt core).cause = 0x57 ∧ (t.copyAt core).flagq = true ∧ (t.copyAt core).faddr = w.va ∧
      ∀ e ∈ (t.copyAt core).active, e.2.cmd.id ≠ r.cmd.id := by
  subst hc
  have hgone : s.flagGone w = true := by
    simp only [State.flagGone, Bool.not_eq_true', List.any_eq_false]
    intro e he
    simp [hl e he]
  have hfault : s.culvertExpiry r.cmd.core k = s.copyFault r 0x57 0 w.va 1 true := by
    simp [State.culvertExpiry, hr, ho, hlate, hst, hgone]
  have hm := copyFault_copyAt hw r 0x57 0 w.va 1 true
  refine ⟨_, congrArg Host.Outcome.next hfault, ?_⟩
  rw [hm]
  refine ⟨rfl, rfl, Nat.mod_eq_of_lt hv, fun e he => ?_⟩
  exact of_decide_eq_true (List.mem_filter.1 he).2

end

/-! ### The engine -/

theorem copyCommands : CopyCommands := by
  intro s core
  refine ⟨?_, ?_, ?_, ?_, ?_, ?_, ?_⟩
  · exact fun c hi hc ha hs hd ht hh => copyArrival hi hc ha hs hd ht hh
  · exact fun c l hi hc ha hk hd ht hm hchk hz he => copyStarts hi hc ha hk hd ht hm hchk hz he
  · intro k r lw hr hc hst ho ht hb hk _ hlo hhi _ hfe _ hready hhome hresv hw he
    have hone := oneLine_fill hr hc hst ho ht hb hk ⟨hready, hhome, hresv, hw, he⟩
    exact ⟨fill_first hone hk hlo hhi hfe, fun j hj hm => fill_last hone hk hlo hhi hfe hj hm⟩
  · exact fun k r hr hc hk hst ht ho hf hb hp => copyCompletes hr hc hk hst ht ho hf hb hp
  · intro k r hr hc hw he
    refine ⟨fun hk hf hs => ?_, fun hk pa hx => ?_⟩
    · exact culvertFlag hr hc hk hf hs hw he
    · exact pghandRelease hr hc hk hx hw he
  · exact fun k r w hr hc _ hst ho hv hlate hl hw => culvertExpires hr hc hst ho hv hlate hl hw
  · exact ⟨_, rfl, copyNow_setCopy ..⟩

/-- Settles O38: its commands one clause per event, its data from what a part of a line holds. -/
theorem copyEvents : Obligations.CopyEvents := ⟨copyCommands, copyData⟩

end Sys2Proof.Machine
end

section
/-! The scalar functions of the block engine are those of Tables 5-2 to 5-4 (spec/05_block_engine.md R164 to R166). -/

namespace Sys2Proof.Machine

open Claims

/-! ### Words from integers -/

theorem wrap64_natCast (n : Nat) : wrap64 (n : Int) = BitVec.ofNat 64 n := BitVec.ofInt_natCast ..

@[simp] theorem wrap64_toNat (a : W64) : wrap64 (a.toNat : Int) = a := by rw [wrap64_natCast, BitVec.ofNat_toNat, BitVec.setWidth_eq]

@[simp] theorem wrap64_toInt (a : W64) : wrap64 a.toInt = a := BitVec.ofInt_toInt

theorem wrap64_add (x y : Int) : wrap64 (x + y) = wrap64 x + wrap64 y := BitVec.ofInt_add ..

theorem wrap64_mul (x y : Int) : wrap64 (x * y) = wrap64 x * wrap64 y := BitVec.ofInt_mul ..

theorem wrap64_sub (x y : Int) : wrap64 (x - y) = wrap64 x - wrap64 y := by
  rw [eq_sub_iff_add_eq, ← wrap64_add, sub_add_cancel]

theorem wrap64_ite (p : Prop) [Decidable p] (x y : Int) : wrap64 (if p then x else y) = if p then wrap64 x else wrap64 y := apply_ite ..

/-! ### Two operands -/

theorem fShl_eq (a b : W64) : fShl a b = wrap64 (a.toNat * 2 ^ (b.toNat % 64)) := by
  rw [wrap64_mul, wrap64_toNat, fShl, BitVec.shiftLeft_eq_mul_twoPow]
  refine congrArg (a * ·) (BitVec.eq_of_toNat_eq ?_)
  rw [show ((2 : Int) ^ (b.toNat % 64)) = ((2 ^ (b.toNat % 64) : Nat) : Int) by norm_cast, wrap64_natCast]
  simp [BitVec.toNat_twoPow]

theorem fShrn_eq (a b : W64) : fShrn a b = wrap64 (a.toNat / 2 ^ (b.toNat % 64)) := by
  rw [show ((a.toNat : Int) / 2 ^ (b.toNat % 64)) = ((a.toNat / 2 ^ (b.toNat % 64) : Nat) : Int) by norm_cast, wrap64_natCast]
  refine BitVec.eq_of_toNat_eq ?_
  rw [fShrn, BitVec.toNat_ushiftRight, Nat.shiftRight_eq_div_pow, BitVec.toNat_ofNat, Nat.mod_eq_of_lt (lt_of_le_of_lt (Nat.div_le_self ..) a.isLt)]

theorem fShrs_eq (a b : W64) : fShrs a b = wrap64 (a.toInt / 2 ^ (b.toNat % 64)) := by
  rw [fShrs, BitVec.sshiftRight, Int.shiftRight_eq_div_pow]
  norm_cast

theorem fRotl_eq (a b : W64) : fRotl a b = a <<< (b.toNat % 64) ||| a >>> (64 - b.toNat % 64) := by
  rw [fRotl, BitVec.rotateLeft_def, Nat.mod_mod]

theorem fMins_eq (a b : W64) : fMins a b = wrap64 (min a.toInt b.toInt) := by rw [min_def, wrap64_ite]; simp [fMins]

theorem fMaxs_eq (a b : W64) : fMaxs a b = wrap64 (max a.toInt b.toInt) := by rw [max_comm, max_def, wrap64_ite]; simp [fMaxs]

theorem fMinn_eq (a b : W64) : fMinn a b = wrap64 (min a.toNat b.toNat : Nat) := by
  rw [min_def, wrap64_natCast, apply_ite (BitVec.ofNat 64)]; simp [fMinn]

theorem fMaxn_eq (a b : W64) : fMaxn a b = wrap64 (max a.toNat b.toNat : Nat) := by
  rw [max_comm, max_def, wrap64_natCast, apply_ite (BitVec.ofNat 64)]; simp [fMaxn]

theorem fMulhn_eq (a b : W64) : fMulhn a b = wrap64 (a.toNat * b.toNat / 2 ^ 64) := by
  rw [fMulhn, ← wrap64_natCast]
  norm_cast

/-! ### Divisions -/

theorem toInt_eq_zero_iff (b : W64) : b.toInt = 0 ↔ b = 0#64 := by rw [← BitVec.toInt_zero (w := 64), BitVec.toInt_inj]

/-- The quotient of −2^63 by −1 is −2^63 again. -/
theorem fDivs_eq (a b : W64) : fDivs a b = if b.toInt = 0 then 0xFFFFFFFFFFFFFFFF#64 else if a.toInt = -2 ^ 63 ∧ b.toInt = -1 then wrap64 a.toInt
    else wrap64 (a.toInt.tdiv b.toInt) := by
  rw [fDivs, if_congr (toInt_eq_zero_iff b).symm rfl rfl]
  refine if_congr Iff.rfl rfl ?_
  split_ifs with h
  · rw [h.1, h.2]
    decide
  · rfl

theorem fRems_eq (a b : W64) : fRems a b = if b.toInt = 0 then wrap64 a.toInt else if a.toInt = -2 ^ 63 ∧ b.toInt = -1 then 0#64
    else wrap64 (a.toInt - b.toInt * a.toInt.tdiv b.toInt) := by
  rw [fRems, if_congr (toInt_eq_zero_iff b).symm rfl rfl, wrap64_toInt, Int.tmod_def]
  refine if_congr Iff.rfl rfl ?_
  split_ifs with h
  · rw [h.1, h.2]
    decide
  · rfl

theorem toNat_eq_zero_iff (b : W64) : b.toNat = 0 ↔ b = 0#64 := BitVec.toNat_inj (y := 0#64)

theorem fDivn_eq (a b : W64) : fDivn a b = if b.toNat = 0 then 0xFFFFFFFFFFFFFFFF#64 else wrap64 (a.toNat / b.toNat) := by
  rw [fDivn, if_congr (toNat_eq_zero_iff b).symm rfl rfl, ← wrap64_natCast]
  norm_cast

theorem fRemn_eq (a b : W64) : fRemn a b = if b.toNat = 0 then a else wrap64 (a.toNat % b.toNat) := by
  rw [fRemn, if_congr (toNat_eq_zero_iff b).symm rfl rfl, ← wrap64_natCast]
  norm_cast

/-! ### One operand -/

theorem wrap64_neg_toInt (a : W64) : wrap64 (-a.toInt) = -a := by rw [wrap64, BitVec.ofInt_neg, BitVec.ofInt_toInt]

theorem fAbs_eq (a : W64) : fAbs a = wrap64 a.toInt.natAbs := by
  rw [Int.natCast_natAbs, abs_eq_max_neg, fAbs]
  split_ifs with h
  · rw [max_eq_right (by omega), wrap64_neg_toInt]
  · rw [max_eq_left (by omega), wrap64_toInt]

/-- The bits of a number's low part, counted from its lowest. -/
theorem popcount_eq (x n : Nat) : popcount x n = (List.range n).countP fun i => x.testBit i := by
  induction n generalizing x with
  | zero => rfl
  | succ n ih =>
    rw [popcount, ih, List.range_succ_eq_map, List.countP_cons, List.countP_map, Nat.add_comm]
    simp [Function.comp_def, Nat.testBit_succ]
    rcases Nat.mod_two_eq_zero_or_one x with h | h <;> simp [h]

theorem ctzAux_eq (x n : Nat) : ctzAux x n = ((List.range n).find? fun i => x.testBit i).getD n := by
  induction n generalizing x with
  | zero => rfl
  | succ n ih =>
    rw [ctzAux, ih, List.range_succ_eq_map, List.find?_cons, List.find?_map]
    rcases Nat.mod_two_eq_zero_or_one x with h | h
    · simp [h, Nat.testBit_succ, Option.getD_map]
    · simp [h]

theorem fPopc_eq (a : W64) : fPopc a = wrap64 ((List.range 64).countP fun i => a.getLsbD i) := by
  rw [fPopc, popcount_eq, wrap64_natCast]
  rfl

theorem fCtz_eq (a : W64) : fCtz a = wrap64 (((List.range 64).find? fun i => a.getLsbD i).getD 64) := by
  rw [fCtz, ctzAux_eq, wrap64_natCast]
  rfl

/-- Of the bits of a number that is not zero, from the highest down, the first that is set is bit log2. -/
theorem fClz_eq (a : W64) : fClz a = wrap64 (((List.range 64).find? fun i => a.getLsbD (63 - i)).getD 64) := by
  rw [fClz, wrap64_natCast]
  congr 1
  split_ifs with h
  · subst h
    decide
  · have h0 : a.toNat ≠ 0 := fun e => h ((toNat_eq_zero_iff a).1 e)
    have hlog : a.toNat.log2 < 64 := (Nat.log2_lt h0).2 a.isLt
    have hfind : (List.range 64).find? (fun i => a.getLsbD (63 - i)) = some (63 - a.toNat.log2) := by
      refine List.find?_range_eq_some.2 ⟨?_, List.mem_range.2 (by omega), fun j hj => ?_⟩
      · rw [show 63 - (63 - a.toNat.log2) = a.toNat.log2 by omega]
        exact Nat.testBit_log2 h0
      · rw [Bool.not_eq_true']
        exact Nat.testBit_lt_two_pow ((Nat.log2_lt h0).1 (by omega))
    rw [hfind]
    rfl

theorem fExtn_eq (n : Nat) (a : W64) : fExtn n a = wrap64 ((a.toNat % 2 ^ n : Nat) : Int) := by
  rw [wrap64_natCast]
  refine BitVec.eq_of_toNat_eq ?_
  simp [fExtn]

/-! ### Immediates -/

/-- An immediate of at most 63 shifts as it stands (R165). -/
theorem setWidth_mod64 {i : BitVec 14} (h : i.toNat ≤ 63) : (i.setWidth 64).toNat % 64 = i.toNat := by
  rw [BitVec.toNat_setWidth, Nat.mod_eq_of_lt (lt_trans i.isLt (by norm_num)), Nat.mod_eq_of_lt (by omega)]

/-- APPI puts its immediate below the bits of its operand. -/
theorem append14_eq (a : W64) (i : BitVec 14) : a <<< 14 ||| i.setWidth 64 = wrap64 (a.toNat * 2 ^ 14 + i.toNat) := by
  have hz : (a <<< 14) &&& i.setWidth 64 = 0#64 := by
    refine BitVec.eq_of_getLsbD_eq fun k hk => ?_
    simp only [BitVec.getLsbD_and, BitVec.getLsbD_shiftLeft, BitVec.getLsbD_setWidth, BitVec.getLsbD_zero]
    by_cases h : k < 14
    · simp [h]
    · simp [h, BitVec.getLsbD_of_ge i k (by omega)]
  rw [← BitVec.add_eq_or_of_and_eq_zero _ _ hz, wrap64_add, wrap64_mul, wrap64_toNat, wrap64_natCast, BitVec.shiftLeft_eq_mul_twoPow, BitVec.ofNat_toNat]
  rfl

end Sys2Proof.Machine
end

section
/-! Scalar, immediate and moving forms as they fire, and under a predicate (spec/05_block_engine.md R145, R164 to R166, R171, R176; latencies of Table 5-10). -/

namespace Sys2Proof.Machine

open Claims

/-! ### Forms whose operands are there -/

theorem scalarOut_single (x : Token) (v : W64) : scalarOut [x] v = if x.nullIn 8 then nullToken else scalarToken v := by
  simp [scalarOut, scalarToken]

theorem scalarOut_pair (x y : Token) (v : W64) : scalarOut [x, y] v = if x.nullIn 8 || y.nullIn 8 then nullToken else scalarToken v := by
  simp [scalarOut, scalarToken]

section
variable {s : State} {c : Ctx} {p : Pred} {a b : Option Target} {x y : Token}

theorem fires_takeDivider (h : Fires s c) : Fires (s.takeDivider c.core) c := h.congr rfl rfl

theorem scalar1_sends {f : W64 → W64} {lat : Nat} (hlat : 0 < lat) (h : Fires s c) (ha : Admits p c) (hl : c.inst.l = some x) (hr : Room c a b) :
    ∃ t, scalar1 f lat p a b s = .next t ∧ Sends s t c a b lat (scalarOut [x] (f x.lo)) 0#6 := by
  obtain rfl : c.l = x := by simp [Ctx.l, hl]
  rw [scalarOut_single]
  exact ⟨_, firing_go _ _ h ha (by simp [needL, hl]), fireToken_sends _ _ hlat h hr⟩

theorem scalar2_sends {f : W64 → W64 → W64} {lat : Nat} (hlat : 0 < lat) (h : Fires s c) (ha : Admits p c) (hl : c.inst.l = some x) (hy : c.inst.r = some y)
    (hr : Room c a b) : ∃ t, scalar2 f lat p a b s = .next t ∧ Sends s t c a b lat (scalarOut [x, y] (f x.lo y.lo)) 0#6 := by
  obtain rfl : c.l = x := by simp [Ctx.l, hl]
  obtain rfl : c.r = y := by simp [Ctx.r, hy]
  rw [scalarOut_pair]
  exact ⟨_, firing_go _ _ h ha (by simp [needLR, hl, hy]), fireToken_sends _ _ hlat h hr⟩

/-- A division sends as the other forms do, from a state in which its core's divider is taken (R171). -/
theorem scalarDiv_sends {f : W64 → W64 → W64} (h : Fires s c) (ha : Admits p c) (hl : c.inst.l = some x) (hy : c.inst.r = some y) (hr : Room c a b) :
    ∃ t, scalarDiv f p a b s = .next t ∧ Sends (s.takeDivider c.core) t c a b 20 (scalarOut [x, y] (f x.lo y.lo)) 0#6 := by
  obtain rfl : c.l = x := by simp [Ctx.l, hl]
  obtain rfl : c.r = y := by simp [Ctx.r, hy]
  rw [scalarOut_pair]
  exact ⟨_, firing_go _ _ h ha (by simp [needLR, hl, hy]), fireToken_sends _ _ (by decide) (fires_takeDivider h) hr⟩

end

/-! ### The forms of Tables 5-2 to 5-4, by shape -/

/-- The form of an entry is a two-operand form with the entry's latency and function. -/
def IsPair (e : Form × Nat × (W64 → W64 → W64)) : Prop := 0 < e.2.1 ∧ ∀ p a b s, exec (e.1 p a b) s = scalar2 e.2.2 e.2.1 p a b s

theorem isPair_of {form : Form} {lat : Nat} {f g : W64 → W64 → W64} (hlat : 0 < lat) (hi : ∀ s p a b, exec (form p a b) s = scalar2 g lat p a b s)
    (hg : ∀ x y, g x y = f x y) : IsPair (form, lat, f) := by
  obtain rfl : g = f := funext₂ hg
  exact ⟨hlat, fun p a b s => hi s p a b⟩

theorem scalarPairs_isPair : ∀ e ∈ scalarPairs, IsPair e := by
  simp only [scalarPairs, List.forall_mem_cons]
  refine ⟨?add, ?sub, ?mul, ?mulhs, ?mulhn, ?mins, ?minn, ?maxs, ?maxn, ?and, ?or, ?xor, ?andn, ?shl, ?shrn, ?shrs, ?rotl, ?ceq, ?cne, ?clts, ?cles, ?cltn, ?clen, nofun⟩
  case add => exact isPair_of Nat.one_pos exec_add fun x y => by rw [wrap64_add, wrap64_toNat, wrap64_toNat]
  case sub => exact isPair_of Nat.one_pos exec_sub fun x y => by rw [wrap64_sub, wrap64_toNat, wrap64_toNat]
  case mul => exact isPair_of (by decide) exec_mul fun x y => by rw [wrap64_mul, wrap64_toNat, wrap64_toNat]
  case mulhs => exact isPair_of (by decide) exec_mulhs fun _ _ => rfl
  case mulhn => exact isPair_of (by decide) exec_mulhn fMulhn_eq
  case mins => exact isPair_of Nat.one_pos exec_mins fMins_eq
  case minn => exact isPair_of Nat.one_pos exec_minn fMinn_eq
  case maxs => exact isPair_of Nat.one_pos exec_maxs fMaxs_eq
  case maxn => exact isPair_of Nat.one_pos exec_maxn fMaxn_eq
  case shl => exact isPair_of Nat.one_pos exec_shl fShl_eq
  case shrn => exact isPair_of Nat.one_pos exec_shrn fShrn_eq
  case shrs => exact isPair_of Nat.one_pos exec_shrs fShrs_eq
  case rotl => exact isPair_of Nat.one_pos exec_rotl fRotl_eq
  case cne => exact isPair_of Nat.one_pos exec_cne fun x y => by simp [boolWord, truth, bne_iff_ne]
  case ceq => exact isPair_of Nat.one_pos exec_ceq fun x y => by simp [boolWord, truth]
  case and => exact isPair_of Nat.one_pos exec_and fun _ _ => rfl
  case or => exact isPair_of Nat.one_pos exec_or fun _ _ => rfl
  case xor => exact isPair_of Nat.one_pos exec_xor fun _ _ => rfl
  case andn => exact isPair_of Nat.one_pos exec_andn fun _ _ => rfl
  case clts => exact isPair_of Nat.one_pos exec_clts fun _ _ => rfl
  case cles => exact isPair_of Nat.one_pos exec_cles fun _ _ => rfl
  case cltn => exact isPair_of Nat.one_pos exec_cltn fun _ _ => rfl
  case clen => exact isPair_of Nat.one_pos exec_clen fun _ _ => rfl

/-- The form of an entry is a division with the entry's function. -/
def IsDivision (e : Form × (W64 → W64 → W64)) : Prop := ∀ p a b s, exec (e.1 p a b) s = scalarDiv e.2 p a b s

theorem isDivision_of {form : Form} {f g : W64 → W64 → W64} (hi : ∀ s p a b, exec (form p a b) s = scalarDiv g p a b s) (hg : ∀ x y, g x y = f x y) :
    IsDivision (form, f) := by
  obtain rfl : g = f := funext₂ hg
  exact fun p a b s => hi s p a b

theorem divisions_isDivision : ∀ e ∈ divisions, IsDivision e := by
  simp only [divisions, List.forall_mem_cons]
  exact ⟨isDivision_of exec_divs fDivs_eq, isDivision_of exec_divn fDivn_eq, isDivision_of exec_rems fRems_eq,
    isDivision_of exec_remn fRemn_eq, nofun⟩

/-- The form of an entry is a one-operand form with latency 1 and the entry's function. -/
def IsSingle (e : Form × (W64 → W64)) : Prop := ∀ p a b s, exec (e.1 p a b) s = scalar1 e.2 1 p a b s

theorem isSingle_of {form : Form} {f g : W64 → W64} (hi : ∀ s p a b, exec (form p a b) s = scalar1 g 1 p a b s) (hg : ∀ x, g x = f x) : IsSingle (form, f) := by
  obtain rfl : g = f := funext hg
  exact fun p a b s => hi s p a b

theorem scalarSingles_isSingle : ∀ e ∈ scalarSingles, IsSingle e := by
  simp only [scalarSingles, List.forall_mem_cons]
  refine ⟨?neg, ?abs, ?not, ?popc, ?clz, ?ctz, ?exts8, ?exts16, ?exts32, ?extn8, ?extn16, ?extn32, nofun⟩
  case neg => exact isSingle_of exec_neg fun x => (wrap64_neg_toInt x).symm
  case abs => exact isSingle_of exec_abs fAbs_eq
  case popc => exact isSingle_of exec_popc fPopc_eq
  case clz => exact isSingle_of exec_clz fClz_eq
  case ctz => exact isSingle_of exec_ctz fCtz_eq
  case extn8 => exact isSingle_of exec_extn8 (fExtn_eq _)
  case extn16 => exact isSingle_of exec_extn16 (fExtn_eq _)
  case extn32 => exact isSingle_of exec_extn32 (fExtn_eq _)
  case not => exact isSingle_of exec_not fun _ => rfl
  case exts8 => exact isSingle_of exec_exts8 fun _ => rfl
  case exts16 => exact isSingle_of exec_exts16 fun _ => rfl
  case exts32 => exact isSingle_of exec_exts32 fun _ => rfl

/-- The form of an entry, with an immediate that it may have, is a one-operand form with the entry's latency and its function at the immediate. -/
def IsImmediate (e : (Pred → BitVec 14 → Option Target → Instr) × Nat × (W64 → BitVec 14 → W64)) : Prop :=
  0 < e.2.1 ∧ ∀ p i a s, (e.1 p i a).wf = true → exec (e.1 p i a) s = scalar1 (e.2.2 · i) e.2.1 p a none s

theorem isImmediate_of {form : Pred → BitVec 14 → Option Target → Instr} {lat : Nat} {f : W64 → BitVec 14 → W64} {g : W64 → W64 → W64} (hlat : 0 < lat)
    (hi : ∀ s p i a, exec (form p i a) s = scalarImm g lat p i a s) (hg : ∀ i x, g x (i.signExtend 64) = f x i) : IsImmediate (form, lat, f) := by
  refine ⟨hlat, fun p i a s _ => ?_⟩
  rw [hi, scalarImm, show (fun x => g x (i.signExtend 64)) = fun x => f x i from funext (hg i)]

/-- A shift by an immediate, which is well formed where it is 0 to 63. -/
theorem isImmediate_of_shift {form : Pred → BitVec 14 → Option Target → Instr} {f : W64 → BitVec 14 → W64} {g : W64 → W64 → W64}
    (hi : ∀ s p i a, exec (form p i a) s = scalarShift g p i a s) (hwf : ∀ p i a, (form p i a).wf = true → i.toNat ≤ 63)
    (hg : ∀ i x, i.toNat ≤ 63 → g x (i.setWidth 64) = f x i) : IsImmediate (form, 1, f) := by
  refine ⟨Nat.one_pos, fun p i a s h => ?_⟩
  rw [hi, scalarShift, show (fun x => g x (i.setWidth 64)) = fun x => f x i from funext fun x => hg i x (hwf p i a h)]

theorem scalarImms_isImmediate : ∀ e ∈ scalarImms, IsImmediate e := by
  simp only [scalarImms, List.forall_mem_cons]
  refine ⟨?addi, ?muli, ?andi, ?ori, ?xori, ?shli, ?shrni, ?shrsi, ?ceqi, ?cltsi, ?appi, nofun⟩
  case addi => exact isImmediate_of Nat.one_pos exec_addi fun _ x => by rw [wrap64_add, wrap64_toNat]; rfl
  case muli => exact isImmediate_of (by decide) exec_muli fun _ x => by rw [wrap64_mul, wrap64_toNat]; rfl
  case andi => exact isImmediate_of Nat.one_pos exec_andi fun _ _ => rfl
  case ori => exact isImmediate_of Nat.one_pos exec_ori fun _ _ => rfl
  case xori => exact isImmediate_of Nat.one_pos exec_xori fun _ _ => rfl
  case ceqi => exact isImmediate_of Nat.one_pos exec_ceqi fun _ x => by simp [boolWord, truth]; rfl
  case cltsi =>
    refine isImmediate_of Nat.one_pos exec_cltsi fun i x => ?_
    rw [BitVec.slt, BitVec.toInt_signExtend_of_le (by decide)]
    rfl
  case shli => exact isImmediate_of_shift exec_shli (fun _ _ _ h => by simp_all [Instr.wf]) fun _ _ h => by rw [fShl_eq, setWidth_mod64 h]
  case shrni => exact isImmediate_of_shift exec_shrni (fun _ _ _ h => by simp_all [Instr.wf]) fun _ _ h => by rw [fShrn_eq, setWidth_mod64 h]
  case shrsi => exact isImmediate_of_shift exec_shrsi (fun _ _ _ h => by simp_all [Instr.wf]) fun _ _ h => by rw [fShrs_eq, setWidth_mod64 h]
  case appi =>
    refine ⟨Nat.one_pos, fun p i a s _ => ?_⟩
    rw [exec_appi, execAppi, show (fun x : W64 => x <<< 14 ||| i.setWidth 64) = _ from funext fun x => append14_eq x i]

/-- Settles O1: each form of the tables is of its shape with its function, and the shape sends what it computes. -/
theorem scalarForms : Obligations.ScalarForms := by
  unfold Obligations.ScalarForms
  refine ⟨fun e he p a b s c x y h ha hl hy hr => ?_, fun e he p a b s c x y h ha hl hy hr => ?_, fun e he p a b s c x h ha hl hr => ?_⟩
  · obtain ⟨hlat, hi⟩ := scalarPairs_isPair e he
    rw [hi]
    exact scalar2_sends hlat h ha hl hy hr
  · rw [divisions_isDivision e he]
    exact scalarDiv_sends h ha hl hy hr
  · rw [scalarSingles_isSingle e he]
    exact scalar1_sends Nat.one_pos h ha hl hr

/-- Settles O2: a well-formed immediate is one operand of the form's function. -/
theorem scalarImmediateResults : Obligations.ScalarImmediateResults := by
  unfold Obligations.ScalarImmediateResults
  intro e he p i a s c x h ha hwf hl hr
  obtain ⟨hlat, hi⟩ := scalarImms_isImmediate e he
  rw [hi p i a s hwf]
  exact scalar1_sends hlat h ha hl hr

/-- Settles O10: each form sends the token that it moves or chooses. -/
theorem moveResults : Obligations.MoveResults := by
  unfold Obligations.MoveResults
  intro p a b i s c h
  refine ⟨fun x ha hr hl => ?_, fun ha hr => ?_, fun x y k hr hl hy hk => ?_⟩
  · obtain rfl : c.l = x := by simp [Ctx.l, hl]
    exact ⟨_, firing_go _ _ h ha (by simp [needL, hl]), fireToken_sends _ _ Nat.one_pos h hr⟩
  · exact ⟨_, firing_go (ready := fun _ => true) (fun c => s.fireToken c a none 1 nullToken 0#6) _ h ha rfl, fireToken_sends _ _ Nat.one_pos h hr⟩
  · obtain rfl : c.l = x := by simp [Ctx.l, hl]
    obtain rfl : c.r = y := by simp [Ctx.r, hy]
    obtain rfl : c.p = k := by simp [Ctx.p, hk]
    exact ⟨_, firing_always s.finish _ h (by simp [needLRP, hl, hy, hk]), fireToken_sends _ _ Nat.one_pos h hr⟩

/-! ### Predicates that fail, and null ones -/

theorem predOf_skip {p : Pred} {k : Token} (hp : p ≠ .always) (hn : k.nullIn 8 = false) (hk : k.data.getLsbD 0 ≠ (p == .onTrue)) :
    predOf p (some k) = .skip := by
  cases p with
  | always => exact absurd rfl hp
  | onTrue => simpa [predOf, hn] using hk
  | onFalse => simpa [predOf, hn, show (Pred.onFalse == Pred.onTrue) = false from rfl] using hk

theorem predOf_null {p : Pred} {k : Token} (hp : p ≠ .always) (hn : k.nullIn 8 = true) : predOf p (some k) = .null := by
  cases p with
  | always => exact absurd rfl hp
  | onTrue => simp [predOf, hn]
  | onFalse => simp [predOf, hn]

theorem firing_skip {s : State} {c : Ctx} {p : Pred} {ready : Inst → Bool} (null act : Ctx → State) (h : Fires s c) (hr : ready c.inst = true)
    (hp : predOf p c.inst.p = .skip) : firing p ready null act s = .next s := by
  simp [firing, h.ctx, h.idle, hr, hp]

theorem firing_null {s : State} {c : Ctx} {p : Pred} {ready : Inst → Bool} (null act : Ctx → State) (h : Fires s c) (hr : ready c.inst = true)
    (hp : predOf p c.inst.p = .null) : firing p ready null act s = .next (null c) := by
  simp [firing, h.ctx, h.idle, hr, hp]

section
variable {s : State} {c : Ctx} {p : Pred} {a b : Option Target} {k x y : Token} (h : Fires s c) (hk : c.inst.p = some k) (hp : p ≠ .always)
include h hk hp

/-- A form whose data are there, under a predicate token: it does nothing where the token fails the mode, and what it does with a null one otherwise. -/
theorem predicated_of_firing {i : Instr} {ready : Inst → Bool} {null act : Ctx → State} {s' : State} {lat : Nat} (hi : exec i s = firing p ready null act s)
    (hready : ready c.inst = true) (hnull : Room c a b → Sends s' (null c) c a b lat nullToken 0#6) (hs : { s' with cores := s.cores } = s) :
    Predicated s c i p a b k := by
  refine ⟨fun hn hd => ?_, fun hn hr => ⟨_, s', lat, ?_, hnull hr, hs⟩⟩
  · rw [hi]
    exact firing_skip _ _ h hready (hk ▸ predOf_skip hp hn hd)
  · rw [hi]
    exact firing_null _ _ h hready (hk ▸ predOf_null hp hn)

theorem predicated_scalar1 {i : Instr} {f : W64 → W64} {lat : Nat} (hlat : 0 < lat) (hi : exec i s = scalar1 f lat p a b s) (hl : c.inst.l = some x) :
    Predicated s c i p a b k :=
  predicated_of_firing h hk hp hi (by simp [needL, hl]) (fireToken_sends _ _ hlat h) rfl

theorem predicated_scalar2 {i : Instr} {f : W64 → W64 → W64} {lat : Nat} (hlat : 0 < lat) (hi : exec i s = scalar2 f lat p a b s) (hl : c.inst.l = some x)
    (hy : c.inst.r = some y) : Predicated s c i p a b k :=
  predicated_of_firing h hk hp hi (by simp [needLR, hl, hy]) (fireToken_sends _ _ hlat h) rfl

/-- A division takes its core's divider with a null predicate too (R171). -/
theorem predicated_scalarDiv {i : Instr} {f : W64 → W64 → W64} (hi : exec i s = scalarDiv f p a b s) (hl : c.inst.l = some x) (hy : c.inst.r = some y) :
    Predicated s c i p a b k :=
  predicated_of_firing h hk hp hi (by simp [needLR, hl, hy]) (fireToken_sends _ _ (by decide) (fires_takeDivider h)) rfl

end

/-- Settles O15: whatever its shape, a form resolves under a predicate that fails and sends a null token under a null one. -/
theorem predicatedScalars : Obligations.PredicatedScalars := by
  unfold Obligations.PredicatedScalars
  intro p a b i s c k h hk hp
  refine ⟨predicated_of_firing h hk hp rfl rfl (fireToken_sends _ _ Nat.one_pos h) rfl, fun x hl => ⟨fun f hf => ?_, fun e he hwf => ?_, fun f hf y hy => ?_⟩⟩
  · rcases List.mem_append.1 hf with hf | hf
    · obtain ⟨e, he, rfl⟩ := List.mem_map.1 hf
      exact predicated_scalar1 h hk hp Nat.one_pos (scalarSingles_isSingle e he p a b s) hl
    · obtain rfl := List.mem_singleton.1 hf
      exact predicated_of_firing h hk hp rfl (by simp [needL, hl]) (fireToken_sends _ _ Nat.one_pos h) rfl
  · obtain ⟨hlat, hi⟩ := scalarImms_isImmediate e he
    exact predicated_scalar1 h hk hp hlat (hi p i a s hwf) hl
  · rcases List.mem_append.1 hf with hf | hf
    · obtain ⟨e, he, rfl⟩ := List.mem_map.1 hf
      obtain ⟨hlat, hi⟩ := scalarPairs_isPair e he
      exact predicated_scalar2 h hk hp hlat (hi p a b s) hl hy
    · obtain ⟨e, he, rfl⟩ := List.mem_map.1 hf
      exact predicated_scalarDiv h hk hp (divisions_isDivision e he p a b s) hl hy

end Sys2Proof.Machine
end

section
/-! Forms that only resolve, writes in the tail, exits and the faults of a block (spec/05_block_engine.md R146, R149, R151, R155, R158, R159, R163, R166). -/

namespace Sys2Proof.Machine

open Claims

section
variable {s : State} {c : Ctx} (h : Fires s c)
include h

/-! ### A form that only resolves -/

theorem blockNow_setSt (st : InstSt) : BlockNow s (s.setSt c.core c.slot c.ix st) c (c.run.modInst c.ix fun i => { i with st := st }) :=
  ⟨by rw [State.setSt_runAt_same, h.run]; rfl, modRun_onlyBlock ..⟩

theorem blockNow_finish : BlockNow s (s.finish c) c (doneRun c) := blockNow_setSt h .done

theorem finish_slotAt : (s.finish c).slotAt c.core c.slot = { c.sl with run := some (doneRun c) } := by
  have hr : c.sl.run = some c.run := by rw [← h.slot]; exact h.run
  rw [State.finish, State.setSt, State.modInst, State.modRun_slotAt_same, h.slot, hr]
  rfl

theorem blockNow_setNull : BlockNow s (s.setNull c) c { doneRun c with nullFlag := true } := by
  obtain ⟨hr, ho⟩ := blockNow_finish h
  refine ⟨?_, ho.trans (modRun_onlyBlock ..)⟩
  rw [State.setNull, State.modRun_runAt_same, hr]
  rfl

theorem resolves_of_firing {ready : Inst → Bool} (null : Ctx → State) (hr : ready c.inst = true) :
    ∃ t, firing .always ready null s.finish s = .next t ∧ BlockNow s t c (doneRun c) :=
  ⟨_, firing_always null _ h hr, blockNow_finish h⟩

end

/-- Settles O11: each form resolves, and NULL sets its flag with that. -/
theorem resolvingForms : Obligations.ResolvingForms := by
  unfold Obligations.ResolvingForms
  intro p n s c h
  refine ⟨fun ha => ⟨_, firing_go (ready := needNone) s.setNull s.setNull h ha rfl, blockNow_setNull h⟩, resolves_of_firing h s.finish rfl, fun x hl ht => ?_, fun x hl => ?_⟩
  · refine ⟨_, firing_always s.finish _ h (by simp [needL, hl]), ?_⟩
    rw [if_neg (ht ▸ Bool.false_ne_true)]
    exact blockNow_finish h
  · exact resolves_of_firing h s.finish (by simp [needL, hl])

/-! ### A WRITE in the tail -/

theorem Run.calls_iff_hasCalled (r : Run) : r.calls = true ↔ HasCalled r := by
  unfold HasCalled
  cases he : r.exit with
  | none => simp [Run.calls, he]
  | some e => simp [Run.calls_iff he]

/-- A token with no null byte takes the whole register. -/
theorem mergeBytes_of_mask_zero (old : W128) {t : Token} (h : t.mask = 0#16) : mergeBytes old t = t.data := by
  refine BitVec.eq_of_getLsbD_eq fun k hk => ?_
  rw [mergeBytes_getLsbD old t hk, h]
  simp

theorem State.writeReg_present {s : State} {core slot n : Nat} (hp : (s.slotAt core slot).present.getLsbD (n / 4) = true) (t : Token) :
    s.writeReg core slot n t = s.modSlot core slot fun sl => sl.setReg n (mergeBytes (sl.reg n) t) := by
  rw [State.writeReg, State.loadLine_present hp]

/-- What a WRITE in the tail lays into its register (R155, R159). -/
theorem Run.tailToken_lays (r : Run) (n : BitVec 6) (old : W128) (x : Token) :
    (n = 63#6 ∧ HasCalled r → mergeBytes old (r.tailToken n.toNat x) =
      BitVec.ofNat 128 ((r.addr.toNat + 8 + 2 * (r.hd / 2 ^ 40 % 2 ^ 8) + 15) / 16 * 16 % 2 ^ 64)) ∧
    (¬(n = 63#6 ∧ HasCalled r) → laidOver old x (mergeBytes old (r.tailToken n.toNat x))) := by
  have hn : (decide (n.toNat = 63) && r.calls) = true ↔ n = 63#6 ∧ HasCalled r := by
    rw [Bool.and_eq_true, decide_eq_true_eq, r.calls_iff_hasCalled, ← BitVec.toNat_inj]
    rfl
  refine ⟨fun hc => ?_, fun hc => ?_⟩
  · rw [Run.tailToken, if_pos (hn.2 hc), mergeBytes_of_mask_zero _ rfl, Run.link_eq]
  · rw [Run.tailToken, if_neg fun hb => hc (hn.1 hb)]
    exact laidOver_mergeBytes old x

/-- Settles O12: the register of the slot is set, and the slot is as it was but for its instruction, which is done. -/
theorem tailWriteFills : Obligations.TailWriteFills := by
  unfold Obligations.TailWriteFills
  intro n s c x h hl ht hp
  obtain rfl : c.l = x := by simp [Ctx.l, hl]
  have hsl := finish_slotAt h
  have hex : exec (.write n) s = .next ((s.finish c).modSlot c.core c.slot fun sl => sl.setReg n.toNat (mergeBytes (sl.reg n.toNat) (c.run.tailToken n.toNat c.l))) := by
    rw [exec_write, execWrite, firing_always _ _ h (by simp [needL, hl]), if_pos ht, State.writeReg_present (by rw [hsl]; exact hp)]
  have hreg := c.run.tailToken_lays n (c.sl.reg n.toNat) c.l
  generalize hv : mergeBytes (c.sl.reg n.toNat) (c.run.tailToken n.toNat c.l) = v at hreg
  have hslot : ((s.finish c).modSlot c.core c.slot fun sl => sl.setReg n.toNat (mergeBytes (sl.reg n.toNat) (c.run.tailToken n.toNat c.l))).slotAt c.core c.slot =
      ({ c.sl with run := some (doneRun c) } : Slot).setReg n.toNat v := by
    rw [State.modSlot_slotAt_same, hsl, ← hv]
    rfl
  have hown : mget (({ c.sl with run := some (doneRun c) } : Slot).setReg n.toNat v).g n.toNat 0#128 = v := by rw [Slot.setReg_reg, if_pos rfl]
  refine ⟨_, hex, ?_, ?_⟩
  · rw [State.runAt_eq, hslot]
    rfl
  · dsimp only
    rw [hslot, hown]
    refine ⟨fun hc => ?_, hreg.2, ?_, fun m hm hne => ⟨?_, ?_⟩, rfl, rfl⟩
    · rw [show (63 : Nat) = n.toNat by rw [hc.1]; rfl, hown]
      exact hreg.1 hc
    · rw [Slot.setReg_getLsbD _ _ _ n.isLt]
      simp
    · rw [Slot.setReg_reg, if_neg hne.symm]
    · rw [Slot.setReg_getLsbD _ _ _ hm, decide_eq_false hne.symm, Bool.or_false]

/-! ### Exits -/

/-- The target of an exit is A + 16·off19. -/
theorem exitTarget_eq (a : W64) (o : BitVec 19) : exitTarget a o = wrap64 (a.toNat + 16 * o.toInt) := by
  rw [exitTarget, wrap64_add, wrap64_toNat, wrap64_mul, BitVec.shiftLeft_eq_mul_twoPow, mul_comm]
  rfl

/-- The block of c with its instruction done and its exit recorded. -/
def exitRun (c : Ctx) (k : ExitKind) (target : W64) : Run := { doneRun c with exit := some ⟨k, target⟩ }

section
variable {s : State} {c : Ctx} (h : Fires s c)
include h

/-- The first exit of a block, recorded. -/
theorem exitRecorded_slotAt (k : ExitKind) (target : W64) :
    ((s.finish c).modRun c.core c.slot fun r => { r with exit := some ⟨k, target⟩ }).slotAt c.core c.slot = { c.sl with run := some (exitRun c k target) } := by
  rw [State.modRun_slotAt_same, finish_slotAt h]
  rfl

omit h in
/-- The first exit that fires is recorded, and makes its lookup unless it makes none as it fires. -/
theorem fireExit_first (he : c.run.exit = none) (k : ExitKind) (target : W64) :
    s.fireExit c k target =
      let u := (s.finish c).modRun c.core c.slot fun r => { r with exit := some ⟨k, target⟩ }
      if NoPrefetch k c.run then u else u.modSlot c.core c.slot fun sl => sl.makeLook (c.run.lookup target (s.cyc c.core)) := by
  rw [State.fireExit, he, Option.isSome_none, if_neg Bool.false_ne_true]
  cases k <;> rfl

theorem exitFired_fireExit (he : c.run.exit = none) (k : ExitKind) (target : W64) : ExitFired s (s.fireExit c k target) c k target := by
  have hsl := exitRecorded_slotAt h k target
  have hdone : ({ exitRun c k target with exit := none } : Run) = doneRun c := by
    rw [← he]
    rfl
  rw [fireExit_first he]
  dsimp only
  cases hn : NoPrefetch k c.run with
  | true =>
    rw [if_pos rfl]
    refine ⟨⟨_, by rw [State.runAt_eq, hsl], rfl, hdone⟩, ?_, ?_, ?_, rfl, fun j hj => ?_⟩
    · rw [hsl, hn, if_pos rfl]
    · rw [hsl, hn, if_pos rfl]
    · rw [hsl]
    · exact ((blockNow_finish h).2.trans (modRun_onlyBlock ..)).others j hj
  | false =>
    rw [if_neg Bool.false_ne_true]
    refine ⟨⟨exitRun c k target, by rw [State.runAt_eq, State.modSlot_slotAt_same, hsl]; rfl, rfl, hdone⟩, ?_, ?_, ?_, rfl, fun j hj => ?_⟩
    · rw [State.modSlot_slotAt_same, hsl, hn, if_neg Bool.false_ne_true]
      rfl
    · rw [State.modSlot_slotAt_same, hsl, hn, if_neg Bool.false_ne_true]
      rfl
    · rw [State.modSlot_slotAt_same, hsl]
      rfl
    · exact ((onlySlot_modSlot ..).others j hj).trans (((blockNow_finish h).2.trans (modRun_onlyBlock ..)).others j hj)

theorem exitOff_fires {p : Pred} (ha : Admits p c) (he : c.run.exit = none) (k : ExitKind) (o : BitVec 19) :
    ∃ t, exitOff k p o s = .next t ∧ ExitFired s t c k (wrap64 (c.run.addr.toNat + 16 * o.toInt)) := by
  rw [← exitTarget_eq]
  exact ⟨_, firing_go _ _ h ha rfl, exitFired_fireExit h he k _⟩

theorem exitReg_fires {p : Pred} {x : Token} (ha : Admits p c) (he : c.run.exit = none) (hl : c.inst.l = some x) (hx : x.nullIn 8 = false) (k : ExitKind) :
    ∃ t, exitReg k p s = .next t ∧ ExitFired s t c k x.lo := by
  obtain rfl : c.l = x := by simp [Ctx.l, hl]
  refine ⟨_, firing_go _ _ h ha (by simp [needL, hl]), ?_⟩
  rw [hx, if_neg Bool.false_ne_true]
  exact exitFired_fireExit h he k _

end

/-- Settles O14: an exit form is an offset's, a register's or RETIRE, and each fires its exit. -/
theorem exitForms : Obligations.ExitForms := by
  unfold Obligations.ExitForms
  intro p x o s c h ha he
  refine ⟨?offset, ?register, ⟨_, firing_go (ready := needNone) (fun _ => s) (fun c => s.fireExit c .retire 0#64) h ha rfl, exitFired_fireExit h he _ _⟩⟩
  case offset =>
    simp only [offsetExits, List.forall_mem_cons]
    exact ⟨exitOff_fires h ha he .br o, exitOff_fires h ha he .call o, exitOff_fires h ha he .susp o, nofun⟩
  case register =>
    simp only [registerExits, List.forall_mem_cons]
    exact ⟨fun _ hl hk => exitReg_fires h ha he hl hk .bri, fun _ hl hk => exitReg_fires h ha he hl hk .calli,
      fun _ hl hk => exitReg_fires h ha he hl hk .ret, nofun⟩

/-! ### Faults of a block -/

/-- A fault taken once the block has changed, and only the block, is a fault taken from where it had not: the block is discarded. -/
theorem faultTaken_of_onlyBlock {s u t : State} {core slot cause ix va info : Nat} {r r' : Run} {repl : Bool} (ho : OnlyBlock s u core slot) (ha : r'.addr = r.addr)
    (hf : FaultTaken u t core slot r' cause ix repl va info) : FaultTaken s t core slot r cause ix repl va info := by
  obtain ⟨hfields, hothers, hown⟩ := ho
  obtain ⟨hthread, hpacket, hwithdrawn, hkept, hrest, hmem⟩ := hf
  have hfield {β : Type} (g : State → β) (hg : ∀ (x : State) m, g { x with slots := m } = g x) : g u = g s := (hg u s.slots).symm.trans (congrArg g hfields)
  have hslot {β : Type} (g : Slot → β) (hg : ∀ (x : Slot) m, g { x with run := m } = g x) : g (u.slotAt core slot) = g (s.slotAt core slot) :=
    (hg _ none).symm.trans ((congrArg g hown).trans (hg _ none))
  have hwords : faultWords u core slot cause ix repl r'.addr va info (u.slotAt core slot) = faultWords s core slot cause ix repl r.addr va info (s.slotAt core slot) := by
    unfold faultWords
    rw [ha, hfield (·.time) fun _ _ => rfl, hfield (fun x => (x.coreAt core).lcid) fun _ _ => rfl, hslot (·.ctl.wid) fun _ _ => rfl, hslot (·.ctl.vcore) fun _ _ => rfl]
  have hreqs : u.reqs = s.reqs := hfield (·.reqs) fun _ _ => rfl
  refine ⟨?_, ?_, hreqs ▸ hwithdrawn, hreqs ▸ hkept, fun k hk => (hrest k hk).trans (hothers k hk), hmem.trans (hfield (·.mem) fun _ _ => rfl)⟩
  · rw [hthread]
    dsimp only
    rw [← hwords, ← ha, ← hfield (fun x => x.cyc core) fun _ _ => rfl]
    exact hslot (fun sl => { sl with
      run := none, look := none, pc := r'.addr, replays := 0, tailBit := false, frz := if repl then sl.frz else true, rty := if repl then true else sl.rty
      cause := BitVec.ofNat 8 cause, index := BitVec.ofNat 7 ix, faultAt := some (u.cyc core)
      lastPkt := faultWords u core slot cause ix repl r'.addr va info (u.slotAt core slot) }) fun _ _ => rfl
  · rw [hpacket, hwords, hfield (·.pkts) fun _ _ => rfl, hfield (·.nextId) fun _ _ => rfl, hfield (fun x => x.siteAt (coreSite core)) fun _ _ => rfl,
      hfield (·.time) fun _ _ => rfl]

section
variable {s : State} {c : Ctx} (h : Fires s c) (ht : c.run.tail = false) (hf : c.sl.failed = [])
include h ht hf

theorem fires_faultTaken (cause ix : Nat) (repl : Bool) (va info : Nat) :
    FaultTaken s (s.raise c.core c.slot cause ix repl va info) c.core c.slot c.run cause ix repl va info :=
  faultTaken_raise h.run ht (by rw [h.slot]; exact hf) cause ix repl va info

/-- A form that fires with a token for a filled slot raises the collision (R146). -/
theorem fireToken_collides {g : Target} (hg : ((c.run.inst g.idx.toNat).slot g.slot).isSome = true) (lat : Nat) (tok : Token) :
    FaultTaken s (s.fireToken c (some g) none lat tok 0#6) c.core c.slot c.run 0x20 g.idx.toNat false 0 := by
  obtain ⟨hr, ho⟩ := blockNow_finish h
  have hslot : (((doneRun c).inst g.idx.toNat).slot g.slot).isSome = true := by
    rw [doneRun, Run.inst_modInst _ _ _ _ h.lt]
    split_ifs with e
    · rw [e]
      exact hg
    · exact hg
  have hsend : s.fireToken c (some g) none lat tok 0#6 = (s.finish c).raise c.core c.slot 0x20 g.idx.toNat false 0 0 := by
    rw [State.fireToken, State.addFlags, if_pos rfl, State.deliver, sendTo_none, State.sendTo, hr]
    exact if_pos hslot
  rw [hsend]
  exact faultTaken_of_onlyBlock (r' := doneRun c) ho rfl (faultTaken_raise hr ht (by rw [finish_slotAt h]; exact hf) _ _ _ _ _)

end

/-- Settles O16: the token of a MOVI collides, and a second BR is an exit too many. -/
theorem blockFaults : Obligations.BlockFaults := by
  unfold Obligations.BlockFaults
  intro p i g x o s c h ha ht hf
  refine ⟨fun hg => ⟨_, firing_go (ready := needNone) (fun c => s.fireToken c (some g) none 1 nullToken 0#6) _ h ha rfl, fireToken_collides h ht hf hg 1 _⟩, fun he => ?_⟩
  refine ⟨_, firing_go (ready := needNone) (fun _ => s) _ h ha rfl, ?_⟩
  rw [State.fireExit, if_pos he]
  exact fires_faultTaken h ht hf 0x21 c.ix false 0 0

end Sys2Proof.Machine
end

section
/-! Reset, and what a step runs (spec/05_block_engine.md R144, R146; Reset columns of the register tables). -/

namespace Sys2Proof.Machine

open Claims

/-- No queue of a core is set up at reset. -/
theorem reset_queueAt (k q : Nat) : State.reset.queueAt k q = {} := by
  change (List.replicate 8 ({} : RecvQ)).getD q {} = {}
  rw [List.getD_eq_getElem?_getD, List.getElem?_replicate]
  split_ifs <;> rfl

/-- Settles O53: a device that nothing has written reads as its reset value everywhere. -/
theorem resetValues : Obligations.ResetValues := by
  unfold Obligations.ResetValues
  refine ⟨rfl, ?sites, ?basins, ?cores, ?threads, rfl, fun n => ⟨rfl, rfl⟩, fun n => ⟨rfl, rfl⟩, fun w => rfl, fun w => rfl⟩
  case sites => exact fun n => ⟨rfl, rfl, rfl, rfl, rfl, fun d => rfl⟩
  case basins =>
    exact fun b => ⟨rfl, rfl, rfl, rfl, rfl, rfl, rfl, rfl, rfl, rfl, rfl, rfl, rfl, rfl, rfl, fun n => ⟨rfl, rfl, rfl⟩, fun d => ⟨rfl, rfl, rfl, rfl, rfl⟩,
      fun d => rfl, fun n => rfl⟩
  case cores => exact fun k => ⟨rfl, rfl, rfl, rfl, rfl, rfl, rfl, fun j => rfl, fun q => by simp [reset_queueAt]⟩
  case threads => exact fun k n => ⟨rfl, rfl, rfl, rfl, rfl, rfl, rfl, rfl, rfl⟩

/-! ### Steps -/

theorem step_nil {s : State} (h : s.agenda = []) : step s = .next s := by simp [step, h]

theorem step_cons {s : State} {a : Act} {l : List Act} (h : s.agenda = a :: l) : step s = State.act { s with agenda := l } a := by simp [step, h]

/-- A block is as it was where its instruction fires. -/
theorem atFire_runAt (s : State) (core slot ix : Nat) : (s.atFire core slot ix).runAt core slot = s.runAt core slot := by
  simp [State.atFire, State.account, State.runAt, State.slotAt]

/-- A firing that the turn of its core does not hold changes nothing. -/
theorem act_fire_refused {s : State} {core slot ix : Nat} (h : s.mayFire core slot ix = false) : s.act (.fire core slot ix) = .next s := by
  simp [State.act, State.firingInstr, h]

/-- A firing acts as the instruction of its word, and what follows a firing follows it. -/
theorem act_fire {s : State} {core slot ix w : Nat} {r : Run} {i : Instr} (h : s.mayFire core slot ix = true) (hr : s.runAt core slot = some r)
    (hw : r.words[ix]? = some w) (hi : decodeWord w = .ok i) :
    s.act (.fire core slot ix) = Out.after (exec i (s.atFire core slot ix)) fun t => t.fired core slot := by
  have hinstr : s.firingInstr core slot ix = some i := by simp [State.firingInstr, h, hr, Run.instr, hw, hi]
  rw [State.act, hinstr]

/-- Settles O58: a step is the act at the head of the agenda. -/
theorem stepRunsActs : Obligations.StepRunsActs := by
  unfold Obligations.StepRunsActs
  intro s l
  refine ⟨step_nil, fun i h => step_cons h, fun core slot ix h => ⟨fun hm => ?_, fun r w i hm hr hw hi => ?_⟩⟩
  · rw [step_cons h, act_fire_refused hm]
  · rw [step_cons h, act_fire hm hr hw hi]
    exact ⟨fun t ht => by rw [ht]; rfl, fun f hf => by rw [hf]; rfl, fun f hf => by rw [hf]; rfl, rfl, (atFire_runAt ..).trans hr, rfl, rfl, rfl⟩

end Sys2Proof.Machine
end

section
/-! What the shared operations of the block engine leave: memory, the deferred fills and the registers of every thread (spec/05_block_engine.md R146, R149, R152, R155, R174). -/

namespace Sys2Proof.Machine

/-! ### States with the same memory and registers -/

/-- Of a slot, the registers, which of them are full, and which of their lines are present are as they were. -/
structure Slot.SameRegs (a b : Slot) : Prop where
  g : b.g = a.g
  full : b.full = a.full
  present : b.present = a.present

/-- From s to t memory, the deferred fills, and the registers of every thread have not changed. -/
structure SameRegs (s t : State) : Prop where
  mem : t.mem = s.mem
  fills : t.fills = s.fills
  regs : ∀ k, Slot.SameRegs (mget s.slots k {}) (mget t.slots k {})

section
variable {s t u : State}

theorem SameRegs.of_slots (hm : t.mem = s.mem) (hf : t.fills = s.fills) (hs : t.slots = s.slots) : SameRegs s t := ⟨hm, hf, fun k => by rw [hs]; exact ⟨rfl, rfl, rfl⟩⟩

theorem SameRegs.refl (s : State) : SameRegs s s := .of_slots rfl rfl rfl

theorem SameRegs.trans (h : SameRegs s t) (h' : SameRegs t u) : SameRegs s u where
  mem := h'.mem.trans h.mem
  fills := h'.fills.trans h.fills
  regs k := ⟨(h'.regs k).g.trans (h.regs k).g, (h'.regs k).full.trans (h.regs k).full, (h'.regs k).present.trans (h.regs k).present⟩

theorem SameRegs.ite {p : Prop} [Decidable p] (ht : SameRegs s t) (hu : SameRegs s u) : SameRegs s (if p then t else u) := by
  split_ifs
  · exact ht
  · exact hu

theorem SameRegs.slotAt (h : SameRegs s t) (core slot : Nat) : Slot.SameRegs (s.slotAt core slot) (t.slotAt core slot) := h.regs _

end

theorem sameRegs_foldl {α : Type} {f : State → α → State} (hf : ∀ u a, SameRegs u (f u a)) (l : List α) (s : State) : SameRegs s (l.foldl f s) :=
  foldl_keeps (SameRegs s) f (fun u a h => h.trans (hf u a)) l s (.refl s)

section
variable (s : State) (core slot : Nat)

/-! ### Updates -/

theorem SameRegs.modSlot {s t : State} (h : SameRegs s t) {core slot : Nat} {f : Slot → Slot}
    (hf : ∀ sl, Slot.SameRegs sl (f sl) := by exact fun _ => ⟨rfl, rfl, rfl⟩) :
    SameRegs s (t.modSlot core slot f) := by
  refine h.trans ⟨rfl, rfl, fun k => ?_⟩
  rw [State.modSlot_slots, mget_mput]
  split_ifs with e
  · subst e
    exact hf _
  · exact ⟨rfl, rfl, rfl⟩

theorem SameRegs.modCore {s t : State} (h : SameRegs s t) {k : Nat} {f : Core → Core} : SameRegs s (t.modCore k f) := h.trans (.of_slots rfl rfl rfl)

theorem SameRegs.sendPkt {s t : State} (h : SameRegs s t) {site dest n : Nat} {ws : List W64} : SameRegs s (t.sendPkt site dest n ws) :=
  h.trans (.of_slots rfl rfl rfl)

theorem sameRegs_modRun (f : Run → Run) : SameRegs s (s.modRun core slot f) := .modSlot (.refl s)

theorem sameRegs_setSt (ix : Nat) (st : InstSt) : SameRegs s (s.setSt core slot ix st) := sameRegs_modRun ..

theorem SameRegs.setSt {s t : State} (h : SameRegs s t) {core slot ix : Nat} {st : InstSt} : SameRegs s (t.setSt core slot ix st) := h.trans (sameRegs_setSt ..)

theorem sameRegs_finish (c : Ctx) : SameRegs s (s.finish c) := sameRegs_setSt ..

theorem sameRegs_addOp (op : Op) : SameRegs s (s.addOp core slot op) := sameRegs_modRun ..

theorem sameRegs_sendReq (q : Req) : SameRegs s (s.sendReq q) := .of_slots rfl rfl rfl

theorem sameRegs_withdraw : SameRegs s (s.withdraw core slot) := .of_slots rfl rfl rfl

theorem sameRegs_touchL1 (sp : Space) (va : Nat) : SameRegs s (s.touchL1 sp va) := by
  obtain ⟨tl, h⟩ := s.touchL1_eq sp va
  rw [h]
  exact .of_slots rfl rfl rfl

/-! ### Faults -/

theorem sameRegs_faultPkt (cause ix : Nat) (tail repl : Bool) (va info : Nat) : SameRegs s (s.faultPkt core slot cause ix tail repl va info) :=
  .sendPkt (.modSlot (.refl s))

theorem sameRegs_freezeWith (cause ix : Nat) (tail repl : Bool) (va info : Nat) : SameRegs s (s.freezeWith core slot cause ix tail repl va info) := by
  refine .trans ?_ (sameRegs_faultPkt ..)
  exact .modSlot (.refl s)

theorem sameRegs_tellFailed : SameRegs s (s.tellFailed core slot) := by
  unfold State.tellFailed
  split
  · exact .refl s
  · exact .modSlot (sameRegs_foldl (fun u _ => sameRegs_faultPkt u ..) _ s)

theorem sameRegs_discard : SameRegs s (s.discard core slot) := by
  unfold State.discard
  split
  · exact .refl s
  · exact .modCore (.modSlot (sameRegs_withdraw s core slot))

theorem sameRegs_lateEvent (r : Run) : SameRegs s (s.lateEvent core slot r) := .ite (.refl s) (.trans (.sendPkt (.refl s)) (sameRegs_modRun ..))

theorem sameRegs_raise (cause ix : Nat) (repl : Bool) (va info : Nat) : SameRegs s (s.raise core slot cause ix repl va info) := by
  unfold State.raise
  split
  · exact sameRegs_freezeWith ..
  · refine .ite (.trans (.trans ?_ (sameRegs_tellFailed ..)) (sameRegs_freezeWith ..))
      (((sameRegs_discard ..).trans (sameRegs_tellFailed ..)).trans (sameRegs_freezeWith ..))
    exact .modCore (.modSlot (sameRegs_lateEvent ..))

/-! ### Tokens -/

theorem sameRegs_sendTo (t : Option Target) (tok : Token) : SameRegs s (s.sendTo core slot t tok) := by
  unfold State.sendTo
  split
  · exact .refl s
  · split
    · exact .refl s
    · exact .ite (sameRegs_raise ..) (.ite (.refl s) (sameRegs_modRun ..))

theorem sameRegs_deliver (t u : Option Target) (lat : Nat) (tok : Token) : SameRegs s (s.deliver core slot t u lat tok) :=
  (sameRegs_sendTo s core slot t _).trans (sameRegs_sendTo ..)

theorem sameRegs_fireToken (c : Ctx) (t u : Option Target) (lat : Nat) (tok : Token) (f : Flags) : SameRegs s (s.fireToken c t u lat tok f) :=
  ((sameRegs_finish s c).trans (.ite (.refl _) (sameRegs_modRun ..))).trans (sameRegs_deliver ..)

theorem sameRegs_beginAgain : SameRegs s (s.beginAgain core slot) := .modCore (.modSlot (sameRegs_withdraw s core slot))

theorem sameRegs_reorder : SameRegs s (s.reorder core slot) := by
  unfold State.reorder
  split
  · exact .ite (sameRegs_beginAgain ..) (.refl s)
  · exact .refl s

end

/-! ### States in which memory and the registers that are present stand -/

/-- From s to t the bytes and the full/empty bits of memory have not changed, nor has a register whose line was present. -/
structure KeepsRegs (s t : State) : Prop where
  cells : t.mem.cells = s.mem.cells
  empties : t.mem.empties = s.mem.empties
  regs : ∀ k, ∀ m < 64, (mget s.slots k {}).present.getLsbD (m / 4) = true → (mget t.slots k {}).present.getLsbD (m / 4) = true ∧
    mget (mget t.slots k {}).g m 0#128 = mget (mget s.slots k {}).g m 0#128 ∧ (mget t.slots k {}).full.getLsbD m = (mget s.slots k {}).full.getLsbD m

section
variable {s t u : State}

theorem SameRegs.keeps (h : SameRegs s t) : KeepsRegs s t where
  cells := congrArg Memory.cells h.mem
  empties := congrArg Memory.empties h.mem
  regs k m _ hp := by
    obtain ⟨hg, hf, hpr⟩ := h.regs k
    rw [hg, hf, hpr]
    exact ⟨hp, rfl, rfl⟩

theorem KeepsRegs.refl (s : State) : KeepsRegs s s := (SameRegs.refl s).keeps

theorem KeepsRegs.trans (h : KeepsRegs s t) (h' : KeepsRegs t u) : KeepsRegs s u where
  cells := h'.cells.trans h.cells
  empties := h'.empties.trans h.empties
  regs k m hm hp := by
    obtain ⟨hp, hg, hf⟩ := h.regs k m hm hp
    obtain ⟨hp', hg', hf'⟩ := h'.regs k m hm hp
    exact ⟨hp', hg'.trans hg, hf'.trans hf⟩

theorem KeepsRegs.then (h : KeepsRegs s t) (h' : SameRegs t u) : KeepsRegs s u := h.trans h'.keeps

theorem KeepsRegs.of_slots (hc : t.mem.cells = s.mem.cells) (he : t.mem.empties = s.mem.empties) (hs : t.slots = s.slots) : KeepsRegs s t :=
  ⟨hc, he, fun k m _ hp => by rw [hs]; exact ⟨hp, rfl, rfl⟩⟩

end

section
variable (s : State)

/-! ### Translation -/

theorem sameRegs_countUe (pa : Nat) : SameRegs s (s.countUe pa) := by
  unfold State.countUe
  dsimp only
  split <;> exact .of_slots rfl rfl rfl

theorem sameRegs_countCe (pa : Nat) : SameRegs s (s.countCe pa) := by
  unfold State.countCe
  dsimp only
  split <;> exact .of_slots rfl rfl rfl

theorem keepsRegs_correct (ws : List Nat) : KeepsRegs s (s.correct ws) := by
  induction ws generalizing s with
  | nil => exact .refl s
  | cons w ws ih =>
    rw [State.correct]
    split_ifs
    · refine .trans (.then ?_ (sameRegs_countCe ..)) (ih _)
      exact .of_slots rfl rfl rfl
    · exact ih s

theorem keepsRegs_afterWalk (b root va : Nat) : KeepsRegs s (s.afterWalk b root va) := by
  unfold State.afterWalk
  dsimp only
  split
  · exact keepsRegs_correct ..
  · split_ifs
    · exact (keepsRegs_correct ..).then (sameRegs_countUe ..)
    · exact keepsRegs_correct ..

theorem keepsRegs_xlate (sp : Space) (va : Nat) (need : Need) : KeepsRegs s (s.xlate sp va need).2 := by
  unfold State.xlate
  split
  · dsimp only
    split
    · exact .of_slots rfl rfl rfl
    · split
      · exact (keepsRegs_afterWalk ..).trans (.of_slots rfl rfl rfl)
      · exact keepsRegs_afterWalk ..
  · exact (sameRegs_touchL1 ..).keeps

theorem keepsRegs_formXl (core slot va : Nat) (need : Need) : KeepsRegs s (s.formXl core slot va need).2 := by
  have h := keepsRegs_xlate s ((s.slotAt core slot).space core slot) va need
  unfold State.formXl
  dsimp only
  split <;> simp_all

theorem Slot.sameRegs_routeAdd (sl : Slot) (core v dst : Nat) : Slot.SameRegs sl (sl.routeAdd core v dst) := by
  unfold Slot.routeAdd
  split
  · exact ⟨rfl, rfl, rfl⟩
  · dsimp only
    split <;> exact ⟨rfl, rfl, rfl⟩

theorem keepsRegs_resolveVirt (core slot v : Nat) : KeepsRegs s (s.resolveVirt core slot v).2 := by
  unfold State.resolveVirt
  dsimp only
  split
  · exact .refl s
  · split
    · exact .refl s
    · next l _ =>
      have h := keepsRegs_formXl s core slot (cmapVa l.words v ((s.coreAt core).gen % 2)) .read
      generalize s.formXl core slot (cmapVa l.words v ((s.coreAt core).gen % 2)) .read = x at h
      obtain ⟨r, u⟩ := x
      split
      · exact .refl s
      · cases r with
        | error _ => exact h
        | ok pa =>
          dsimp only
          split
          · exact h.then (sameRegs_countUe ..)
          · split
            · exact h
            · split
              · exact h
              · exact h.then (.ite (.modSlot (.refl u) fun sl => sl.sameRegs_routeAdd ..) (.refl u))

theorem keepsRegs_resolveDest (core slot d : Nat) (vec : Bool) : KeepsRegs s (s.resolveDest core slot d vec).2 := by
  have h : KeepsRegs s (if bit d 16 then s.resolveVirt core slot (bits d 63 32) else (some (coreOf (bits d 8 0) (bits d 12 9)), s)).2 := by
    split
    · exact keepsRegs_resolveVirt ..
    · exact .refl s
  unfold State.resolveDest
  generalize (if bit d 16 then s.resolveVirt core slot (bits d 63 32) else (some (coreOf (bits d 8 0) (bits d 12 9)), s)) = x at h ⊢
  obtain ⟨k, u⟩ := x
  split
  · exact .refl s
  · split
    · exact .refl s
    · cases k <;> exact h

end

end Sys2Proof.Machine
end

section
/-! Registers read and the lines that hold them (spec/05_block_engine.md R147, R148, R151, R167). -/

namespace Sys2Proof.Machine

open Claims

/-! ### A line of registers loaded -/

@[simp] theorem Slot.markEmpty_g (sl : Slot) (n : Nat) : (sl.markEmpty n).g = sl.g := rfl
@[simp] theorem Slot.markEmpty_present (sl : Slot) (n : Nat) : (sl.markEmpty n).present = sl.present := rfl
@[simp] theorem Slot.setReg_present (sl : Slot) (n : Nat) (v : W128) : (sl.setReg n v).present = sl.present := rfl

section
variable (m : Memory) (img : Nat) (sl : Slot)

theorem loadReg_reg (n j : Nat) :
    mget (loadReg m img sl n).g j 0#128 = if n = j then BitVec.ofNat 128 (m.read (img + 16 * n) 16) else mget sl.g j 0#128 := by
  rw [← Slot.setReg_reg]
  unfold loadReg
  dsimp only
  split
  · rfl
  · rw [Slot.markEmpty_g]

theorem loadReg_full (n : Nat) {j : Nat} (hj : j < 64) :
    (loadReg m img sl n).full.getLsbD j = if n = j then m.full (wordOf (img + 16 * n)) else sl.full.getLsbD j := by
  unfold loadReg
  dsimp only
  split_ifs with hf hn hn
  · rw [Slot.setReg_getLsbD _ _ _ hj, hf, decide_eq_true hn, Bool.or_true]
  · rw [Slot.setReg_getLsbD _ _ _ hj, decide_eq_false hn, Bool.or_false]
  · rw [Slot.markEmpty_getLsbD _ _ hj, decide_eq_false (not_not.2 hn), Bool.and_false, Bool.eq_false_iff.2 hf]
  · rw [Slot.markEmpty_getLsbD _ _ hj, Slot.setReg_getLsbD _ _ _ hj, decide_eq_false hn, decide_eq_true hn, Bool.or_false, Bool.and_true]

@[simp] theorem loadReg_present (n : Nat) : (loadReg m img sl n).present = sl.present := by
  unfold loadReg
  dsimp only
  split
  · rw [Slot.setReg_present]
  · rw [Slot.markEmpty_present, Slot.setReg_present]

/-- A slot with the first k registers of line i loaded from its image. -/
def Slot.loadRegs (i k : Nat) : Slot := (List.range k).foldl (fun sl k => loadReg m img sl (4 * i + k)) sl

theorem Slot.loadRegs_succ (i k : Nat) : sl.loadRegs m img i (k + 1) = loadReg m img (sl.loadRegs m img i k) (4 * i + k) := by
  simp [Slot.loadRegs, List.range_succ]

theorem Slot.loadRegs_reg (i k j : Nat) : mget (sl.loadRegs m img i k).g j 0#128 =
    if 4 * i ≤ j ∧ j < 4 * i + k then BitVec.ofNat 128 (m.read (img + 16 * j) 16) else mget sl.g j 0#128 := by
  induction k with
  | zero => rw [if_neg (by omega)]; rfl
  | succ k ih =>
    rw [Slot.loadRegs_succ, loadReg_reg, ih]
    by_cases h : 4 * i + k = j
    · subst h
      rw [if_pos rfl, if_pos (by omega)]
    · rw [if_neg h]
      exact if_congr (by omega) rfl rfl

theorem Slot.loadRegs_full (i k : Nat) {j : Nat} (hj : j < 64) : (sl.loadRegs m img i k).full.getLsbD j =
    if 4 * i ≤ j ∧ j < 4 * i + k then m.full (wordOf (img + 16 * j)) else sl.full.getLsbD j := by
  induction k with
  | zero => rw [if_neg (by omega)]; rfl
  | succ k ih =>
    rw [Slot.loadRegs_succ, loadReg_full _ _ _ _ hj, ih]
    by_cases h : 4 * i + k = j
    · subst h
      rw [if_pos rfl, if_pos (by omega)]
    · rw [if_neg h]
      exact if_congr (by omega) rfl rfl

@[simp] theorem Slot.loadRegs_present (i k : Nat) : (sl.loadRegs m img i k).present = sl.present := by
  induction k with
  | zero => rfl
  | succ k ih => rw [Slot.loadRegs_succ, loadReg_present, ih]

/-- A slot with line i loaded from its image. -/
def Slot.loads (i : Nat) : Slot :=
  let x := sl.loadRegs m img i 4
  { x with present := x.present ||| (1#16 <<< i) }

theorem Slot.loads_reg (i j : Nat) : mget (sl.loads m img i).g j 0#128 = if j / 4 = i then BitVec.ofNat 128 (m.read (img + 16 * j) 16) else mget sl.g j 0#128 :=
  (sl.loadRegs_reg m img i 4 j).trans (if_congr (by omega) rfl rfl)

theorem Slot.loads_full (i : Nat) {j : Nat} (hj : j < 64) :
    (sl.loads m img i).full.getLsbD j = if j / 4 = i then m.full (wordOf (img + 16 * j)) else sl.full.getLsbD j :=
  (sl.loadRegs_full m img i 4 hj).trans (if_congr (by omega) rfl rfl)

theorem Slot.loads_present (i : Nat) {j : Nat} (hj : j < 16) : (sl.loads m img i).present.getLsbD j = (sl.present.getLsbD j || decide (i = j)) := by
  unfold Slot.loads
  simp only [Slot.loadRegs_present, BitVec.getLsbD_or, BitVec.getLsbD_shiftLeft, BitVec.getLsbD_one]
  by_cases h : i = j
  · simp [h, hj]
  · simp [h]
    omega

end

/-- The line of a register that is not present is loaded, once its words are corrected, where none is poisoned (R147, R231). -/
theorem State.loadLine_absent {s : State} {core slot n : Nat} (hp : (s.slotAt core slot).present.getLsbD (n / 4) = false) :
    s.loadLine core slot n =
      let img := s.redirect ((s.slotAt core slot).ctl.imga.toNat + 64 * (n / 4)) - 64 * (n / 4)
      let ws := wordsOf (img + 64 * (n / 4)) 64
      if (s.firstPoisoned ws).isSome then none
      else some (((s.correct ws).modCore core fun k => { k with rlines := rlinesLoad k.rlines (((s.slotAt core slot).ctl.imga.toNat + 64 * (n / 4)) / 64) }).modSlot
        core slot (Slot.loads (s.correct ws).mem img · (n / 4))) := by
  unfold State.loadLine
  simp only [hp, Bool.false_eq_true, if_false]
  split
  · next h => rw [h]; rfl
  · next h => rw [h]; rfl

/-- A line loaded leaves the registers of the lines that were present. -/
theorem keepsRegs_loads {s : State} {core slot i : Nat} (m : Memory) (img : Nat) (hp : (s.slotAt core slot).present.getLsbD i = false) :
    KeepsRegs s (s.modSlot core slot (Slot.loads m img · i)) := by
  refine ⟨rfl, rfl, fun k j hj hk => ?_⟩
  rw [State.modSlot_slots, mget_mput]
  split_ifs with e
  · subst e
    have hne : j / 4 ≠ i := fun e => Bool.false_ne_true (hp.symm.trans (e ▸ hk))
    rw [Slot.loads_reg, Slot.loads_full _ _ _ _ hj, Slot.loads_present _ _ _ _ (by omega), if_neg hne, if_neg hne]
    exact ⟨by rw [Bool.or_eq_true]; exact .inl hk, rfl, rfl⟩
  · exact ⟨hk, rfl, rfl⟩

theorem keepsRegs_loadLine {s u : State} {core slot n : Nat} (h : s.loadLine core slot n = some u) : KeepsRegs s u := by
  cases hp : (s.slotAt core slot).present.getLsbD (n / 4) with
  | true =>
    rw [State.loadLine_present hp] at h
    exact Option.some.inj h ▸ .refl s
  | false =>
    rw [State.loadLine_absent hp] at h
    dsimp only at h
    split at h
    · cases h
    · obtain rfl := Option.some.inj h
      refine .trans ((keepsRegs_correct s _).then (.modCore (.refl _))) (keepsRegs_loads _ _ ?_)
      have hs (ws : List Nat) : (s.correct ws).slotAt core slot = s.slotAt core slot := (corrected_correct s ws).field (·.slotAt core slot) fun _ _ _ _ => rfl
      exact (congrArg (fun sl : Slot => sl.present.getLsbD (n / 4)) (hs _)).trans hp

/-! ### READ and READT -/

section
variable {s : State} {c : Ctx} (h : Fires s c)
include h

theorem readForm_fires (trap : Bool) (n : Nat) (a b : Option Target) (null : Ctx → State) :
    firing .always needNone null (fun c => readReg trap n a b s c) s = .next (readReg trap n a b s c) := firing_always null _ h rfl

/-- A read of a register whose line is present. -/
theorem readReg_present {n : Nat} (hp : c.sl.present.getLsbD (n / 4) = true) (trap : Bool) (a b : Option Target) :
    readReg trap n a b s c = if c.sl.full.getLsbD n then s.fireToken c a b 2 { data := mget c.sl.g n 0#128 } 0#6
      else if trap then s.raise c.core c.slot 0x23 c.ix false 0 0 else s.setSt c.core c.slot c.ix (.wait s.time) := by
  unfold readReg
  rw [State.loadLine_present (by rw [h.slot]; exact hp)]
  dsimp only
  rw [h.slot]
  rfl

end

theorem readForms : ReadForms := by
  intro n a b s c h hp
  have hread := readReg_present h hp
  refine ⟨fun hf hr => ?_, fun he => ⟨?_, fun ht hfail => ?_⟩⟩
  · have hsend (trap : Bool) : Sends s (readReg trap n.toNat a b s c) c a b 2 { data := mget c.sl.g n.toNat 0#128 } 0#6 := by
      rw [hread, if_pos hf]
      exact fireToken_sends _ _ (by decide) h hr
    exact ⟨⟨_, readForm_fires h false _ a b s.finish, hsend false⟩, ⟨_, readForm_fires h true _ a b s.finish, hsend true⟩⟩
  · refine ⟨_, readForm_fires h false _ a b s.finish, ?_⟩
    rw [hread, he]
    exact blockNow_setSt h _
  · refine ⟨_, readForm_fires h true _ a b s.finish, ?_⟩
    rw [hread, he]
    exact fires_faultTaken h ht hfail _ _ _ _ _

/-! ### A line loaded by a READ -/

/-- A line that is not present, with no word in error and in its own slice, is loaded from the context image. -/
theorem State.loadLine_loads {s : State} {core slot n : Nat} (hn : n < 64) (hp : (s.slotAt core slot).present.getLsbD (n / 4) = false) (he : s.mem.errs = [])
    (hs : Stays s (s.slotAt core slot).ctl.imga.toNat 2048) : ∃ v : State, v.mem = s.mem ∧ v.slots = s.slots ∧
    s.loadLine core slot n = some (v.modSlot core slot (Slot.loads s.mem (s.slotAt core slot).ctl.imga.toNat · (n / 4))) := by
  rw [State.loadLine_absent hp, redirect_of_stays hs (by omega) (by omega), Nat.add_sub_cancel]
  dsimp only
  rw [State.firstPoisoned_of_noErrs s he, State.correct_of_noErrs s he]
  refine ⟨_, ?_, ?_, if_neg Bool.false_ne_true⟩ <;> rfl

theorem readLoadsLine : ReadLoadsLine := by
  intro n a b s c h hp he hs
  rw [← h.slot] at hp hs ⊢
  obtain ⟨v, hm, hv, hl⟩ := State.loadLine_loads n.isLt hp he hs
  generalize hi : (s.slotAt c.core c.slot).ctl.imga.toNat = img at hl ⊢
  generalize hu : v.modSlot c.core c.slot (Slot.loads s.mem img · (n.toNat / 4)) = u at hl
  have hslot : u.slotAt c.core c.slot = (s.slotAt c.core c.slot).loads s.mem img (n.toNat / 4) := by
    rw [← hu, State.modSlot_slotAt_same, State.slotAt, hv]
    rfl
  have hread : SameRegs u (readReg false n.toNat a b s c) := by
    unfold readReg
    rw [hl]
    exact .ite (sameRegs_fireToken ..) (sameRegs_setSt ..)
  obtain ⟨hg, hf, hpr⟩ := hread.slotAt c.core c.slot
  refine ⟨_, readForm_fires h false _ a b s.finish, ?_, fun _ => ⟨fun k hk => ?_, ?_⟩⟩
  · rw [hpr, hslot, Slot.loads_present _ _ _ _ (by have := n.isLt; omega)]
    simp
  · have := n.isLt
    have hq : (4 * (n.toNat / 4) + k) / 4 = n.toNat / 4 := by omega
    have ha : img + 16 * (4 * (n.toNat / 4) + k) = img + 64 * (n.toNat / 4) + 16 * k := by omega
    rw [hg, hf, hslot, Slot.loads_reg, Slot.loads_full _ _ _ _ (by omega), if_pos hq, if_pos hq, ha]
    exact ⟨rfl, rfl⟩
  · rw [hread.mem, ← hu]
    exact hm

/-! ### RDC -/

theorem rdc_sends {s : State} {c : Ctx} {a b : Option Target} (h : Fires s c) (hr : Room c a b) (n : BitVec 6) {v : W64} (hv : s.ctlValue c n.toNat = v) :
    ∃ t, exec (.rdc n a b) s = .next t ∧ Sends s t c a b 2 { data := v.setWidth 128 } 0#6 := by
  subst hv
  exact ⟨_, firing_always (ready := needNone) s.finish _ h rfl, fireToken_sends _ _ (by decide) h hr⟩

/-- RDC reads each control register of the tables. -/
theorem ctlValue_controlValues (s : State) (c : Ctx) : ∀ e ∈ controlValues, s.ctlValue c (BitVec.ofNat 6 e.1).toNat = e.2 s c := by
  simp only [controlValues, List.forall_mem_cons]
  refine ⟨rfl, rfl, rfl, rfl, rfl, rfl, ?rows, rfl, rfl, rfl, rfl, rfl, rfl, rfl, rfl, rfl, rfl, rfl, rfl, nofun⟩
  case rows =>
    change w64 (matrixRows c.core) = _
    unfold matrixRows promptBasin
    simp only [decide_eq_true_eq]
    split <;> rfl

theorem rdcResults : RdcResults := by
  intro a b s c h hr
  refine ⟨fun e he => rdc_sends h hr _ (ctlValue_controlValues s c e he), fun hk => rdc_sends h hr 9#6 ?_, rdc_sends h hr 11#6 rfl⟩
  change (s.coreAt c.core).tagsOf _ _ = _
  rw [Core.tagsOf, if_pos hk]

/-- Settles O13: reads of present registers, of a line not yet loaded, and of control registers. -/
theorem registerReads : Obligations.RegisterReads := ⟨readForms, readLoadsLine, rdcResults⟩

end Sys2Proof.Machine
end

section
/-! What a form leaves of memory and the registers when it fires (spec/05_block_engine.md R149, R152, R155). -/

namespace Sys2Proof.Machine

open Claims

/-- What an outcome leaves: memory and the registers that are present stand in every next state. -/
structure Out.Keeps (o : Out) (s : State) : Prop where
  next : ∀ t, o = .next t → KeepsRegs s t

section
variable {s : State}

/-- A form keeps what its act, and what it does with a null predicate, keep. -/
theorem keeps_firing {p : Pred} {ready : Inst → Bool} {null act : Ctx → State} (hn : ∀ c, KeepsRegs s (null c)) (ha : ∀ c, KeepsRegs s (act c)) :
    Out.Keeps (firing p ready null act s) s := by
  refine ⟨fun t h => ?_⟩
  unfold firing at h
  split at h
  · cases h
  · next c _ =>
    split at h
    · cases h
      exact .refl s
    · cases hp : predOf p c.inst.p <;> rw [hp] at h <;> cases h
      · exact .refl s
      · exact ha c
      · exact .refl s
      · exact hn c

/-! ### Tokens, faults, waits and operations left for commit -/

theorem keeps_fireToken (c : Ctx) (t u : Option Target) (lat : Nat) (tok : Token) (f : Flags) : KeepsRegs s (s.fireToken c t u lat tok f) :=
  (sameRegs_fireToken ..).keeps

theorem keeps_raise (core slot cause ix : Nat) (repl : Bool) (va info : Nat) : KeepsRegs s (s.raise core slot cause ix repl va info) := (sameRegs_raise ..).keeps

theorem keeps_setSt (core slot ix : Nat) (st : InstSt) : KeepsRegs s (s.setSt core slot ix st) := (sameRegs_setSt ..).keeps

theorem keeps_finish (c : Ctx) : KeepsRegs s (s.finish c) := (sameRegs_finish ..).keeps

/-- An operation left for commit, with its instruction's standing. -/
theorem sameRegs_leaves (s : State) (core slot ix : Nat) (st : InstSt) (op : Op) : SameRegs s ((s.addOp core slot op).setSt core slot ix st) :=
  (sameRegs_addOp ..).trans (sameRegs_setSt ..)

theorem KeepsRegs.ite {t u : State} {p : Prop} [Decidable p] (ht : KeepsRegs s t) (hu : KeepsRegs s u) : KeepsRegs s (if p then t else u) := by
  split_ifs
  · exact ht
  · exact hu

/-! ### Scalar, lane and moving forms -/

theorem keeps_scalar1 (f : W64 → W64) (lat : Nat) (p : Pred) (t u : Option Target) : Out.Keeps (scalar1 f lat p t u s) s :=
  keeps_firing (fun _ => keeps_fireToken ..) fun _ => keeps_fireToken ..

theorem keeps_scalar2 (f : W64 → W64 → W64) (lat : Nat) (p : Pred) (t u : Option Target) : Out.Keeps (scalar2 f lat p t u s) s :=
  keeps_firing (fun _ => keeps_fireToken ..) fun _ => keeps_fireToken ..

theorem keeps_scalarImm (f : W64 → W64 → W64) (lat : Nat) (p : Pred) (i : BitVec 14) (t : Option Target) : Out.Keeps (scalarImm f lat p i t s) s := keeps_scalar1 ..

theorem keeps_scalarShift (f : W64 → W64 → W64) (p : Pred) (i : BitVec 14) (t : Option Target) : Out.Keeps (scalarShift f p i t s) s := keeps_scalar1 ..

/-- A unit of the core taken, and a token sent. -/
theorem keeps_fireToken_modCore (k : Nat) (g : Core → Core) (c : Ctx) (t u : Option Target) (lat : Nat) (tok : Token) (f : Flags) :
    KeepsRegs s ((s.modCore k g).fireToken c t u lat tok f) := ((SameRegs.modCore (.refl s)).trans (sameRegs_fireToken ..)).keeps

theorem keeps_scalarDiv (f : W64 → W64 → W64) (p : Pred) (t u : Option Target) : Out.Keeps (scalarDiv f p t u s) s :=
  keeps_firing (fun _ => keeps_fireToken_modCore ..) fun _ => keeps_fireToken_modCore ..

theorem keeps_laneFire (p : Pred) (need : Inst → Bool) (lat : Nat) (t u : Option Target) (f : Ctx → Token × Flags) : Out.Keeps (laneFire p need lat t u f s) s :=
  keeps_firing keeps_finish fun _ => keeps_fireToken ..

theorem keeps_execLane2 (f : LaneTy → Nat → Nat → Nat × Flags) (lat : Nat) (p : Pred) (y : LaneTy) (t u : Option Target) : Out.Keeps (execLane2 f lat p y t u s) s :=
  keeps_laneFire ..

theorem keeps_execFloat2 (f : LaneTy → RMode → Nat → Nat → Nat × Flags) (lat : Nat) (p : Pred) (y : LaneTy) (t u : Option Target) :
    Out.Keeps (execFloat2 f lat p y t u s) s := keeps_laneFire ..

theorem keeps_laneFireDiv (p : Pred) (need : Inst → Bool) (y : LaneTy) (t u : Option Target) (f : Ctx → Token × Flags) :
    Out.Keeps (laneFireDiv p need y t u f s) s :=
  keeps_firing keeps_finish fun _ => keeps_fireToken_modCore ..

theorem keeps_execSpecial (f : LaneTy → RMode → Nat → Nat × Flags) (p : Pred) (y : LaneTy) (t u : Option Target) : Out.Keeps (execSpecial f p y t u s) s :=
  keeps_firing keeps_finish fun _ => keeps_fireToken_modCore ..

theorem keeps_execSel (t u : Option Target) : Out.Keeps (execSel t u s) s := keeps_firing keeps_finish fun _ => keeps_fireToken ..

theorem keeps_execMov (p : Pred) (t u : Option Target) : Out.Keeps (execMov p t u s) s := keeps_firing (fun _ => keeps_fireToken ..) fun _ => keeps_fireToken ..

theorem keeps_execMovi (p : Pred) (i : BitVec 14) (t : Option Target) : Out.Keeps (execMovi p i t s) s :=
  keeps_firing (fun _ => keeps_fireToken ..) fun _ => keeps_fireToken ..

theorem keeps_setNull (c : Ctx) : KeepsRegs s (s.setNull c) := ((sameRegs_finish ..).trans (sameRegs_modRun ..)).keeps

theorem keeps_execNull (p : Pred) : Out.Keeps (execNull p s) s := keeps_firing keeps_setNull keeps_setNull

theorem keeps_execAlign : Out.Keeps (execAlign s) s := keeps_firing keeps_finish keeps_finish

/-! ### Registers and exits -/

theorem keeps_readReg (trap : Bool) (n : Nat) (t u : Option Target) (c : Ctx) : KeepsRegs s (readReg trap n t u s c) := by
  unfold readReg
  split
  · exact ((sameRegs_countUe ..).trans (sameRegs_raise ..)).keeps
  · next v h => exact (keepsRegs_loadLine h).then (.ite (sameRegs_fireToken ..) (.ite (sameRegs_raise ..) (sameRegs_setSt ..)))

theorem keeps_execRead (r : BitVec 6) (t u : Option Target) : Out.Keeps (execRead r t u s) s := keeps_firing keeps_finish fun _ => keeps_readReg ..

theorem keeps_execReadt (r : BitVec 6) (t u : Option Target) : Out.Keeps (execReadt r t u s) s := keeps_firing keeps_finish fun _ => keeps_readReg ..

theorem keeps_execRdc (r : BitVec 6) (t u : Option Target) : Out.Keeps (execRdc r t u s) s := keeps_firing keeps_finish fun _ => keeps_fireToken ..

theorem keeps_execWrc (r : BitVec 6) : Out.Keeps (execWrc r s) s := keeps_firing keeps_finish keeps_finish

theorem keeps_fireExit (c : Ctx) (k : ExitKind) (target : W64) : KeepsRegs s (s.fireExit c k target) := by
  unfold State.fireExit
  split
  · exact keeps_raise ..
  · have h := (sameRegs_finish s c).trans (sameRegs_modRun _ c.core c.slot fun r => { r with exit := some ⟨k, target⟩ })
    have hl := SameRegs.ite (p := (c.run.holdsAlign && !c.run.tail) = true) h (.modSlot (core := c.core) (slot := c.slot)
      (f := fun sl => sl.makeLook (c.run.lookup target (s.cyc c.core))) h)
    cases k
    case susp | retire => exact h.keeps
    case br | call | bri | calli | ret => exact hl.keeps

theorem keeps_exitOff (k : ExitKind) (p : Pred) (o : BitVec 19) : Out.Keeps (exitOff k p o s) s := keeps_firing (fun _ => .refl s) fun _ => keeps_fireExit ..

theorem keeps_exitReg (k : ExitKind) (p : Pred) : Out.Keeps (exitReg k p s) s :=
  keeps_firing (fun _ => .refl s) fun _ => .ite (.refl s) (keeps_fireExit ..)

theorem keeps_execRetire (p : Pred) (x : BitVec 3) : Out.Keeps (execRetire p x s) s := keeps_firing (fun _ => .refl s) fun _ => keeps_fireExit ..

/-! ### Slice forms -/

theorem keeps_memNull (c : Ctx) (f : MForm) : KeepsRegs s (s.memNull c f) := .ite (keeps_setSt ..) (keeps_fireToken ..)

theorem sameRegs_memSend (s : State) (c : Ctx) (f : MForm) (ea pa info : Nat) (rgn : Option Nat) : SameRegs s (s.memSend c f ea pa info rgn) := by
  unfold State.memSend
  refine .ite (.ite (((sameRegs_addOp ..).trans (sameRegs_sendReq ..)).trans (sameRegs_setSt ..)) (sameRegs_leaves ..)) (.ite ?_ ?_)
  · exact ((sameRegs_sendReq ..).trans (sameRegs_setSt ..)).trans (sameRegs_modRun ..)
  · exact (sameRegs_sendReq ..).trans (sameRegs_setSt ..)

theorem sameRegs_memFault (s : State) (c : Ctx) (f : MForm) (ea cause : Nat) (w x svo : Bool) : SameRegs s (s.memFault c f ea cause w x svo) :=
  .ite (sameRegs_fireToken ..) (sameRegs_raise ..)

theorem sameRegs_memChecked (s : State) (c : Ctx) (f : MForm) (ea pa : Nat) (w x svo : Bool) (rgn : Option Nat) : SameRegs s (s.memChecked c f ea pa w x svo rgn) := by
  unfold State.memChecked
  refine .ite (sameRegs_memFault ..) ?_
  split <;> split
  · exact sameRegs_memFault ..
  · exact .ite (sameRegs_raise ..) (sameRegs_memSend ..)
  · exact .ite (sameRegs_memSend ..) (sameRegs_memFault ..)
  · exact sameRegs_memFault ..
  · exact sameRegs_memSend ..

theorem sameRegs_memXl (s : State) (c : Ctx) (f : MForm) (ea : Nat) (r : Xl) : SameRegs s (s.memXl c f ea r) := by
  cases r with
  | ok => exact sameRegs_memChecked ..
  | miss =>
    refine .setSt ?_
    exact .of_slots rfl rfl rfl
  | bad => exact sameRegs_memFault ..

/-- A translated access: the recency of its page is renewed, and the form does what the answer of translation says. -/
theorem keeps_accessXl (c : Ctx) (f : MForm) (sp : Space) (ea : Nat) (r : Xl) : KeepsRegs s ((s.touchL1 sp ea).memXl c f ea r) :=
  ((sameRegs_touchL1 ..).trans (sameRegs_memXl ..)).keeps

theorem keeps_memExec (p : Pred) (f : MForm) : Out.Keeps (memExec p f s) s :=
  keeps_firing (fun _ => keeps_memNull ..) fun _ => .ite (keeps_memNull ..) (.ite (keeps_raise ..) (keeps_accessXl ..))

theorem keeps_atomicExec (op : AtomOp) (p : Pred) (m : Order) (n : BitVec 4) (o : BitVec 6) (t : Option Target) : Out.Keeps (atomicExec op p m n o t s) s := keeps_memExec ..

theorem keeps_fenceExec (p : Pred) (sc : Scope) (n : BitVec 4) : Out.Keeps (fenceExec p sc n s) s :=
  keeps_firing (fun _ => keeps_setSt ..) fun _ => ((sameRegs_leaves ..).trans (sameRegs_reorder ..)).keeps

/-! ### Engine commands, status forms and tag waits -/

theorem keeps_leaves (core slot ix : Nat) (st : InstSt) (op : Op) : KeepsRegs s ((s.addOp core slot op).setSt core slot ix st) := (sameRegs_leaves ..).keeps

theorem keeps_cmdExec (k : CmdKind) (p : Pred) (n v : BitVec 4) (reg : Nat) : Out.Keeps (cmdExec k p n v reg s) s :=
  keeps_firing (fun _ => keeps_setSt ..) fun _ => .ite (keeps_setSt ..) (.ite (keeps_raise ..) (keeps_leaves ..))

theorem keeps_execMstat (p : Pred) (n : BitVec 4) (t : Option Target) : Out.Keeps (execMstat p n t s) s :=
  keeps_firing (fun _ => keeps_fireToken ..) fun _ => .ite (keeps_raise ..) (keeps_fireToken ..)

theorem keeps_execCstat (p : Pred) (n : BitVec 4) (t : Option Target) : Out.Keeps (execCstat p n t s) s :=
  keeps_firing (fun _ => keeps_fireToken ..) fun _ => .ite (keeps_raise ..) (keeps_fireToken ..)

theorem keeps_tagExec (p : Pred) (t : Option Target) : Out.Keeps (tagExec p t s) s :=
  keeps_firing (fun _ => keeps_fireToken ..) fun _ => .ite (keeps_fireToken ..) (.ite (keeps_raise ..) (keeps_setSt ..))

/-! ### Queue forms -/

theorem keeps_sendFire (vec : Bool) (n : BitVec 4) (c : Ctx) : KeepsRegs s (s.sendFire vec n c) := by
  have h := keepsRegs_resolveDest s c.core c.slot c.r.data.toNat vec
  unfold State.sendFire
  dsimp only
  refine .ite (keeps_setSt ..) (.ite (keeps_raise ..) ?_)
  generalize s.resolveDest c.core c.slot c.r.data.toNat vec = x at h ⊢
  obtain ⟨_ | q, u⟩ := x
  · exact h.then (sameRegs_raise ..)
  · have hx := keepsRegs_formXl u c.core c.slot (bits c.l.data.toNat 47 0) .read
    refine .ite (h.then (sameRegs_leaves ..)) (h.trans ?_)
    generalize u.formXl c.core c.slot (bits c.l.data.toNat 47 0) .read = y at hx ⊢
    obtain ⟨_ | pa, v⟩ := y
    · exact hx.then (sameRegs_raise ..)
    · exact hx.then (sameRegs_leaves ..)

theorem keeps_recvFire (reg : Option Nat) (n : BitVec 4) (c : Ctx) : KeepsRegs s (s.recvFire reg n c) := by
  have h : KeepsRegs s (if bits c.l.data.toNat 47 0 = 0 then (.ok 0, s) else s.formXl c.core c.slot (bits c.l.data.toNat 47 0) .write).2 := by
    split
    · exact .refl s
    · exact keepsRegs_formXl ..
  unfold State.recvFire
  dsimp only
  refine .ite (keeps_setSt ..) (.ite (keeps_raise ..) ?_)
  generalize (if bits c.l.data.toNat 47 0 = 0 then (.ok 0, s) else s.formXl c.core c.slot (bits c.l.data.toNat 47 0) .write) = x at h ⊢
  obtain ⟨_ | pa, u⟩ := x
  · exact h.then (sameRegs_raise ..)
  · cases reg with
    | some => exact h.then (sameRegs_leaves ..)
    | none =>
      refine h.then (.setSt ?_)
      exact (sameRegs_addOp u c.core c.slot _).trans (.of_slots rfl rfl rfl)

theorem keeps_pollFire (t : Option Target) (c : Ctx) : KeepsRegs s (s.pollFire t c) := .ite (keeps_fireToken ..) (.ite (keeps_raise ..) (keeps_fireToken ..))

theorem keeps_qstatFire (t : Option Target) (c : Ctx) : KeepsRegs s (s.qstatFire t c) := by
  have h := keepsRegs_resolveDest s c.core c.slot c.l.data.toNat false
  unfold State.qstatFire
  dsimp only
  refine .ite (keeps_fireToken ..) ?_
  generalize s.resolveDest c.core c.slot c.l.data.toNat false = x at h ⊢
  obtain ⟨_ | q, u⟩ := x
  · exact h.then (.ite (sameRegs_raise ..) (sameRegs_fireToken ..))
  · exact h.then (sameRegs_fireToken ..)

theorem keeps_execQsend (p : Pred) (n : BitVec 4) : Out.Keeps (execQsend p n s) s := keeps_firing (fun _ => keeps_setSt ..) (keeps_sendFire false n)
theorem keeps_execQsendv (p : Pred) (n : BitVec 4) : Out.Keeps (execQsendv p n s) s := keeps_firing (fun _ => keeps_setSt ..) (keeps_sendFire true n)
theorem keeps_execQrecv (p : Pred) (n : BitVec 4) (t : Option Target) : Out.Keeps (execQrecv p n t s) s := keeps_firing (fun _ => keeps_setSt ..) (keeps_recvFire none n)
theorem keeps_execQrecvd (p : Pred) (n : BitVec 4) (r : BitVec 6) : Out.Keeps (execQrecvd p n r s) s :=
  keeps_firing (fun _ => keeps_setSt ..) (keeps_recvFire (some r.toNat) n)
theorem keeps_execQpoll (p : Pred) (n : BitVec 4) (t : Option Target) : Out.Keeps (execQpoll p n t s) s := keeps_firing (fun _ => keeps_fireToken ..) (keeps_pollFire t)
theorem keeps_execQstat (p : Pred) (n : BitVec 4) (t : Option Target) : Out.Keeps (execQstat p n t s) s :=
  keeps_firing (fun _ => keeps_fireToken ..) (keeps_qstatFire t)

/-! ### Weir forms -/

theorem keeps_weirStore (k : OpKind) (n : BitVec 4) (cell : Nat) (ok : Bool) (c : Ctx) (nul : Bool) : KeepsRegs s (s.weirStore k n cell ok c nul) :=
  .ite (keeps_setSt ..) (.ite (keeps_raise ..) (keeps_leaves ..))

theorem keeps_execWbar (p : Pred) (n : BitVec 4) (t : Option Target) : Out.Keeps (execWbar p n t s) s := keeps_firing (fun _ => keeps_setSt ..) fun _ => keeps_weirStore ..
theorem keeps_execWarr (p : Pred) (n : BitVec 4) : Out.Keeps (execWarr p n s) s := keeps_firing (fun _ => keeps_setSt ..) fun _ => keeps_weirStore ..
theorem keeps_execWcfg (p : Pred) (n : BitVec 4) : Out.Keeps (execWcfg p n s) s := keeps_firing (fun _ => keeps_setSt ..) fun _ => keeps_weirStore ..
theorem keeps_execWstep (p : Pred) (n : BitVec 4) : Out.Keeps (execWstep p n s) s := keeps_firing (fun _ => keeps_setSt ..) fun _ => keeps_weirStore ..

theorem keeps_execWwait (p : Pred) (n : BitVec 4) (t : Option Target) : Out.Keeps (execWwait p n t s) s :=
  keeps_firing (fun _ => keeps_fireToken ..) fun _ => .ite (keeps_fireToken ..) (.ite (keeps_raise ..) (keeps_setSt ..))

theorem keeps_execWtime (p : Pred) (n : BitVec 4) (t : Option Target) : Out.Keeps (execWtime p n t s) s :=
  keeps_firing (fun _ => keeps_fireToken ..) fun _ => keeps_fireToken ..

theorem keeps_execWsleep (p : Pred) (n v : BitVec 4) (t : Option Target) : Out.Keeps (execWsleep p n v t s) s :=
  keeps_firing (fun _ => keeps_fireToken ..) fun _ => .ite (keeps_fireToken ..) (keeps_setSt ..)

theorem keeps_execWstat (p : Pred) (n : BitVec 4) (t : Option Target) : Out.Keeps (execWstat p n t s) s :=
  keeps_firing (fun _ => keeps_fireToken ..) fun _ => .ite (keeps_fireToken ..) (.ite (keeps_raise ..) (keeps_fireToken ..))

/-! ### Sluice forms -/

theorem keeps_launchFire (n : BitVec 4) (c : Ctx) : KeepsRegs s (s.launchFire n c) := by
  have h := keepsRegs_formXl s c.core c.slot (bits c.l.data.toNat 47 0) .read
  unfold State.launchFire
  dsimp only
  refine .ite (keeps_setSt ..) (.ite (keeps_raise ..) ?_)
  generalize s.formXl c.core c.slot (bits c.l.data.toNat 47 0) .read = x at h ⊢
  obtain ⟨_ | pa, u⟩ := x
  · exact h.then (sameRegs_raise ..)
  · exact h.then (sameRegs_leaves ..)

theorem keeps_dpushFire (n : BitVec 4) (c : Ctx) : KeepsRegs s (s.dpushFire n c) := by
  have h := keepsRegs_formXl s c.core c.slot (bits c.l.data.toNat 47 0) .read
  unfold State.dpushFire
  dsimp only
  refine .ite (keeps_setSt ..) (.ite (keeps_raise ..) ?_)
  generalize s.formXl c.core c.slot (bits c.l.data.toNat 47 0) .read = x at h ⊢
  obtain ⟨_ | pa, u⟩ := x
  · exact h.then (sameRegs_raise ..)
  · exact h.then (sameRegs_leaves ..)

theorem keeps_dpopFire (n : BitVec 4) (c : Ctx) : KeepsRegs s (s.dpopFire n c) := by
  have h : KeepsRegs s (if bits c.l.data.toNat 47 0 = 0 then (.ok 0, s) else s.formXl c.core c.slot (bits c.l.data.toNat 47 0) .write).2 := by
    split
    · exact .refl s
    · exact keepsRegs_formXl ..
  unfold State.dpopFire
  dsimp only
  refine .ite (keeps_setSt ..) (.ite (keeps_raise ..) ?_)
  generalize (if bits c.l.data.toNat 47 0 = 0 then (.ok 0, s) else s.formXl c.core c.slot (bits c.l.data.toNat 47 0) .write) = x at h ⊢
  obtain ⟨_ | pa, u⟩ := x
  · exact h.then (sameRegs_raise ..)
  · refine h.then (.trans ?_ (sameRegs_leaves ..))
    exact .of_slots rfl rfl rfl

theorem keeps_joinFire (f : MForm) (c : Ctx) : KeepsRegs s (s.joinFire f c) := .ite (keeps_memNull ..) (.ite (keeps_raise ..) (keeps_accessXl ..))

theorem keeps_execLaunch (p : Pred) (n : BitVec 4) : Out.Keeps (execLaunch p n s) s := keeps_firing (fun _ => keeps_setSt ..) (keeps_launchFire n)
theorem keeps_execDpush (p : Pred) (n : BitVec 4) : Out.Keeps (execDpush p n s) s := keeps_firing (fun _ => keeps_setSt ..) (keeps_dpushFire n)
theorem keeps_execDpop (p : Pred) (n : BitVec 4) (t : Option Target) : Out.Keeps (execDpop p n t s) s := keeps_firing (fun _ => keeps_setSt ..) (keeps_dpopFire n)
theorem keeps_execJoinad (p : Pred) (n v : BitVec 4) : Out.Keeps (execJoinad p n v s) s := keeps_firing (fun _ => keeps_setSt ..) fun _ => keeps_joinFire ..
theorem keeps_execJoinw (p : Pred) (n : BitVec 4) (t : Option Target) : Out.Keeps (execJoinw p n t s) s := keeps_firing (fun _ => keeps_memNull ..) fun _ => keeps_joinFire ..

theorem keeps_execSpawn (p : Pred) (n : BitVec 4) : Out.Keeps (execSpawn p n s) s :=
  keeps_firing (fun _ => keeps_setSt ..) fun _ => .ite (keeps_setSt ..) (.ite (keeps_raise ..) (keeps_leaves ..))

theorem keeps_execDstat (p : Pred) (n : BitVec 4) (t : Option Target) : Out.Keeps (execDstat p n t s) s :=
  keeps_firing (fun _ => keeps_fireToken ..) fun _ => .ite (keeps_fireToken ..) (.ite (keeps_raise ..) (keeps_fireToken ..))

theorem keeps_execDweight (p : Pred) (n : BitVec 4) : Out.Keeps (execDweight p n s) s :=
  keeps_firing (fun _ => keeps_setSt ..) fun _ => .ite (keeps_setSt ..) (.ite (keeps_raise ..) (keeps_leaves ..))

/-! ### Supervisor forms -/

theorem keeps_supFire (k : SupKind) (nul ok : Bool) (c : Ctx) : KeepsRegs s (s.supFire k nul ok c) :=
  .ite (keeps_finish c) (.ite ((sameRegs_finish ..).trans (sameRegs_modRun ..)).keeps (keeps_raise ..))

theorem keeps_threadForm (k : SupKind) (p : Pred) : Out.Keeps (threadForm k p s) s := keeps_firing keeps_finish fun _ => keeps_supFire ..
theorem keeps_execTlbinv (p : Pred) : Out.Keeps (execTlbinv p s) s := keeps_firing keeps_finish fun _ => keeps_supFire ..
theorem keeps_execSwapin (p : Pred) : Out.Keeps (execSwapin p s) s := keeps_firing keeps_finish fun _ => keeps_supFire ..
theorem keeps_execMigr (p : Pred) : Out.Keeps (execMigr p s) s := keeps_firing keeps_finish fun _ => keeps_supFire ..
theorem keeps_execWrctx : Out.Keeps (execWrctx s) s := keeps_firing keeps_finish fun _ => keeps_supFire ..

theorem keeps_execRdctx (p : Pred) (t u : Option Target) : Out.Keeps (execRdctx p t u s) s :=
  keeps_firing (fun _ => keeps_fireToken ..) fun _ => .ite (keeps_fireToken ..) (.ite (keeps_raise ..) (.ite (keeps_fireToken ..) (keeps_fireToken ..)))

theorem keeps_execIdle (p : Pred) (t u : Option Target) : Out.Keeps (execIdle p t u s) s := keeps_firing (fun _ => keeps_fireToken ..) fun _ => keeps_setSt ..

/-! ### Every form -/

/-- Each form with an encoding but WRITE leaves memory and the registers; what has no encoding is an event. -/
theorem keeps_exec {i : Instr} (he : encode i ≠ none) (hw : ∀ n, i ≠ .write n) : Out.Keeps (exec i s) s := by
  cases i
  case write n => exact absurd rfl (hw n)
  case br | call | susp =>
    dsimp only [exec]
    exact keeps_exitOff ..
  case bri | calli | ret =>
    dsimp only [exec]
    exact keeps_exitReg ..
  case retire p x => exact keeps_execRetire p x
  case read r t u => exact keeps_execRead r t u
  case readt r t u => exact keeps_execReadt r t u
  case rdc r t u => exact keeps_execRdc r t u
  case wrc r => exact keeps_execWrc r
  case null p => exact keeps_execNull p
  case mov p t u => exact keeps_execMov p t u
  case align => exact keeps_execAlign
  case movi p imm t => exact keeps_execMovi p imm t
  case appi | neg | abs | not | popc | clz | ctz | exts8 | exts16 | exts32 | extn8 | extn16 | extn32 =>
    dsimp only [exec]
    exact keeps_scalar1 ..
  case addi | muli | andi | ori | xori | ceqi | cltsi =>
    dsimp only [exec]
    exact keeps_scalarImm ..
  case shli | shrni | shrsi =>
    dsimp only [exec]
    exact keeps_scalarShift ..
  case add | sub | mul | mulhs | mulhn | mins | minn | maxs | maxn | and | or | xor | andn | shl | shrn | shrs | rotl | ceq | cne | clts | cles | cltn
      | clen =>
    dsimp only [exec]
    exact keeps_scalar2 ..
  case divs | divn | rems | remn =>
    dsimp only [exec]
    exact keeps_scalarDiv ..
  case sel t u => exact keeps_execSel t u
  case vadd | vsub | vadds | vsubs | vmul | vmulh | vmin | vmax | vand | vor | vxor | vandn | vshl | vshr | vrotl | vceq | vcne | vclt | vcle
      | vaddCompact | vsubCompact | vmulCompact | vminCompact | vmaxCompact | vandCompact | vorCompact | vxorCompact | vshlCompact | vshrCompact
      | vceqCompact =>
    dsimp only [exec]
    exact keeps_execLane2 ..
  case vnot | vsplat | vextr | vperm | vsel | vredadd | vredmin | vredmax | vabs | vwidenlo | vwidenhi | vnarrow | vnarrows | fma | fms | fabs | fneg
      | fredadd | frint | cvtFloatSource | cvtIntegerSource | snarrow | swiden =>
    dsimp only [exec]
    exact keeps_laneFire ..
  case fadd | fsub | fmul | fmin | fmax | fceq | fclt | fcle | fcun | faddCompact | fsubCompact | fmulCompact | fminCompact | fmaxCompact =>
    dsimp only [exec]
    exact keeps_execFloat2 ..
  case fdiv | fsqrt =>
    dsimp only [exec]
    exact keeps_laneFireDiv ..
  case exp2 | log2 | rcp | rsq | tanh =>
    dsimp only [exec]
    exact keeps_execSpecial ..
  case aadd | aand | aor | axor | amins | amaxs | aminn | amaxn | aswp | acas =>
    dsimp only [exec]
    exact keeps_atomicExec ..
  case ld | st | ldd | take | look | give | amend | post | void | febit | ldacqCore | ldacqBasin | ldacqSys | strelCore | strelBasin | strelSys | probe =>
    dsimp only [exec]
    exact keeps_memExec ..
  case fenceCore | fenceBasin | fenceSys =>
    dsimp only [exec]
    exact keeps_fenceExec ..
  case mls | mlsc | mswap | mstream | mstreama | mzero | mdrain | mdrainn | mtask | cpy1 | cpy2 | gath | scat | fill | cpycv | cpymc | culv | pghand
      | ctask | hbind | hbund | hperm | hthr | hld | hst | hclr | hphase | hbndld | hbndst | hmove | hdist | hnear | hneark | hpopc =>
    dsimp only [exec]
    exact keeps_cmdExec ..
  case mstat p n t => exact keeps_execMstat p n t
  case twany | twall | tffr =>
    dsimp only [exec]
    exact keeps_tagExec ..
  case cstat p n t => exact keeps_execCstat p n t
  case qsend p n => exact keeps_execQsend p n
  case qsendv p n => exact keeps_execQsendv p n
  case qrecv p n t => exact keeps_execQrecv p n t
  case qrecvd p n r => exact keeps_execQrecvd p n r
  case qpoll p n t => exact keeps_execQpoll p n t
  case qstat p n t => exact keeps_execQstat p n t
  case wbar p n t => exact keeps_execWbar p n t
  case warr p n => exact keeps_execWarr p n
  case wwait p n t => exact keeps_execWwait p n t
  case wtime p n t => exact keeps_execWtime p n t
  case wsleep p n v t => exact keeps_execWsleep p n v t
  case wstat p n t => exact keeps_execWstat p n t
  case wcfg p n => exact keeps_execWcfg p n
  case wstep p n => exact keeps_execWstep p n
  case launch p n => exact keeps_execLaunch p n
  case dpush p n => exact keeps_execDpush p n
  case dpop p n t => exact keeps_execDpop p n t
  case joinad p n v => exact keeps_execJoinad p n v
  case joinw p n t => exact keeps_execJoinw p n t
  case spawn p n => exact keeps_execSpawn p n
  case dstat p n t => exact keeps_execDstat p n t
  case dweight p n => exact keeps_execDweight p n
  case freeze | thaw | ackf | stopt | startt | swapout =>
    dsimp only [exec]
    exact keeps_threadForm ..
  case tlbinv p => exact keeps_execTlbinv p
  case swapin p => exact keeps_execSwapin p
  case rdctx p t u => exact keeps_execRdctx p t u
  case wrctx => exact keeps_execWrctx
  case migr p => exact keeps_execMigr p
  case idle p t u => exact keeps_execIdle p t u
  all_goals exact absurd rfl he

/-! ### WRITE -/

/-- A WRITE that fires resolves, and in the tail it writes its register too. -/
theorem execWrite_next {n : BitVec 6} {t : State} (h : exec (.write n) s = .next t) :
    KeepsRegs s t ∨ ∃ c tok, s.ctx? = some c ∧ t = (s.finish c).writeReg c.core c.slot n.toNat tok := by
  rw [exec_write, execWrite, firing] at h
  split at h
  · cases h
  · next c hc =>
    split at h
    · cases h
      exact .inl (.refl s)
    · change Host.Outcome.next _ = Host.Outcome.next t at h
      cases h
      split
      · exact .inr ⟨c, _, hc, rfl⟩
      · exact .inl (keeps_finish c)

/-- The context of a firing instruction is the one that `cur` names. -/
theorem ctx_cur {c : Ctx} (h : s.ctx? = some c) : s.cur = some ⟨c.core, c.slot, c.ix⟩ := by
  unfold State.ctx? at h
  split at h
  · cases h
  · next f hf =>
    split at h
    · cases h
    · split at h
      · cases h
        exact hf
      · cases h

/-- A register written leaves memory, every other register of its thread, and those of the other threads. -/
theorem writeReg_stands (s : State) (core slot n : Nat) (tok : Token) :
    let t := s.writeReg core slot n tok
    t.mem.cells = s.mem.cells ∧ t.mem.empties = s.mem.empties ∧
      ∀ k, ∀ m < 64, (mget s.slots k {}).present.getLsbD (m / 4) = true → (k = slotKey core slot → m ≠ n) →
        mget (mget t.slots k {}).g m 0#128 = mget (mget s.slots k {}).g m 0#128 ∧ (mget t.slots k {}).full.getLsbD m = (mget s.slots k {}).full.getLsbD m := by
  dsimp only
  unfold State.writeReg
  split
  · exact ⟨rfl, rfl, fun _ _ _ _ _ => ⟨rfl, rfl⟩⟩
  · next u hu =>
    obtain ⟨hc, he, hr⟩ := keepsRegs_loadLine hu
    refine ⟨hc, he, fun k m hm hp hne => ?_⟩
    obtain ⟨_, hg, hf⟩ := hr k m hm hp
    rw [← hg, ← hf, State.modSlot_slots, mget_mput]
    split_ifs with e
    · have hne := (hne e.symm).symm
      rw [Slot.setReg_reg, if_neg hne, Slot.setReg_getLsbD _ _ _ hm, decide_eq_false hne, Bool.or_false, ← e]
      exact ⟨rfl, rfl⟩
    · exact ⟨rfl, rfl⟩

end

/-- What fires leaves memory and the registers, or is a WRITE in the tail, which writes its own. -/
theorem firing_next {i : Instr} {s t : State} (he : encode i ≠ none) (h : exec i s = .next t) :
    KeepsRegs s t ∨ ∃ n c tok, i = .write n ∧ s.ctx? = some c ∧ t = (s.finish c).writeReg c.core c.slot n.toNat tok := by
  by_cases hw : ∃ n, i = .write n
  · obtain ⟨n, rfl⟩ := hw
    exact (execWrite_next h).imp_right fun ⟨c, tok, hc, ht⟩ => ⟨n, c, tok, rfl, hc, ht⟩
  · exact .inl ((keeps_exec he fun n hn => hw ⟨n, hn⟩).next t h)

/-- Settles O59: a WRITE in the tail writes one register, and no other form writes any. -/
theorem firingKeepsState : Obligations.FiringKeepsState := by
  unfold Obligations.FiringKeepsState
  intro i s t he h
  rcases firing_next he h with hk | ⟨n, c, tok, hi, hc, rfl⟩
  · exact ⟨hk.cells, hk.empties, fun core slot m hm hp _ => (hk.regs (slotKey core slot) m hm hp).2⟩
  · have hs := (sameRegs_finish s c).keeps
    obtain ⟨hcells, hempties, hr⟩ := writeReg_stands (s.finish c) c.core c.slot n.toNat tok
    refine ⟨hcells.trans hs.cells, hempties.trans hs.empties, fun core slot m hm hp hne => ?_⟩
    obtain ⟨hp, hg, hf⟩ := hs.regs (slotKey core slot) m hm hp
    obtain ⟨hg', hf'⟩ := hr (slotKey core slot) m hm hp fun hk => hne n ⟨c.core, c.slot, c.ix⟩ hi (ctx_cur hc) hk.symm
    exact ⟨hg'.trans hg, hf'.trans hf⟩

end Sys2Proof.Machine
end

section
/-! Lookups of the next block (spec/05_block_engine.md R144, R160, R162, R163, R176). -/

namespace Sys2Proof.Machine

open Claims

/-! ### What a lookup leaves in its slot -/

theorem State.found_slots {s : State} {core slot : Nat} {k : Lookup} (hk : (s.slotAt core slot).look = some k) (g : Fetched) :
    (s.found core slot g).slots = mput s.slots (slotKey core slot)
      { s.slotAt core slot with look := some { k with got := g, hold := none, missed := k.missed || g == .missing } } := by
  simp only [State.found, State.modSlot_slots, hk, Option.map_some]

theorem State.found_slotAt {s : State} {core slot : Nat} {k : Lookup} (hk : (s.slotAt core slot).look = some k) (g : Fetched) :
    (s.found core slot g).slotAt core slot =
      { s.slotAt core slot with look := some { k with got := g, hold := none, missed := k.missed || g == .missing } } := by
  simp only [State.found, State.modSlot_slotAt_same, hk, Option.map_some]

/-- A lookup that nothing holds stands before the port (R126, R163). -/
theorem State.lookReady_of_unheld {s : State} {core slot : Nat} {k : Lookup} (hk : (s.slotAt core slot).look = some k) (hg : k.got = .asked)
    (hh : k.hold = none) (hf : s.fencePending core slot = false) : s.lookReady core slot = true := by
  simp [State.lookReady, hk, hg, hh, hf]

theorem State.servedWith_unaligned {s : State} {core slot : Nat} {k : Lookup} (ha : k.aligned = false) : s.servedWith core slot k = [(core, slot)] := by
  simp [State.servedWith, ha]

/-- The state in which the port of a core's quad has taken a lookup of it (R162). -/
def State.portTaken (s : State) (core : Nat) : State :=
  { s with ports := mput s.ports (core / 4) { last := core % 4, clk := some (s.cyc core) } }

section
variable {s : State} {core slot : Nat} {k : Lookup} (hk : (s.slotAt core slot).look = some k) (hr : s.lookReady core slot = true)
  (hpick : s.portPick (core / 4) = some (core, slot)) (hclk : (mget s.ports (core / 4) {}).clk ≠ some (s.cyc core)) (ha : k.aligned = false)
  (h16 : k.addr.toNat % 16 = 0) (h48 : k.addr.toNat < 2 ^ 48)
include hk hr hpick hclk ha h16 h48

/-- The port takes the lookup of a block that the store does not hold, and it is a miss (R162). -/
theorem State.blockLookup_miss (hm : storeFind (mget s.stores (core / 4) []) k.addr.toNat (s.slotAt core slot).ctl.root.toNat = none) :
    s.blockLookup core slot = (s.portTaken core).found core slot .missing := by
  have h48' : ¬ 2 ^ 48 ≤ k.addr.toNat := Nat.not_le.2 h48
  simp only [State.blockLookup, hk, hr, hpick, hclk, h16, h48', hm, State.servedWith_unaligned ha, quadOf, Bool.not_true, Bool.or_false,
    decide_false, ne_eq, not_true, Bool.false_eq_true, if_false, List.foldl_cons, List.foldl_nil]
  rfl

/-- The port takes the lookup of a block that the store holds, which is found, becomes the most recent and is looked at in its slot (R162). -/
theorem State.blockLookup_hit {e : StoreEntry}
    (he : storeFind (mget s.stores (core / 4) []) k.addr.toNat (s.slotAt core slot).ctl.root.toNat = some e) :
    s.blockLookup core slot =
      ({ s.portTaken core with stores := mput s.stores (core / 4) (storeTouch (mget s.stores (core / 4) []) e) }.found core slot (.block e.hd e.body)).settle
        core slot := by
  have h48' : ¬ 2 ^ 48 ≤ k.addr.toNat := Nat.not_le.2 h48
  simp only [State.blockLookup, hk, hr, hpick, hclk, h16, h48', he, State.servedWith_unaligned ha, quadOf, Bool.not_true, Bool.or_false,
    decide_false, ne_eq, not_true, Bool.false_eq_true, if_false, List.foldl_cons, List.foldl_nil]
  rfl

end

/-! ### Loading a block -/

theorem decodeHeader_blen {hd : Nat} {h : Header} (hh : decodeHeader hd = .ok h) : h.blen = bits hd 47 40 := by
  simp only [decodeHeader] at hh
  split at hh
  · cases hh
  split at hh
  · cases hh
  split at hh
  · cases hh
  · cases hh
    rfl

/-- The length of a block is that of its header, bits [47:40] (Table 2-1). -/
theorem decodeBlock_blen {sv : Bool} {hd : Nat} {body : List Nat} {h : Header} {ws : List Nat} {is : List Instr}
    (hb : decodeBlock sv hd body = .ok (h, ws, is)) : h.blen = bits hd 47 40 := by
  simp only [decodeBlock] at hb
  split at hb
  · cases hb
  next h' hh =>
    have hl := decodeHeader_blen hh
    split at hb
    · cases hb
    split at hb
    · cases hb
    split at hb
    · cases hb
    split at hb
    · cases hb
    · cases hb
      exact hl

/-- No fence of the thread of a slot that stands at a boundary is under way (R126). -/
theorem atBoundary_fencePending {s : State} {core slot : Nat} {sl : Slot} (h : AtBoundary sl s core slot) : s.fencePending core slot = false := by
  simp only [State.fencePending, List.any_eq_false, Bool.and_eq_true, decide_eq_true_eq, not_and]
  intro q hq ⟨⟨hc, hs⟩, hleft⟩ hkind
  split at hkind
  · next sc he => exact h.fences q hq hc hs hleft sc he
  · cases hkind

/-- A slot at a boundary whose lookup has found a legal block loads it (R144, R162). -/
theorem settle_found {s : State} {core slot : Nat} {k : Lookup} {hd : Nat} {body : List Nat} {h : Header} {ws : List Nat} {is : List Instr}
    (hb : AtBoundary (s.slotAt core slot) s core slot) (hk : (s.slotAt core slot).look = some k)
    (hd_ : decodeBlock (slot == 7) hd body = .ok (h, ws, is)) :
    (s.found core slot (.block hd body)).settle core slot =
      (s.found core slot (.block hd body)).loadBlock core slot { k with got := .block hd body, hold := none } hd ws := by
  obtain ⟨hbusy, hrun, hfail, hend⟩ := hb.running
  obtain ⟨hstop, hfrz, hrty, hevp, hdf, hds, htlb⟩ := hb.unheld
  have hf : (s.found core slot (.block hd body)).fencePending core slot = false :=
    (atBoundary_fencePending hb : s.fencePending core slot = false)
  have hg : (Fetched.block hd body == .missing) = false := rfl
  simp only [State.settle, State.found_slotAt hk, hbusy, hrun, hfail, hend, hstop, hfrz, hrty, hevp, hdf, hds, htlb, hf, hd_, hg, Slot.held,
    State.boundaryHeld, Bool.not_true, Option.isSome_none, Bool.or_false, Bool.false_eq_true, if_false]

/-- A block as it is loaded in a slot (R144, Table 5-10). -/
def State.loadedRun (s : State) (core slot : Nat) (k : Lookup) (hd : Nat) (ws : List Nat) : Run :=
  let sl := s.slotAt core slot
  { addr := k.addr, hd := hd, words := ws, insts := ws.map fun _ => {}, seq := sl.seq, from_ := max (s.cyc core + 1) (k.firstClk hd),
    fpc := sl.ctl.fpc, nanm := sl.ctl.nanm, lcore := (s.coreAt core).lcore }

theorem State.loadBlock_runAt (s : State) (core slot : Nat) (k : Lookup) (hd : Nat) (ws : List Nat) :
    (s.loadBlock core slot k hd ws).runAt core slot = some (s.loadedRun core slot k hd ws) := by
  simp only [State.loadBlock, State.runAt, State.modSlot_slotAt_same, State.loadedRun]

/-! ### The end of an ALIGN hold -/

/-- Let the lookup of a slot go from its ALIGN hold (R163). -/
def State.unhold (s : State) (core slot : Nat) : State :=
  s.modSlot core slot fun sl => { sl with look := sl.look.map fun k => { k with hold := none } }

/-- From s to t lookups have been let go from their holds, that of a slot among them, and nothing else has happened. -/
structure Unheld (s t : State) (core slot : Nat) (k : Lookup) : Prop where
  rest : { t with slots := s.slots } = s
  look : (t.slotAt core slot).look = some { k with hold := none }
  others : ∀ c q, ({ t.slotAt c q with look := none } : Slot) = { s.slotAt c q with look := none }

theorem unhold_unheld {s : State} {core slot : Nat} {k : Lookup} (hk : (s.slotAt core slot).look = some k) : Unheld s (s.unhold core slot) core slot k where
  rest := rfl
  look := by simp [State.unhold, hk]
  others := fun c q => by
    rw [State.unhold, State.modSlot_slotAt]
    split
    · next e => simp only [State.slotAt, e]
    · rfl

/-- Letting one lookup more go keeps what has been let go. -/
theorem Unheld.unhold {s t : State} {core slot : Nat} {k : Lookup} (h : Unheld s t core slot k) (c q : Nat) : Unheld s (t.unhold c q) core slot k where
  rest := h.rest
  look := by
    rw [State.unhold, State.modSlot_slotAt]
    split
    · next e =>
      have : t.slotAt c q = t.slotAt core slot := by simp only [State.slotAt, e]
      simp [this, h.look]
    · exact h.look
  others := fun d p => by
    rw [State.unhold, State.modSlot_slotAt]
    split
    · next e =>
      have : t.slotAt c q = t.slotAt d p := by simp only [State.slotAt, e]
      rw [this]
      exact h.others d p
    · exact h.others d p

/-- A lookup is served with itself first (R163). -/
theorem State.servedWith_cons (s : State) (core slot : Nat) (k : Lookup) : ∃ l, s.servedWith core slot k = (core, slot) :: l := by
  unfold State.servedWith
  split
  · exact ⟨_, rfl⟩
  · exact ⟨_, rfl⟩

/-- A hold of 256 clk ends, with those of the lookups held with it (R163). -/
theorem alignTimeout_unheld {s : State} {core slot : Nat} {k : Lookup} {n : Nat} (hk : (s.slotAt core slot).look = some k) (hn : k.hold = some n)
    (hdue : n + 256 ≤ s.cyc core) : Unheld s (s.alignTimeout core slot) core slot k := by
  obtain ⟨l, hl⟩ := s.servedWith_cons core slot k
  have he : s.alignTimeout core slot = l.foldl (fun t w => t.unhold w.1 w.2) (s.unhold core slot) := by
    simp only [State.alignTimeout, hk, hn, hdue, if_true, hl, List.foldl_cons]
    rfl
  rw [he]
  exact foldl_keeps (Unheld s · core slot k) _ (fun _ w h => h.unhold w.1 w.2) l _ (unhold_unheld hk)

/-- Settles O29: the lookup that the quad's port takes is a miss where the store does not hold its block; else its slot stands at a boundary and loads
the block found. A hold that ends lets the lookups served together go one by one. -/
theorem blockLookups : Obligations.BlockLookups := by
  unfold Obligations.BlockLookups
  intro s core slot k hk
  refine ⟨fun hg hh ha hp hf h16 h48 hm => ?_, fun e h ws is hg hh ha hp h16 h48 hb he hd => ?_, fun n hn hdue => ?_⟩
  · have hnone : storeFind (mget s.stores (core / 4) []) k.addr.toNat (s.slotAt core slot).ctl.root.toNat = none :=
      List.find?_eq_none.2 fun e hmem => by simpa using hm e hmem
    refine ⟨(s.portTaken core).found core slot .missing, ?_, rfl, rfl, ?_⟩
    · exact congrArg Host.Outcome.next
        (State.blockLookup_miss hk (State.lookReady_of_unheld hk hg hh hf) hp.1 hp.2 ha h16 h48 hnone)
    · rw [State.found_slots (s := s.portTaken core) (k := k) hk, Bool.or_comm, hh.symm]
      rfl
  · have hr := State.lookReady_of_unheld hk hg hh (atBoundary_fencePending hb)
    have hslot : (slot == 7) = decide (slot = 7) := rfl
    let u := { s.portTaken core with stores := mput s.stores (core / 4) (storeTouch (mget s.stores (core / 4) []) e) }
    have hbu : AtBoundary (u.slotAt core slot) u core slot := ⟨hb.running, hb.unheld, hb.fences⟩
    have hload := settle_found (s := u) hbu hk (hslot ▸ hd)
    let v := u.found core slot (.block e.hd e.body)
    let k' : Lookup := { k with got := .block e.hd e.body, hold := none }
    refine ⟨v.settle core slot, v.loadedRun core slot k' e.hd ws, ?_, ?_, ?_, rfl, rfl, rfl, rfl, rfl, rfl, rfl, ?_, ?_, ?_⟩
    · exact congrArg Host.Outcome.next (State.blockLookup_hit hk hr hp.1 hp.2 ha h16 h48 he)
    · rw [hload]
      rfl
    · rw [hload, State.loadBlock_runAt]
    · rw [decodeBlock_blen hd]
      rfl
    · rw [State.loadedRun, State.found_slotAt (s := u) (k := k) hk]
      rfl
    · rw [State.loadedRun, State.found_slotAt (s := u) (k := k) hk]
      rfl
  · have hu := alignTimeout_unheld hk hn hdue
    exact ⟨_, rfl, hu.rest, hu.look, hu.others⟩

end Sys2Proof.Machine
end

section
/-! The ends of waits: results, fills, limits and withdrawals (spec/05_block_engine.md R148, R150, R155; spec/07_slice_engine.md R229). -/

namespace Sys2Proof.Machine

open Claims

/-! ### The token of a waiting form -/

/-- A block whose instruction ix is done. -/
def Run.finished (r : Run) (ix : Nat) : Run := r.modInst ix fun x => { x with st := .done }

section
variable {r : Run} {ix : Nat} (hlt : ix < r.insts.length)
include hlt

theorem Run.finished_slot (j : Nat) (sl : OpSlot) : ((r.finished ix).inst j).slot sl = (r.inst j).slot sl := by
  rw [Run.finished, Run.inst_modInst _ _ _ _ hlt]
  split
  · next e => subst e; cases sl <;> rfl
  · rfl

theorem Run.finished_st (j : Nat) : ((r.finished ix).inst j).st = if ix = j then .done else (r.inst j).st := by
  rw [Run.finished, Run.inst_modInst _ _ _ _ hlt, apply_ite Inst.st]

theorem Run.finished_shut (now j : Nat) : (r.finished ix).shut now j = r.shut now j := by
  have h : ((r.finished ix).inst j).p = (r.inst j).p ∧ ((r.finished ix).inst j).l = (r.inst j).l :=
    ⟨Run.finished_slot hlt j .p, Run.finished_slot hlt j .l⟩
  show resolvedUnfired (r.shape j) _ now ((r.finished ix).inst j) = _
  simp only [resolvedUnfired, Run.shut, h]
  rfl

end

@[simp] theorem Run.finished_length (r : Run) (ix : Nat) : (r.finished ix).insts.length = r.insts.length := Run.modInst_length ..

theorem isTarget_split (a b : Option Target) (j : Nat) (sl : OpSlot) : isTarget a b j sl = (isTarget b none j sl || isTarget a none j sl) := by
  simp only [isTarget, Bool.or_false]
  exact Bool.or_comm _ _

/-- The second target is another operand slot than the first. -/
theorem room_not_first {c : Ctx} {a b : Option Target} (h : Room c a b) {g : Target} (hb : b = some g) : isTarget a none g.idx.toNat g.slot = false := by
  rw [Bool.eq_false_iff]
  intro ht
  cases ha : a with
  | none => simp [isTarget, ha] at ht
  | some g' =>
    simp only [isTarget, ha, Bool.or_false, Bool.and_eq_true, decide_eq_true_eq, BitVec.toNat_inj] at ht
    have hg : g' = g := by
      cases g'
      cases g
      obtain ⟨rfl, rfl⟩ := ht
      rfl
    exact h.apart g' ha (hb.trans (congrArg some hg.symm))

/-- An instruction of a loaded block whose wait is over sends its token to both its targets, and is done (R145, R146). -/
theorem deliver_sends {s : State} {c : Ctx} {a b : Option Target} (tok : Token) (hrun : s.runAt c.core c.slot = some c.run)
    (hlt : c.ix < c.run.insts.length) (hsized : c.run.insts.length = c.run.words.length) (hr : Room c a b) :
    Sends s ((s.setSt c.core c.slot c.ix .done).deliver c.core c.slot a b 1 tok) c a b 1 tok 0#6 := by
  let now := s.cyc c.core
  let T : Token := { tok with usable := now + 1 }
  let r := c.run.finished c.ix
  have hdone : (s.setSt c.core c.slot c.ix .done).runAt c.core c.slot = some r := by
    simp only [State.setSt_runAt_same, hrun]
    rfl
  have hlen : ∀ x : Option Target, (∀ g, x = some g → g.idx.toNat < c.run.words.length) → ∀ g, x = some g → g.idx.toNat < r.insts.length :=
    fun x hx g hg => by rw [Run.finished_length, hsized]; exact hx g hg
  have hla := hlen a fun g hg => (hr.first g hg).1
  have hlb := hlen b fun g hg => (hr.second g hg).1
  have hempty : ∀ g, a = some g → (r.inst g.idx.toNat).slot g.slot = none := fun g hg => by
    rw [Run.finished_slot hlt]
    exact (hr.first g hg).2
  obtain ⟨hsent, honly⟩ := sendTo_eq a T hdone hempty
  have hslot := sentRun_slot now r a T hla
  have hshut := sentRun_shut (now := now) (tok := T) (Nat.lt_succ_self now) hla hempty
  obtain ⟨hsent', honly'⟩ := sendTo_eq (r := sentRun now r a T) b T hsent fun g hg => by
    rw [hslot, room_not_first hr hg, Run.finished_slot hlt]
    exact (hr.second g hg).2
  rw [honly.cyc] at hsent'
  have hslot' := sentRun_slot now (sentRun now r a T) b T (by simpa using hlb)
  refine ⟨⟨_, hsent', ?_, ?_, ?_, ?_, ?_⟩, ((modRun_onlyBlock ..).trans honly).trans honly'⟩
  · simp only [sentRun_st, r, Run.finished_st hlt, if_true]
  · intro j hj
    simp only [sentRun_st, r, Run.finished_st hlt, if_neg hj.symm]
  · rw [sentRun_flags, sentRun_flags, BitVec.or_zero]
    rfl
  · intro j sl
    refine (hslot' j sl).trans ?_
    rw [hshut, hslot, Run.finished_slot hlt, Run.finished_shut hlt, isTarget_split a b]
    cases isTarget b none j sl <;> cases isTarget a none j sl <;> cases c.run.shut now j <;> rfl
  · rw [sentRun_rest, sentRun_rest]
    rfl

theorem waitsAt_shape {s : State} {c : Ctx} {since : Nat} {i : Instr} (h : WaitsAt s c since i) : c.run.shape c.ix = i.shape := by
  simp only [Run.shape, h.instr]

/-! ### A result comes (R155) -/

theorem performingResult_sends {s : State} {q : Result} {c : Ctx} {since : Nat} {i : Instr} {v : W128}
    (hq : s.results.find? (fun x => x.id == q.id) = some q) (hv : q.val = some v) (hway : q.flight.any s.wayHeld = false) (hw : WaitsAt s c since i)
    (hc : q.core = c.core) (hsl : q.slot = c.slot) (hx : q.ix = c.ix) (hseq : q.seq = c.run.seq) (ht : c.run.tail = true) (hr : Room c i.shape.t none) :
    ∃ m, Sends { s with results := s.results.filter fun x => decide (x.id ≠ q.id) } m c i.shape.t none 1 { data := v } 0#6 ∧
      s.performingResult q.id = (m.ungate c.core).tailSettle c.core c.slot := by
  have hrun : ({ s with results := s.results.filter fun x => decide (x.id ≠ q.id) } : State).runAt c.core c.slot = some c.run := hw.run
  refine ⟨_, deliver_sends { data := v } hrun (waitsAt_lt hw) hw.sized hr, ?_⟩
  simp only [State.performingResult, hq, hway, hv, hc, hsl, hx, hseq, hrun, ht, waitsAt_shape hw, Bool.not_true, Bool.false_or, ne_eq, not_true, decide_false,
    Bool.false_eq_true, if_false]

/-! ### A fill comes (R148, R150) -/

/-- The state in which a fill stands at its core and has ended the form that made it (R312). -/
def State.fillTaken (s : State) (f : Fill) : State :=
  let s := { s with fills := s.fills.filter fun x => decide (x.id ≠ f.id) }
  if f.hv then s.setHv f.core { s.hvAt f.core with run := none } else s

/-- The state in which a fill is written, before the READs of its register go on. -/
def State.fillWritten (s : State) (f : Fill) : State :=
  (s.fillTaken f).modSlot f.core f.slot fun sl => { sl.setReg f.reg f.val with wake := sl.wake || sl.ending == some .swap }

theorem State.fillArrival_eq {s : State} {f : Fill} (hf : s.fills.find? (fun x => x.id == f.id) = some f) (htag : f.tag = 64)
    (hway : f.flight.any s.wayHeld = false) (hp : (s.slotAt f.core f.slot).present.getLsbD (f.reg / 4) = true) :
    s.fillArrival f.id = ((s.fillWritten f).wakeReads f.core f.slot f.reg).ungate f.core := by
  have hload := State.loadLine_present (s := { s with fills := s.fills.filter fun x => decide (x.id ≠ f.id) }) (core := f.core) (slot := f.slot) hp
  simp only [State.fillArrival, hf, hway, hload, htag, Bool.false_eq_true, if_false, Option.getD_some, State.tagDown, le_refl, if_true]
  rfl

/-- A step that changes a state at one member of a list alone is taken once. -/
theorem foldl_only {α : Type} {f : State → α → State} {a : α} {l : List α} (hl : l.Nodup) (ha : a ∈ l) (hf : ∀ b, b ≠ a → ∀ s, f s b = s) (s : State) :
    l.foldl f s = f s a := by
  induction l generalizing s with
  | nil => cases ha
  | cons b l ih =>
    obtain ⟨hb, hl⟩ := List.nodup_cons.1 hl
    rw [List.foldl_cons]
    rcases List.mem_cons.1 ha with rfl | ha
    · exact List.foldlRecOn (motive := (· = f s a)) l f rfl fun t ht b hl => (hf b (fun e => hb (e ▸ hl)) t).trans ht
    · rw [hf b (fun e => hb (e ▸ ha)), ih hl ha]

/-- Where one READ of a register waits and nothing else of its block does, a fill of the register wakes it alone. -/
theorem State.wakeReads_one {s : State} {core slot ix since n : Nat} {r : Run} {g : BitVec 6} {a b : Option Target} (hr : s.runAt core slot = some r)
    (hst : (r.inst ix).st = .wait since) (hi : r.instr ix = some (.read g a b)) (hlt : ix < r.words.length) (hg : g.toNat = n)
    (ho : ∀ j x, j ≠ ix → (r.inst j).st ≠ .wait x) :
    s.wakeReads core slot n = (s.setSt core slot ix .done).deliver core slot a b 1 { data := (s.slotAt core slot).reg n } := by
  simp only [State.wakeReads, hr]
  rw [foldl_only List.nodup_range (List.mem_range.2 hlt) (a := ix)]
  · simp only [hst, hi, hg, if_true]
  · intro j hj t
    split
    · next x _ _ _ hx _ => exact absurd hx (ho j x hj)
    · rfl

theorem sameRegs_wakeReads (s : State) (core slot n : Nat) : SameRegs s (s.wakeReads core slot n) := by
  unfold State.wakeReads
  split
  · exact .refl s
  · refine sameRegs_foldl (fun u i => ?_) _ s
    split
    · exact .ite (.trans (sameRegs_setSt ..) (sameRegs_deliver ..)) (.refl u)
    · exact .refl u

theorem fillArrival_sends {s : State} {f : Fill} {c : Ctx} {since : Nat} {n : BitVec 6} {a b : Option Target}
    (hf : s.fills.find? (fun x => x.id == f.id) = some f) (htag : f.tag = 64) (hway : f.flight.any s.wayHeld = false)
    (hp : (s.slotAt f.core f.slot).present.getLsbD (f.reg / 4) = true) (hw : WaitsAt s c since (.read n a b)) (hc : f.core = c.core)
    (hsl : f.slot = c.slot) (hn : n.toNat = f.reg) (hend : c.sl.ending = none) (hr : Room c a b) (ho : ∀ j x, j ≠ c.ix → (c.run.inst j).st ≠ .wait x)
    (hhv : f.hv = false) :
    ∃ m, s.fillArrival f.id = m.ungate c.core ∧
      Sends ({ s with fills := s.fills.filter fun x => decide (x.id ≠ f.id) }.modSlot c.core c.slot fun sl =>
        { sl with g := mset 0#128 sl.g f.reg f.val, full := sl.full ||| (1#64 <<< f.reg) }) m c a b 1 { data := f.val } 0#6 := by
  have hwritten : s.fillWritten f = { s with fills := s.fills.filter fun x => decide (x.id ≠ f.id) }.modSlot c.core c.slot fun sl =>
      { sl with g := mset 0#128 sl.g f.reg f.val, full := sl.full ||| (1#64 <<< f.reg) } := by
    have he : (s.slotAt c.core c.slot).ending = none := hw.slot ▸ hend
    have hwake : ((s.slotAt c.core c.slot).wake || (s.slotAt c.core c.slot).ending == some .swap) = (s.slotAt c.core c.slot).wake := by
      rw [he]
      exact Bool.or_false _
    simp only [State.fillWritten, State.fillTaken, hhv, hc, hsl, Bool.false_eq_true, if_false]
    exact congrArg (State.setSlot _ c.core c.slot) (congrArg (fun x => { (s.slotAt c.core c.slot).setReg f.reg f.val with wake := x }) hwake)
  have hrun : (s.fillWritten f).runAt c.core c.slot = some c.run := by
    rw [hwritten, State.runAt, State.modSlot_slotAt_same]
    exact hw.run
  have hreg : ((s.fillWritten f).slotAt c.core c.slot).reg f.reg = f.val := by
    rw [hwritten, State.modSlot_slotAt_same, Slot.reg, mget_mset]
    exact if_pos rfl
  have hlt := waitsAt_lt hw
  have hsends := deliver_sends { data := f.val } hrun hlt hw.sized hr
  refine ⟨_, ?_, by rw [← hwritten]; exact hsends⟩
  rw [State.fillArrival_eq hf htag hway hp, hc, hsl, State.wakeReads_one hrun (hw.inst ▸ hw.st) hw.instr (hw.sized ▸ hlt) hn ho, hreg]

theorem State.fillTaken_slots (s : State) (f : Fill) : (s.fillTaken f).slots = s.slots := apply_ite_eq State.slots rfl rfl
theorem State.fillTaken_mem (s : State) (f : Fill) : (s.fillTaken f).mem = s.mem := apply_ite_eq State.mem rfl rfl
theorem State.fillTaken_fills (s : State) (f : Fill) : (s.fillTaken f).fills = s.fills.filter fun x => decide (x.id ≠ f.id) :=
  apply_ite_eq State.fills rfl rfl

/-- A fill leaves its register full with its value, and no other register and no memory otherwise than it was (R150). -/
theorem fillArrival_writes {s : State} {f : Fill} (hf : s.fills.find? (fun x => x.id == f.id) = some f) (htag : f.tag = 64)
    (hway : f.flight.any s.wayHeld = false) (hp : (s.slotAt f.core f.slot).present.getLsbD (f.reg / 4) = true) :
    let t := s.fillArrival f.id
    t.fills = s.fills.filter (fun x => decide (x.id ≠ f.id)) ∧ t.mem = s.mem ∧
      ∀ m < 64, mget (t.slotAt f.core f.slot).g m 0#128 = (if m = f.reg then f.val else mget (s.slotAt f.core f.slot).g m 0#128) ∧
        (t.slotAt f.core f.slot).full.getLsbD m = (decide (m = f.reg) || (s.slotAt f.core f.slot).full.getLsbD m) := by
  have hsame : SameRegs (s.fillWritten f) (s.fillArrival f.id) := by
    rw [State.fillArrival_eq hf htag hway hp]
    exact .modCore (sameRegs_wakeReads ..)
  obtain ⟨hg, hfull, -⟩ := hsame.slotAt f.core f.slot
  have hold : (s.fillTaken f).slotAt f.core f.slot = s.slotAt f.core f.slot := by simp only [State.slotAt, State.fillTaken_slots]
  rw [State.fillWritten, State.modSlot_slotAt_same, hold] at hg hfull
  refine ⟨hsame.fills.trans (s.fillTaken_fills f), hsame.mem.trans (s.fillTaken_mem f), fun m hm => ⟨?_, ?_⟩⟩
  · rw [hg]
    exact (Slot.setReg_reg ..).trans (if_congr eq_comm rfl rfl)
  · rw [hfull]
    refine (Slot.setReg_getLsbD _ _ f.val hm).trans ?_
    rw [Bool.or_comm, decide_eq_decide.2 eq_comm]

/-! ### The limit of a wait (R148, R229) -/

/-- A search that finds something in one member of a list alone finds it. -/
theorem findSome?_only {α β : Type} {f : α → Option β} {a : α} {b : β} {l : List α} (ha : a ∈ l) (hf : f a = some b) (ho : ∀ x, x ≠ a → f x = none) :
    l.findSome? f = some b := by
  induction l with
  | nil => cases ha
  | cons x l ih =>
    by_cases hx : x = a
    · rw [hx, List.findSome?_cons_of_isSome (by rw [hf]; rfl), hf]
    · rw [List.findSome?_cons_of_isNone (by rw [ho x hx]; rfl)]
      exact ih ((List.mem_cons.1 ha).resolve_left (Ne.symm hx))

/-- A READ that alone waits in its block and has waited to the limit is the wait that ends (R148). -/
theorem State.dueWait_read {s : State} {core slot ix since : Nat} {r : Run} {g : BitVec 6} {a b : Option Target} (hst : (r.inst ix).st = .wait since)
    (hi : r.instr ix = some (.read g a b)) (hlt : ix < r.words.length) (hdue : s.due core slot since = true)
    (ho : ∀ j x, j ≠ ix → (r.inst j).st ≠ .wait x) : s.dueWait core slot r = some (0x24, ix, 0) := by
  simp only [State.dueWait]
  rw [findSome?_only (List.mem_range.2 hlt) (a := ix) (b := (0x24, ix, 0))]
  · simp only [hst, hi, hdue, Bool.not_true, Bool.false_eq_true, if_false]
  · intro j hj
    split
    · next x _ hx _ => exact absurd hx (ho j x hj)
    · rfl

theorem State.sendWithdrawals_noReqs {s : State} (h : s.reqs = []) (core slot : Nat) : s.sendWithdrawals core slot = s := by
  have hn (p : Req → Bool) : (s.reqs.filter p).map Req.id = [] := by rw [h]; rfl
  simp only [State.sendWithdrawals, hn, List.append_nil]

theorem State.dueCommitted_none {s : State} (hr : s.recvs = []) (ha : s.appends = []) (core slot : Nat) : s.dueCommitted core slot = s := by
  simp [State.dueCommitted, hr, ha]

/-! ### A withdrawal (R229) -/

/-- A withdrawn request whose home finds no waiter is dropped, and its thread faults. -/
theorem State.withdrawal_give {s : State} {q : Req} {r : Run} (hq : s.reqs.find? (fun a => a.id == q.id) = some q)
    (hwd : s.withdrawals.contains q.id = true) (hleft : q.left = false) (hst : q.st ≠ .reserved) (hk : q.kind = .give)
    (hr : s.runAt q.core q.slot = some r) (ht : r.tail = false) (hf : (s.slotAt q.core q.slot).failed = []) (hwait : ∀ i ∈ s.waitq, i = q.id) :
    s.withdrawal q.id = (s.dropReq q).raise q.core q.slot 0x38 q.ix false q.va 0 := by
  have hnone : (s.dropReq q).waitq = [] := List.filter_eq_nil_iff.2 fun i hi => by simpa using hwait i hi
  have hquiet : ((s.dropReq q).raise q.core q.slot 0x38 q.ix false q.va 0).waitq = [] := by
    rw [State.raise_eq (s := s.dropReq q) hr ht hf]
    exact List.filter_eq_nil_iff.2 fun i hi => absurd hi (hnone ▸ List.not_mem_nil)
  rw [← State.retestAll_of_noWaiters _ hquiet q.words]
  simp only [State.withdrawal, hwd, hq, hleft, hst, hk, Bool.not_true, decide_false, Bool.or_false, Bool.false_eq_true, if_false, if_true, reduceCtorEq]

/-- A fault taken once a request of its block has been dropped is taken from the state before. -/
theorem faultTaken_of_dropReq {s t : State} {q : Req} {r : Run} {cause ix va info : Nat} {repl : Bool}
    (h : FaultTaken (s.dropReq q) t q.core q.slot r cause ix repl va info) (hleft : q.left = false) (hid : ∀ a ∈ s.reqs, a.id = q.id → a = q) :
    FaultTaken s t q.core q.slot r cause ix repl va info where
  thread := h.thread
  packet := h.packet
  withdrawn a ha := ⟨List.mem_of_mem_filter (h.withdrawn a ha).1, (h.withdrawn a ha).2⟩
  kept a ha hn := by
    refine h.kept a (List.mem_filter.2 ⟨ha, decide_eq_true fun e => hn ?_⟩) hn
    rw [hid a ha e]
    exact ⟨rfl, rfl, hleft⟩
  others := h.others
  memory := h.memory

/-- Settles O32: each event comes down to one of the shared operations. A result and a fill deliver the token of the form that waits; the ends of the waits
take a fault. -/
theorem waitsEnd : Obligations.WaitsEnd := by
  unfold Obligations.WaitsEnd
  intro s
  refine ⟨fun q c since i v hq hv hway hw hc hsl hx hseq ht hr => ?_, fun f hf hreg htag hway hp => ⟨fun c since n a b hw hc hsl hn hend hr ho hhv => ?_, ?_⟩,
    fun c since n a b hw ht hdue ho hf hreqs hrecvs happ => ?_, fun q r hq hwd hleft hst hk hr ht hf hwait hid => ?_⟩
  · obtain ⟨m, hm, he⟩ := performingResult_sends hq hv hway hw hc hsl hx hseq ht hr
    exact ⟨m, hm, congrArg Host.Outcome.next he⟩
  · obtain ⟨m, he, hm⟩ := fillArrival_sends hf htag hway hp hw hc hsl hn hend hr ho hhv
    exact ⟨m, congrArg Host.Outcome.next he, hm⟩
  · exact ⟨_, rfl, fillArrival_writes hf htag hway hp⟩
  · have hlt : c.ix < c.run.words.length := hw.sized ▸ waitsAt_lt hw
    have hwait := State.dueWait_read (hw.inst ▸ hw.st) hw.instr hlt (decide_eq_true (hw.slot ▸ hdue)) ho
    have he : s.waitLimit c.core c.slot = s.raise c.core c.slot 0x24 c.ix false 0 0 := by
      simp only [State.waitLimit, hw.run, ht, Bool.false_eq_true, if_false, State.sendWithdrawals_noReqs hreqs, State.dueCommitted_none hrecvs happ, hwait]
    exact ⟨_, congrArg Host.Outcome.next he, faultTaken_raise hw.run ht (hw.slot ▸ hf) ..⟩
  · have he := State.withdrawal_give hq hwd hleft hst hk hr ht hf hwait
    exact ⟨_, congrArg Host.Outcome.next he, faultTaken_of_dropReq (faultTaken_raise (s := s.dropReq q) hr ht hf ..) hleft hid⟩

end Sys2Proof.Machine
end
